-- ==== Sys2Proof/Word.lean ====
section
/-! DEFINITION. The words of the device (R9 to R11): bytes and the 64-bit register word, with the byte order of R10. -/

namespace Sys2Proof

/-- One byte. -/
abbrev Byte := BitVec 8

/-- One register word (R11). -/
abbrev Word := BitVec 64

/-- A sequence of bytes as a number, the byte at the lowest address in the lowest bits (R10). -/
def leNat : List Byte → Nat
  | [] => 0
  | b :: bs => b.toNat + 256 * leNat bs

/-- The lowest `n` bytes of a number, lowest first (R10). -/
def leBytes : Nat → Nat → List Byte
  | 0, _ => []
  | n + 1, v => BitVec.ofNat 8 v :: leBytes n (v / 256)

end Sys2Proof
end

