-- ==== Sys2Proof/Syntax.lean ====
section
/-! DEFINITION. The commands of the block: one constructor per row of spec/opcode_table.json. A row that names an event
carries what the outside supplies with it (a message's bytes, a reading, the cells that failed). -/

namespace Sys2Proof

/-- An access by address: a read of `len` bytes, or a write of the bytes of `data` selected by `mask` (empty: all). -/
inductive Access where
  | read (off len : Nat)
  | write (off : Nat) (data : List Byte)
  deriving DecidableEq, Repr

/-- An error that a read finds in the check bits of a unit (R78, R289): the unit's number within what is read, and
whether it is beyond correction. -/
structure MemError where
  unit : Nat
  uncorrectable : Bool
  deriving DecidableEq, Repr

/-- A line that failed a march run (R102): lines 512 and 513 are the spare lines. -/
structure LineFailure where
  bank : Nat
  line : Nat
  deriving DecidableEq, Repr

/-- A fabric packet (R318). `mask` of a STORE is its byte mask, of other operations the header's mask field; `reserved` is
whatever stands in the header fields that must be 0. -/
structure Packet where
  op : Nat
  hops : Nat := 0
  transit : Bool := false
  opening : Bool := false
  full : Bool := false
  dst : Nat
  src : Nat
  slice : Nat := 0
  gen : Nat := 0
  seq : Nat := 0
  requester : Nat := 0
  via : Nat := 0x3F
  func : Nat := 0
  addr : Nat := 0
  mask : Nat := 0
  payload : List Byte := []
  reserved : Nat := 0
  /-- The link it arrives on, and how many of its flits error correction corrected there (R352). -/
  link : Nat := 0
  corrected : Nat := 0
  deriving DecidableEq, Repr

/-- An Ethernet frame, from the destination address to the end of the payload (R354). -/
structure Frame where
  bytes : List Byte
  /-- The frame check sequence is good (R355). -/
  fcs : Bool := true
  deriving DecidableEq, Repr

/-- What start-up finds in the package's parts (R23, R102, R306, R397): stacks that fail training (HBM index, or 0x100 + b), the
die-to-die modules that cannot be repaired (C0 to hub, C1 to hub, C0 to C1), the lines that fail the march by logical array,
the record kinds with fewer than two valid copies, with how many are left (none: of no version), those whose newest version alone has no
valid copy, and whether a CRC of the page map fails. -/
structure StartFacts where
  failedStacks : List Nat := []
  modulesOff : Nat × Nat × Nat := (0, 0, 0)
  march : List (Nat × LineFailure) := []
  copies : List (Nat × Nat) := []
  torn : List Nat := []
  mapFault : Bool := false
  deriving DecidableEq, Repr

/-- One piece of the NAND's background work (R399): the block with the fewest valid pages is collected, the least erased block's
pages move, a block that failed is retired, a logical page that needed more than 4 corrected bits is rewritten. The
last two are no work but the cells' ageing, which it meets: a physical page holds some number of wrong bits in its worst 1 KiB (R395), and a
block's programs fail. -/
inductive NandWork where
  | collect
  | level
  | retire (block : Nat)
  | refresh (page : Nat)
  | decay (page : Nat) (bits : Nat)
  | weaken (block : Nat)
  deriving DecidableEq, Repr

/-- The commands of the table, in its order. -/
inductive Instr where
  | registerWrite (addr : Nat) (width : Nat) (value : Word)
  | ucieRetry (die : Nat)
  | powerMonitorSample (milliwatts : Nat)
  | dieSensorReading (die : Nat) (celsius : Nat)
  | commandFetch (array : Nat) (backward : Bool)
  | nop (array : Nat) (backward : Bool)
  | tile (array : Nat) (backward : Bool)
  | tileWriteback (array : Nat)
  | trailerWrite (array : Nat)
  | frozenTile (array : Nat) (backward : Bool)
  | sparseTile (array : Nat) (backward : Bool)
  | sparseEndPhase (array : Nat)
  | sparseTileStop (array : Nat)
  | reduce (array : Nat) (backward : Bool)
  | own (array : Nat) (backward : Bool)
  | wait (array : Nat) (backward : Bool)
  | waitSatisfied (array : Nat) (backward : Bool)
  | waitTimeout (array : Nat) (backward : Bool)
  | fence (array : Nat) (backward : Bool)
  | signal (array : Nat) (backward : Bool)
  | scpBankOwnWrite (array : Nat) (bank : Nat) (owner : Nat)
  | handoverComplete (array : Nat) (bank : Nat)
  | drainTimeout (array : Nat) (bank : Nat)
  | sramWindowAccess (array : Nat) (access : Access) (errors : List MemError)
  | arrWinCfgWrite (array : Nat) (window : Nat) (value : Word)
  | windowAdvance (array : Nat) (window : Nat) (tail : Bool) (bytes : Nat)
  | swizzleWrite (array : Nat) (bank : Nat) (swizzle : Bool)
  | bankClearDone (array : Nat) (bank : Nat)
  | marchStart (array : Nat) (value : Word)
  | marchDone (array : Nat) (failing : List LineFailure)
  | run (array : Nat) (on : Bool)
  | halt (array : Nat)
  | clearError (array : Nat)
  | arrSeqCfgWrite (array : Nat) (value : Word)
  | spmCfgWrite (array : Nat) (value : Word)
  | vecCopy (array : Nat) (backward : Bool)
  | vecAdd (array : Nat) (backward : Bool)
  | vecSub (array : Nat) (backward : Bool)
  | vecMul (array : Nat) (backward : Bool)
  | vecFma (array : Nat) (backward : Bool)
  | vecMax (array : Nat) (backward : Bool)
  | vecMin (array : Nat) (backward : Bool)
  | vecScale (array : Nat) (backward : Bool)
  | vecDiv (array : Nat) (backward : Bool)
  | vecRecip (array : Nat) (backward : Bool)
  | vecSqrt (array : Nat) (backward : Bool)
  | vecRsqrt (array : Nat) (backward : Bool)
  | vecExp (array : Nat) (backward : Bool)
  | vecLog (array : Nat) (backward : Bool)
  | vecFtab (array : Nat) (backward : Bool)
  | vecDtab (array : Nat) (backward : Bool)
  | vecRsum (array : Nat) (backward : Bool)
  | vecRprod (array : Nat) (backward : Bool)
  | vecRmax (array : Nat) (backward : Bool)
  | vecRmin (array : Nat) (backward : Bool)
  | vecRargmax (array : Nat) (backward : Bool)
  | vecRargmin (array : Nat) (backward : Bool)
  | vecRlse (array : Nat) (backward : Bool)
  | vecSoftmax (array : Nat) (backward : Bool)
  | vecSmaxBwd (array : Nat) (backward : Bool)
  | vecNorm (array : Nat) (backward : Bool)
  | vecTopk (array : Nat) (backward : Bool)
  | vecPassform (array : Nat) (backward : Bool)
  | vecPack (array : Nat) (backward : Bool)
  | vecTqLoad (array : Nat)
  | vecWindowReady (array : Nat)
  | vecEnd (array : Nat)
  | vecPoisonStop (array : Nat)
  | tabFlush (array : Nat)
  | vecCfgWrite (array : Nat) (value : Word)
  | fbiCfgWrite (array : Nat) (value : Word)
  | rakeStreamSubmit (stream : Nat) (value : Word)
  | rakeHalfArm (value : Word)
  | rakeDispatch (stream : Nat)
  | backwardDispatch (stream : Nat)
  | groupNotice (payload : List Byte)
  | endNotice (payload : List Byte)
  | releaseArrival (payload : List Byte)
  | qmRelease (value : Word)
  | resStep (value : Word)
  | resFetchStart (slot : Nat) (expert : Nat)
  | evictWritebackDone (slot : Nat) (expert : Nat) (ok : Bool)
  | resFetchDone (slot : Nat) (expert : Nat) (ok : Bool)
  | sluSubmit (value : Word)
  | gather
  | returnRows
  | segment
  | returnRowArrival (payload : List Byte)
  | sluCancel (value : Word)
  | sluArm (value : Word)
  | rakeStreamCfgWrite (stream : Nat) (value : Word)
  | saltRun (core : Nat) (threads : Nat)
  | saltHalt (core : Nat) (threads : Nat)
  | salterThreadFault (core : Nat) (thread : Nat) (info : Word)
  | stgStepArm (value : Word)
  | stgArrive (value : Word)
  | admission (slot : Nat)
  | stgRelease (value : Word)
  | creditMessage (payload : List Byte)
  | stkReq (value : Word)
  | stkGrant (slot : Nat)
  | stkFree (value : Word)
  | stageRecordWrite (slot : Nat)
  | stkHwmRearm (slot : Nat)
  | stgAbort (value : Word)
  | localDone (payload : List Byte)
  | abort (payload : List Byte)
  | commit (payload : List Byte)
  | stgClear (value : Word)
  | cleared (payload : List Byte)
  | ready (payload : List Byte)
  | tmpSegArrive (value : Word)
  | shardReduce (index : Nat)
  | normPartial (payload : List Byte)
  | applyPhase (index : Nat)
  | shardStaged (index : Nat)
  | staged (payload : List Byte)
  | replicaFetchDone (index : Nat) (ok : Bool) (entries : List (Nat × Nat))
  | unchanged (payload : List Byte)
  | segmentTimeout (index : Nat)
  | ratioPartial (payload : List Byte)
  | assayVisit (unit : Nat)
  | assay (payload : List Byte)
  | assayRefetchDone (index : Nat) (ok : Bool) (entries : List (Nat × Nat))
  | tmpDerive (value : Word)
  | memoryRead (addr : Nat) (len : Nat) (die : Nat) (errors : List MemError)
  | memoryWrite (addr : Nat) (data : List Byte) (die : Nat) (errors : List MemError)
  | blockWrite (addr : Nat) (data : List Byte)
  | lineWrite (addr : Nat) (data : List Byte)
  | blockRead (addr : Nat) (garbled : Nat) (errors : List MemError)
  | hbmTempRead (stack : Nat) (celsius : Nat)
  | bitternRefreshReport (stack : Nat) (rates : List Nat) (celsius : Nat)
  | refresh (stack : Nat)
  | patrolScrub (stack : Nat) (errors : List MemError) (late : Bool)
  | writeWrapperInstruction (stack : Nat)
  | shiftDataRegister (stack : Nat)
  | sppr (stack : Nat)
  | hppr (stack : Nat)
  | hbmTestDone (stack : Nat) (ok : Bool)
  | hbmTestTimeout (stack : Nat)
  | linkTraining (link : Nat) (peer : Nat) (peerLink : Nat) (lanes : Nat)
  | flitReplay (link : Nat) (ok : Bool)
  | laneFailure (link : Nat) (lane : Nat)
  | linkDown (link : Nat)
  | linkNotice (packet : Packet)
  | requestInject (access : Option Packet := none)
  | packetForward (packet : Packet)
  | loadReq (packet : Packet)
  | store (packet : Packet)
  | atomic (packet : Packet)
  | swap (packet : Packet)
  | cas (packet : Packet)
  | loadData (packet : Packet)
  | oldValue (packet : Packet)
  | status (packet : Packet)
  | ack (packet : Packet)
  | msg (packet : Packet)
  | bcast (packet : Packet)
  | retransmitTimeout (peer : Nat) (cls : Nat)
  | tableEntryApply (line : Nat)
  | hotLineWindowEnd
  | fenceTimeoutExpiry (fence : Nat)
  | occupancyReport (pkg : Nat) (levels : List Nat)
  | fabEpochAdvance
  | epochAdvanceComplete
  | epochAdvanceRefused
  | fabPhysIdWrite (value : Word)
  | gwHoldExpiry (field : Nat)
  | frameReceive (frame : Frame)
  | openSession (frame : Frame)
  | closeSession (frame : Frame)
  | transportAck (frame : Frame)
  | nak (frame : Frame)
  | mgmtAccess (frame : Frame)
  | cmdMessage (frame : Frame)
  | bulkWrite (frame : Frame)
  | bulkWriteComplete (peer : Nat)
  | bulkReadReq (frame : Frame)
  | gateway (frame : Frame)
  | hostResendTimeout (peer : Nat) (channel : Nat)
  | hostAckTimer (peer : Nat) (channel : Nat)
  | eventSend
  | hostLinkLoss
  | hostLinkReturn
  | unitStateRequest (addr : Nat) (value : Word)
  | unitDrained (addr : Nat)
  | sbPwrOkLow
  | sbResetNAssert
  | resetRelease (straps : Nat) (facts : StartFacts)
  | sbQuenchNFall (nanoseconds : Nat)
  | i2cTransfer (offset : Nat) (data : List Byte) (len : Nat) (address : Nat := 0x58)
  | storeCast
  | pour
  | storeFw
  | confirmFw
  | hallmarkRead
  | key
  | attest
  | nandWearLevel (work : NandWork)
  | laserCalibration (port : Nat) (lane : Nat) (bias : Nat) (hours : Nat) (late : Bool := false)
  | lifetimeCounterWrite (hot : Nat)
  | laneLock
  | judgingWindowEnd (count : Nat) (durations : List Nat)
  | coreLoopLock
  | monitorGateEnd (count : Nat)
  | laneLossOfLock
  | frameBoundary (mismatches : Nat)
  | holdoverExpiry
  | clkTestWrite (test : Bool)
  | noReferenceTimeout
  | ndcAdd (value : Word)
  | quenchFire (value : Word)
  | quenchRelease
  | scpScrub (array : Nat) (offset : Nat) (errors : List MemError) (late : Bool)
  | sbPwrOkRaise
  | sbQuenchNDriveEnd
  | hbmPeriodicRetraining (stack : Nat) (late : Bool)
  | bitternPeriodicCalibration (stack : Nat) (late : Bool)
  deriving DecidableEq, Repr

end Sys2Proof
end

