-- ==== Sys2Proof/Machine/Flags.lean ====
section
/-! DEFINITION. The arithmetic events of R69 to R74: the seven sticky records in the bit order of `ARR_STATUS` (R71), as one
exception byte without its reserved bit 7 (R74), and the counts of R73. -/

namespace Sys2Proof.Machine

/-- A set of arithmetic events, bit for bit as in `ARR_STATUS` [6:0] (R71) and the trailer's exception byte (R74). -/
abbrev Exc := BitVec 7

def Exc.none : Exc := 0x00#7
def Exc.invalid : Exc := 0x01#7
def Exc.overflow : Exc := 0x02#7
def Exc.underflow : Exc := 0x04#7
def Exc.nanIn : Exc := 0x08#7
def Exc.infIn : Exc := 0x10#7
def Exc.emptyRow : Exc := 0x20#7
def Exc.scaleClamp : Exc := 0x40#7

/-- Whether a set of events holds one of the events of another set. -/
def Exc.has (x y : Exc) : Bool := x &&& y != 0#7

/-- What a command's arithmetic has recorded so far: the events, and the four counts of R72 under the once-per-element
rule of R73. -/
structure Record where
  bits : Exc := Exc.none
  invalid : Nat := 0
  overflow : Nat := 0
  underflow : Nat := 0
  emptyRows : Nat := 0
  deriving DecidableEq, Repr

/-- One output element's events enter the record: its bits, and each count at most once (R73). -/
def Record.element (r : Record) (x : Exc) : Record :=
  { bits := r.bits ||| x
    invalid := r.invalid + (x.has Exc.invalid).toNat
    overflow := r.overflow + (x.has Exc.overflow).toNat
    underflow := r.underflow + (x.has Exc.underflow).toNat
    emptyRows := r.emptyRows + (x.has Exc.emptyRow).toNat }

/-- Events that belong to no element's count, such as a clamped scale. -/
def Record.bitsOnly (r : Record) (x : Exc) : Record := { r with bits := r.bits ||| x }

/-- Two records together. -/
def Record.join (r q : Record) : Record :=
  { bits := r.bits ||| q.bits
    invalid := r.invalid + q.invalid
    overflow := r.overflow + q.overflow
    underflow := r.underflow + q.underflow
    emptyRows := r.emptyRows + q.emptyRows }

end Sys2Proof.Machine
end

