-- ==== Sys2Proof/Machine/Operands.lean ====
section
/-! DEFINITION. The six number formats of R43 to R52, the log product (R54 to R56), accumulation (R57), the roundings
(R64 to R68) and the exact operations the engines are built from. A finite value is held exactly as a sign, a whole number
and a power of two; every narrowing is explicit. -/

namespace Sys2Proof.Machine

/-- A value of any format, exactly: `fin neg m e` is (−1)^neg × m × 2^e. -/
inductive Num where
  | nan
  | inf (neg : Bool)
  | fin (neg : Bool) (m : Nat) (e : Int)
  deriving DecidableEq, Repr

/-- The one zero the device writes (R52). -/
def Num.zero : Num := .fin false 0 0

def Num.one : Num := .fin false 1 0

def Num.isNan : Num → Bool
  | .nan => true
  | _ => false

def Num.isInf : Num → Bool
  | .inf _ => true
  | _ => false

def Num.isZero : Num → Bool
  | .fin _ m _ => m == 0
  | _ => false

def Num.isNeg : Num → Bool
  | .fin s m _ => s && m != 0
  | .inf s => s
  | .nan => false

def Num.neg : Num → Num
  | .fin s m e => if m = 0 then .zero else .fin (!s) m e
  | .inf s => .inf (!s)
  | .nan => .nan

/-- The floor of log2 of a finite non-zero magnitude. -/
def Num.lg : Num → Int
  | .fin _ m e => (Nat.log2 m : Int) + e
  | _ => 0

/-- The records of the operand elements an operation consumes (R468). -/
def consumed (xs : List Num) : Exc :=
  (if xs.any Num.isNan then Exc.nanIn else Exc.none) ||| (if xs.any Num.isInf then Exc.infIn else Exc.none)

/-- `m / 2^d` rounded to nearest, ties to even. -/
def shiftNearest (m d : Nat) : Nat :=
  let q := m >>> d
  let r := m % 2 ^ d
  if 2 * r > 2 ^ d ∨ (2 * r = 2 ^ d ∧ q % 2 = 1) then q + 1 else q

/-- `m / 2^d` rounded to odd (R64). -/
def shiftOdd (m d : Nat) : Nat :=
  let q := m >>> d
  if m % 2 ^ d ≠ 0 ∧ q % 2 = 0 then q + 1 else q

/-- `m × 2^e` in units of 2^qe, narrowed by `narrow` where bits fall below the unit. -/
def quantise (narrow : Nat → Nat → Nat) (m : Nat) (e qe : Int) : Nat :=
  if qe ≤ e then m <<< (e - qe).toNat else narrow m (qe - e).toNat

/-- The linear formats of R49: fraction width, exponent width, bias, and whether subnormals are kept. -/
structure Lin where
  fw : Nat
  ew : Nat
  bias : Int
  sub : Bool
  deriving DecidableEq, Repr

def Lin.a32 : Lin := ⟨23, 8, 127, false⟩
def Lin.m16 : Lin := ⟨7, 8, 127, false⟩
def Lin.w16 : Lin := ⟨9, 6, 31, true⟩

def Lin.width (F : Lin) : Nat := 1 + F.ew + F.fw
def Lin.emax (F : Lin) : Int := 2 ^ F.ew - 2 - F.bias
def Lin.emin (F : Lin) : Int := 1 - F.bias
def Lin.signBit (F : Lin) (neg : Bool) : Nat := if neg then 2 ^ (F.ew + F.fw) else 0

/-- Special encodings (R51). -/
def Lin.infinity (F : Lin) (neg : Bool) : Nat := F.signBit neg + (2 ^ F.ew - 1) * 2 ^ F.fw
def Lin.canonicalNan (F : Lin) : Nat := F.infinity false + 2 ^ (F.fw - 1)
def Lin.maxFinite (F : Lin) (neg : Bool) : Nat := F.infinity neg - 1

/-- The value of an encoding (R49 to R52): subnormals read as zero unless the format keeps them. -/
def Lin.decode (F : Lin) (b : Nat) : Num :=
  let s := b / 2 ^ (F.ew + F.fw) % 2 == 1
  let e := b / 2 ^ F.fw % 2 ^ F.ew
  let f := b % 2 ^ F.fw
  if e = 2 ^ F.ew - 1 then (if f = 0 then .inf s else .nan)
  else if e = 0 then (if F.sub ∧ f ≠ 0 then .fin s f (F.emin - F.fw) else .zero)
  else .fin s (2 ^ F.fw + f) ((e : Int) - F.bias - F.fw)

/-- Narrowing a value into a linear format (R50, R53, R67), the bits below the last place going through `narrow`. -/
def Lin.encodeWith (F : Lin) (narrow : Nat → Nat → Nat) (x : Num) : Nat × Exc :=
  match x with
  | .nan => (F.canonicalNan, Exc.none)
  | .inf s => (F.infinity s, Exc.none)
  | .fin s m e =>
    if m = 0 then (0, Exc.none) else
    let lg : Int := (Nat.log2 m : Int) + e
    let qe : Int := if F.sub then max (lg - F.fw) (F.emin - F.fw) else lg - F.fw
    let q := quantise narrow m e qe
    if q = 0 then (0, Exc.underflow) else
    let lq : Int := (Nat.log2 q : Int) + qe
    if lq > F.emax then (F.maxFinite s, Exc.overflow)
    else if lq < F.emin then
      (if F.sub then (F.signBit s + q, Exc.none) else (0, Exc.underflow))
    else
      let sig := if Nat.log2 q > F.fw then q / 2 else q
      (F.signBit s + (lq + F.bias).toNat * 2 ^ F.fw + (sig - 2 ^ F.fw), Exc.none)

/-- Rounding to nearest, ties to even. -/
def Lin.encode (F : Lin) (x : Num) : Nat × Exc := F.encodeWith shiftNearest x

/-- Stochastic rounding (R68): the uppermost 14 lost bits d against the drawn r, one step up exactly when r < d. -/
def shiftStochastic (r : Nat) (m d : Nat) : Nat :=
  let lost := m % 2 ^ d
  let d14 := if 14 ≤ d then lost >>> (d - 14) else lost <<< (14 - d)
  if r < d14 then (m >>> d) + 1 else m >>> d

/-- A value rounded to the A32 format and read back, with the events of the rounding. -/
def round32 (x : Num) : Num × Exc :=
  let p := Lin.a32.encode x
  (Lin.a32.decode p.1, p.2)

/-- A value rounded to odd at A32 width, exponent unlimited (R64, the temper paths). -/
def roundOdd32 : Num → Num
  | .fin s m e =>
    let lg : Int := (Nat.log2 m : Int) + e
    if m = 0 then .zero else .fin s (quantise shiftOdd m e (lg - 23)) (lg - 23)
  | x => x

def a32 (b : Nat) : Num := Lin.a32.decode b

/-! ### Log formats -/

/-- The log formats of R43. -/
inductive LogFmt where
  | l4 | l8 | g8
  deriving DecidableEq, Repr

/-- Significands of 2^(f/8) at 23 fraction bits (R56). -/
def antilog : Nat → Nat
  | 0 => 0x800000
  | 1 => 0x8B95C2
  | 2 => 0x9837F0
  | 3 => 0xA5FED7
  | 4 => 0xB504F3
  | 5 => 0xC5672A
  | 6 => 0xD744FD
  | _ => 0xEAC0C7

/-- A log code read: a special, zero, or a sign and an exponent in eighths of an octave. -/
inductive LogVal where
  | nan
  | inf (neg : Bool)
  | zero
  | val (neg : Bool) (eighths : Int)
  deriving DecidableEq, Repr

def LogVal.isNan : LogVal → Bool
  | .nan => true
  | _ => false

def LogVal.isInf : LogVal → Bool
  | .inf _ => true
  | _ => false

/-- The codes of R47 and R48 with the block scale's void mark (R44). -/
def LogFmt.read (f : LogFmt) (code e8 : Nat) : LogVal :=
  if e8 = 0xFF then .nan else
  match f with
  | .l4 =>
    if code = 8 then .nan else if code % 8 = 0 then .zero
    else .val (code / 8 % 2 == 1) (8 * ((code % 8 : Nat) - 4 : Int))
  | .l8 =>
    let m := code % 128; let s := code / 128 % 2 == 1
    if m = 0 then (if s then .nan else .zero) else if m = 127 then .inf s else .val s ((m : Int) - 64)
  | .g8 =>
    let m := code % 128; let s := code / 128 % 2 == 1
    if m = 0 then (if s then .nan else .zero) else if m = 127 then .inf s else .val s (2 * ((m : Int) - 64))

/-- The linear value the device gives a log code under its block scale (R56). -/
def LogVal.num (v : LogVal) (e8 : Nat) : Num :=
  match v with
  | .nan => .nan
  | .inf s => .inf s
  | .zero => .zero
  | .val s t => .fin s (antilog (t % 8).toNat) (t / 8 - 23 + ((e8 : Int) - 127))

def LogFmt.num (f : LogFmt) (code e8 : Nat) : Num := (f.read code e8).num e8

/-- A term product of two log codes (R55), with the records of R55 and of its consumed operands (R468). -/
def logProduct (a b : LogVal) (sa sb : Nat) : Num × Exc :=
  let c := (if a.isNan || b.isNan then Exc.nanIn else Exc.none) ||| (if a.isInf || b.isInf then Exc.infIn else Exc.none)
  match a, b with
  | .nan, _ => (.nan, c)
  | _, .nan => (.nan, c)
  | .zero, .inf _ => (.nan, c ||| Exc.invalid)
  | .inf _, .zero => (.nan, c ||| Exc.invalid)
  | .inf s, .inf u => (.inf (s != u), c)
  | .inf s, .val u _ => (.inf (s != u), c)
  | .val s _, .inf u => (.inf (s != u), c)
  | .zero, _ => (.zero, c)
  | _, .zero => (.zero, c)
  | .val s ea, .val u eb =>
    let t := ea + eb
    let e : Int := t / 8 + ((sa : Int) - 127) + ((sb : Int) - 127)
    if e > 127 then (a32 (Lin.a32.maxFinite (s != u)), c ||| Exc.overflow)
    else if e < -126 then (.zero, c ||| Exc.underflow)
    else (.fin (s != u) (antilog (t % 8).toNat) (e - 23), c)

/-- A non-zero magnitude as a 24-bit significand; bits below are dropped. -/
def sig24 (m : Nat) (e : Int) : Nat × Int :=
  let d : Int := (Nat.log2 m : Int) - 23
  if d ≥ 0 then (m >>> d.toNat, e + d) else (m <<< (-d).toNat, e + d)

/-- Saturation and the zero rule on a 24-bit significand `m` with unit 2^u (the end of R57). -/
def finish24 (s : Bool) (m : Nat) (u : Int) : Num × Exc :=
  if u + 23 > 127 then (a32 (Lin.a32.maxFinite s), Exc.overflow)
  else if u + 23 < -126 then (.zero, Exc.underflow)
  else (.fin s m u, Exc.none)

/-- Addition of a linear value into a running sum on the 27-bit field (R57), without the records of consumption. -/
def accumulate (acc p : Num) : Num × Exc :=
  match acc, p with
  | .nan, _ => (.nan, Exc.none)
  | _, .nan => (.nan, Exc.none)
  | .inf s, .inf u => if s = u then (.inf s, Exc.none) else (.nan, Exc.invalid)
  | .inf s, _ => (.inf s, Exc.none)
  | _, .inf u => (.inf u, Exc.none)
  | .fin sa ma ea, .fin sp mp ep =>
    if mp = 0 then (if ma = 0 then .zero else .fin sa ma ea, Exc.none)
    else
    let (np, up) := sig24 mp ep
    if ma = 0 then finish24 sp np up
    else
    let (na, ua) := sig24 ma ea
    let accBig := up ≤ ua
    let (sb, nb, ub) := if accBig then (sa, na, ua) else (sp, np, up)
    let (ss, ns, us) := if accBig then (sp, np, up) else (sa, na, ua)
    let fb := nb <<< 3
    let fs := (ns <<< 3) >>> (ub - us).toNat
    let (f, s) := if sb = ss then (fb + fs, sb) else if fb ≥ fs then (fb - fs, sb) else (fs - fb, ss)
    if f = 0 then (.zero, Exc.none)
    else
    let lg := Nat.log2 f
    -- the field is brought to 27 bits: one bit lost above, zeros entering below
    let (f27, u) := if lg ≥ 27 then (f >>> (lg - 26), ub + ((lg : Int) - 26)) else (f <<< (26 - lg), ub - ((26 - lg : Nat) : Int))
    let m := shiftNearest f27 3
    if m = 2 ^ 24 then finish24 s (2 ^ 23) (u + 1) else finish24 s m u

/-- `accumulate` of an operand that is read, with the record of its consumption (R468). The running sum itself is not read. -/
def accumulateRec (acc p : Num) : Num × Exc :=
  let r := accumulate acc p
  (r.1, r.2 ||| consumed [p])

/-! ### Exact operations -/

/-- The exact sum, or the special result of R69; zero results are +0. -/
def Num.add (a b : Num) : Num × Exc :=
  match a, b with
  | .nan, _ => (.nan, Exc.none)
  | _, .nan => (.nan, Exc.none)
  | .inf s, .inf u => if s = u then (.inf s, Exc.none) else (.nan, Exc.invalid)
  | .inf s, _ => (.inf s, Exc.none)
  | _, .inf u => (.inf u, Exc.none)
  | .fin sa ma ea, .fin sb mb eb =>
    let e := min ea eb
    let x : Int := (ma <<< (ea - e).toNat : Nat)
    let y : Int := (mb <<< (eb - e).toNat : Nat)
    let z := (if sa then -x else x) + (if sb then -y else y)
    if z = 0 then (.zero, Exc.none) else (.fin (z < 0) z.natAbs e, Exc.none)

/-- The exact product, or the special result of R69. -/
def Num.mul (a b : Num) : Num × Exc :=
  match a, b with
  | .nan, _ => (.nan, Exc.none)
  | _, .nan => (.nan, Exc.none)
  | .inf s, .inf u => (.inf (s != u), Exc.none)
  | .inf s, .fin u m _ => if m = 0 then (.nan, Exc.invalid) else (.inf (s != u), Exc.none)
  | .fin u m _, .inf s => if m = 0 then (.nan, Exc.invalid) else (.inf (s != u), Exc.none)
  | .fin sa ma ea, .fin sb mb eb =>
    if ma = 0 ∨ mb = 0 then (.zero, Exc.none) else (.fin (sa != sb) (ma * mb) (ea + eb), Exc.none)

/-- Whether a value is below another; NaNs are below nothing. Infinities are the ends of the order. -/
def Num.lt (a b : Num) : Bool :=
  match a, b with
  | .nan, _ => false
  | _, .nan => false
  | .inf s, .inf u => s && !u
  | .inf s, _ => s
  | _, .inf u => !u
  | .fin sa ma ea, .fin sb mb eb =>
    let e := min ea eb
    let x : Int := (ma <<< (ea - e).toNat : Nat)
    let y : Int := (mb <<< (eb - e).toNat : Nat)
    decide ((if sa then -x else x) < (if sb then -y else y))

/-! ### Conversion to a log format -/

/-- The thresholds of R66, in units of 2^−10. -/
def LogFmt.thresholds : LogFmt → List Nat
  | .l8 => [0x02E, 0x08F, 0x0F9, 0x16C, 0x1EA, 0x273, 0x308, 0x3AB]
  | .g8 => [0x061, 0x135, 0x231, 0x35D]
  | .l4 => [0x200]

def LogFmt.steps : LogFmt → Nat
  | .l8 => 8
  | .g8 => 4
  | .l4 => 1

def LogFmt.bias : LogFmt → Int
  | .l4 => 4
  | _ => 64

/-- The largest finite code (R65). -/
def LogFmt.cmax : LogFmt → Nat
  | .l4 => 7
  | _ => 126

def LogFmt.withSign (f : LogFmt) (neg : Bool) (c : Nat) : Nat :=
  if neg then c + (if f = .l4 then 8 else 128) else c

def LogFmt.canonicalNan : LogFmt → Nat
  | .l4 => 8
  | _ => 0x80

/-- Conversion of a value to a log code under a block scale (R65). -/
def toLog (f : LogFmt) (x : Num) (e8 : Nat) : Nat × Exc :=
  match x with
  | .nan => (f.canonicalNan, Exc.none)
  | .inf s => if f = .l4 then (f.withSign s f.cmax, Exc.overflow) else (f.withSign s 127, Exc.none)
  | .fin s m ex =>
    if m = 0 then (0, Exc.none) else
    let ey : Int := ex + 127 - e8
    let e : Int := (Nat.log2 m : Int) + ey
    let s11 := quantise shiftOdd m ey (e - 11)
    let frac := s11 - 2 ^ 11
    let fc := (f.thresholds.filter (fun t => 2 * t < frac)).length
    let base : Int := f.bias + f.steps * e
    let fc := if f.thresholds.any (fun t => 2 * t = frac) ∧ (base + fc) % 2 ≠ 0 then fc + 1 else fc
    let c : Int := base + fc
    if c > f.cmax then (f.withSign s f.cmax, Exc.overflow)
    else if c ≤ 0 then (0, Exc.underflow)
    else (f.withSign s c.toNat, Exc.none)

/-- The headroom h of R46. -/
def LogFmt.headroom : LogFmt → Int
  | .l4 => 2
  | .l8 => 6
  | .g8 => 14

/-- The E8 a block takes under DYNAMIC scaling (R46), with scale_clamp where it was clamped. -/
def dynamicE8 (f : LogFmt) (xs : List Num) : Nat × Exc :=
  let lgs := xs.filterMap fun x => match x with
    | .fin _ m e => if m = 0 then none else some ((Nat.log2 m : Int) + e)
    | _ => none
  match lgs with
  | [] => (0x7F, Exc.none)
  | l :: ls =>
    let e : Int := ls.foldl max l + 127 - f.headroom
    if e < 0 then (0, Exc.scaleClamp) else if e > 0xFE then (0xFE, Exc.scaleClamp) else (e.toNat, Exc.none)

end Sys2Proof.Machine
end

