-- ==== Sys2Proof/Config.lean ====
section
/-! DEFINITION. What an implementation fixes and the values the spec leaves open. An `opaque` constant has no body, so no
proof can see its value: a claim about one holds whatever it is. -/

namespace Sys2Proof.Config

/-- The values the spec states no number for (times, cycle counts within stated bounds): the n-th value taken (log 8). -/
opaque freeValue : Nat → BitVec 64

/-- Which of the two neighbouring A32 values RSQRT, EXP and LOG give for an input (R142; log 9): true for the one of the
larger magnitude. The first argument tells the operation, the second is the input's A32 encoding. -/
opaque upperNeighbour : Nat → BitVec 32 → Bool

/-- The row an HBM stack offset lies in, as the repair record names it: pseudo-channel in [4:0], bank in [10:5], row in
[27:11] (R397). The spec does not state how a stack lays its bytes out in rows (log 13). -/
opaque hbmRow : Nat → BitVec 28

/-- Whether a row address, in the layout of `hbmRow`, lies inside a stack; the spec states no stack's geometry (R305; log 13). -/
opaque hbmRowExists : BitVec 28 → Bool

/-- Whether a bank has a repair resource left, hard (true) or soft, after some number of repairs of that kind: the first number
is the bank, as stack position in [3:0], pseudo-channel in [8:4] and bank in [14:9]; the second the repairs made (R304, R305; log 13). -/
opaque pprLeft : Bool → Nat → Nat → Bool

/-- ML-DSA-65 verification under FIPS 204, which the spec names and does not contain (R401; log 10):
the public key, the message and the signature, as bytes. -/
opaque mlDsaVerify : List Byte → List Byte → List Byte → Bool

/-- ML-DSA-65 signing under FIPS 204 with the device's own key (R412; log 10): the message, as bytes. -/
opaque mlDsaSign : List Byte → List Byte

/-- The bytes of the IDENTITY partition: the package's public key and its certificate, written at manufacture (R386, R395; log 4). -/
opaque identityByte : Nat → BitVec 8

/-- Which of the controller's record pages a 16 KiB page of the RECORDS partition is: the spec places no record in it (R395, R396; log 65). -/
opaque recordsPage : Nat → BitVec 9

/-- A laser lane as manufactured, by 8 × port + lane: its bias code, and its maximum code (R397; log 4). -/
opaque laserBias : Nat → BitVec 12
opaque laserMax : Nat → BitVec 12

end Sys2Proof.Config
end

