-- ==== Sys2Proof/Machine/RegMap.lean ====
section
/-! DEFINITION. The registers of the manual: one constructor per register under the manual's own name, its place in the
local address map (R35 to R40, R109, R132, R133, R170, R171, R214, R215, R245, R246, R280, R281, R308, R309, R351, R352,
R376, R377, R408, R409, R432 to R434, R453, R454), its fields with their access codes (R12) and its numeric reset value.
A field is named after its register, as in the manual; four fields whose names are Lean keywords are spelled cls (class),
sect (section), matched (match) and opened (open). Written from the register tables of the spec. -/

namespace Sys2Proof.Machine

/-- The registers the manual lays down, by name. -/
inductive RegKind where
  | ID_PART | ID_PARAMS | ID_SERIAL | ID_STEPPING | CLK_STATUS
  | CLK_CTRL | CLK_RO_CAL | CLK_MON | CLK_HOLD | RST_STATUS
  | CLK_NMI_VEC | CLK_PERF_FALLBACKS | CLK_PERF_FALLBACK_US | CLK_PERF_BAD_WINDOWS | CLK_PERF_ALIGN_ERR
  | CLK_PERF_JUDGE_FAIL | HP_STATUS | HP_NET_CFG | HP_UDP_CFG | HP_RETX_CFG
  | HP_MBX_CFG | HP_EVT_CFG | HP_EVT_STATUS | HP_GW_CFG | HP_SELF
  | HP_PEER | HP_MBX_PTR | HP_GW_PEER | HP_PERF_RX_FRAMES | HP_PERF_TX_FRAMES
  | HP_PERF_DISCARD | HP_PERF_RESEND | HP_PERF_NAK | HP_PERF_MBX_FULL | HP_PERF_GW_RX
  | FAB_LINK_STATUS | FAB_LINK_CFG | FAB_LINK_PEER | FAB_LINK_PERF_TX_BYTES | FAB_LINK_PERF_RX_BYTES
  | FAB_LINK_PERF_FEC | FAB_LINK_PERF_RETRY | FAB_LINK_PERF_TRANSIT | FAB_LINK_PERF_DOWN | FAB_PHYS_ID
  | FAB_ID | FAB_CFG | FAB_EPOCH | FENCE_TIMEOUT | FAB_RETX_CFG
  | FAB_ERR_INFO | FAB_TRACK_STATUS | FAB_HOT_CFG | FAB_EXC_CNT | FAB_HOT_LINE
  | FAB_PERF_MOVES | FAB_PERF_FORCED | FAB_PERF_RETX | FAB_PERF_DUP | FAB_PERF_REORDER_HELD
  | FAB_PERF_REORDER_DROP | FAB_PERF_RETX_FULL | FAB_PERF_MERGES | FAB_PERF_TABLE_FULL | FAB_PERF_NDC
  | FAB_PERF_SLICE_REFUSED | FAB_PERF_TRANSIT_REFUSED | FAB_PERF_FENCES | FAB_PERF_BAD_PKT | FAB_PERF_GW_BULK
  | FAB_SLICE_MAP | FAB_REMAP | FAB_NM_MASK | FAB_GW | SALT_CTRL
  | SALT_STATUS | RAKE_HALF_ARM | QM_RELEASE | RES_STEP | SLU_SUBMIT
  | SLU_CANCEL | SLU_ARM | RX_ERR_INFO | RAKE_STREAM_CFG | RAKE_STREAM_SUBMIT
  | RAKE_STREAM_STATUS | NTC_RING_CFG | NTC_RING_PTR | RX_PERF_SUBMITS | RX_PERF_DISPATCH
  | RX_PERF_DROP | RX_PERF_ABSENT | RX_PERF_STALL_DEST | RX_PERF_STALL_FULL | RX_PERF_GROUPS
  | RX_PERF_EXC_OVF | RX_PERF_EXC_UNF | RX_PERF_NDC | SLU_PERF_ROWS | SLU_PERF_CANCEL_DROP
  | SLU_PERF_LATE_CANCEL | RES_PERF_FETCH_DEMAND | RES_PERF_FETCH_PREFETCH | RES_PERF_EVICT | RES_PERF_WAIT
  | SLU_EPOCH_MAP | RX_EXPERT_TABLE | RX_LAYER_TABLE | RES_HIST | RES_STATE
  | TMP_CFG | TMP_SEED | TEMPER_NORM_CEIL | TMP_SHARD_BASE | TMP_LAYER_BASE
  | TMP_HSET_BASE | TMP_TELE_CFG | TMP_TELE_PTR | TMP_ASSAY_CFG | TMP_SEG_ARRIVE
  | TMP_DERIVE | TMP_ERR_INFO | TMP_UNIT_STATUS | TMP_STATUS | TMP_EXC_CNT
  | TMP_PERF_UPDATES | TMP_PERF_WITHHELD | TMP_PERF_ZERO_VISIT | TMP_PERF_SEGMENTS | TMP_PERF_BAD_SEGMENT
  | TMP_PERF_MISSING | TMP_PERF_FETCH | TMP_PERF_FETCH_RETRY | TMP_PERF_ASSAY | TMP_PERF_ASSAY_MISMATCH
  | TMP_PERF_ASSAY_STALE | TMP_PERF_ASSAY_ABANDON | TMP_PERF_TELE_LOST | TMP_PERF_RATIO_ALERT | TMP_PERF_PARK_CYCLES
  | TMP_SHARD_STATE | HBM_STK_INFO | HBM_STK_TEMP | HBM_ECC_CNT | HBM_ECC_LOG
  | HBM_SCRUB_STATUS | HBM_REPAIR_STATUS | HBM_TEST_CTRL | HBM_TEST_ADDR | HBM_TEST_DATA
  | HBM_TEST_STATUS | HBM_PERF_RD_BYTES | HBM_PERF_WR_BYTES | HBM_PERF_CROSS_DIE | HBM_PERF_RMW
  | HBM_PERF_REFRESH | HBM_PERF_SCRUB_BYTES | BIT_STK_INFO | BIT_STK_TEMP | BIT_ECC_CNT
  | BIT_ECC_LOG | BIT_SCRUB_STATUS | BIT_PERF_RD_BYTES | BIT_PERF_WR_BYTES | BIT_PERF_CROSS_DIE
  | BIT_PERF_RMW | BIT_PERF_REFRESH | BIT_PERF_SCRUB_BYTES | MEM_IL_REGION | MEM_CRC_BASE
  | MEM_CRC_SIZE | MEM_CRC_TABLE | MEM_SCRUB_CFG | MEM_CRC_ERR_INFO | MEM_PERF_CHECKED
  | MEM_PERF_CRC_RETRY | MEM_PERF_CRC_FAIL | MEM_PERF_UNCHECKED | MEM_PERF_SCRUB_LATE | STG_ROOT
  | STG_STEP_ARM | STG_ABORT | STG_STEP_STATUS | STG_CLEAR | STK_REQ
  | STK_FREE | STG_ARRIVE | STG_RELEASE | STG_ERR_INFO | STG_PERF_LATE_ABORT
  | STG_ENTRY | STG_QUEUE | STK_USED | STK_BRES | STK_HWM
  | STG_STATE | STG_PERF_ADMIT | STG_PERF_SPANS | STG_PERF_SEND_FWD | STG_PERF_SEND_BWD
  | STG_PERF_STARVE_FWD | STG_PERF_STARVE_BWD | STG_PERF_HOLD_ADMIT | STG_PERF_HOLD_STK | STK_PERF_SPILL
  | STK_PERF_DISCARD | STK_PERF_SKIP | HMK_CMD | HMK_ARG0 | HMK_ARG1
  | HMK_STATUS | HMK_ERR_INFO | CST_STATE | CST_SLOT | FW_SLOT
  | HMK_SVN | HMK_NAND | TS_STATUS | TS_KEY_DIGEST | HMK_LIFE_POWER_S
  | HMK_LIFE_RESETS | HMK_LIFE_POURS | HMK_LIFE_START_POURS | HMK_LIFE_ABANDONED | HMK_LIFE_THERMAL_HALTS
  | HMK_LIFE_HOT_S | HMK_LIFE_NAND_ERASES | HMK_LIFE_COPY_REPAIRS | HMK_LIFE_ASSAY_MISMATCH | NDC_COUNT
  | NDC_ADD | OBS_NDC_CFG | OBS_QUENCH_CTRL | OBS_QUENCH_CFG | OBS_QUENCH_STATUS
  | OBS_QUENCH_TIME | OBS_QUENCH_FRAME | OBS_MATCH | OBS_SUM_CFG | OBS_SUM_STATUS
  | OBS_BG_CFG | OBS_PERF_QUENCH_DROP | OBS_PERF_NDC_SW | OBS_PERF_SCP_SCRUB | OBS_PERF_SCP_CORRECTED
  | OBS_PERF_SCP_LATE | OBS_PERF_CAL_LATE | OBS_PERF_THROTTLE_DOWN | OBS_PERF_THROTTLE_UP | UST_ARRAY
  | UST_LINK | UST_HBM | UST_BITTERN | UST_TEMPER | UST_STATUS
  | UST_PERF_DISAGREE | ARR_ID | ARR_SEQ_CTRL | ARR_SEQ_CFG | ARR_STATUS
  | ARR_EXC_CNT | ARR_ERR_INFO | SCP_BANK_OWN | SCP_BANK_CFG | ARR_WIN_CFG
  | ARR_WIN_HEAD | ARR_WIN_TAIL | ARR_WIN_OCC | MARCH_CTRL | MARCH_STATUS
  | SCP_REPAIR | ARR_PERF_TILES | ARR_PERF_BUSY | ARR_PERF_STALL_FEED | ARR_PERF_STALL_OWN
  | ARR_PERF_STALL_WAIT | ARR_PERF_STALL_TQ | ARR_PERF_STALL_TRAILER | SPM_CFG | SPM_STATUS
  | SPM_ERR_INFO | SPM_PERF_TILES | SPM_PERF_ENTRIES | SPM_PERF_PAIRS | SPM_PERF_SKIP_ACT
  | SPM_PERF_SPLIT | SPM_PERF_ABSORB | SPM_PERF_MERGE | SPM_PERF_MISPREDICT | SPM_PERF_SPECIAL
  | SPM_PERF_STALL_LANEQ | SPM_PERF_STALL_FEED | SPM_PERF_STALL_LOAD | SPM_PERF_STALL_CONFLICT | VEC_CFG
  | VEC_CTRL | VEC_STATUS | VEC_LEN | VEC_ERR_INFO | VEC_TAB_SLOT
  | TQ_STATUS | FBI_CFG | FBI_STATUS | VEC_PERF_CMDS | VEC_PERF_BUSY
  | VEC_PERF_STALL_OWN | VEC_PERF_STALL_BANK | VEC_PERF_STALL_ACC | VEC_PERF_WAIT_TQ | VEC_PERF_WAIT_WIN
  | TQ_PERF_STALL_REGION | TQ_PERF_STALL_CREDIT | FBI_PERF_FWD | FBI_PERF_BWD | FBI_PERF_FROZEN
  | DIE_INFO | DIE_D2D_STATUS | DIE_SPARE_MAP | DIE_CLK_STATUS | DIE_PWR_STATUS
  deriving DecidableEq, Repr

/-- Every register of the manual, in the order of their addresses. -/
def RegKind.all : List RegKind := List.flatten [
  [.ID_PART, .ID_PARAMS, .ID_SERIAL, .ID_STEPPING, .CLK_STATUS, .CLK_CTRL, .CLK_RO_CAL, .CLK_MON, .CLK_HOLD, .RST_STATUS, .CLK_NMI_VEC, .CLK_PERF_FALLBACKS, .CLK_PERF_FALLBACK_US, .CLK_PERF_BAD_WINDOWS, .CLK_PERF_ALIGN_ERR, .CLK_PERF_JUDGE_FAIL, .HP_STATUS, .HP_NET_CFG, .HP_UDP_CFG, .HP_RETX_CFG],
  [.HP_MBX_CFG, .HP_EVT_CFG, .HP_EVT_STATUS, .HP_GW_CFG, .HP_SELF, .HP_PEER, .HP_MBX_PTR, .HP_GW_PEER, .HP_PERF_RX_FRAMES, .HP_PERF_TX_FRAMES, .HP_PERF_DISCARD, .HP_PERF_RESEND, .HP_PERF_NAK, .HP_PERF_MBX_FULL, .HP_PERF_GW_RX, .FAB_LINK_STATUS, .FAB_LINK_CFG, .FAB_LINK_PEER, .FAB_LINK_PERF_TX_BYTES, .FAB_LINK_PERF_RX_BYTES],
  [.FAB_LINK_PERF_FEC, .FAB_LINK_PERF_RETRY, .FAB_LINK_PERF_TRANSIT, .FAB_LINK_PERF_DOWN, .FAB_PHYS_ID, .FAB_ID, .FAB_CFG, .FAB_EPOCH, .FENCE_TIMEOUT, .FAB_RETX_CFG, .FAB_ERR_INFO, .FAB_TRACK_STATUS, .FAB_HOT_CFG, .FAB_EXC_CNT, .FAB_HOT_LINE, .FAB_PERF_MOVES, .FAB_PERF_FORCED, .FAB_PERF_RETX, .FAB_PERF_DUP, .FAB_PERF_REORDER_HELD],
  [.FAB_PERF_REORDER_DROP, .FAB_PERF_RETX_FULL, .FAB_PERF_MERGES, .FAB_PERF_TABLE_FULL, .FAB_PERF_NDC, .FAB_PERF_SLICE_REFUSED, .FAB_PERF_TRANSIT_REFUSED, .FAB_PERF_FENCES, .FAB_PERF_BAD_PKT, .FAB_PERF_GW_BULK, .FAB_SLICE_MAP, .FAB_REMAP, .FAB_NM_MASK, .FAB_GW, .SALT_CTRL, .SALT_STATUS, .RAKE_HALF_ARM, .QM_RELEASE, .RES_STEP, .SLU_SUBMIT],
  [.SLU_CANCEL, .SLU_ARM, .RX_ERR_INFO, .RAKE_STREAM_CFG, .RAKE_STREAM_SUBMIT, .RAKE_STREAM_STATUS, .NTC_RING_CFG, .NTC_RING_PTR, .RX_PERF_SUBMITS, .RX_PERF_DISPATCH, .RX_PERF_DROP, .RX_PERF_ABSENT, .RX_PERF_STALL_DEST, .RX_PERF_STALL_FULL, .RX_PERF_GROUPS, .RX_PERF_EXC_OVF, .RX_PERF_EXC_UNF, .RX_PERF_NDC, .SLU_PERF_ROWS, .SLU_PERF_CANCEL_DROP],
  [.SLU_PERF_LATE_CANCEL, .RES_PERF_FETCH_DEMAND, .RES_PERF_FETCH_PREFETCH, .RES_PERF_EVICT, .RES_PERF_WAIT, .SLU_EPOCH_MAP, .RX_EXPERT_TABLE, .RX_LAYER_TABLE, .RES_HIST, .RES_STATE, .TMP_CFG, .TMP_SEED, .TEMPER_NORM_CEIL, .TMP_SHARD_BASE, .TMP_LAYER_BASE, .TMP_HSET_BASE, .TMP_TELE_CFG, .TMP_TELE_PTR, .TMP_ASSAY_CFG, .TMP_SEG_ARRIVE],
  [.TMP_DERIVE, .TMP_ERR_INFO, .TMP_UNIT_STATUS, .TMP_STATUS, .TMP_EXC_CNT, .TMP_PERF_UPDATES, .TMP_PERF_WITHHELD, .TMP_PERF_ZERO_VISIT, .TMP_PERF_SEGMENTS, .TMP_PERF_BAD_SEGMENT, .TMP_PERF_MISSING, .TMP_PERF_FETCH, .TMP_PERF_FETCH_RETRY, .TMP_PERF_ASSAY, .TMP_PERF_ASSAY_MISMATCH, .TMP_PERF_ASSAY_STALE, .TMP_PERF_ASSAY_ABANDON, .TMP_PERF_TELE_LOST, .TMP_PERF_RATIO_ALERT, .TMP_PERF_PARK_CYCLES],
  [.TMP_SHARD_STATE, .HBM_STK_INFO, .HBM_STK_TEMP, .HBM_ECC_CNT, .HBM_ECC_LOG, .HBM_SCRUB_STATUS, .HBM_REPAIR_STATUS, .HBM_TEST_CTRL, .HBM_TEST_ADDR, .HBM_TEST_DATA, .HBM_TEST_STATUS, .HBM_PERF_RD_BYTES, .HBM_PERF_WR_BYTES, .HBM_PERF_CROSS_DIE, .HBM_PERF_RMW, .HBM_PERF_REFRESH, .HBM_PERF_SCRUB_BYTES, .BIT_STK_INFO, .BIT_STK_TEMP, .BIT_ECC_CNT],
  [.BIT_ECC_LOG, .BIT_SCRUB_STATUS, .BIT_PERF_RD_BYTES, .BIT_PERF_WR_BYTES, .BIT_PERF_CROSS_DIE, .BIT_PERF_RMW, .BIT_PERF_REFRESH, .BIT_PERF_SCRUB_BYTES, .MEM_IL_REGION, .MEM_CRC_BASE, .MEM_CRC_SIZE, .MEM_CRC_TABLE, .MEM_SCRUB_CFG, .MEM_CRC_ERR_INFO, .MEM_PERF_CHECKED, .MEM_PERF_CRC_RETRY, .MEM_PERF_CRC_FAIL, .MEM_PERF_UNCHECKED, .MEM_PERF_SCRUB_LATE, .STG_ROOT],
  [.STG_STEP_ARM, .STG_ABORT, .STG_STEP_STATUS, .STG_CLEAR, .STK_REQ, .STK_FREE, .STG_ARRIVE, .STG_RELEASE, .STG_ERR_INFO, .STG_PERF_LATE_ABORT, .STG_ENTRY, .STG_QUEUE, .STK_USED, .STK_BRES, .STK_HWM, .STG_STATE, .STG_PERF_ADMIT, .STG_PERF_SPANS, .STG_PERF_SEND_FWD, .STG_PERF_SEND_BWD],
  [.STG_PERF_STARVE_FWD, .STG_PERF_STARVE_BWD, .STG_PERF_HOLD_ADMIT, .STG_PERF_HOLD_STK, .STK_PERF_SPILL, .STK_PERF_DISCARD, .STK_PERF_SKIP, .HMK_CMD, .HMK_ARG0, .HMK_ARG1, .HMK_STATUS, .HMK_ERR_INFO, .CST_STATE, .CST_SLOT, .FW_SLOT, .HMK_SVN, .HMK_NAND, .TS_STATUS, .TS_KEY_DIGEST, .HMK_LIFE_POWER_S],
  [.HMK_LIFE_RESETS, .HMK_LIFE_POURS, .HMK_LIFE_START_POURS, .HMK_LIFE_ABANDONED, .HMK_LIFE_THERMAL_HALTS, .HMK_LIFE_HOT_S, .HMK_LIFE_NAND_ERASES, .HMK_LIFE_COPY_REPAIRS, .HMK_LIFE_ASSAY_MISMATCH, .NDC_COUNT, .NDC_ADD, .OBS_NDC_CFG, .OBS_QUENCH_CTRL, .OBS_QUENCH_CFG, .OBS_QUENCH_STATUS, .OBS_QUENCH_TIME, .OBS_QUENCH_FRAME, .OBS_MATCH, .OBS_SUM_CFG, .OBS_SUM_STATUS],
  [.OBS_BG_CFG, .OBS_PERF_QUENCH_DROP, .OBS_PERF_NDC_SW, .OBS_PERF_SCP_SCRUB, .OBS_PERF_SCP_CORRECTED, .OBS_PERF_SCP_LATE, .OBS_PERF_CAL_LATE, .OBS_PERF_THROTTLE_DOWN, .OBS_PERF_THROTTLE_UP, .UST_ARRAY, .UST_LINK, .UST_HBM, .UST_BITTERN, .UST_TEMPER, .UST_STATUS, .UST_PERF_DISAGREE, .ARR_ID, .ARR_SEQ_CTRL, .ARR_SEQ_CFG, .ARR_STATUS],
  [.ARR_EXC_CNT, .ARR_ERR_INFO, .SCP_BANK_OWN, .SCP_BANK_CFG, .ARR_WIN_CFG, .ARR_WIN_HEAD, .ARR_WIN_TAIL, .ARR_WIN_OCC, .MARCH_CTRL, .MARCH_STATUS, .SCP_REPAIR, .ARR_PERF_TILES, .ARR_PERF_BUSY, .ARR_PERF_STALL_FEED, .ARR_PERF_STALL_OWN, .ARR_PERF_STALL_WAIT, .ARR_PERF_STALL_TQ, .ARR_PERF_STALL_TRAILER, .SPM_CFG, .SPM_STATUS],
  [.SPM_ERR_INFO, .SPM_PERF_TILES, .SPM_PERF_ENTRIES, .SPM_PERF_PAIRS, .SPM_PERF_SKIP_ACT, .SPM_PERF_SPLIT, .SPM_PERF_ABSORB, .SPM_PERF_MERGE, .SPM_PERF_MISPREDICT, .SPM_PERF_SPECIAL, .SPM_PERF_STALL_LANEQ, .SPM_PERF_STALL_FEED, .SPM_PERF_STALL_LOAD, .SPM_PERF_STALL_CONFLICT, .VEC_CFG, .VEC_CTRL, .VEC_STATUS, .VEC_LEN, .VEC_ERR_INFO, .VEC_TAB_SLOT],
  [.TQ_STATUS, .FBI_CFG, .FBI_STATUS, .VEC_PERF_CMDS, .VEC_PERF_BUSY, .VEC_PERF_STALL_OWN, .VEC_PERF_STALL_BANK, .VEC_PERF_STALL_ACC, .VEC_PERF_WAIT_TQ, .VEC_PERF_WAIT_WIN, .TQ_PERF_STALL_REGION, .TQ_PERF_STALL_CREDIT, .FBI_PERF_FWD, .FBI_PERF_BWD, .FBI_PERF_FROZEN, .DIE_INFO, .DIE_D2D_STATUS, .DIE_SPARE_MAP, .DIE_CLK_STATUS, .DIE_PWR_STATUS]]

/-- Where the instances of a register lie: `base + i * s1 + j * s2` for `i < n1`, `j < n2`. -/
structure Shape where
  base : Nat
  s1 : Nat
  n1 : Nat
  s2 : Nat
  n2 : Nat
  deriving DecidableEq, Repr

/-- The place of every register in the local address map. An index a register does not have counts to 1. -/
def RegKind.shape : RegKind → Shape
  | .ID_PART => ⟨0xF0000000000, 0x8, 1, 0x8, 1⟩
  | .ID_PARAMS => ⟨0xF0000000008, 0x8, 1, 0x8, 1⟩
  | .ID_SERIAL => ⟨0xF0000000010, 0x8, 1, 0x8, 1⟩
  | .ID_STEPPING => ⟨0xF0000000018, 0x8, 1, 0x8, 1⟩
  | .CLK_STATUS => ⟨0xF0000100000, 0x8, 1, 0x8, 1⟩
  | .CLK_CTRL => ⟨0xF0000100008, 0x8, 1, 0x8, 1⟩
  | .CLK_RO_CAL => ⟨0xF0000100010, 0x8, 1, 0x8, 1⟩
  | .CLK_MON => ⟨0xF0000100018, 0x8, 1, 0x8, 1⟩
  | .CLK_HOLD => ⟨0xF0000100020, 0x8, 1, 0x8, 1⟩
  | .RST_STATUS => ⟨0xF0000100028, 0x8, 1, 0x8, 1⟩
  | .CLK_NMI_VEC => ⟨0xF0000100030, 0x8, 1, 0x8, 1⟩
  | .CLK_PERF_FALLBACKS => ⟨0xF0000100100, 0x8, 1, 0x8, 1⟩
  | .CLK_PERF_FALLBACK_US => ⟨0xF0000100108, 0x8, 1, 0x8, 1⟩
  | .CLK_PERF_BAD_WINDOWS => ⟨0xF0000100110, 0x8, 1, 0x8, 1⟩
  | .CLK_PERF_ALIGN_ERR => ⟨0xF0000100118, 0x8, 1, 0x8, 1⟩
  | .CLK_PERF_JUDGE_FAIL => ⟨0xF0000100120, 0x8, 1, 0x8, 1⟩
  | .HP_STATUS => ⟨0xF0000200000, 0x8, 1, 0x8, 1⟩
  | .HP_NET_CFG => ⟨0xF0000200008, 0x8, 1, 0x8, 1⟩
  | .HP_UDP_CFG => ⟨0xF0000200010, 0x8, 1, 0x8, 1⟩
  | .HP_RETX_CFG => ⟨0xF0000200018, 0x8, 1, 0x8, 1⟩
  | .HP_MBX_CFG => ⟨0xF0000200020, 0x8, 1, 0x8, 1⟩
  | .HP_EVT_CFG => ⟨0xF0000200028, 0x8, 1, 0x8, 1⟩
  | .HP_EVT_STATUS => ⟨0xF0000200030, 0x8, 1, 0x8, 1⟩
  | .HP_GW_CFG => ⟨0xF0000200038, 0x8, 1, 0x8, 1⟩
  | .HP_SELF => ⟨0xF0000200100, 0x8, 4, 0x8, 1⟩
  | .HP_PEER => ⟨0xF0000200120, 0x20, 4, 0x8, 4⟩
  | .HP_MBX_PTR => ⟨0xF0000200200, 0x8, 32, 0x8, 1⟩
  | .HP_GW_PEER => ⟨0xF0000200400, 0x20, 64, 0x8, 4⟩
  | .HP_PERF_RX_FRAMES => ⟨0xF0000201000, 0x8, 1, 0x8, 1⟩
  | .HP_PERF_TX_FRAMES => ⟨0xF0000201008, 0x8, 1, 0x8, 1⟩
  | .HP_PERF_DISCARD => ⟨0xF0000201010, 0x8, 1, 0x8, 1⟩
  | .HP_PERF_RESEND => ⟨0xF0000201018, 0x8, 1, 0x8, 1⟩
  | .HP_PERF_NAK => ⟨0xF0000201020, 0x8, 1, 0x8, 1⟩
  | .HP_PERF_MBX_FULL => ⟨0xF0000201028, 0x8, 1, 0x8, 1⟩
  | .HP_PERF_GW_RX => ⟨0xF0000201030, 0x8, 1, 0x8, 1⟩
  | .FAB_LINK_STATUS => ⟨0xF0000300000, 0x10000, 16, 0x8, 1⟩
  | .FAB_LINK_CFG => ⟨0xF0000300008, 0x10000, 16, 0x8, 1⟩
  | .FAB_LINK_PEER => ⟨0xF0000300010, 0x10000, 16, 0x8, 1⟩
  | .FAB_LINK_PERF_TX_BYTES => ⟨0xF0000300100, 0x10000, 16, 0x8, 1⟩
  | .FAB_LINK_PERF_RX_BYTES => ⟨0xF0000300108, 0x10000, 16, 0x8, 1⟩
  | .FAB_LINK_PERF_FEC => ⟨0xF0000300110, 0x10000, 16, 0x8, 1⟩
  | .FAB_LINK_PERF_RETRY => ⟨0xF0000300118, 0x10000, 16, 0x8, 1⟩
  | .FAB_LINK_PERF_TRANSIT => ⟨0xF0000300120, 0x10000, 16, 0x8, 1⟩
  | .FAB_LINK_PERF_DOWN => ⟨0xF0000300128, 0x10000, 16, 0x8, 1⟩
  | .FAB_PHYS_ID => ⟨0xF0000308000, 0x8, 1, 0x8, 1⟩
  | .FAB_ID => ⟨0xF0000308008, 0x8, 1, 0x8, 1⟩
  | .FAB_CFG => ⟨0xF0000308010, 0x8, 1, 0x8, 1⟩
  | .FAB_EPOCH => ⟨0xF0000308018, 0x8, 1, 0x8, 1⟩
  | .FENCE_TIMEOUT => ⟨0xF0000308020, 0x8, 1, 0x8, 1⟩
  | .FAB_RETX_CFG => ⟨0xF0000308028, 0x8, 1, 0x8, 1⟩
  | .FAB_ERR_INFO => ⟨0xF0000308030, 0x8, 1, 0x8, 1⟩
  | .FAB_TRACK_STATUS => ⟨0xF0000308038, 0x8, 1, 0x8, 1⟩
  | .FAB_HOT_CFG => ⟨0xF0000308040, 0x8, 1, 0x8, 1⟩
  | .FAB_EXC_CNT => ⟨0xF0000308048, 0x8, 1, 0x8, 1⟩
  | .FAB_HOT_LINE => ⟨0xF0000308100, 0x8, 16, 0x8, 1⟩
  | .FAB_PERF_MOVES => ⟨0xF0000308200, 0x8, 1, 0x8, 1⟩
  | .FAB_PERF_FORCED => ⟨0xF0000308208, 0x8, 1, 0x8, 1⟩
  | .FAB_PERF_RETX => ⟨0xF0000308210, 0x8, 1, 0x8, 1⟩
  | .FAB_PERF_DUP => ⟨0xF0000308218, 0x8, 1, 0x8, 1⟩
  | .FAB_PERF_REORDER_HELD => ⟨0xF0000308220, 0x8, 1, 0x8, 1⟩
  | .FAB_PERF_REORDER_DROP => ⟨0xF0000308228, 0x8, 1, 0x8, 1⟩
  | .FAB_PERF_RETX_FULL => ⟨0xF0000308230, 0x8, 1, 0x8, 1⟩
  | .FAB_PERF_MERGES => ⟨0xF0000308238, 0x8, 1, 0x8, 1⟩
  | .FAB_PERF_TABLE_FULL => ⟨0xF0000308240, 0x8, 1, 0x8, 1⟩
  | .FAB_PERF_NDC => ⟨0xF0000308248, 0x8, 1, 0x8, 1⟩
  | .FAB_PERF_SLICE_REFUSED => ⟨0xF0000308250, 0x8, 1, 0x8, 1⟩
  | .FAB_PERF_TRANSIT_REFUSED => ⟨0xF0000308258, 0x8, 1, 0x8, 1⟩
  | .FAB_PERF_FENCES => ⟨0xF0000308260, 0x8, 1, 0x8, 1⟩
  | .FAB_PERF_BAD_PKT => ⟨0xF0000308268, 0x8, 1, 0x8, 1⟩
  | .FAB_PERF_GW_BULK => ⟨0xF0000308270, 0x8, 1, 0x8, 1⟩
  | .FAB_SLICE_MAP => ⟨0xF0000318000, 0x8, 1024, 0x8, 1⟩
  | .FAB_REMAP => ⟨0xF0000328000, 0x8, 64, 0x8, 1⟩
  | .FAB_NM_MASK => ⟨0xF0000328400, 0x8, 1, 0x8, 1⟩
  | .FAB_GW => ⟨0xF0000338000, 0x8, 64, 0x8, 1⟩
  | .SALT_CTRL => ⟨0xF0000400000, 0x8000, 32, 0x8, 1⟩
  | .SALT_STATUS => ⟨0xF0000400008, 0x8000, 32, 0x8, 1⟩
  | .RAKE_HALF_ARM => ⟨0xF0000500008, 0x8, 1, 0x8, 1⟩
  | .QM_RELEASE => ⟨0xF0000500010, 0x8, 1, 0x8, 1⟩
  | .RES_STEP => ⟨0xF0000500018, 0x8, 1, 0x8, 1⟩
  | .SLU_SUBMIT => ⟨0xF0000500020, 0x8, 1, 0x8, 1⟩
  | .SLU_CANCEL => ⟨0xF0000500028, 0x8, 1, 0x8, 1⟩
  | .SLU_ARM => ⟨0xF0000500030, 0x8, 1, 0x8, 1⟩
  | .RX_ERR_INFO => ⟨0xF0000500038, 0x8, 1, 0x8, 1⟩
  | .RAKE_STREAM_CFG => ⟨0xF0000501000, 0x20, 64, 0x8, 1⟩
  | .RAKE_STREAM_SUBMIT => ⟨0xF0000501008, 0x20, 64, 0x8, 1⟩
  | .RAKE_STREAM_STATUS => ⟨0xF0000501010, 0x20, 64, 0x8, 1⟩
  | .NTC_RING_CFG => ⟨0xF0000502000, 0x10, 256, 0x8, 1⟩
  | .NTC_RING_PTR => ⟨0xF0000502008, 0x10, 256, 0x8, 1⟩
  | .RX_PERF_SUBMITS => ⟨0xF0000504000, 0x8, 1, 0x8, 1⟩
  | .RX_PERF_DISPATCH => ⟨0xF0000504008, 0x8, 1, 0x8, 1⟩
  | .RX_PERF_DROP => ⟨0xF0000504010, 0x8, 1, 0x8, 1⟩
  | .RX_PERF_ABSENT => ⟨0xF0000504018, 0x8, 1, 0x8, 1⟩
  | .RX_PERF_STALL_DEST => ⟨0xF0000504020, 0x8, 1, 0x8, 1⟩
  | .RX_PERF_STALL_FULL => ⟨0xF0000504028, 0x8, 1, 0x8, 1⟩
  | .RX_PERF_GROUPS => ⟨0xF0000504030, 0x8, 1, 0x8, 1⟩
  | .RX_PERF_EXC_OVF => ⟨0xF0000504038, 0x8, 1, 0x8, 1⟩
  | .RX_PERF_EXC_UNF => ⟨0xF0000504040, 0x8, 1, 0x8, 1⟩
  | .RX_PERF_NDC => ⟨0xF0000504048, 0x8, 1, 0x8, 1⟩
  | .SLU_PERF_ROWS => ⟨0xF0000504050, 0x8, 1, 0x8, 1⟩
  | .SLU_PERF_CANCEL_DROP => ⟨0xF0000504058, 0x8, 1, 0x8, 1⟩
  | .SLU_PERF_LATE_CANCEL => ⟨0xF0000504060, 0x8, 1, 0x8, 1⟩
  | .RES_PERF_FETCH_DEMAND => ⟨0xF0000504068, 0x8, 1, 0x8, 1⟩
  | .RES_PERF_FETCH_PREFETCH => ⟨0xF0000504070, 0x8, 1, 0x8, 1⟩
  | .RES_PERF_EVICT => ⟨0xF0000504078, 0x8, 1, 0x8, 1⟩
  | .RES_PERF_WAIT => ⟨0xF0000504080, 0x8, 1, 0x8, 1⟩
  | .SLU_EPOCH_MAP => ⟨0xF0000510000, 0x8, 1024, 0x8, 1⟩
  | .RX_EXPERT_TABLE => ⟨0xF0000540000, 0x20, 16384, 0x8, 4⟩
  | .RX_LAYER_TABLE => ⟨0xF00005C0000, 0x40, 256, 0x8, 8⟩
  | .RES_HIST => ⟨0xF00005D0000, 0x8, 8192, 0x8, 1⟩
  | .RES_STATE => ⟨0xF00005E0000, 0x8, 4096, 0x8, 1⟩
  | .TMP_CFG => ⟨0xF0000600000, 0x8, 1, 0x8, 1⟩
  | .TMP_SEED => ⟨0xF0000600008, 0x8, 1, 0x8, 1⟩
  | .TEMPER_NORM_CEIL => ⟨0xF0000600010, 0x8, 1, 0x8, 1⟩
  | .TMP_SHARD_BASE => ⟨0xF0000600018, 0x8, 1, 0x8, 1⟩
  | .TMP_LAYER_BASE => ⟨0xF0000600020, 0x8, 1, 0x8, 1⟩
  | .TMP_HSET_BASE => ⟨0xF0000600028, 0x8, 1, 0x8, 1⟩
  | .TMP_TELE_CFG => ⟨0xF0000600030, 0x8, 1, 0x8, 1⟩
  | .TMP_TELE_PTR => ⟨0xF0000600038, 0x8, 1, 0x8, 1⟩
  | .TMP_ASSAY_CFG => ⟨0xF0000600040, 0x8, 1, 0x8, 1⟩
  | .TMP_SEG_ARRIVE => ⟨0xF0000600048, 0x8, 1, 0x8, 1⟩
  | .TMP_DERIVE => ⟨0xF0000600050, 0x8, 1, 0x8, 1⟩
  | .TMP_ERR_INFO => ⟨0xF0000600058, 0x8, 1, 0x8, 1⟩
  | .TMP_UNIT_STATUS => ⟨0xF0000600100, 0x20, 4, 0x8, 1⟩
  | .TMP_STATUS => ⟨0xF0000600108, 0x20, 4, 0x8, 1⟩
  | .TMP_EXC_CNT => ⟨0xF0000600110, 0x20, 4, 0x8, 1⟩
  | .TMP_PERF_UPDATES => ⟨0xF0000601000, 0x8, 1, 0x8, 1⟩
  | .TMP_PERF_WITHHELD => ⟨0xF0000601008, 0x8, 1, 0x8, 1⟩
  | .TMP_PERF_ZERO_VISIT => ⟨0xF0000601010, 0x8, 1, 0x8, 1⟩
  | .TMP_PERF_SEGMENTS => ⟨0xF0000601018, 0x8, 1, 0x8, 1⟩
  | .TMP_PERF_BAD_SEGMENT => ⟨0xF0000601020, 0x8, 1, 0x8, 1⟩
  | .TMP_PERF_MISSING => ⟨0xF0000601028, 0x8, 1, 0x8, 1⟩
  | .TMP_PERF_FETCH => ⟨0xF0000601030, 0x8, 1, 0x8, 1⟩
  | .TMP_PERF_FETCH_RETRY => ⟨0xF0000601038, 0x8, 1, 0x8, 1⟩
  | .TMP_PERF_ASSAY => ⟨0xF0000601040, 0x8, 1, 0x8, 1⟩
  | .TMP_PERF_ASSAY_MISMATCH => ⟨0xF0000601048, 0x8, 1, 0x8, 1⟩
  | .TMP_PERF_ASSAY_STALE => ⟨0xF0000601050, 0x8, 1, 0x8, 1⟩
  | .TMP_PERF_ASSAY_ABANDON => ⟨0xF0000601058, 0x8, 1, 0x8, 1⟩
  | .TMP_PERF_TELE_LOST => ⟨0xF0000601060, 0x8, 1, 0x8, 1⟩
  | .TMP_PERF_RATIO_ALERT => ⟨0xF0000601068, 0x8, 1, 0x8, 1⟩
  | .TMP_PERF_PARK_CYCLES => ⟨0xF0000601070, 0x8, 1, 0x8, 1⟩
  | .TMP_SHARD_STATE => ⟨0xF0000680000, 0x8, 32768, 0x8, 1⟩
  | .HBM_STK_INFO => ⟨0xF0000700000, 0x10000, 12, 0x8, 1⟩
  | .HBM_STK_TEMP => ⟨0xF0000700008, 0x10000, 12, 0x8, 1⟩
  | .HBM_ECC_CNT => ⟨0xF0000700010, 0x10000, 12, 0x8, 1⟩
  | .HBM_ECC_LOG => ⟨0xF0000700018, 0x10000, 12, 0x8, 1⟩
  | .HBM_SCRUB_STATUS => ⟨0xF0000700020, 0x10000, 12, 0x8, 1⟩
  | .HBM_REPAIR_STATUS => ⟨0xF0000700028, 0x10000, 12, 0x8, 1⟩
  | .HBM_TEST_CTRL => ⟨0xF0000700100, 0x10000, 12, 0x8, 1⟩
  | .HBM_TEST_ADDR => ⟨0xF0000700108, 0x10000, 12, 0x8, 1⟩
  | .HBM_TEST_DATA => ⟨0xF0000700110, 0x10000, 12, 0x8, 1⟩
  | .HBM_TEST_STATUS => ⟨0xF0000700118, 0x10000, 12, 0x8, 1⟩
  | .HBM_PERF_RD_BYTES => ⟨0xF0000700200, 0x10000, 12, 0x8, 1⟩
  | .HBM_PERF_WR_BYTES => ⟨0xF0000700208, 0x10000, 12, 0x8, 1⟩
  | .HBM_PERF_CROSS_DIE => ⟨0xF0000700210, 0x10000, 12, 0x8, 1⟩
  | .HBM_PERF_RMW => ⟨0xF0000700218, 0x10000, 12, 0x8, 1⟩
  | .HBM_PERF_REFRESH => ⟨0xF0000700220, 0x10000, 12, 0x8, 1⟩
  | .HBM_PERF_SCRUB_BYTES => ⟨0xF0000700228, 0x10000, 12, 0x8, 1⟩
  | .BIT_STK_INFO => ⟨0xF00007C0000, 0x1000, 4, 0x8, 1⟩
  | .BIT_STK_TEMP => ⟨0xF00007C0008, 0x1000, 4, 0x8, 1⟩
  | .BIT_ECC_CNT => ⟨0xF00007C0010, 0x1000, 4, 0x8, 1⟩
  | .BIT_ECC_LOG => ⟨0xF00007C0018, 0x1000, 4, 0x8, 1⟩
  | .BIT_SCRUB_STATUS => ⟨0xF00007C0020, 0x1000, 4, 0x8, 1⟩
  | .BIT_PERF_RD_BYTES => ⟨0xF00007C0200, 0x1000, 4, 0x8, 1⟩
  | .BIT_PERF_WR_BYTES => ⟨0xF00007C0208, 0x1000, 4, 0x8, 1⟩
  | .BIT_PERF_CROSS_DIE => ⟨0xF00007C0210, 0x1000, 4, 0x8, 1⟩
  | .BIT_PERF_RMW => ⟨0xF00007C0218, 0x1000, 4, 0x8, 1⟩
  | .BIT_PERF_REFRESH => ⟨0xF00007C0220, 0x1000, 4, 0x8, 1⟩
  | .BIT_PERF_SCRUB_BYTES => ⟨0xF00007C0228, 0x1000, 4, 0x8, 1⟩
  | .MEM_IL_REGION => ⟨0xF00007D0000, 0x10, 8, 0x8, 1⟩
  | .MEM_CRC_BASE => ⟨0xF00007D0100, 0x20, 16, 0x8, 1⟩
  | .MEM_CRC_SIZE => ⟨0xF00007D0108, 0x20, 16, 0x8, 1⟩
  | .MEM_CRC_TABLE => ⟨0xF00007D0110, 0x20, 16, 0x8, 1⟩
  | .MEM_SCRUB_CFG => ⟨0xF00007D0300, 0x8, 1, 0x8, 1⟩
  | .MEM_CRC_ERR_INFO => ⟨0xF00007D0308, 0x8, 1, 0x8, 1⟩
  | .MEM_PERF_CHECKED => ⟨0xF00007D0400, 0x8, 1, 0x8, 1⟩
  | .MEM_PERF_CRC_RETRY => ⟨0xF00007D0408, 0x8, 1, 0x8, 1⟩
  | .MEM_PERF_CRC_FAIL => ⟨0xF00007D0410, 0x8, 1, 0x8, 1⟩
  | .MEM_PERF_UNCHECKED => ⟨0xF00007D0418, 0x8, 1, 0x8, 1⟩
  | .MEM_PERF_SCRUB_LATE => ⟨0xF00007D0420, 0x8, 1, 0x8, 1⟩
  | .STG_ROOT => ⟨0xF00007E0000, 0x8, 1, 0x8, 1⟩
  | .STG_STEP_ARM => ⟨0xF00007E0008, 0x8, 1, 0x8, 1⟩
  | .STG_ABORT => ⟨0xF00007E0010, 0x8, 1, 0x8, 1⟩
  | .STG_STEP_STATUS => ⟨0xF00007E0018, 0x8, 1, 0x8, 1⟩
  | .STG_CLEAR => ⟨0xF00007E0020, 0x8, 1, 0x8, 1⟩
  | .STK_REQ => ⟨0xF00007E0028, 0x8, 1, 0x8, 1⟩
  | .STK_FREE => ⟨0xF00007E0030, 0x8, 1, 0x8, 1⟩
  | .STG_ARRIVE => ⟨0xF00007E0038, 0x8, 1, 0x8, 1⟩
  | .STG_RELEASE => ⟨0xF00007E0040, 0x8, 1, 0x8, 1⟩
  | .STG_ERR_INFO => ⟨0xF00007E0048, 0x8, 1, 0x8, 1⟩
  | .STG_PERF_LATE_ABORT => ⟨0xF00007E0050, 0x8, 1, 0x8, 1⟩
  | .STG_ENTRY => ⟨0xF00007E1000, 0x200, 64, 0x8, 8⟩
  | .STG_QUEUE => ⟨0xF00007E1040, 0x200, 64, 0x8, 16⟩
  | .STK_USED => ⟨0xF00007E1100, 0x200, 64, 0x8, 1⟩
  | .STK_BRES => ⟨0xF00007E1108, 0x200, 64, 0x8, 1⟩
  | .STK_HWM => ⟨0xF00007E1110, 0x200, 64, 0x8, 1⟩
  | .STG_STATE => ⟨0xF00007E1118, 0x200, 64, 0x8, 1⟩
  | .STG_PERF_ADMIT => ⟨0xF00007E1180, 0x200, 64, 0x8, 1⟩
  | .STG_PERF_SPANS => ⟨0xF00007E1188, 0x200, 64, 0x8, 1⟩
  | .STG_PERF_SEND_FWD => ⟨0xF00007E1190, 0x200, 64, 0x8, 1⟩
  | .STG_PERF_SEND_BWD => ⟨0xF00007E1198, 0x200, 64, 0x8, 1⟩
  | .STG_PERF_STARVE_FWD => ⟨0xF00007E11A0, 0x200, 64, 0x8, 1⟩
  | .STG_PERF_STARVE_BWD => ⟨0xF00007E11A8, 0x200, 64, 0x8, 1⟩
  | .STG_PERF_HOLD_ADMIT => ⟨0xF00007E11B0, 0x200, 64, 0x8, 1⟩
  | .STG_PERF_HOLD_STK => ⟨0xF00007E11B8, 0x200, 64, 0x8, 1⟩
  | .STK_PERF_SPILL => ⟨0xF00007E11C0, 0x200, 64, 0x8, 1⟩
  | .STK_PERF_DISCARD => ⟨0xF00007E11C8, 0x200, 64, 0x8, 1⟩
  | .STK_PERF_SKIP => ⟨0xF00007E11D0, 0x200, 64, 0x8, 1⟩
  | .HMK_CMD => ⟨0xF0000800000, 0x8, 1, 0x8, 1⟩
  | .HMK_ARG0 => ⟨0xF0000800008, 0x8, 1, 0x8, 1⟩
  | .HMK_ARG1 => ⟨0xF0000800010, 0x8, 1, 0x8, 1⟩
  | .HMK_STATUS => ⟨0xF0000800018, 0x8, 1, 0x8, 1⟩
  | .HMK_ERR_INFO => ⟨0xF0000800020, 0x8, 1, 0x8, 1⟩
  | .CST_STATE => ⟨0xF0000800028, 0x8, 1, 0x8, 1⟩
  | .CST_SLOT => ⟨0xF0000800030, 0x8, 2, 0x8, 1⟩
  | .FW_SLOT => ⟨0xF0000800040, 0x8, 2, 0x8, 1⟩
  | .HMK_SVN => ⟨0xF0000800050, 0x8, 1, 0x8, 1⟩
  | .HMK_NAND => ⟨0xF0000800058, 0x8, 1, 0x8, 1⟩
  | .TS_STATUS => ⟨0xF0000800100, 0x8, 1, 0x8, 1⟩
  | .TS_KEY_DIGEST => ⟨0xF0000800120, 0x20, 4, 0x8, 4⟩
  | .HMK_LIFE_POWER_S => ⟨0xF0000800200, 0x8, 1, 0x8, 1⟩
  | .HMK_LIFE_RESETS => ⟨0xF0000800208, 0x8, 1, 0x8, 1⟩
  | .HMK_LIFE_POURS => ⟨0xF0000800210, 0x8, 1, 0x8, 1⟩
  | .HMK_LIFE_START_POURS => ⟨0xF0000800218, 0x8, 1, 0x8, 1⟩
  | .HMK_LIFE_ABANDONED => ⟨0xF0000800220, 0x8, 1, 0x8, 1⟩
  | .HMK_LIFE_THERMAL_HALTS => ⟨0xF0000800228, 0x8, 1, 0x8, 1⟩
  | .HMK_LIFE_HOT_S => ⟨0xF0000800230, 0x8, 1, 0x8, 1⟩
  | .HMK_LIFE_NAND_ERASES => ⟨0xF0000800238, 0x8, 1, 0x8, 1⟩
  | .HMK_LIFE_COPY_REPAIRS => ⟨0xF0000800240, 0x8, 1, 0x8, 1⟩
  | .HMK_LIFE_ASSAY_MISMATCH => ⟨0xF0000800248, 0x8, 1, 0x8, 1⟩
  | .NDC_COUNT => ⟨0xF0000900000, 0x8, 2, 0x8, 1⟩
  | .NDC_ADD => ⟨0xF0000900010, 0x8, 1, 0x8, 1⟩
  | .OBS_NDC_CFG => ⟨0xF0000900018, 0x8, 1, 0x8, 1⟩
  | .OBS_QUENCH_CTRL => ⟨0xF0000900100, 0x8, 1, 0x8, 1⟩
  | .OBS_QUENCH_CFG => ⟨0xF0000900108, 0x8, 1, 0x8, 1⟩
  | .OBS_QUENCH_STATUS => ⟨0xF0000900110, 0x8, 1, 0x8, 1⟩
  | .OBS_QUENCH_TIME => ⟨0xF0000900118, 0x8, 1, 0x8, 1⟩
  | .OBS_QUENCH_FRAME => ⟨0xF0000900120, 0x8, 1, 0x8, 1⟩
  | .OBS_MATCH => ⟨0xF0000900200, 0x8, 4, 0x8, 1⟩
  | .OBS_SUM_CFG => ⟨0xF0000900300, 0x8, 1, 0x8, 1⟩
  | .OBS_SUM_STATUS => ⟨0xF0000900308, 0x8, 1, 0x8, 1⟩
  | .OBS_BG_CFG => ⟨0xF0000900400, 0x8, 1, 0x8, 1⟩
  | .OBS_PERF_QUENCH_DROP => ⟨0xF0000901000, 0x8, 1, 0x8, 1⟩
  | .OBS_PERF_NDC_SW => ⟨0xF0000901008, 0x8, 1, 0x8, 1⟩
  | .OBS_PERF_SCP_SCRUB => ⟨0xF0000901010, 0x8, 1, 0x8, 1⟩
  | .OBS_PERF_SCP_CORRECTED => ⟨0xF0000901018, 0x8, 1, 0x8, 1⟩
  | .OBS_PERF_SCP_LATE => ⟨0xF0000901020, 0x8, 1, 0x8, 1⟩
  | .OBS_PERF_CAL_LATE => ⟨0xF0000901028, 0x8, 1, 0x8, 1⟩
  | .OBS_PERF_THROTTLE_DOWN => ⟨0xF0000901030, 0x8, 1, 0x8, 1⟩
  | .OBS_PERF_THROTTLE_UP => ⟨0xF0000901038, 0x8, 1, 0x8, 1⟩
  | .UST_ARRAY => ⟨0xF0000A00000, 0x8, 2240, 0x8, 1⟩
  | .UST_LINK => ⟨0xF0000A04800, 0x8, 16, 0x8, 1⟩
  | .UST_HBM => ⟨0xF0000A04880, 0x8, 12, 0x8, 1⟩
  | .UST_BITTERN => ⟨0xF0000A048E0, 0x8, 4, 0x8, 1⟩
  | .UST_TEMPER => ⟨0xF0000A04900, 0x8, 4, 0x8, 1⟩
  | .UST_STATUS => ⟨0xF0000A08000, 0x8, 1, 0x8, 1⟩
  | .UST_PERF_DISAGREE => ⟨0xF0000A08008, 0x8, 1, 0x8, 1⟩
  | .ARR_ID => ⟨0xF4000000000, 0x10000, 2240, 0x8, 1⟩
  | .ARR_SEQ_CTRL => ⟨0xF4000000008, 0x10000, 2240, 0x8, 1⟩
  | .ARR_SEQ_CFG => ⟨0xF4000000010, 0x10000, 2240, 0x8, 1⟩
  | .ARR_STATUS => ⟨0xF4000000100, 0x10000, 2240, 0x8, 1⟩
  | .ARR_EXC_CNT => ⟨0xF4000000108, 0x10000, 2240, 0x8, 1⟩
  | .ARR_ERR_INFO => ⟨0xF4000000118, 0x10000, 2240, 0x8, 1⟩
  | .SCP_BANK_OWN => ⟨0xF4000000200, 0x10000, 2240, 0x8, 10⟩
  | .SCP_BANK_CFG => ⟨0xF4000000280, 0x10000, 2240, 0x8, 10⟩
  | .ARR_WIN_CFG => ⟨0xF4000000300, 0x10000, 2240, 0x20, 8⟩
  | .ARR_WIN_HEAD => ⟨0xF4000000308, 0x10000, 2240, 0x20, 8⟩
  | .ARR_WIN_TAIL => ⟨0xF4000000310, 0x10000, 2240, 0x20, 8⟩
  | .ARR_WIN_OCC => ⟨0xF4000000318, 0x10000, 2240, 0x20, 8⟩
  | .MARCH_CTRL => ⟨0xF4000000400, 0x10000, 2240, 0x8, 1⟩
  | .MARCH_STATUS => ⟨0xF4000000408, 0x10000, 2240, 0x8, 1⟩
  | .SCP_REPAIR => ⟨0xF4000000410, 0x10000, 2240, 0x8, 10⟩
  | .ARR_PERF_TILES => ⟨0xF4000000500, 0x10000, 2240, 0x8, 1⟩
  | .ARR_PERF_BUSY => ⟨0xF4000000508, 0x10000, 2240, 0x8, 1⟩
  | .ARR_PERF_STALL_FEED => ⟨0xF4000000510, 0x10000, 2240, 0x8, 1⟩
  | .ARR_PERF_STALL_OWN => ⟨0xF4000000518, 0x10000, 2240, 0x8, 1⟩
  | .ARR_PERF_STALL_WAIT => ⟨0xF4000000520, 0x10000, 2240, 0x8, 1⟩
  | .ARR_PERF_STALL_TQ => ⟨0xF4000000528, 0x10000, 2240, 0x8, 1⟩
  | .ARR_PERF_STALL_TRAILER => ⟨0xF4000000530, 0x10000, 2240, 0x8, 1⟩
  | .SPM_CFG => ⟨0xF4000000800, 0x10000, 2240, 0x8, 1⟩
  | .SPM_STATUS => ⟨0xF4000000808, 0x10000, 2240, 0x8, 1⟩
  | .SPM_ERR_INFO => ⟨0xF4000000810, 0x10000, 2240, 0x8, 1⟩
  | .SPM_PERF_TILES => ⟨0xF4000000900, 0x10000, 2240, 0x8, 1⟩
  | .SPM_PERF_ENTRIES => ⟨0xF4000000908, 0x10000, 2240, 0x8, 1⟩
  | .SPM_PERF_PAIRS => ⟨0xF4000000910, 0x10000, 2240, 0x8, 1⟩
  | .SPM_PERF_SKIP_ACT => ⟨0xF4000000918, 0x10000, 2240, 0x8, 1⟩
  | .SPM_PERF_SPLIT => ⟨0xF4000000920, 0x10000, 2240, 0x8, 1⟩
  | .SPM_PERF_ABSORB => ⟨0xF4000000928, 0x10000, 2240, 0x8, 1⟩
  | .SPM_PERF_MERGE => ⟨0xF4000000930, 0x10000, 2240, 0x8, 1⟩
  | .SPM_PERF_MISPREDICT => ⟨0xF4000000938, 0x10000, 2240, 0x8, 1⟩
  | .SPM_PERF_SPECIAL => ⟨0xF4000000940, 0x10000, 2240, 0x8, 1⟩
  | .SPM_PERF_STALL_LANEQ => ⟨0xF4000000948, 0x10000, 2240, 0x8, 1⟩
  | .SPM_PERF_STALL_FEED => ⟨0xF4000000950, 0x10000, 2240, 0x8, 1⟩
  | .SPM_PERF_STALL_LOAD => ⟨0xF4000000958, 0x10000, 2240, 0x8, 1⟩
  | .SPM_PERF_STALL_CONFLICT => ⟨0xF4000000960, 0x10000, 2240, 0x8, 1⟩
  | .VEC_CFG => ⟨0xF4000000C00, 0x10000, 2240, 0x8, 1⟩
  | .VEC_CTRL => ⟨0xF4000000C08, 0x10000, 2240, 0x8, 1⟩
  | .VEC_STATUS => ⟨0xF4000000C10, 0x10000, 2240, 0x8, 1⟩
  | .VEC_LEN => ⟨0xF4000000C18, 0x10000, 2240, 0x8, 1⟩
  | .VEC_ERR_INFO => ⟨0xF4000000C20, 0x10000, 2240, 0x8, 1⟩
  | .VEC_TAB_SLOT => ⟨0xF4000000C40, 0x10000, 2240, 0x8, 2⟩
  | .TQ_STATUS => ⟨0xF4000000D00, 0x10000, 2240, 0x8, 1⟩
  | .FBI_CFG => ⟨0xF4000000E00, 0x10000, 2240, 0x8, 1⟩
  | .FBI_STATUS => ⟨0xF4000000E08, 0x10000, 2240, 0x8, 1⟩
  | .VEC_PERF_CMDS => ⟨0xF4000001000, 0x10000, 2240, 0x8, 1⟩
  | .VEC_PERF_BUSY => ⟨0xF4000001008, 0x10000, 2240, 0x8, 1⟩
  | .VEC_PERF_STALL_OWN => ⟨0xF4000001010, 0x10000, 2240, 0x8, 1⟩
  | .VEC_PERF_STALL_BANK => ⟨0xF4000001018, 0x10000, 2240, 0x8, 1⟩
  | .VEC_PERF_STALL_ACC => ⟨0xF4000001020, 0x10000, 2240, 0x8, 1⟩
  | .VEC_PERF_WAIT_TQ => ⟨0xF4000001028, 0x10000, 2240, 0x8, 1⟩
  | .VEC_PERF_WAIT_WIN => ⟨0xF4000001030, 0x10000, 2240, 0x8, 1⟩
  | .TQ_PERF_STALL_REGION => ⟨0xF4000001038, 0x10000, 2240, 0x8, 1⟩
  | .TQ_PERF_STALL_CREDIT => ⟨0xF4000001040, 0x10000, 2240, 0x8, 1⟩
  | .FBI_PERF_FWD => ⟨0xF4000001048, 0x10000, 2240, 0x8, 1⟩
  | .FBI_PERF_BWD => ⟨0xF4000001050, 0x10000, 2240, 0x8, 1⟩
  | .FBI_PERF_FROZEN => ⟨0xF4000001058, 0x10000, 2240, 0x8, 1⟩
  | .DIE_INFO => ⟨0xF8000000000, 0x1000000, 2, 0x8, 1⟩
  | .DIE_D2D_STATUS => ⟨0xF8000000008, 0x1000000, 2, 0x8, 1⟩
  | .DIE_SPARE_MAP => ⟨0xF8000010000, 0x1000000, 2, 0x8, 1120⟩
  | .DIE_CLK_STATUS => ⟨0xF8000020000, 0x1000000, 2, 0x8, 1⟩
  | .DIE_PWR_STATUS => ⟨0xF8000030000, 0x1000000, 2, 0x8, 1⟩

/-- The access codes of R12. -/
inductive Acc where
  | ro | rw | w1c | w1s | wo
  deriving DecidableEq, Repr

/-- A field of a register: bits `hi` down to `lo`, its access code, and whether it is a count field of R465. -/
structure Fld where
  kind : RegKind
  hi : Nat
  lo : Nat
  acc : Acc
  count : Bool := false
  deriving DecidableEq, Repr

def ID_PART.part_code : Fld := ⟨.ID_PART, 63, 48, .ro, false⟩
def ID_PART.family_member : Fld := ⟨.ID_PART, 47, 40, .ro, false⟩
def ID_PART.arrays_enabled : Fld := ⟨.ID_PART, 39, 28, .ro, false⟩
def ID_PART.hbm_stacks : Fld := ⟨.ID_PART, 27, 24, .ro, false⟩
def ID_PART.hbm_present_mask : Fld := ⟨.ID_PART, 23, 12, .ro, false⟩
def ID_PART.pyrfy_pacing : Fld := ⟨.ID_PART, 11, 8, .ro, false⟩
def ID_PART.host_rate : Fld := ⟨.ID_PART, 7, 4, .ro, false⟩
def ID_PARAMS.vec_width : Fld := ⟨.ID_PARAMS, 63, 56, .ro, false⟩
def ID_PARAMS.fabric_links : Fld := ⟨.ID_PARAMS, 55, 48, .ro, false⟩
def ID_PARAMS.salter_cores : Fld := ⟨.ID_PARAMS, 47, 40, .ro, false⟩
def ID_PARAMS.salter_threads : Fld := ⟨.ID_PARAMS, 39, 32, .ro, false⟩
def ID_PARAMS.temper_units : Fld := ⟨.ID_PARAMS, 31, 24, .ro, false⟩
def ID_PARAMS.compute_dies : Fld := ⟨.ID_PARAMS, 23, 16, .ro, false⟩
def ID_PARAMS.bittern_stacks : Fld := ⟨.ID_PARAMS, 15, 8, .ro, false⟩
def ID_PARAMS.array_dim : Fld := ⟨.ID_PARAMS, 7, 0, .ro, false⟩
def ID_SERIAL.serial : Fld := ⟨.ID_SERIAL, 63, 0, .ro, false⟩
def ID_STEPPING.hub : Fld := ⟨.ID_STEPPING, 47, 32, .ro, false⟩
def ID_STEPPING.die1 : Fld := ⟨.ID_STEPPING, 31, 16, .ro, false⟩
def ID_STEPPING.die0 : Fld := ⟨.ID_STEPPING, 15, 0, .ro, false⟩
def CLK_STATUS.mode : Fld := ⟨.CLK_STATUS, 63, 60, .ro, false⟩
def CLK_STATUS.coast : Fld := ⟨.CLK_STATUS, 59, 59, .ro, false⟩
def CLK_STATUS.lane_lock : Fld := ⟨.CLK_STATUS, 58, 58, .ro, false⟩
def CLK_STATUS.judging : Fld := ⟨.CLK_STATUS, 57, 57, .ro, false⟩
def CLK_STATUS.holdover_expired : Fld := ⟨.CLK_STATUS, 56, 56, .ro, false⟩
def CLK_STATUS.frames : Fld := ⟨.CLK_STATUS, 31, 0, .ro, false⟩
def CLK_CTRL.test : Fld := ⟨.CLK_CTRL, 0, 0, .rw, false⟩
def CLK_RO_CAL.ratio : Fld := ⟨.CLK_RO_CAL, 63, 32, .ro, false⟩
def CLK_RO_CAL.ro_cal : Fld := ⟨.CLK_RO_CAL, 31, 0, .ro, false⟩
def CLK_MON.count : Fld := ⟨.CLK_MON, 63, 56, .ro, false⟩
def CLK_MON.gate : Fld := ⟨.CLK_MON, 55, 48, .ro, false⟩
def CLK_MON.lo : Fld := ⟨.CLK_MON, 47, 40, .ro, false⟩
def CLK_MON.hi : Fld := ⟨.CLK_MON, 39, 32, .ro, false⟩
def CLK_HOLD.held : Fld := ⟨.CLK_HOLD, 63, 32, .ro, false⟩
def CLK_HOLD.hold_us : Fld := ⟨.CLK_HOLD, 31, 0, .ro, false⟩
def RST_STATUS.cause : Fld := ⟨.RST_STATUS, 63, 60, .ro, false⟩
def RST_STATUS.phase : Fld := ⟨.RST_STATUS, 59, 56, .ro, false⟩
def RST_STATUS.straps : Fld := ⟨.RST_STATUS, 55, 52, .ro, false⟩
def RST_STATUS.ready_ms : Fld := ⟨.RST_STATUS, 31, 0, .ro, false⟩
def CLK_NMI_VEC.addr : Fld := ⟨.CLK_NMI_VEC, 47, 0, .ro, false⟩
def CLK_PERF_FALLBACKS.count : Fld := ⟨.CLK_PERF_FALLBACKS, 63, 0, .ro, false⟩
def CLK_PERF_FALLBACK_US.count : Fld := ⟨.CLK_PERF_FALLBACK_US, 63, 0, .ro, false⟩
def CLK_PERF_BAD_WINDOWS.count : Fld := ⟨.CLK_PERF_BAD_WINDOWS, 63, 0, .ro, false⟩
def CLK_PERF_ALIGN_ERR.count : Fld := ⟨.CLK_PERF_ALIGN_ERR, 63, 0, .ro, false⟩
def CLK_PERF_JUDGE_FAIL.count : Fld := ⟨.CLK_PERF_JUDGE_FAIL, 63, 0, .ro, false⟩
def HP_STATUS.link : Fld := ⟨.HP_STATUS, 63, 60, .ro, false⟩
def HP_STATUS.sessions : Fld := ⟨.HP_STATUS, 59, 56, .ro, false⟩
def HP_NET_CFG.mtu : Fld := ⟨.HP_NET_CFG, 63, 48, .rw, false⟩
def HP_NET_CFG.vlan_en : Fld := ⟨.HP_NET_CFG, 47, 47, .rw, false⟩
def HP_NET_CFG.vid : Fld := ⟨.HP_NET_CFG, 43, 32, .rw, false⟩
def HP_NET_CFG.pfc_en : Fld := ⟨.HP_NET_CFG, 31, 31, .rw, false⟩
def HP_NET_CFG.mgmt_pri : Fld := ⟨.HP_NET_CFG, 30, 28, .rw, false⟩
def HP_NET_CFG.cmd_pri : Fld := ⟨.HP_NET_CFG, 27, 25, .rw, false⟩
def HP_NET_CFG.bulk_pri : Fld := ⟨.HP_NET_CFG, 24, 22, .rw, false⟩
def HP_NET_CFG.evt_pri : Fld := ⟨.HP_NET_CFG, 21, 19, .rw, false⟩
def HP_UDP_CFG.base : Fld := ⟨.HP_UDP_CFG, 63, 48, .rw, false⟩
def HP_RETX_CFG.timeout : Fld := ⟨.HP_RETX_CFG, 63, 48, .rw, false⟩
def HP_RETX_CFG.retries : Fld := ⟨.HP_RETX_CFG, 47, 40, .rw, false⟩
def HP_MBX_CFG.enable : Fld := ⟨.HP_MBX_CFG, 63, 63, .rw, false⟩
def HP_MBX_CFG.base : Fld := ⟨.HP_MBX_CFG, 47, 0, .rw, false⟩
def HP_EVT_CFG.enable : Fld := ⟨.HP_EVT_CFG, 63, 63, .rw, false⟩
def HP_EVT_CFG.sink : Fld := ⟨.HP_EVT_CFG, 61, 60, .rw, false⟩
def HP_EVT_STATUS.queued : Fld := ⟨.HP_EVT_STATUS, 63, 48, .ro, false⟩
def HP_EVT_STATUS.lost : Fld := ⟨.HP_EVT_STATUS, 47, 32, .w1c, true⟩
def HP_EVT_STATUS.next_record : Fld := ⟨.HP_EVT_STATUS, 31, 0, .ro, false⟩
def HP_GW_CFG.share : Fld := ⟨.HP_GW_CFG, 63, 59, .ro, false⟩
def HP_SELF.word : Fld := ⟨.HP_SELF, 63, 0, .ro, false⟩
def HP_PEER.word : Fld := ⟨.HP_PEER, 63, 0, .rw, false⟩
def HP_MBX_PTR.head_lap : Fld := ⟨.HP_MBX_PTR, 63, 63, .ro, false⟩
def HP_MBX_PTR.head : Fld := ⟨.HP_MBX_PTR, 37, 32, .ro, false⟩
def HP_MBX_PTR.tail_lap : Fld := ⟨.HP_MBX_PTR, 31, 31, .rw, false⟩
def HP_MBX_PTR.tail : Fld := ⟨.HP_MBX_PTR, 5, 0, .rw, false⟩
def HP_GW_PEER.word : Fld := ⟨.HP_GW_PEER, 63, 0, .ro, false⟩
def HP_PERF_RX_FRAMES.count : Fld := ⟨.HP_PERF_RX_FRAMES, 63, 0, .ro, false⟩
def HP_PERF_TX_FRAMES.count : Fld := ⟨.HP_PERF_TX_FRAMES, 63, 0, .ro, false⟩
def HP_PERF_DISCARD.count : Fld := ⟨.HP_PERF_DISCARD, 63, 0, .ro, false⟩
def HP_PERF_RESEND.count : Fld := ⟨.HP_PERF_RESEND, 63, 0, .ro, false⟩
def HP_PERF_NAK.count : Fld := ⟨.HP_PERF_NAK, 63, 0, .ro, false⟩
def HP_PERF_MBX_FULL.count : Fld := ⟨.HP_PERF_MBX_FULL, 63, 0, .ro, false⟩
def HP_PERF_GW_RX.count : Fld := ⟨.HP_PERF_GW_RX, 63, 0, .ro, false⟩
def FAB_LINK_STATUS.state : Fld := ⟨.FAB_LINK_STATUS, 63, 60, .ro, false⟩
def FAB_LINK_STATUS.lanes : Fld := ⟨.FAB_LINK_STATUS, 59, 52, .ro, false⟩
def FAB_LINK_STATUS.level_occ : Fld := ⟨.FAB_LINK_STATUS, 47, 32, .ro, false⟩
def FAB_LINK_CFG.transit_cap : Fld := ⟨.FAB_LINK_CFG, 4, 0, .ro, false⟩
def FAB_LINK_PEER.peer_id : Fld := ⟨.FAB_LINK_PEER, 63, 48, .ro, false⟩
def FAB_LINK_PEER.peer_link : Fld := ⟨.FAB_LINK_PEER, 47, 44, .ro, false⟩
def FAB_LINK_PEER.expect_id : Fld := ⟨.FAB_LINK_PEER, 31, 16, .ro, false⟩
def FAB_LINK_PEER.expect_link : Fld := ⟨.FAB_LINK_PEER, 15, 12, .ro, false⟩
def FAB_LINK_PERF_TX_BYTES.count : Fld := ⟨.FAB_LINK_PERF_TX_BYTES, 63, 0, .ro, false⟩
def FAB_LINK_PERF_RX_BYTES.count : Fld := ⟨.FAB_LINK_PERF_RX_BYTES, 63, 0, .ro, false⟩
def FAB_LINK_PERF_FEC.count : Fld := ⟨.FAB_LINK_PERF_FEC, 63, 0, .ro, false⟩
def FAB_LINK_PERF_RETRY.count : Fld := ⟨.FAB_LINK_PERF_RETRY, 63, 0, .ro, false⟩
def FAB_LINK_PERF_TRANSIT.count : Fld := ⟨.FAB_LINK_PERF_TRANSIT, 63, 0, .ro, false⟩
def FAB_LINK_PERF_DOWN.count : Fld := ⟨.FAB_LINK_PERF_DOWN, 63, 0, .ro, false⟩
def FAB_PHYS_ID.set : Fld := ⟨.FAB_PHYS_ID, 63, 63, .ro, false⟩
def FAB_PHYS_ID.id : Fld := ⟨.FAB_PHYS_ID, 15, 0, .rw, false⟩
def FAB_ID.logical_id : Fld := ⟨.FAB_ID, 63, 48, .ro, false⟩
def FAB_ID.slice : Fld := ⟨.FAB_ID, 43, 32, .ro, false⟩
def FAB_CFG.adaptive : Fld := ⟨.FAB_CFG, 63, 63, .ro, false⟩
def FAB_CFG.gateway : Fld := ⟨.FAB_CFG, 62, 62, .ro, false⟩
def FAB_CFG.groups : Fld := ⟨.FAB_CFG, 53, 48, .ro, false⟩
def FAB_CFG.nm_bias : Fld := ⟨.FAB_CFG, 47, 32, .ro, false⟩
def FAB_CFG.hop_weight : Fld := ⟨.FAB_CFG, 31, 24, .ro, false⟩
def FAB_CFG.gw_hold : Fld := ⟨.FAB_CFG, 15, 0, .ro, false⟩
def FAB_EPOCH.advance : Fld := ⟨.FAB_EPOCH, 63, 63, .wo, false⟩
def FAB_EPOCH.pending : Fld := ⟨.FAB_EPOCH, 62, 62, .ro, false⟩
def FAB_EPOCH.refused : Fld := ⟨.FAB_EPOCH, 61, 61, .w1c, false⟩
def FAB_EPOCH.staged : Fld := ⟨.FAB_EPOCH, 60, 60, .ro, false⟩
def FAB_EPOCH.epoch : Fld := ⟨.FAB_EPOCH, 31, 0, .ro, false⟩
def FENCE_TIMEOUT.timeout : Fld := ⟨.FENCE_TIMEOUT, 31, 0, .rw, false⟩
def FAB_RETX_CFG.timeout : Fld := ⟨.FAB_RETX_CFG, 47, 32, .rw, false⟩
def FAB_RETX_CFG.retries : Fld := ⟨.FAB_RETX_CFG, 7, 0, .rw, false⟩
def FAB_ERR_INFO.event : Fld := ⟨.FAB_ERR_INFO, 63, 56, .ro, false⟩
def FAB_ERR_INFO.status : Fld := ⟨.FAB_ERR_INFO, 55, 52, .ro, false⟩
def FAB_ERR_INFO.link : Fld := ⟨.FAB_ERR_INFO, 51, 48, .ro, false⟩
def FAB_ERR_INFO.peer : Fld := ⟨.FAB_ERR_INFO, 47, 32, .ro, false⟩
def FAB_ERR_INFO.seq : Fld := ⟨.FAB_ERR_INFO, 31, 0, .ro, false⟩
def FAB_TRACK_STATUS.records : Fld := ⟨.FAB_TRACK_STATUS, 63, 48, .ro, false⟩
def FAB_TRACK_STATUS.lost_bits : Fld := ⟨.FAB_TRACK_STATUS, 47, 31, .ro, false⟩
def FAB_HOT_CFG.window_log : Fld := ⟨.FAB_HOT_CFG, 63, 59, .rw, false⟩
def FAB_HOT_CFG.threshold : Fld := ⟨.FAB_HOT_CFG, 31, 0, .rw, false⟩
def FAB_EXC_CNT.invalid : Fld := ⟨.FAB_EXC_CNT, 63, 48, .w1c, true⟩
def FAB_EXC_CNT.overflow : Fld := ⟨.FAB_EXC_CNT, 47, 32, .w1c, true⟩
def FAB_EXC_CNT.underflow : Fld := ⟨.FAB_EXC_CNT, 31, 16, .w1c, true⟩
def FAB_EXC_CNT.empty_rows : Fld := ⟨.FAB_EXC_CNT, 15, 0, .w1c, true⟩
def FAB_HOT_LINE.valid : Fld := ⟨.FAB_HOT_LINE, 63, 63, .ro, false⟩
def FAB_HOT_LINE.count : Fld := ⟨.FAB_HOT_LINE, 62, 48, .ro, false⟩
def FAB_HOT_LINE.line : Fld := ⟨.FAB_HOT_LINE, 47, 7, .ro, false⟩
def FAB_PERF_MOVES.count : Fld := ⟨.FAB_PERF_MOVES, 63, 0, .ro, false⟩
def FAB_PERF_FORCED.count : Fld := ⟨.FAB_PERF_FORCED, 63, 0, .ro, false⟩
def FAB_PERF_RETX.count : Fld := ⟨.FAB_PERF_RETX, 63, 0, .ro, false⟩
def FAB_PERF_DUP.count : Fld := ⟨.FAB_PERF_DUP, 63, 0, .ro, false⟩
def FAB_PERF_REORDER_HELD.count : Fld := ⟨.FAB_PERF_REORDER_HELD, 63, 0, .ro, false⟩
def FAB_PERF_REORDER_DROP.count : Fld := ⟨.FAB_PERF_REORDER_DROP, 63, 0, .ro, false⟩
def FAB_PERF_RETX_FULL.count : Fld := ⟨.FAB_PERF_RETX_FULL, 63, 0, .ro, false⟩
def FAB_PERF_MERGES.count : Fld := ⟨.FAB_PERF_MERGES, 63, 0, .ro, false⟩
def FAB_PERF_TABLE_FULL.count : Fld := ⟨.FAB_PERF_TABLE_FULL, 63, 0, .ro, false⟩
def FAB_PERF_NDC.count : Fld := ⟨.FAB_PERF_NDC, 63, 0, .ro, false⟩
def FAB_PERF_SLICE_REFUSED.count : Fld := ⟨.FAB_PERF_SLICE_REFUSED, 63, 0, .ro, false⟩
def FAB_PERF_TRANSIT_REFUSED.count : Fld := ⟨.FAB_PERF_TRANSIT_REFUSED, 63, 0, .ro, false⟩
def FAB_PERF_FENCES.count : Fld := ⟨.FAB_PERF_FENCES, 63, 0, .ro, false⟩
def FAB_PERF_BAD_PKT.count : Fld := ⟨.FAB_PERF_BAD_PKT, 63, 0, .ro, false⟩
def FAB_PERF_GW_BULK.count : Fld := ⟨.FAB_PERF_GW_BULK, 63, 0, .ro, false⟩
def FAB_SLICE_MAP.bits : Fld := ⟨.FAB_SLICE_MAP, 63, 0, .rw, false⟩
def FAB_REMAP.valid : Fld := ⟨.FAB_REMAP, 63, 63, .rw, false⟩
def FAB_REMAP.logical : Fld := ⟨.FAB_REMAP, 31, 16, .rw, false⟩
def FAB_REMAP.physical : Fld := ⟨.FAB_REMAP, 15, 0, .rw, false⟩
def FAB_NM_MASK.mask : Fld := ⟨.FAB_NM_MASK, 63, 0, .ro, false⟩
def FAB_GW.gw0_valid : Fld := ⟨.FAB_GW, 63, 63, .ro, false⟩
def FAB_GW.gw1_valid : Fld := ⟨.FAB_GW, 62, 62, .ro, false⟩
def FAB_GW.gw1 : Fld := ⟨.FAB_GW, 31, 16, .ro, false⟩
def FAB_GW.gw0 : Fld := ⟨.FAB_GW, 15, 0, .ro, false⟩
def SALT_CTRL.halt : Fld := ⟨.SALT_CTRL, 15, 8, .wo, false⟩
def SALT_CTRL.run : Fld := ⟨.SALT_CTRL, 7, 0, .rw, false⟩
def SALT_STATUS.running : Fld := ⟨.SALT_STATUS, 63, 56, .ro, false⟩
def SALT_STATUS.remote : Fld := ⟨.SALT_STATUS, 55, 48, .ro, false⟩
def SALT_STATUS.faulted : Fld := ⟨.SALT_STATUS, 47, 40, .ro, false⟩
def RAKE_HALF_ARM.epoch : Fld := ⟨.RAKE_HALF_ARM, 63, 48, .wo, false⟩
def RAKE_HALF_ARM.n_groups : Fld := ⟨.RAKE_HALF_ARM, 47, 32, .wo, false⟩
def RAKE_HALF_ARM.slot : Fld := ⟨.RAKE_HALF_ARM, 31, 24, .wo, false⟩
def RAKE_HALF_ARM.half : Fld := ⟨.RAKE_HALF_ARM, 23, 23, .wo, false⟩
def RAKE_HALF_ARM.backward : Fld := ⟨.RAKE_HALF_ARM, 22, 22, .wo, false⟩
def RAKE_HALF_ARM.cpl_array : Fld := ⟨.RAKE_HALF_ARM, 15, 4, .wo, false⟩
def RAKE_HALF_ARM.cpl_window : Fld := ⟨.RAKE_HALF_ARM, 2, 0, .wo, false⟩
def QM_RELEASE.slot : Fld := ⟨.QM_RELEASE, 63, 56, .wo, false⟩
def QM_RELEASE.rank : Fld := ⟨.QM_RELEASE, 55, 50, .wo, false⟩
def QM_RELEASE.backward : Fld := ⟨.QM_RELEASE, 49, 49, .wo, false⟩
def QM_RELEASE.expert : Fld := ⟨.QM_RELEASE, 35, 24, .wo, false⟩
def QM_RELEASE.seq : Fld := ⟨.QM_RELEASE, 23, 0, .wo, false⟩
def RES_STEP.step : Fld := ⟨.RES_STEP, 63, 32, .wo, false⟩
def SLU_SUBMIT.addr : Fld := ⟨.SLU_SUBMIT, 47, 0, .wo, false⟩
def SLU_CANCEL.epoch : Fld := ⟨.SLU_CANCEL, 15, 0, .wo, false⟩
def SLU_ARM.epoch : Fld := ⟨.SLU_ARM, 15, 0, .wo, false⟩
def RX_ERR_INFO.source : Fld := ⟨.RX_ERR_INFO, 63, 56, .ro, false⟩
def RX_ERR_INFO.code : Fld := ⟨.RX_ERR_INFO, 55, 48, .ro, false⟩
def RX_ERR_INFO.stream : Fld := ⟨.RX_ERR_INFO, 47, 40, .ro, false⟩
def RX_ERR_INFO.slot : Fld := ⟨.RX_ERR_INFO, 39, 32, .ro, false⟩
def RX_ERR_INFO.detail : Fld := ⟨.RX_ERR_INFO, 31, 0, .ro, false⟩
def RAKE_STREAM_CFG.enable : Fld := ⟨.RAKE_STREAM_CFG, 63, 63, .rw, false⟩
def RAKE_STREAM_CFG.array : Fld := ⟨.RAKE_STREAM_CFG, 43, 32, .rw, false⟩
def RAKE_STREAM_CFG.cpl_window : Fld := ⟨.RAKE_STREAM_CFG, 2, 0, .rw, false⟩
def RAKE_STREAM_SUBMIT.g : Fld := ⟨.RAKE_STREAM_SUBMIT, 63, 48, .wo, false⟩
def RAKE_STREAM_SUBMIT.half : Fld := ⟨.RAKE_STREAM_SUBMIT, 47, 47, .wo, false⟩
def RAKE_STREAM_SUBMIT.slot : Fld := ⟨.RAKE_STREAM_SUBMIT, 39, 32, .wo, false⟩
def RAKE_STREAM_SUBMIT.route : Fld := ⟨.RAKE_STREAM_SUBMIT, 18, 0, .wo, false⟩
def RAKE_STREAM_STATUS.state : Fld := ⟨.RAKE_STREAM_STATUS, 63, 60, .ro, false⟩
def RAKE_STREAM_STATUS.err : Fld := ⟨.RAKE_STREAM_STATUS, 59, 52, .ro, false⟩
def RAKE_STREAM_STATUS.pending : Fld := ⟨.RAKE_STREAM_STATUS, 40, 32, .ro, false⟩
def RAKE_STREAM_STATUS.g : Fld := ⟨.RAKE_STREAM_STATUS, 31, 16, .ro, false⟩
def RAKE_STREAM_STATUS.queued : Fld := ⟨.RAKE_STREAM_STATUS, 4, 0, .ro, false⟩
def NTC_RING_CFG.enable : Fld := ⟨.NTC_RING_CFG, 63, 63, .rw, false⟩
def NTC_RING_CFG.size_log : Fld := ⟨.NTC_RING_CFG, 56, 52, .rw, false⟩
def NTC_RING_CFG.base : Fld := ⟨.NTC_RING_CFG, 47, 0, .rw, false⟩
def NTC_RING_PTR.head_lap : Fld := ⟨.NTC_RING_PTR, 63, 63, .ro, false⟩
def NTC_RING_PTR.head : Fld := ⟨.NTC_RING_PTR, 48, 32, .ro, false⟩
def NTC_RING_PTR.tail_lap : Fld := ⟨.NTC_RING_PTR, 31, 31, .rw, false⟩
def NTC_RING_PTR.tail : Fld := ⟨.NTC_RING_PTR, 16, 0, .rw, false⟩
def RX_PERF_SUBMITS.count : Fld := ⟨.RX_PERF_SUBMITS, 63, 0, .ro, false⟩
def RX_PERF_DISPATCH.count : Fld := ⟨.RX_PERF_DISPATCH, 63, 0, .ro, false⟩
def RX_PERF_DROP.count : Fld := ⟨.RX_PERF_DROP, 63, 0, .ro, false⟩
def RX_PERF_ABSENT.count : Fld := ⟨.RX_PERF_ABSENT, 63, 0, .ro, false⟩
def RX_PERF_STALL_DEST.count : Fld := ⟨.RX_PERF_STALL_DEST, 63, 0, .ro, false⟩
def RX_PERF_STALL_FULL.count : Fld := ⟨.RX_PERF_STALL_FULL, 63, 0, .ro, false⟩
def RX_PERF_GROUPS.count : Fld := ⟨.RX_PERF_GROUPS, 63, 0, .ro, false⟩
def RX_PERF_EXC_OVF.count : Fld := ⟨.RX_PERF_EXC_OVF, 63, 0, .ro, false⟩
def RX_PERF_EXC_UNF.count : Fld := ⟨.RX_PERF_EXC_UNF, 63, 0, .ro, false⟩
def RX_PERF_NDC.count : Fld := ⟨.RX_PERF_NDC, 63, 0, .ro, false⟩
def SLU_PERF_ROWS.count : Fld := ⟨.SLU_PERF_ROWS, 63, 0, .ro, false⟩
def SLU_PERF_CANCEL_DROP.count : Fld := ⟨.SLU_PERF_CANCEL_DROP, 63, 0, .ro, false⟩
def SLU_PERF_LATE_CANCEL.count : Fld := ⟨.SLU_PERF_LATE_CANCEL, 63, 0, .ro, false⟩
def RES_PERF_FETCH_DEMAND.count : Fld := ⟨.RES_PERF_FETCH_DEMAND, 63, 0, .ro, false⟩
def RES_PERF_FETCH_PREFETCH.count : Fld := ⟨.RES_PERF_FETCH_PREFETCH, 63, 0, .ro, false⟩
def RES_PERF_EVICT.count : Fld := ⟨.RES_PERF_EVICT, 63, 0, .ro, false⟩
def RES_PERF_WAIT.count : Fld := ⟨.RES_PERF_WAIT, 63, 0, .ro, false⟩
def SLU_EPOCH_MAP.bits : Fld := ⟨.SLU_EPOCH_MAP, 63, 0, .ro, false⟩
def RX_EXPERT_TABLE.word : Fld := ⟨.RX_EXPERT_TABLE, 63, 0, .ro, false⟩
def RX_LAYER_TABLE.word : Fld := ⟨.RX_LAYER_TABLE, 63, 0, .ro, false⟩
def RES_HIST.word : Fld := ⟨.RES_HIST, 63, 0, .ro, false⟩
def RES_STATE.word : Fld := ⟨.RES_STATE, 63, 0, .ro, false⟩
def TMP_CFG.seg_timeout : Fld := ⟨.TMP_CFG, 63, 60, .ro, false⟩
def TMP_SEED.seed : Fld := ⟨.TMP_SEED, 63, 0, .ro, false⟩
def TEMPER_NORM_CEIL.ceil : Fld := ⟨.TEMPER_NORM_CEIL, 31, 0, .ro, false⟩
def TMP_SHARD_BASE.count : Fld := ⟨.TMP_SHARD_BASE, 63, 48, .ro, false⟩
def TMP_SHARD_BASE.base : Fld := ⟨.TMP_SHARD_BASE, 47, 0, .ro, false⟩
def TMP_LAYER_BASE.count : Fld := ⟨.TMP_LAYER_BASE, 63, 48, .ro, false⟩
def TMP_LAYER_BASE.base : Fld := ⟨.TMP_LAYER_BASE, 47, 0, .ro, false⟩
def TMP_HSET_BASE.count : Fld := ⟨.TMP_HSET_BASE, 63, 48, .ro, false⟩
def TMP_HSET_BASE.base : Fld := ⟨.TMP_HSET_BASE, 47, 0, .ro, false⟩
def TMP_TELE_CFG.enable : Fld := ⟨.TMP_TELE_CFG, 63, 63, .ro, false⟩
def TMP_TELE_CFG.size_log : Fld := ⟨.TMP_TELE_CFG, 56, 52, .ro, false⟩
def TMP_TELE_CFG.base : Fld := ⟨.TMP_TELE_CFG, 47, 0, .ro, false⟩
def TMP_TELE_PTR.head_lap : Fld := ⟨.TMP_TELE_PTR, 63, 63, .ro, false⟩
def TMP_TELE_PTR.head : Fld := ⟨.TMP_TELE_PTR, 48, 32, .ro, false⟩
def TMP_TELE_PTR.tail_lap : Fld := ⟨.TMP_TELE_PTR, 31, 31, .rw, false⟩
def TMP_TELE_PTR.tail : Fld := ⟨.TMP_TELE_PTR, 16, 0, .rw, false⟩
def TMP_ASSAY_CFG.enable : Fld := ⟨.TMP_ASSAY_CFG, 63, 63, .rw, false⟩
def TMP_ASSAY_CFG.budget : Fld := ⟨.TMP_ASSAY_CFG, 7, 0, .rw, false⟩
def TMP_SEG_ARRIVE.addr : Fld := ⟨.TMP_SEG_ARRIVE, 47, 0, .wo, false⟩
def TMP_DERIVE.index : Fld := ⟨.TMP_DERIVE, 14, 0, .wo, false⟩
def TMP_ERR_INFO.code : Fld := ⟨.TMP_ERR_INFO, 63, 56, .ro, false⟩
def TMP_ERR_INFO.replica : Fld := ⟨.TMP_ERR_INFO, 55, 44, .ro, false⟩
def TMP_ERR_INFO.check : Fld := ⟨.TMP_ERR_INFO, 43, 40, .ro, false⟩
def TMP_ERR_INFO.index : Fld := ⟨.TMP_ERR_INFO, 14, 0, .ro, false⟩
def TMP_UNIT_STATUS.state : Fld := ⟨.TMP_UNIT_STATUS, 63, 60, .ro, false⟩
def TMP_UNIT_STATUS.parked : Fld := ⟨.TMP_UNIT_STATUS, 47, 32, .ro, false⟩
def TMP_UNIT_STATUS.index : Fld := ⟨.TMP_UNIT_STATUS, 14, 0, .ro, false⟩
def TMP_STATUS.exc : Fld := ⟨.TMP_STATUS, 6, 0, .w1c, false⟩
def TMP_EXC_CNT.invalid : Fld := ⟨.TMP_EXC_CNT, 63, 48, .w1c, true⟩
def TMP_EXC_CNT.overflow : Fld := ⟨.TMP_EXC_CNT, 47, 32, .w1c, true⟩
def TMP_EXC_CNT.underflow : Fld := ⟨.TMP_EXC_CNT, 31, 16, .w1c, true⟩
def TMP_PERF_UPDATES.count : Fld := ⟨.TMP_PERF_UPDATES, 63, 0, .ro, false⟩
def TMP_PERF_WITHHELD.count : Fld := ⟨.TMP_PERF_WITHHELD, 63, 0, .ro, false⟩
def TMP_PERF_ZERO_VISIT.count : Fld := ⟨.TMP_PERF_ZERO_VISIT, 63, 0, .ro, false⟩
def TMP_PERF_SEGMENTS.count : Fld := ⟨.TMP_PERF_SEGMENTS, 63, 0, .ro, false⟩
def TMP_PERF_BAD_SEGMENT.count : Fld := ⟨.TMP_PERF_BAD_SEGMENT, 63, 0, .ro, false⟩
def TMP_PERF_MISSING.count : Fld := ⟨.TMP_PERF_MISSING, 63, 0, .ro, false⟩
def TMP_PERF_FETCH.count : Fld := ⟨.TMP_PERF_FETCH, 63, 0, .ro, false⟩
def TMP_PERF_FETCH_RETRY.count : Fld := ⟨.TMP_PERF_FETCH_RETRY, 63, 0, .ro, false⟩
def TMP_PERF_ASSAY.count : Fld := ⟨.TMP_PERF_ASSAY, 63, 0, .ro, false⟩
def TMP_PERF_ASSAY_MISMATCH.count : Fld := ⟨.TMP_PERF_ASSAY_MISMATCH, 63, 0, .ro, false⟩
def TMP_PERF_ASSAY_STALE.count : Fld := ⟨.TMP_PERF_ASSAY_STALE, 63, 0, .ro, false⟩
def TMP_PERF_ASSAY_ABANDON.count : Fld := ⟨.TMP_PERF_ASSAY_ABANDON, 63, 0, .ro, false⟩
def TMP_PERF_TELE_LOST.count : Fld := ⟨.TMP_PERF_TELE_LOST, 63, 0, .ro, false⟩
def TMP_PERF_RATIO_ALERT.count : Fld := ⟨.TMP_PERF_RATIO_ALERT, 63, 0, .ro, false⟩
def TMP_PERF_PARK_CYCLES.count : Fld := ⟨.TMP_PERF_PARK_CYCLES, 63, 0, .ro, false⟩
def TMP_SHARD_STATE.phase : Fld := ⟨.TMP_SHARD_STATE, 63, 60, .ro, false⟩
def TMP_SHARD_STATE.cur : Fld := ⟨.TMP_SHARD_STATE, 59, 59, .ro, false⟩
def TMP_SHARD_STATE.repair : Fld := ⟨.TMP_SHARD_STATE, 58, 58, .ro, false⟩
def TMP_SHARD_STATE.present : Fld := ⟨.TMP_SHARD_STATE, 44, 32, .ro, false⟩
def TMP_SHARD_STATE.version : Fld := ⟨.TMP_SHARD_STATE, 31, 0, .ro, false⟩
def HBM_STK_INFO.state : Fld := ⟨.HBM_STK_INFO, 63, 60, .ro, false⟩
def HBM_STK_INFO.position : Fld := ⟨.HBM_STK_INFO, 59, 56, .ro, false⟩
def HBM_STK_INFO.die : Fld := ⟨.HBM_STK_INFO, 55, 55, .ro, false⟩
def HBM_STK_INFO.capacity : Fld := ⟨.HBM_STK_INFO, 47, 40, .ro, false⟩
def HBM_STK_INFO.device_id : Fld := ⟨.HBM_STK_INFO, 15, 0, .ro, false⟩
def HBM_STK_TEMP.temp : Fld := ⟨.HBM_STK_TEMP, 63, 56, .ro, false⟩
def HBM_STK_TEMP.temp_max : Fld := ⟨.HBM_STK_TEMP, 55, 48, .ro, false⟩
def HBM_STK_TEMP.refresh : Fld := ⟨.HBM_STK_TEMP, 47, 46, .ro, false⟩
def HBM_ECC_CNT.corrected : Fld := ⟨.HBM_ECC_CNT, 63, 32, .w1c, true⟩
def HBM_ECC_CNT.uncorrectable : Fld := ⟨.HBM_ECC_CNT, 31, 16, .w1c, true⟩
def HBM_ECC_CNT.poisoned_reads : Fld := ⟨.HBM_ECC_CNT, 15, 0, .w1c, true⟩
def HBM_ECC_LOG.valid : Fld := ⟨.HBM_ECC_LOG, 63, 63, .w1c, false⟩
def HBM_ECC_LOG.scrub : Fld := ⟨.HBM_ECC_LOG, 62, 62, .ro, false⟩
def HBM_ECC_LOG.offset : Fld := ⟨.HBM_ECC_LOG, 35, 0, .ro, false⟩
def HBM_SCRUB_STATUS.passes : Fld := ⟨.HBM_SCRUB_STATUS, 63, 32, .ro, false⟩
def HBM_SCRUB_STATUS.position : Fld := ⟨.HBM_SCRUB_STATUS, 31, 16, .ro, false⟩
def HBM_REPAIR_STATUS.hard : Fld := ⟨.HBM_REPAIR_STATUS, 63, 56, .ro, false⟩
def HBM_REPAIR_STATUS.soft : Fld := ⟨.HBM_REPAIR_STATUS, 55, 48, .ro, false⟩
def HBM_REPAIR_STATUS.pending : Fld := ⟨.HBM_REPAIR_STATUS, 47, 40, .ro, false⟩
def HBM_REPAIR_STATUS.unrepairable : Fld := ⟨.HBM_REPAIR_STATUS, 39, 32, .ro, false⟩
def HBM_REPAIR_STATUS.logged : Fld := ⟨.HBM_REPAIR_STATUS, 31, 24, .ro, false⟩
def HBM_REPAIR_STATUS.lost : Fld := ⟨.HBM_REPAIR_STATUS, 23, 16, .ro, false⟩
def HBM_TEST_CTRL.start : Fld := ⟨.HBM_TEST_CTRL, 63, 63, .wo, false⟩
def HBM_TEST_CTRL.op : Fld := ⟨.HBM_TEST_CTRL, 58, 56, .rw, false⟩
def HBM_TEST_CTRL.length : Fld := ⟨.HBM_TEST_CTRL, 45, 40, .rw, false⟩
def HBM_TEST_CTRL.instruction : Fld := ⟨.HBM_TEST_CTRL, 15, 0, .rw, false⟩
def HBM_TEST_ADDR.pc : Fld := ⟨.HBM_TEST_ADDR, 36, 32, .rw, false⟩
def HBM_TEST_ADDR.bank : Fld := ⟨.HBM_TEST_ADDR, 29, 24, .rw, false⟩
def HBM_TEST_ADDR.row : Fld := ⟨.HBM_TEST_ADDR, 16, 0, .rw, false⟩
def HBM_TEST_DATA.data : Fld := ⟨.HBM_TEST_DATA, 63, 0, .rw, false⟩
def HBM_TEST_STATUS.state : Fld := ⟨.HBM_TEST_STATUS, 63, 60, .ro, false⟩
def HBM_TEST_STATUS.reason : Fld := ⟨.HBM_TEST_STATUS, 59, 56, .ro, false⟩
def HBM_PERF_RD_BYTES.count : Fld := ⟨.HBM_PERF_RD_BYTES, 63, 0, .ro, false⟩
def HBM_PERF_WR_BYTES.count : Fld := ⟨.HBM_PERF_WR_BYTES, 63, 0, .ro, false⟩
def HBM_PERF_CROSS_DIE.count : Fld := ⟨.HBM_PERF_CROSS_DIE, 63, 0, .ro, false⟩
def HBM_PERF_RMW.count : Fld := ⟨.HBM_PERF_RMW, 63, 0, .ro, false⟩
def HBM_PERF_REFRESH.count : Fld := ⟨.HBM_PERF_REFRESH, 63, 0, .ro, false⟩
def HBM_PERF_SCRUB_BYTES.count : Fld := ⟨.HBM_PERF_SCRUB_BYTES, 63, 0, .ro, false⟩
def BIT_STK_INFO.state : Fld := ⟨.BIT_STK_INFO, 63, 60, .ro, false⟩
def BIT_STK_INFO.position : Fld := ⟨.BIT_STK_INFO, 59, 56, .ro, false⟩
def BIT_STK_INFO.die : Fld := ⟨.BIT_STK_INFO, 55, 55, .ro, false⟩
def BIT_STK_INFO.capacity : Fld := ⟨.BIT_STK_INFO, 47, 40, .ro, false⟩
def BIT_STK_INFO.device_id : Fld := ⟨.BIT_STK_INFO, 15, 0, .ro, false⟩
def BIT_STK_TEMP.temp : Fld := ⟨.BIT_STK_TEMP, 63, 56, .ro, false⟩
def BIT_STK_TEMP.temp_max : Fld := ⟨.BIT_STK_TEMP, 55, 48, .ro, false⟩
def BIT_STK_TEMP.refresh : Fld := ⟨.BIT_STK_TEMP, 47, 46, .ro, false⟩
def BIT_ECC_CNT.corrected : Fld := ⟨.BIT_ECC_CNT, 63, 32, .w1c, true⟩
def BIT_ECC_CNT.uncorrectable : Fld := ⟨.BIT_ECC_CNT, 31, 16, .w1c, true⟩
def BIT_ECC_CNT.poisoned_reads : Fld := ⟨.BIT_ECC_CNT, 15, 0, .w1c, true⟩
def BIT_ECC_LOG.valid : Fld := ⟨.BIT_ECC_LOG, 63, 63, .w1c, false⟩
def BIT_ECC_LOG.scrub : Fld := ⟨.BIT_ECC_LOG, 62, 62, .ro, false⟩
def BIT_ECC_LOG.offset : Fld := ⟨.BIT_ECC_LOG, 37, 0, .ro, false⟩
def BIT_SCRUB_STATUS.passes : Fld := ⟨.BIT_SCRUB_STATUS, 63, 32, .ro, false⟩
def BIT_SCRUB_STATUS.position : Fld := ⟨.BIT_SCRUB_STATUS, 31, 16, .ro, false⟩
def BIT_PERF_RD_BYTES.count : Fld := ⟨.BIT_PERF_RD_BYTES, 63, 0, .ro, false⟩
def BIT_PERF_WR_BYTES.count : Fld := ⟨.BIT_PERF_WR_BYTES, 63, 0, .ro, false⟩
def BIT_PERF_CROSS_DIE.count : Fld := ⟨.BIT_PERF_CROSS_DIE, 63, 0, .ro, false⟩
def BIT_PERF_RMW.count : Fld := ⟨.BIT_PERF_RMW, 63, 0, .ro, false⟩
def BIT_PERF_REFRESH.count : Fld := ⟨.BIT_PERF_REFRESH, 63, 0, .ro, false⟩
def BIT_PERF_SCRUB_BYTES.count : Fld := ⟨.BIT_PERF_SCRUB_BYTES, 63, 0, .ro, false⟩
def MEM_IL_REGION.valid : Fld := ⟨.MEM_IL_REGION, 63, 63, .ro, false⟩
def MEM_IL_REGION.granule : Fld := ⟨.MEM_IL_REGION, 62, 60, .ro, false⟩
def MEM_IL_REGION.mask : Fld := ⟨.MEM_IL_REGION, 59, 48, .ro, false⟩
def MEM_IL_REGION.offset : Fld := ⟨.MEM_IL_REGION, 47, 32, .ro, false⟩
def MEM_IL_REGION.extent : Fld := ⟨.MEM_IL_REGION, 31, 16, .ro, false⟩
def MEM_CRC_BASE.valid : Fld := ⟨.MEM_CRC_BASE, 63, 63, .ro, false⟩
def MEM_CRC_BASE.base : Fld := ⟨.MEM_CRC_BASE, 47, 0, .ro, false⟩
def MEM_CRC_SIZE.size : Fld := ⟨.MEM_CRC_SIZE, 19, 0, .ro, false⟩
def MEM_CRC_TABLE.table : Fld := ⟨.MEM_CRC_TABLE, 47, 0, .ro, false⟩
def MEM_SCRUB_CFG.hbm_en : Fld := ⟨.MEM_SCRUB_CFG, 63, 63, .rw, false⟩
def MEM_SCRUB_CFG.bit_en : Fld := ⟨.MEM_SCRUB_CFG, 62, 62, .rw, false⟩
def MEM_SCRUB_CFG.crc_scrub : Fld := ⟨.MEM_SCRUB_CFG, 61, 61, .rw, false⟩
def MEM_SCRUB_CFG.hbm_hours : Fld := ⟨.MEM_SCRUB_CFG, 55, 48, .rw, false⟩
def MEM_SCRUB_CFG.bit_hours : Fld := ⟨.MEM_SCRUB_CFG, 47, 40, .rw, false⟩
def MEM_SCRUB_CFG.hbm_budget : Fld := ⟨.MEM_SCRUB_CFG, 31, 16, .rw, false⟩
def MEM_SCRUB_CFG.bit_budget : Fld := ⟨.MEM_SCRUB_CFG, 15, 0, .rw, false⟩
def MEM_CRC_ERR_INFO.block : Fld := ⟨.MEM_CRC_ERR_INFO, 63, 10, .ro, false⟩
def MEM_CRC_ERR_INFO.source : Fld := ⟨.MEM_CRC_ERR_INFO, 3, 0, .ro, false⟩
def MEM_PERF_CHECKED.count : Fld := ⟨.MEM_PERF_CHECKED, 63, 0, .ro, false⟩
def MEM_PERF_CRC_RETRY.count : Fld := ⟨.MEM_PERF_CRC_RETRY, 63, 0, .ro, false⟩
def MEM_PERF_CRC_FAIL.count : Fld := ⟨.MEM_PERF_CRC_FAIL, 63, 0, .ro, false⟩
def MEM_PERF_UNCHECKED.count : Fld := ⟨.MEM_PERF_UNCHECKED, 63, 0, .ro, false⟩
def MEM_PERF_SCRUB_LATE.count : Fld := ⟨.MEM_PERF_SCRUB_LATE, 63, 0, .ro, false⟩
def STG_ROOT.root : Fld := ⟨.STG_ROOT, 63, 48, .ro, false⟩
def STG_ROOT.packages : Fld := ⟨.STG_ROOT, 47, 32, .ro, false⟩
def STG_STEP_ARM.step : Fld := ⟨.STG_STEP_ARM, 63, 32, .wo, false⟩
def STG_STEP_ARM.mbs : Fld := ⟨.STG_STEP_ARM, 31, 16, .wo, false⟩
def STG_ABORT.user_code : Fld := ⟨.STG_ABORT, 7, 0, .wo, false⟩
def STG_STEP_STATUS.state : Fld := ⟨.STG_STEP_STATUS, 63, 60, .ro, false⟩
def STG_STEP_STATUS.cause : Fld := ⟨.STG_STEP_STATUS, 55, 48, .ro, false⟩
def STG_STEP_STATUS.user_code : Fld := ⟨.STG_STEP_STATUS, 47, 40, .ro, false⟩
def STG_STEP_STATUS.step : Fld := ⟨.STG_STEP_STATUS, 31, 0, .ro, false⟩
def STG_CLEAR.clear : Fld := ⟨.STG_CLEAR, 0, 0, .wo, false⟩
def STK_REQ.slot : Fld := ⟨.STK_REQ, 63, 58, .wo, false⟩
def STK_REQ.pool : Fld := ⟨.STK_REQ, 57, 57, .wo, false⟩
def STK_REQ.cls : Fld := ⟨.STK_REQ, 56, 56, .wo, false⟩
def STK_REQ.mb : Fld := ⟨.STK_REQ, 55, 40, .wo, false⟩
def STK_REQ.n : Fld := ⟨.STK_REQ, 39, 34, .wo, false⟩
def STK_REQ.tag : Fld := ⟨.STK_REQ, 15, 0, .wo, false⟩
def STK_FREE.slot : Fld := ⟨.STK_FREE, 63, 58, .wo, false⟩
def STK_FREE.mb : Fld := ⟨.STK_FREE, 15, 0, .wo, false⟩
def STG_ARRIVE.slot : Fld := ⟨.STG_ARRIVE, 63, 58, .wo, false⟩
def STG_ARRIVE.role : Fld := ⟨.STG_ARRIVE, 57, 57, .wo, false⟩
def STG_ARRIVE.seq : Fld := ⟨.STG_ARRIVE, 23, 0, .wo, false⟩
def STG_RELEASE.slot : Fld := ⟨.STG_RELEASE, 63, 58, .wo, false⟩
def STG_RELEASE.role : Fld := ⟨.STG_RELEASE, 57, 57, .wo, false⟩
def STG_RELEASE.seq : Fld := ⟨.STG_RELEASE, 23, 0, .wo, false⟩
def STG_ERR_INFO.code : Fld := ⟨.STG_ERR_INFO, 63, 56, .ro, false⟩
def STG_ERR_INFO.slot : Fld := ⟨.STG_ERR_INFO, 55, 50, .ro, false⟩
def STG_ERR_INFO.backward : Fld := ⟨.STG_ERR_INFO, 49, 49, .ro, false⟩
def STG_ERR_INFO.mb : Fld := ⟨.STG_ERR_INFO, 39, 24, .ro, false⟩
def STG_ERR_INFO.seq : Fld := ⟨.STG_ERR_INFO, 23, 0, .ro, false⟩
def STG_PERF_LATE_ABORT.count : Fld := ⟨.STG_PERF_LATE_ABORT, 63, 0, .ro, false⟩
def STG_ENTRY.word : Fld := ⟨.STG_ENTRY, 63, 0, .ro, false⟩
def STG_QUEUE.word : Fld := ⟨.STG_QUEUE, 63, 0, .ro, false⟩
def STK_USED.stk_used : Fld := ⟨.STK_USED, 63, 32, .ro, false⟩
def STK_USED.spill_used : Fld := ⟨.STK_USED, 31, 0, .ro, false⟩
def STK_BRES.bres_used : Fld := ⟨.STK_BRES, 63, 32, .ro, false⟩
def STK_HWM.rearm : Fld := ⟨.STK_HWM, 63, 63, .wo, false⟩
def STK_HWM.stk_hwm : Fld := ⟨.STK_HWM, 55, 28, .ro, false⟩
def STK_HWM.spill_hwm : Fld := ⟨.STK_HWM, 27, 0, .ro, false⟩
def STG_STATE.inflight : Fld := ⟨.STG_STATE, 63, 58, .ro, false⟩
def STG_STATE.tripped : Fld := ⟨.STG_STATE, 57, 57, .ro, false⟩
def STG_STATE.held_req : Fld := ⟨.STG_STATE, 56, 56, .ro, false⟩
def STG_STATE.held_admit : Fld := ⟨.STG_STATE, 55, 55, .ro, false⟩
def STG_STATE.oldest : Fld := ⟨.STG_STATE, 47, 32, .ro, false⟩
def STG_STATE.newest : Fld := ⟨.STG_STATE, 31, 16, .ro, false⟩
def STG_PERF_ADMIT.count : Fld := ⟨.STG_PERF_ADMIT, 63, 0, .ro, false⟩
def STG_PERF_SPANS.count : Fld := ⟨.STG_PERF_SPANS, 63, 0, .ro, false⟩
def STG_PERF_SEND_FWD.count : Fld := ⟨.STG_PERF_SEND_FWD, 63, 0, .ro, false⟩
def STG_PERF_SEND_BWD.count : Fld := ⟨.STG_PERF_SEND_BWD, 63, 0, .ro, false⟩
def STG_PERF_STARVE_FWD.count : Fld := ⟨.STG_PERF_STARVE_FWD, 63, 0, .ro, false⟩
def STG_PERF_STARVE_BWD.count : Fld := ⟨.STG_PERF_STARVE_BWD, 63, 0, .ro, false⟩
def STG_PERF_HOLD_ADMIT.count : Fld := ⟨.STG_PERF_HOLD_ADMIT, 63, 0, .ro, false⟩
def STG_PERF_HOLD_STK.count : Fld := ⟨.STG_PERF_HOLD_STK, 63, 0, .ro, false⟩
def STK_PERF_SPILL.count : Fld := ⟨.STK_PERF_SPILL, 63, 0, .ro, false⟩
def STK_PERF_DISCARD.count : Fld := ⟨.STK_PERF_DISCARD, 63, 0, .ro, false⟩
def STK_PERF_SKIP.count : Fld := ⟨.STK_PERF_SKIP, 63, 0, .ro, false⟩
def HMK_CMD.op : Fld := ⟨.HMK_CMD, 63, 56, .wo, false⟩
def HMK_ARG0.partition : Fld := ⟨.HMK_ARG0, 63, 60, .rw, false⟩
def HMK_ARG0.slot : Fld := ⟨.HMK_ARG0, 56, 56, .rw, false⟩
def HMK_ARG0.addr : Fld := ⟨.HMK_ARG0, 47, 0, .rw, false⟩
def HMK_ARG1.offset : Fld := ⟨.HMK_ARG1, 63, 32, .rw, false⟩
def HMK_ARG1.length : Fld := ⟨.HMK_ARG1, 31, 0, .rw, false⟩
def HMK_STATUS.state : Fld := ⟨.HMK_STATUS, 63, 60, .ro, false⟩
def HMK_STATUS.op : Fld := ⟨.HMK_STATUS, 59, 52, .ro, false⟩
def HMK_STATUS.step : Fld := ⟨.HMK_STATUS, 51, 48, .ro, false⟩
def HMK_STATUS.reason : Fld := ⟨.HMK_STATUS, 47, 40, .ro, false⟩
def HMK_STATUS.progress : Fld := ⟨.HMK_STATUS, 31, 0, .ro, false⟩
def HMK_ERR_INFO.event : Fld := ⟨.HMK_ERR_INFO, 63, 56, .ro, false⟩
def HMK_ERR_INFO.sect : Fld := ⟨.HMK_ERR_INFO, 55, 40, .ro, false⟩
def HMK_ERR_INFO.step : Fld := ⟨.HMK_ERR_INFO, 39, 32, .ro, false⟩
def HMK_ERR_INFO.detail : Fld := ⟨.HMK_ERR_INFO, 31, 0, .ro, false⟩
def CST_STATE.configured : Fld := ⟨.CST_STATE, 63, 63, .ro, false⟩
def CST_STATE.pouring : Fld := ⟨.CST_STATE, 62, 62, .ro, false⟩
def CST_STATE.active_valid : Fld := ⟨.CST_STATE, 61, 61, .ro, false⟩
def CST_STATE.active_slot : Fld := ⟨.CST_STATE, 60, 60, .ro, false⟩
def CST_STATE.start_failures : Fld := ⟨.CST_STATE, 55, 48, .ro, false⟩
def CST_STATE.pour : Fld := ⟨.CST_STATE, 47, 0, .ro, false⟩
def CST_SLOT.valid : Fld := ⟨.CST_SLOT, 63, 63, .ro, false⟩
def CST_SLOT.running : Fld := ⟨.CST_SLOT, 62, 62, .ro, false⟩
def CST_SLOT.confirmed : Fld := ⟨.CST_SLOT, 61, 61, .ro, false⟩
def CST_SLOT.part_code : Fld := ⟨.CST_SLOT, 47, 32, .ro, false⟩
def CST_SLOT.svn : Fld := ⟨.CST_SLOT, 31, 0, .ro, false⟩
def FW_SLOT.valid : Fld := ⟨.FW_SLOT, 63, 63, .ro, false⟩
def FW_SLOT.running : Fld := ⟨.FW_SLOT, 62, 62, .ro, false⟩
def FW_SLOT.confirmed : Fld := ⟨.FW_SLOT, 61, 61, .ro, false⟩
def FW_SLOT.part_code : Fld := ⟨.FW_SLOT, 47, 32, .ro, false⟩
def FW_SLOT.svn : Fld := ⟨.FW_SLOT, 31, 0, .ro, false⟩
def HMK_SVN.cast_svn : Fld := ⟨.HMK_SVN, 63, 32, .ro, false⟩
def HMK_SVN.fw_svn : Fld := ⟨.HMK_SVN, 31, 0, .ro, false⟩
def HMK_NAND.bad_blocks : Fld := ⟨.HMK_NAND, 63, 48, .ro, false⟩
def HMK_NAND.free_blocks : Fld := ⟨.HMK_NAND, 47, 32, .ro, false⟩
def HMK_NAND.wear_mean : Fld := ⟨.HMK_NAND, 31, 16, .ro, false⟩
def HMK_NAND.wear_max : Fld := ⟨.HMK_NAND, 15, 0, .ro, false⟩
def TS_STATUS.key_epoch : Fld := ⟨.TS_STATUS, 63, 32, .ro, false⟩
def TS_STATUS.enrolled : Fld := ⟨.TS_STATUS, 31, 28, .ro, false⟩
def TS_STATUS.revoked : Fld := ⟨.TS_STATUS, 27, 24, .ro, false⟩
def TS_KEY_DIGEST.digest : Fld := ⟨.TS_KEY_DIGEST, 63, 0, .ro, false⟩
def HMK_LIFE_POWER_S.count : Fld := ⟨.HMK_LIFE_POWER_S, 63, 0, .ro, false⟩
def HMK_LIFE_RESETS.count : Fld := ⟨.HMK_LIFE_RESETS, 63, 0, .ro, false⟩
def HMK_LIFE_POURS.count : Fld := ⟨.HMK_LIFE_POURS, 63, 0, .ro, false⟩
def HMK_LIFE_START_POURS.count : Fld := ⟨.HMK_LIFE_START_POURS, 63, 0, .ro, false⟩
def HMK_LIFE_ABANDONED.count : Fld := ⟨.HMK_LIFE_ABANDONED, 63, 0, .ro, false⟩
def HMK_LIFE_THERMAL_HALTS.count : Fld := ⟨.HMK_LIFE_THERMAL_HALTS, 63, 0, .ro, false⟩
def HMK_LIFE_HOT_S.count : Fld := ⟨.HMK_LIFE_HOT_S, 63, 0, .ro, false⟩
def HMK_LIFE_NAND_ERASES.count : Fld := ⟨.HMK_LIFE_NAND_ERASES, 63, 0, .ro, false⟩
def HMK_LIFE_COPY_REPAIRS.count : Fld := ⟨.HMK_LIFE_COPY_REPAIRS, 63, 0, .ro, false⟩
def HMK_LIFE_ASSAY_MISMATCH.count : Fld := ⟨.HMK_LIFE_ASSAY_MISMATCH, 63, 0, .ro, false⟩
def NDC_COUNT.count : Fld := ⟨.NDC_COUNT, 63, 0, .ro, false⟩
def NDC_ADD.die : Fld := ⟨.NDC_ADD, 63, 63, .wo, false⟩
def NDC_ADD.amount : Fld := ⟨.NDC_ADD, 31, 0, .wo, false⟩
def OBS_NDC_CFG.alert : Fld := ⟨.OBS_NDC_CFG, 63, 63, .rw, false⟩
def OBS_QUENCH_CTRL.fire : Fld := ⟨.OBS_QUENCH_CTRL, 63, 63, .wo, false⟩
def OBS_QUENCH_CTRL.release : Fld := ⟨.OBS_QUENCH_CTRL, 62, 62, .wo, false⟩
def OBS_QUENCH_CFG.bcast : Fld := ⟨.OBS_QUENCH_CFG, 63, 63, .rw, false⟩
def OBS_QUENCH_CFG.drive_pin : Fld := ⟨.OBS_QUENCH_CFG, 62, 62, .rw, false⟩
def OBS_QUENCH_CFG.pin_en : Fld := ⟨.OBS_QUENCH_CFG, 61, 61, .rw, false⟩
def OBS_QUENCH_CFG.bcast_en : Fld := ⟨.OBS_QUENCH_CFG, 60, 60, .rw, false⟩
def OBS_QUENCH_CFG.view_mgmt : Fld := ⟨.OBS_QUENCH_CFG, 59, 59, .rw, false⟩
def OBS_QUENCH_CFG.view_salter : Fld := ⟨.OBS_QUENCH_CFG, 58, 58, .rw, false⟩
def OBS_QUENCH_STATUS.held : Fld := ⟨.OBS_QUENCH_STATUS, 63, 63, .ro, false⟩
def OBS_QUENCH_STATUS.sources : Fld := ⟨.OBS_QUENCH_STATUS, 62, 58, .ro, false⟩
def OBS_QUENCH_STATUS.matched : Fld := ⟨.OBS_QUENCH_STATUS, 57, 56, .ro, false⟩
def OBS_QUENCH_STATUS.dropped : Fld := ⟨.OBS_QUENCH_STATUS, 47, 32, .ro, false⟩
def OBS_QUENCH_STATUS.quenches : Fld := ⟨.OBS_QUENCH_STATUS, 31, 0, .ro, false⟩
def OBS_QUENCH_TIME.ns : Fld := ⟨.OBS_QUENCH_TIME, 63, 0, .ro, false⟩
def OBS_QUENCH_FRAME.frame : Fld := ⟨.OBS_QUENCH_FRAME, 63, 32, .ro, false⟩
def OBS_QUENCH_FRAME.cycle : Fld := ⟨.OBS_QUENCH_FRAME, 14, 0, .ro, false⟩
def OBS_MATCH.enable : Fld := ⟨.OBS_MATCH, 63, 63, .rw, false⟩
def OBS_MATCH.once : Fld := ⟨.OBS_MATCH, 62, 62, .rw, false⟩
def OBS_MATCH.cls : Fld := ⟨.OBS_MATCH, 55, 48, .rw, false⟩
def OBS_MATCH.code : Fld := ⟨.OBS_MATCH, 47, 40, .rw, false⟩
def OBS_MATCH.code_mask : Fld := ⟨.OBS_MATCH, 39, 32, .rw, false⟩
def OBS_SUM_CFG.enable : Fld := ⟨.OBS_SUM_CFG, 63, 63, .ro, false⟩
def OBS_SUM_CFG.size_log : Fld := ⟨.OBS_SUM_CFG, 56, 52, .ro, false⟩
def OBS_SUM_CFG.base : Fld := ⟨.OBS_SUM_CFG, 47, 0, .ro, false⟩
def OBS_SUM_STATUS.written : Fld := ⟨.OBS_SUM_STATUS, 63, 32, .ro, false⟩
def OBS_SUM_STATUS.next : Fld := ⟨.OBS_SUM_STATUS, 31, 0, .ro, false⟩
def OBS_BG_CFG.scp_scrub : Fld := ⟨.OBS_BG_CFG, 63, 63, .rw, false⟩
def OBS_BG_CFG.scp_period : Fld := ⟨.OBS_BG_CFG, 47, 32, .rw, false⟩
def OBS_PERF_QUENCH_DROP.count : Fld := ⟨.OBS_PERF_QUENCH_DROP, 63, 0, .ro, false⟩
def OBS_PERF_NDC_SW.count : Fld := ⟨.OBS_PERF_NDC_SW, 63, 0, .ro, false⟩
def OBS_PERF_SCP_SCRUB.count : Fld := ⟨.OBS_PERF_SCP_SCRUB, 63, 0, .ro, false⟩
def OBS_PERF_SCP_CORRECTED.count : Fld := ⟨.OBS_PERF_SCP_CORRECTED, 63, 0, .ro, false⟩
def OBS_PERF_SCP_LATE.count : Fld := ⟨.OBS_PERF_SCP_LATE, 63, 0, .ro, false⟩
def OBS_PERF_CAL_LATE.count : Fld := ⟨.OBS_PERF_CAL_LATE, 63, 0, .ro, false⟩
def OBS_PERF_THROTTLE_DOWN.count : Fld := ⟨.OBS_PERF_THROTTLE_DOWN, 63, 0, .ro, false⟩
def OBS_PERF_THROTTLE_UP.count : Fld := ⟨.OBS_PERF_THROTTLE_UP, 63, 0, .ro, false⟩
def UST_ARRAY.table_state : Fld := ⟨.UST_ARRAY, 63, 60, .ro, false⟩
def UST_ARRAY.path_state : Fld := ⟨.UST_ARRAY, 59, 56, .ro, false⟩
def UST_ARRAY.request : Fld := ⟨.UST_ARRAY, 55, 52, .wo, false⟩
def UST_ARRAY.present : Fld := ⟨.UST_ARRAY, 51, 51, .ro, false⟩
def UST_ARRAY.reason : Fld := ⟨.UST_ARRAY, 50, 48, .ro, false⟩
def UST_ARRAY.disagreements : Fld := ⟨.UST_ARRAY, 47, 32, .ro, false⟩
def UST_ARRAY.epoch : Fld := ⟨.UST_ARRAY, 31, 0, .ro, false⟩
def UST_LINK.table_state : Fld := ⟨.UST_LINK, 63, 60, .ro, false⟩
def UST_LINK.path_state : Fld := ⟨.UST_LINK, 59, 56, .ro, false⟩
def UST_LINK.request : Fld := ⟨.UST_LINK, 55, 52, .wo, false⟩
def UST_LINK.present : Fld := ⟨.UST_LINK, 51, 51, .ro, false⟩
def UST_LINK.reason : Fld := ⟨.UST_LINK, 50, 48, .ro, false⟩
def UST_LINK.disagreements : Fld := ⟨.UST_LINK, 47, 32, .ro, false⟩
def UST_LINK.epoch : Fld := ⟨.UST_LINK, 31, 0, .ro, false⟩
def UST_HBM.table_state : Fld := ⟨.UST_HBM, 63, 60, .ro, false⟩
def UST_HBM.path_state : Fld := ⟨.UST_HBM, 59, 56, .ro, false⟩
def UST_HBM.request : Fld := ⟨.UST_HBM, 55, 52, .wo, false⟩
def UST_HBM.present : Fld := ⟨.UST_HBM, 51, 51, .ro, false⟩
def UST_HBM.reason : Fld := ⟨.UST_HBM, 50, 48, .ro, false⟩
def UST_HBM.disagreements : Fld := ⟨.UST_HBM, 47, 32, .ro, false⟩
def UST_HBM.epoch : Fld := ⟨.UST_HBM, 31, 0, .ro, false⟩
def UST_BITTERN.table_state : Fld := ⟨.UST_BITTERN, 63, 60, .ro, false⟩
def UST_BITTERN.path_state : Fld := ⟨.UST_BITTERN, 59, 56, .ro, false⟩
def UST_BITTERN.request : Fld := ⟨.UST_BITTERN, 55, 52, .wo, false⟩
def UST_BITTERN.present : Fld := ⟨.UST_BITTERN, 51, 51, .ro, false⟩
def UST_BITTERN.reason : Fld := ⟨.UST_BITTERN, 50, 48, .ro, false⟩
def UST_BITTERN.disagreements : Fld := ⟨.UST_BITTERN, 47, 32, .ro, false⟩
def UST_BITTERN.epoch : Fld := ⟨.UST_BITTERN, 31, 0, .ro, false⟩
def UST_TEMPER.table_state : Fld := ⟨.UST_TEMPER, 63, 60, .ro, false⟩
def UST_TEMPER.path_state : Fld := ⟨.UST_TEMPER, 59, 56, .ro, false⟩
def UST_TEMPER.request : Fld := ⟨.UST_TEMPER, 55, 52, .wo, false⟩
def UST_TEMPER.present : Fld := ⟨.UST_TEMPER, 51, 51, .ro, false⟩
def UST_TEMPER.reason : Fld := ⟨.UST_TEMPER, 50, 48, .ro, false⟩
def UST_TEMPER.disagreements : Fld := ⟨.UST_TEMPER, 47, 32, .ro, false⟩
def UST_TEMPER.epoch : Fld := ⟨.UST_TEMPER, 31, 0, .ro, false⟩
def UST_STATUS.rejected : Fld := ⟨.UST_STATUS, 63, 63, .w1c, false⟩
def UST_STATUS.opened : Fld := ⟨.UST_STATUS, 47, 32, .ro, false⟩
def UST_PERF_DISAGREE.count : Fld := ⟨.UST_PERF_DISAGREE, 63, 0, .ro, false⟩
def ARR_ID.logical_id : Fld := ⟨.ARR_ID, 63, 48, .ro, false⟩
def ARR_ID.die : Fld := ⟨.ARR_ID, 16, 16, .ro, false⟩
def ARR_ID.row : Fld := ⟨.ARR_ID, 15, 8, .ro, false⟩
def ARR_ID.col : Fld := ⟨.ARR_ID, 7, 0, .ro, false⟩
def ARR_SEQ_CTRL.clear_error : Fld := ⟨.ARR_SEQ_CTRL, 2, 2, .wo, false⟩
def ARR_SEQ_CTRL.halt : Fld := ⟨.ARR_SEQ_CTRL, 1, 1, .wo, false⟩
def ARR_SEQ_CTRL.run : Fld := ⟨.ARR_SEQ_CTRL, 0, 0, .rw, false⟩
def ARR_SEQ_CFG.wait_limit : Fld := ⟨.ARR_SEQ_CFG, 63, 60, .rw, false⟩
def ARR_SEQ_CFG.trailer_window : Fld := ⟨.ARR_SEQ_CFG, 10, 8, .rw, false⟩
def ARR_SEQ_CFG.cmd_window : Fld := ⟨.ARR_SEQ_CFG, 2, 0, .rw, false⟩
def ARR_STATUS.seq_state : Fld := ⟨.ARR_STATUS, 63, 60, .ro, false⟩
def ARR_STATUS.seq_err : Fld := ⟨.ARR_STATUS, 59, 52, .ro, false⟩
def ARR_STATUS.cur_tile : Fld := ⟨.ARR_STATUS, 51, 20, .ro, false⟩
def ARR_STATUS.scale_clamp : Fld := ⟨.ARR_STATUS, 6, 6, .w1c, false⟩
def ARR_STATUS.empty_row : Fld := ⟨.ARR_STATUS, 5, 5, .w1c, false⟩
def ARR_STATUS.inf_in : Fld := ⟨.ARR_STATUS, 4, 4, .w1c, false⟩
def ARR_STATUS.nan_in : Fld := ⟨.ARR_STATUS, 3, 3, .w1c, false⟩
def ARR_STATUS.underflow : Fld := ⟨.ARR_STATUS, 2, 2, .w1c, false⟩
def ARR_STATUS.overflow : Fld := ⟨.ARR_STATUS, 1, 1, .w1c, false⟩
def ARR_STATUS.invalid : Fld := ⟨.ARR_STATUS, 0, 0, .w1c, false⟩
def ARR_EXC_CNT.invalid : Fld := ⟨.ARR_EXC_CNT, 63, 48, .w1c, true⟩
def ARR_EXC_CNT.overflow : Fld := ⟨.ARR_EXC_CNT, 47, 32, .w1c, true⟩
def ARR_EXC_CNT.underflow : Fld := ⟨.ARR_EXC_CNT, 31, 16, .w1c, true⟩
def ARR_EXC_CNT.empty_rows : Fld := ⟨.ARR_EXC_CNT, 15, 0, .w1c, true⟩
def ARR_ERR_INFO.tile_id : Fld := ⟨.ARR_ERR_INFO, 63, 32, .ro, false⟩
def ARR_ERR_INFO.cmd_offset : Fld := ⟨.ARR_ERR_INFO, 18, 0, .ro, false⟩
def SCP_BANK_OWN.pending : Fld := ⟨.SCP_BANK_OWN, 63, 63, .ro, false⟩
def SCP_BANK_OWN.rejected : Fld := ⟨.SCP_BANK_OWN, 62, 62, .w1c, false⟩
def SCP_BANK_OWN.drain_timeout : Fld := ⟨.SCP_BANK_OWN, 61, 61, .w1c, false⟩
def SCP_BANK_OWN.violation : Fld := ⟨.SCP_BANK_OWN, 60, 60, .w1c, false⟩
def SCP_BANK_OWN.handovers : Fld := ⟨.SCP_BANK_OWN, 47, 32, .ro, false⟩
def SCP_BANK_OWN.cur_owner : Fld := ⟨.SCP_BANK_OWN, 15, 12, .ro, false⟩
def SCP_BANK_OWN.new_owner : Fld := ⟨.SCP_BANK_OWN, 3, 0, .rw, false⟩
def SCP_BANK_CFG.clearing : Fld := ⟨.SCP_BANK_CFG, 63, 63, .ro, false⟩
def SCP_BANK_CFG.swizzle : Fld := ⟨.SCP_BANK_CFG, 0, 0, .rw, false⟩
def ARR_WIN_CFG.enable : Fld := ⟨.ARR_WIN_CFG, 63, 63, .rw, false⟩
def ARR_WIN_CFG.overflow : Fld := ⟨.ARR_WIN_CFG, 62, 62, .w1c, false⟩
def ARR_WIN_CFG.underflow : Fld := ⟨.ARR_WIN_CFG, 61, 61, .w1c, false⟩
def ARR_WIN_CFG.cfg_err : Fld := ⟨.ARR_WIN_CFG, 60, 60, .w1c, false⟩
def ARR_WIN_CFG.size : Fld := ⟨.ARR_WIN_CFG, 44, 32, .rw, false⟩
def ARR_WIN_CFG.base : Fld := ⟨.ARR_WIN_CFG, 12, 0, .rw, false⟩
def ARR_WIN_HEAD.lap : Fld := ⟨.ARR_WIN_HEAD, 63, 63, .ro, false⟩
def ARR_WIN_HEAD.adv : Fld := ⟨.ARR_WIN_HEAD, 50, 32, .wo, false⟩
def ARR_WIN_HEAD.pos : Fld := ⟨.ARR_WIN_HEAD, 18, 0, .ro, false⟩
def ARR_WIN_TAIL.lap : Fld := ⟨.ARR_WIN_TAIL, 63, 63, .ro, false⟩
def ARR_WIN_TAIL.adv : Fld := ⟨.ARR_WIN_TAIL, 50, 32, .wo, false⟩
def ARR_WIN_TAIL.pos : Fld := ⟨.ARR_WIN_TAIL, 18, 0, .ro, false⟩
def ARR_WIN_OCC.occupancy : Fld := ⟨.ARR_WIN_OCC, 18, 0, .ro, false⟩
def MARCH_CTRL.start : Fld := ⟨.MARCH_CTRL, 63, 63, .wo, false⟩
def MARCH_CTRL.mode : Fld := ⟨.MARCH_CTRL, 56, 56, .rw, false⟩
def MARCH_CTRL.borrow : Fld := ⟨.MARCH_CTRL, 51, 48, .rw, false⟩
def MARCH_CTRL.bank_mask : Fld := ⟨.MARCH_CTRL, 41, 32, .rw, false⟩
def MARCH_CTRL.bg_mask : Fld := ⟨.MARCH_CTRL, 3, 0, .rw, false⟩
def MARCH_STATUS.state : Fld := ⟨.MARCH_STATUS, 63, 60, .ro, false⟩
def MARCH_STATUS.reason : Fld := ⟨.MARCH_STATUS, 59, 56, .ro, false⟩
def MARCH_STATUS.failed_banks : Fld := ⟨.MARCH_STATUS, 41, 32, .ro, false⟩
def MARCH_STATUS.unrepairable : Fld := ⟨.MARCH_STATUS, 25, 16, .ro, false⟩
def MARCH_STATUS.new_repairs : Fld := ⟨.MARCH_STATUS, 7, 0, .ro, false⟩
def SCP_REPAIR.s0_used : Fld := ⟨.SCP_REPAIR, 63, 63, .ro, false⟩
def SCP_REPAIR.s1_used : Fld := ⟨.SCP_REPAIR, 62, 62, .ro, false⟩
def SCP_REPAIR.s0_bad : Fld := ⟨.SCP_REPAIR, 61, 61, .ro, false⟩
def SCP_REPAIR.s1_bad : Fld := ⟨.SCP_REPAIR, 60, 60, .ro, false⟩
def SCP_REPAIR.unrepairable : Fld := ⟨.SCP_REPAIR, 59, 59, .ro, false⟩
def SCP_REPAIR.s1_line : Fld := ⟨.SCP_REPAIR, 24, 16, .ro, false⟩
def SCP_REPAIR.s0_line : Fld := ⟨.SCP_REPAIR, 8, 0, .ro, false⟩
def ARR_PERF_TILES.count : Fld := ⟨.ARR_PERF_TILES, 63, 0, .ro, false⟩
def ARR_PERF_BUSY.count : Fld := ⟨.ARR_PERF_BUSY, 63, 0, .ro, false⟩
def ARR_PERF_STALL_FEED.count : Fld := ⟨.ARR_PERF_STALL_FEED, 63, 0, .ro, false⟩
def ARR_PERF_STALL_OWN.count : Fld := ⟨.ARR_PERF_STALL_OWN, 63, 0, .ro, false⟩
def ARR_PERF_STALL_WAIT.count : Fld := ⟨.ARR_PERF_STALL_WAIT, 63, 0, .ro, false⟩
def ARR_PERF_STALL_TQ.count : Fld := ⟨.ARR_PERF_STALL_TQ, 63, 0, .ro, false⟩
def ARR_PERF_STALL_TRAILER.count : Fld := ⟨.ARR_PERF_STALL_TRAILER, 63, 0, .ro, false⟩
def SPM_CFG.rowsplit : Fld := ⟨.SPM_CFG, 8, 0, .rw, false⟩
def SPM_STATUS.state : Fld := ⟨.SPM_STATUS, 63, 60, .ro, false⟩
def SPM_STATUS.last_err : Fld := ⟨.SPM_STATUS, 59, 52, .ro, false⟩
def SPM_STATUS.walk_k : Fld := ⟨.SPM_STATUS, 15, 0, .ro, false⟩
def SPM_ERR_INFO.ctile : Fld := ⟨.SPM_ERR_INFO, 63, 48, .ro, false⟩
def SPM_ERR_INFO.reason : Fld := ⟨.SPM_ERR_INFO, 47, 40, .ro, false⟩
def SPM_ERR_INFO.dir_entry : Fld := ⟨.SPM_ERR_INFO, 31, 0, .ro, false⟩
def SPM_PERF_TILES.count : Fld := ⟨.SPM_PERF_TILES, 63, 0, .ro, false⟩
def SPM_PERF_ENTRIES.count : Fld := ⟨.SPM_PERF_ENTRIES, 63, 0, .ro, false⟩
def SPM_PERF_PAIRS.count : Fld := ⟨.SPM_PERF_PAIRS, 63, 0, .ro, false⟩
def SPM_PERF_SKIP_ACT.count : Fld := ⟨.SPM_PERF_SKIP_ACT, 63, 0, .ro, false⟩
def SPM_PERF_SPLIT.count : Fld := ⟨.SPM_PERF_SPLIT, 63, 0, .ro, false⟩
def SPM_PERF_ABSORB.count : Fld := ⟨.SPM_PERF_ABSORB, 63, 0, .ro, false⟩
def SPM_PERF_MERGE.count : Fld := ⟨.SPM_PERF_MERGE, 63, 0, .ro, false⟩
def SPM_PERF_MISPREDICT.count : Fld := ⟨.SPM_PERF_MISPREDICT, 63, 0, .ro, false⟩
def SPM_PERF_SPECIAL.count : Fld := ⟨.SPM_PERF_SPECIAL, 63, 0, .ro, false⟩
def SPM_PERF_STALL_LANEQ.count : Fld := ⟨.SPM_PERF_STALL_LANEQ, 63, 0, .ro, false⟩
def SPM_PERF_STALL_FEED.count : Fld := ⟨.SPM_PERF_STALL_FEED, 63, 0, .ro, false⟩
def SPM_PERF_STALL_LOAD.count : Fld := ⟨.SPM_PERF_STALL_LOAD, 63, 0, .ro, false⟩
def SPM_PERF_STALL_CONFLICT.count : Fld := ⟨.SPM_PERF_STALL_CONFLICT, 63, 0, .ro, false⟩
def VEC_CFG.pacing : Fld := ⟨.VEC_CFG, 63, 63, .rw, false⟩
def VEC_CTRL.tab_flush : Fld := ⟨.VEC_CTRL, 0, 0, .wo, false⟩
def VEC_STATUS.state : Fld := ⟨.VEC_STATUS, 63, 60, .ro, false⟩
def VEC_STATUS.last_err : Fld := ⟨.VEC_STATUS, 59, 52, .ro, false⟩
def VEC_STATUS.vop : Fld := ⟨.VEC_STATUS, 51, 44, .ro, false⟩
def VEC_STATUS.pass : Fld := ⟨.VEC_STATUS, 43, 40, .ro, false⟩
def VEC_LEN.len : Fld := ⟨.VEC_LEN, 20, 0, .ro, false⟩
def VEC_ERR_INFO.status : Fld := ⟨.VEC_ERR_INFO, 63, 56, .ro, false⟩
def VEC_ERR_INFO.vop : Fld := ⟨.VEC_ERR_INFO, 55, 48, .ro, false⟩
def VEC_ERR_INFO.done : Fld := ⟨.VEC_ERR_INFO, 20, 0, .ro, false⟩
def VEC_TAB_SLOT.valid : Fld := ⟨.VEC_TAB_SLOT, 63, 63, .ro, false⟩
def VEC_TAB_SLOT.tab_addr : Fld := ⟨.VEC_TAB_SLOT, 18, 0, .ro, false⟩
def TQ_STATUS.entries : Fld := ⟨.TQ_STATUS, 63, 60, .ro, false⟩
def TQ_STATUS.fwd_held : Fld := ⟨.TQ_STATUS, 59, 56, .ro, false⟩
def TQ_STATUS.bwd_held : Fld := ⟨.TQ_STATUS, 55, 52, .ro, false⟩
def TQ_STATUS.head_tile_id : Fld := ⟨.TQ_STATUS, 47, 16, .ro, false⟩
def FBI_CFG.enable : Fld := ⟨.FBI_CFG, 63, 63, .rw, false⟩
def FBI_CFG.bwd_window : Fld := ⟨.FBI_CFG, 58, 56, .rw, false⟩
def FBI_CFG.wf : Fld := ⟨.FBI_CFG, 55, 52, .rw, false⟩
def FBI_CFG.wb : Fld := ⟨.FBI_CFG, 51, 48, .rw, false⟩
def FBI_CFG.bwd_reserve : Fld := ⟨.FBI_CFG, 42, 40, .rw, false⟩
def FBI_STATUS.turn : Fld := ⟨.FBI_STATUS, 63, 63, .ro, false⟩
def FBI_STATUS.err_bwd : Fld := ⟨.FBI_STATUS, 62, 62, .ro, false⟩
def FBI_STATUS.count : Fld := ⟨.FBI_STATUS, 61, 58, .ro, false⟩
def VEC_PERF_CMDS.count : Fld := ⟨.VEC_PERF_CMDS, 63, 0, .ro, false⟩
def VEC_PERF_BUSY.count : Fld := ⟨.VEC_PERF_BUSY, 63, 0, .ro, false⟩
def VEC_PERF_STALL_OWN.count : Fld := ⟨.VEC_PERF_STALL_OWN, 63, 0, .ro, false⟩
def VEC_PERF_STALL_BANK.count : Fld := ⟨.VEC_PERF_STALL_BANK, 63, 0, .ro, false⟩
def VEC_PERF_STALL_ACC.count : Fld := ⟨.VEC_PERF_STALL_ACC, 63, 0, .ro, false⟩
def VEC_PERF_WAIT_TQ.count : Fld := ⟨.VEC_PERF_WAIT_TQ, 63, 0, .ro, false⟩
def VEC_PERF_WAIT_WIN.count : Fld := ⟨.VEC_PERF_WAIT_WIN, 63, 0, .ro, false⟩
def TQ_PERF_STALL_REGION.count : Fld := ⟨.TQ_PERF_STALL_REGION, 63, 0, .ro, false⟩
def TQ_PERF_STALL_CREDIT.count : Fld := ⟨.TQ_PERF_STALL_CREDIT, 63, 0, .ro, false⟩
def FBI_PERF_FWD.count : Fld := ⟨.FBI_PERF_FWD, 63, 0, .ro, false⟩
def FBI_PERF_BWD.count : Fld := ⟨.FBI_PERF_BWD, 63, 0, .ro, false⟩
def FBI_PERF_FROZEN.count : Fld := ⟨.FBI_PERF_FROZEN, 63, 0, .ro, false⟩
def DIE_INFO.phys_rows : Fld := ⟨.DIE_INFO, 63, 56, .ro, false⟩
def DIE_INFO.phys_cols : Fld := ⟨.DIE_INFO, 55, 48, .ro, false⟩
def DIE_INFO.enabled : Fld := ⟨.DIE_INFO, 47, 36, .ro, false⟩
def DIE_INFO.logical_base : Fld := ⟨.DIE_INFO, 35, 24, .ro, false⟩
def DIE_INFO.spares_free : Fld := ⟨.DIE_INFO, 23, 12, .ro, false⟩
def DIE_INFO.unbound : Fld := ⟨.DIE_INFO, 11, 1, .ro, false⟩
def DIE_INFO.die_index : Fld := ⟨.DIE_INFO, 0, 0, .ro, false⟩
def DIE_D2D_STATUS.link_down_peer : Fld := ⟨.DIE_D2D_STATUS, 33, 33, .ro, false⟩
def DIE_D2D_STATUS.link_down : Fld := ⟨.DIE_D2D_STATUS, 32, 32, .ro, false⟩
def DIE_D2D_STATUS.peer_modules_off : Fld := ⟨.DIE_D2D_STATUS, 31, 24, .ro, false⟩
def DIE_D2D_STATUS.hub_modules_off : Fld := ⟨.DIE_D2D_STATUS, 23, 16, .ro, false⟩
def DIE_D2D_STATUS.retry_count : Fld := ⟨.DIE_D2D_STATUS, 15, 0, .w1c, true⟩
def DIE_SPARE_MAP.bound : Fld := ⟨.DIE_SPARE_MAP, 63, 63, .ro, false⟩
def DIE_SPARE_MAP.logical_id : Fld := ⟨.DIE_SPARE_MAP, 47, 32, .ro, false⟩
def DIE_SPARE_MAP.phys_row : Fld := ⟨.DIE_SPARE_MAP, 23, 16, .ro, false⟩
def DIE_SPARE_MAP.phys_col : Fld := ⟨.DIE_SPARE_MAP, 15, 8, .ro, false⟩
def DIE_SPARE_MAP.origin : Fld := ⟨.DIE_SPARE_MAP, 3, 0, .ro, false⟩
def DIE_CLK_STATUS.array_lock : Fld := ⟨.DIE_CLK_STATUS, 63, 63, .ro, false⟩
def DIE_CLK_STATUS.coast : Fld := ⟨.DIE_CLK_STATUS, 62, 62, .ro, false⟩
def DIE_CLK_STATUS.half : Fld := ⟨.DIE_CLK_STATUS, 61, 61, .ro, false⟩
def DIE_CLK_STATUS.mhz : Fld := ⟨.DIE_CLK_STATUS, 15, 0, .ro, false⟩
def DIE_PWR_STATUS.power : Fld := ⟨.DIE_PWR_STATUS, 63, 48, .ro, false⟩
def DIE_PWR_STATUS.temp_max : Fld := ⟨.DIE_PWR_STATUS, 47, 40, .ro, false⟩
def DIE_PWR_STATUS.throttle : Fld := ⟨.DIE_PWR_STATUS, 39, 36, .ro, false⟩
def DIE_PWR_STATUS.arrays_off : Fld := ⟨.DIE_PWR_STATUS, 35, 24, .ro, false⟩

/-- The fields of every register; what they leave free is reserved (R13). -/
def RegKind.fields : RegKind → List Fld
  | .ID_PART => [ID_PART.part_code, ID_PART.family_member, ID_PART.arrays_enabled, ID_PART.hbm_stacks, ID_PART.hbm_present_mask, ID_PART.pyrfy_pacing, ID_PART.host_rate]
  | .ID_PARAMS => [ID_PARAMS.vec_width, ID_PARAMS.fabric_links, ID_PARAMS.salter_cores, ID_PARAMS.salter_threads, ID_PARAMS.temper_units, ID_PARAMS.compute_dies, ID_PARAMS.bittern_stacks, ID_PARAMS.array_dim]
  | .ID_SERIAL => [ID_SERIAL.serial]
  | .ID_STEPPING => [ID_STEPPING.hub, ID_STEPPING.die1, ID_STEPPING.die0]
  | .CLK_STATUS => [CLK_STATUS.mode, CLK_STATUS.coast, CLK_STATUS.lane_lock, CLK_STATUS.judging, CLK_STATUS.holdover_expired, CLK_STATUS.frames]
  | .CLK_CTRL => [CLK_CTRL.test]
  | .CLK_RO_CAL => [CLK_RO_CAL.ratio, CLK_RO_CAL.ro_cal]
  | .CLK_MON => [CLK_MON.count, CLK_MON.gate, CLK_MON.lo, CLK_MON.hi]
  | .CLK_HOLD => [CLK_HOLD.held, CLK_HOLD.hold_us]
  | .RST_STATUS => [RST_STATUS.cause, RST_STATUS.phase, RST_STATUS.straps, RST_STATUS.ready_ms]
  | .CLK_NMI_VEC => [CLK_NMI_VEC.addr]
  | .CLK_PERF_FALLBACKS => [CLK_PERF_FALLBACKS.count]
  | .CLK_PERF_FALLBACK_US => [CLK_PERF_FALLBACK_US.count]
  | .CLK_PERF_BAD_WINDOWS => [CLK_PERF_BAD_WINDOWS.count]
  | .CLK_PERF_ALIGN_ERR => [CLK_PERF_ALIGN_ERR.count]
  | .CLK_PERF_JUDGE_FAIL => [CLK_PERF_JUDGE_FAIL.count]
  | .HP_STATUS => [HP_STATUS.link, HP_STATUS.sessions]
  | .HP_NET_CFG => [HP_NET_CFG.mtu, HP_NET_CFG.vlan_en, HP_NET_CFG.vid, HP_NET_CFG.pfc_en, HP_NET_CFG.mgmt_pri, HP_NET_CFG.cmd_pri, HP_NET_CFG.bulk_pri, HP_NET_CFG.evt_pri]
  | .HP_UDP_CFG => [HP_UDP_CFG.base]
  | .HP_RETX_CFG => [HP_RETX_CFG.timeout, HP_RETX_CFG.retries]
  | .HP_MBX_CFG => [HP_MBX_CFG.enable, HP_MBX_CFG.base]
  | .HP_EVT_CFG => [HP_EVT_CFG.enable, HP_EVT_CFG.sink]
  | .HP_EVT_STATUS => [HP_EVT_STATUS.queued, HP_EVT_STATUS.lost, HP_EVT_STATUS.next_record]
  | .HP_GW_CFG => [HP_GW_CFG.share]
  | .HP_SELF => [HP_SELF.word]
  | .HP_PEER => [HP_PEER.word]
  | .HP_MBX_PTR => [HP_MBX_PTR.head_lap, HP_MBX_PTR.head, HP_MBX_PTR.tail_lap, HP_MBX_PTR.tail]
  | .HP_GW_PEER => [HP_GW_PEER.word]
  | .HP_PERF_RX_FRAMES => [HP_PERF_RX_FRAMES.count]
  | .HP_PERF_TX_FRAMES => [HP_PERF_TX_FRAMES.count]
  | .HP_PERF_DISCARD => [HP_PERF_DISCARD.count]
  | .HP_PERF_RESEND => [HP_PERF_RESEND.count]
  | .HP_PERF_NAK => [HP_PERF_NAK.count]
  | .HP_PERF_MBX_FULL => [HP_PERF_MBX_FULL.count]
  | .HP_PERF_GW_RX => [HP_PERF_GW_RX.count]
  | .FAB_LINK_STATUS => [FAB_LINK_STATUS.state, FAB_LINK_STATUS.lanes, FAB_LINK_STATUS.level_occ]
  | .FAB_LINK_CFG => [FAB_LINK_CFG.transit_cap]
  | .FAB_LINK_PEER => [FAB_LINK_PEER.peer_id, FAB_LINK_PEER.peer_link, FAB_LINK_PEER.expect_id, FAB_LINK_PEER.expect_link]
  | .FAB_LINK_PERF_TX_BYTES => [FAB_LINK_PERF_TX_BYTES.count]
  | .FAB_LINK_PERF_RX_BYTES => [FAB_LINK_PERF_RX_BYTES.count]
  | .FAB_LINK_PERF_FEC => [FAB_LINK_PERF_FEC.count]
  | .FAB_LINK_PERF_RETRY => [FAB_LINK_PERF_RETRY.count]
  | .FAB_LINK_PERF_TRANSIT => [FAB_LINK_PERF_TRANSIT.count]
  | .FAB_LINK_PERF_DOWN => [FAB_LINK_PERF_DOWN.count]
  | .FAB_PHYS_ID => [FAB_PHYS_ID.set, FAB_PHYS_ID.id]
  | .FAB_ID => [FAB_ID.logical_id, FAB_ID.slice]
  | .FAB_CFG => [FAB_CFG.adaptive, FAB_CFG.gateway, FAB_CFG.groups, FAB_CFG.nm_bias, FAB_CFG.hop_weight, FAB_CFG.gw_hold]
  | .FAB_EPOCH => [FAB_EPOCH.advance, FAB_EPOCH.pending, FAB_EPOCH.refused, FAB_EPOCH.staged, FAB_EPOCH.epoch]
  | .FENCE_TIMEOUT => [FENCE_TIMEOUT.timeout]
  | .FAB_RETX_CFG => [FAB_RETX_CFG.timeout, FAB_RETX_CFG.retries]
  | .FAB_ERR_INFO => [FAB_ERR_INFO.event, FAB_ERR_INFO.status, FAB_ERR_INFO.link, FAB_ERR_INFO.peer, FAB_ERR_INFO.seq]
  | .FAB_TRACK_STATUS => [FAB_TRACK_STATUS.records, FAB_TRACK_STATUS.lost_bits]
  | .FAB_HOT_CFG => [FAB_HOT_CFG.window_log, FAB_HOT_CFG.threshold]
  | .FAB_EXC_CNT => [FAB_EXC_CNT.invalid, FAB_EXC_CNT.overflow, FAB_EXC_CNT.underflow, FAB_EXC_CNT.empty_rows]
  | .FAB_HOT_LINE => [FAB_HOT_LINE.valid, FAB_HOT_LINE.count, FAB_HOT_LINE.line]
  | .FAB_PERF_MOVES => [FAB_PERF_MOVES.count]
  | .FAB_PERF_FORCED => [FAB_PERF_FORCED.count]
  | .FAB_PERF_RETX => [FAB_PERF_RETX.count]
  | .FAB_PERF_DUP => [FAB_PERF_DUP.count]
  | .FAB_PERF_REORDER_HELD => [FAB_PERF_REORDER_HELD.count]
  | .FAB_PERF_REORDER_DROP => [FAB_PERF_REORDER_DROP.count]
  | .FAB_PERF_RETX_FULL => [FAB_PERF_RETX_FULL.count]
  | .FAB_PERF_MERGES => [FAB_PERF_MERGES.count]
  | .FAB_PERF_TABLE_FULL => [FAB_PERF_TABLE_FULL.count]
  | .FAB_PERF_NDC => [FAB_PERF_NDC.count]
  | .FAB_PERF_SLICE_REFUSED => [FAB_PERF_SLICE_REFUSED.count]
  | .FAB_PERF_TRANSIT_REFUSED => [FAB_PERF_TRANSIT_REFUSED.count]
  | .FAB_PERF_FENCES => [FAB_PERF_FENCES.count]
  | .FAB_PERF_BAD_PKT => [FAB_PERF_BAD_PKT.count]
  | .FAB_PERF_GW_BULK => [FAB_PERF_GW_BULK.count]
  | .FAB_SLICE_MAP => [FAB_SLICE_MAP.bits]
  | .FAB_REMAP => [FAB_REMAP.valid, FAB_REMAP.logical, FAB_REMAP.physical]
  | .FAB_NM_MASK => [FAB_NM_MASK.mask]
  | .FAB_GW => [FAB_GW.gw0_valid, FAB_GW.gw1_valid, FAB_GW.gw1, FAB_GW.gw0]
  | .SALT_CTRL => [SALT_CTRL.halt, SALT_CTRL.run]
  | .SALT_STATUS => [SALT_STATUS.running, SALT_STATUS.remote, SALT_STATUS.faulted]
  | .RAKE_HALF_ARM => [RAKE_HALF_ARM.epoch, RAKE_HALF_ARM.n_groups, RAKE_HALF_ARM.slot, RAKE_HALF_ARM.half, RAKE_HALF_ARM.backward, RAKE_HALF_ARM.cpl_array, RAKE_HALF_ARM.cpl_window]
  | .QM_RELEASE => [QM_RELEASE.slot, QM_RELEASE.rank, QM_RELEASE.backward, QM_RELEASE.expert, QM_RELEASE.seq]
  | .RES_STEP => [RES_STEP.step]
  | .SLU_SUBMIT => [SLU_SUBMIT.addr]
  | .SLU_CANCEL => [SLU_CANCEL.epoch]
  | .SLU_ARM => [SLU_ARM.epoch]
  | .RX_ERR_INFO => [RX_ERR_INFO.source, RX_ERR_INFO.code, RX_ERR_INFO.stream, RX_ERR_INFO.slot, RX_ERR_INFO.detail]
  | .RAKE_STREAM_CFG => [RAKE_STREAM_CFG.enable, RAKE_STREAM_CFG.array, RAKE_STREAM_CFG.cpl_window]
  | .RAKE_STREAM_SUBMIT => [RAKE_STREAM_SUBMIT.g, RAKE_STREAM_SUBMIT.half, RAKE_STREAM_SUBMIT.slot, RAKE_STREAM_SUBMIT.route]
  | .RAKE_STREAM_STATUS => [RAKE_STREAM_STATUS.state, RAKE_STREAM_STATUS.err, RAKE_STREAM_STATUS.pending, RAKE_STREAM_STATUS.g, RAKE_STREAM_STATUS.queued]
  | .NTC_RING_CFG => [NTC_RING_CFG.enable, NTC_RING_CFG.size_log, NTC_RING_CFG.base]
  | .NTC_RING_PTR => [NTC_RING_PTR.head_lap, NTC_RING_PTR.head, NTC_RING_PTR.tail_lap, NTC_RING_PTR.tail]
  | .RX_PERF_SUBMITS => [RX_PERF_SUBMITS.count]
  | .RX_PERF_DISPATCH => [RX_PERF_DISPATCH.count]
  | .RX_PERF_DROP => [RX_PERF_DROP.count]
  | .RX_PERF_ABSENT => [RX_PERF_ABSENT.count]
  | .RX_PERF_STALL_DEST => [RX_PERF_STALL_DEST.count]
  | .RX_PERF_STALL_FULL => [RX_PERF_STALL_FULL.count]
  | .RX_PERF_GROUPS => [RX_PERF_GROUPS.count]
  | .RX_PERF_EXC_OVF => [RX_PERF_EXC_OVF.count]
  | .RX_PERF_EXC_UNF => [RX_PERF_EXC_UNF.count]
  | .RX_PERF_NDC => [RX_PERF_NDC.count]
  | .SLU_PERF_ROWS => [SLU_PERF_ROWS.count]
  | .SLU_PERF_CANCEL_DROP => [SLU_PERF_CANCEL_DROP.count]
  | .SLU_PERF_LATE_CANCEL => [SLU_PERF_LATE_CANCEL.count]
  | .RES_PERF_FETCH_DEMAND => [RES_PERF_FETCH_DEMAND.count]
  | .RES_PERF_FETCH_PREFETCH => [RES_PERF_FETCH_PREFETCH.count]
  | .RES_PERF_EVICT => [RES_PERF_EVICT.count]
  | .RES_PERF_WAIT => [RES_PERF_WAIT.count]
  | .SLU_EPOCH_MAP => [SLU_EPOCH_MAP.bits]
  | .RX_EXPERT_TABLE => [RX_EXPERT_TABLE.word]
  | .RX_LAYER_TABLE => [RX_LAYER_TABLE.word]
  | .RES_HIST => [RES_HIST.word]
  | .RES_STATE => [RES_STATE.word]
  | .TMP_CFG => [TMP_CFG.seg_timeout]
  | .TMP_SEED => [TMP_SEED.seed]
  | .TEMPER_NORM_CEIL => [TEMPER_NORM_CEIL.ceil]
  | .TMP_SHARD_BASE => [TMP_SHARD_BASE.count, TMP_SHARD_BASE.base]
  | .TMP_LAYER_BASE => [TMP_LAYER_BASE.count, TMP_LAYER_BASE.base]
  | .TMP_HSET_BASE => [TMP_HSET_BASE.count, TMP_HSET_BASE.base]
  | .TMP_TELE_CFG => [TMP_TELE_CFG.enable, TMP_TELE_CFG.size_log, TMP_TELE_CFG.base]
  | .TMP_TELE_PTR => [TMP_TELE_PTR.head_lap, TMP_TELE_PTR.head, TMP_TELE_PTR.tail_lap, TMP_TELE_PTR.tail]
  | .TMP_ASSAY_CFG => [TMP_ASSAY_CFG.enable, TMP_ASSAY_CFG.budget]
  | .TMP_SEG_ARRIVE => [TMP_SEG_ARRIVE.addr]
  | .TMP_DERIVE => [TMP_DERIVE.index]
  | .TMP_ERR_INFO => [TMP_ERR_INFO.code, TMP_ERR_INFO.replica, TMP_ERR_INFO.check, TMP_ERR_INFO.index]
  | .TMP_UNIT_STATUS => [TMP_UNIT_STATUS.state, TMP_UNIT_STATUS.parked, TMP_UNIT_STATUS.index]
  | .TMP_STATUS => [TMP_STATUS.exc]
  | .TMP_EXC_CNT => [TMP_EXC_CNT.invalid, TMP_EXC_CNT.overflow, TMP_EXC_CNT.underflow]
  | .TMP_PERF_UPDATES => [TMP_PERF_UPDATES.count]
  | .TMP_PERF_WITHHELD => [TMP_PERF_WITHHELD.count]
  | .TMP_PERF_ZERO_VISIT => [TMP_PERF_ZERO_VISIT.count]
  | .TMP_PERF_SEGMENTS => [TMP_PERF_SEGMENTS.count]
  | .TMP_PERF_BAD_SEGMENT => [TMP_PERF_BAD_SEGMENT.count]
  | .TMP_PERF_MISSING => [TMP_PERF_MISSING.count]
  | .TMP_PERF_FETCH => [TMP_PERF_FETCH.count]
  | .TMP_PERF_FETCH_RETRY => [TMP_PERF_FETCH_RETRY.count]
  | .TMP_PERF_ASSAY => [TMP_PERF_ASSAY.count]
  | .TMP_PERF_ASSAY_MISMATCH => [TMP_PERF_ASSAY_MISMATCH.count]
  | .TMP_PERF_ASSAY_STALE => [TMP_PERF_ASSAY_STALE.count]
  | .TMP_PERF_ASSAY_ABANDON => [TMP_PERF_ASSAY_ABANDON.count]
  | .TMP_PERF_TELE_LOST => [TMP_PERF_TELE_LOST.count]
  | .TMP_PERF_RATIO_ALERT => [TMP_PERF_RATIO_ALERT.count]
  | .TMP_PERF_PARK_CYCLES => [TMP_PERF_PARK_CYCLES.count]
  | .TMP_SHARD_STATE => [TMP_SHARD_STATE.phase, TMP_SHARD_STATE.cur, TMP_SHARD_STATE.repair, TMP_SHARD_STATE.present, TMP_SHARD_STATE.version]
  | .HBM_STK_INFO => [HBM_STK_INFO.state, HBM_STK_INFO.position, HBM_STK_INFO.die, HBM_STK_INFO.capacity, HBM_STK_INFO.device_id]
  | .HBM_STK_TEMP => [HBM_STK_TEMP.temp, HBM_STK_TEMP.temp_max, HBM_STK_TEMP.refresh]
  | .HBM_ECC_CNT => [HBM_ECC_CNT.corrected, HBM_ECC_CNT.uncorrectable, HBM_ECC_CNT.poisoned_reads]
  | .HBM_ECC_LOG => [HBM_ECC_LOG.valid, HBM_ECC_LOG.scrub, HBM_ECC_LOG.offset]
  | .HBM_SCRUB_STATUS => [HBM_SCRUB_STATUS.passes, HBM_SCRUB_STATUS.position]
  | .HBM_REPAIR_STATUS => [HBM_REPAIR_STATUS.hard, HBM_REPAIR_STATUS.soft, HBM_REPAIR_STATUS.pending, HBM_REPAIR_STATUS.unrepairable, HBM_REPAIR_STATUS.logged, HBM_REPAIR_STATUS.lost]
  | .HBM_TEST_CTRL => [HBM_TEST_CTRL.start, HBM_TEST_CTRL.op, HBM_TEST_CTRL.length, HBM_TEST_CTRL.instruction]
  | .HBM_TEST_ADDR => [HBM_TEST_ADDR.pc, HBM_TEST_ADDR.bank, HBM_TEST_ADDR.row]
  | .HBM_TEST_DATA => [HBM_TEST_DATA.data]
  | .HBM_TEST_STATUS => [HBM_TEST_STATUS.state, HBM_TEST_STATUS.reason]
  | .HBM_PERF_RD_BYTES => [HBM_PERF_RD_BYTES.count]
  | .HBM_PERF_WR_BYTES => [HBM_PERF_WR_BYTES.count]
  | .HBM_PERF_CROSS_DIE => [HBM_PERF_CROSS_DIE.count]
  | .HBM_PERF_RMW => [HBM_PERF_RMW.count]
  | .HBM_PERF_REFRESH => [HBM_PERF_REFRESH.count]
  | .HBM_PERF_SCRUB_BYTES => [HBM_PERF_SCRUB_BYTES.count]
  | .BIT_STK_INFO => [BIT_STK_INFO.state, BIT_STK_INFO.position, BIT_STK_INFO.die, BIT_STK_INFO.capacity, BIT_STK_INFO.device_id]
  | .BIT_STK_TEMP => [BIT_STK_TEMP.temp, BIT_STK_TEMP.temp_max, BIT_STK_TEMP.refresh]
  | .BIT_ECC_CNT => [BIT_ECC_CNT.corrected, BIT_ECC_CNT.uncorrectable, BIT_ECC_CNT.poisoned_reads]
  | .BIT_ECC_LOG => [BIT_ECC_LOG.valid, BIT_ECC_LOG.scrub, BIT_ECC_LOG.offset]
  | .BIT_SCRUB_STATUS => [BIT_SCRUB_STATUS.passes, BIT_SCRUB_STATUS.position]
  | .BIT_PERF_RD_BYTES => [BIT_PERF_RD_BYTES.count]
  | .BIT_PERF_WR_BYTES => [BIT_PERF_WR_BYTES.count]
  | .BIT_PERF_CROSS_DIE => [BIT_PERF_CROSS_DIE.count]
  | .BIT_PERF_RMW => [BIT_PERF_RMW.count]
  | .BIT_PERF_REFRESH => [BIT_PERF_REFRESH.count]
  | .BIT_PERF_SCRUB_BYTES => [BIT_PERF_SCRUB_BYTES.count]
  | .MEM_IL_REGION => [MEM_IL_REGION.valid, MEM_IL_REGION.granule, MEM_IL_REGION.mask, MEM_IL_REGION.offset, MEM_IL_REGION.extent]
  | .MEM_CRC_BASE => [MEM_CRC_BASE.valid, MEM_CRC_BASE.base]
  | .MEM_CRC_SIZE => [MEM_CRC_SIZE.size]
  | .MEM_CRC_TABLE => [MEM_CRC_TABLE.table]
  | .MEM_SCRUB_CFG => [MEM_SCRUB_CFG.hbm_en, MEM_SCRUB_CFG.bit_en, MEM_SCRUB_CFG.crc_scrub, MEM_SCRUB_CFG.hbm_hours, MEM_SCRUB_CFG.bit_hours, MEM_SCRUB_CFG.hbm_budget, MEM_SCRUB_CFG.bit_budget]
  | .MEM_CRC_ERR_INFO => [MEM_CRC_ERR_INFO.block, MEM_CRC_ERR_INFO.source]
  | .MEM_PERF_CHECKED => [MEM_PERF_CHECKED.count]
  | .MEM_PERF_CRC_RETRY => [MEM_PERF_CRC_RETRY.count]
  | .MEM_PERF_CRC_FAIL => [MEM_PERF_CRC_FAIL.count]
  | .MEM_PERF_UNCHECKED => [MEM_PERF_UNCHECKED.count]
  | .MEM_PERF_SCRUB_LATE => [MEM_PERF_SCRUB_LATE.count]
  | .STG_ROOT => [STG_ROOT.root, STG_ROOT.packages]
  | .STG_STEP_ARM => [STG_STEP_ARM.step, STG_STEP_ARM.mbs]
  | .STG_ABORT => [STG_ABORT.user_code]
  | .STG_STEP_STATUS => [STG_STEP_STATUS.state, STG_STEP_STATUS.cause, STG_STEP_STATUS.user_code, STG_STEP_STATUS.step]
  | .STG_CLEAR => [STG_CLEAR.clear]
  | .STK_REQ => [STK_REQ.slot, STK_REQ.pool, STK_REQ.cls, STK_REQ.mb, STK_REQ.n, STK_REQ.tag]
  | .STK_FREE => [STK_FREE.slot, STK_FREE.mb]
  | .STG_ARRIVE => [STG_ARRIVE.slot, STG_ARRIVE.role, STG_ARRIVE.seq]
  | .STG_RELEASE => [STG_RELEASE.slot, STG_RELEASE.role, STG_RELEASE.seq]
  | .STG_ERR_INFO => [STG_ERR_INFO.code, STG_ERR_INFO.slot, STG_ERR_INFO.backward, STG_ERR_INFO.mb, STG_ERR_INFO.seq]
  | .STG_PERF_LATE_ABORT => [STG_PERF_LATE_ABORT.count]
  | .STG_ENTRY => [STG_ENTRY.word]
  | .STG_QUEUE => [STG_QUEUE.word]
  | .STK_USED => [STK_USED.stk_used, STK_USED.spill_used]
  | .STK_BRES => [STK_BRES.bres_used]
  | .STK_HWM => [STK_HWM.rearm, STK_HWM.stk_hwm, STK_HWM.spill_hwm]
  | .STG_STATE => [STG_STATE.inflight, STG_STATE.tripped, STG_STATE.held_req, STG_STATE.held_admit, STG_STATE.oldest, STG_STATE.newest]
  | .STG_PERF_ADMIT => [STG_PERF_ADMIT.count]
  | .STG_PERF_SPANS => [STG_PERF_SPANS.count]
  | .STG_PERF_SEND_FWD => [STG_PERF_SEND_FWD.count]
  | .STG_PERF_SEND_BWD => [STG_PERF_SEND_BWD.count]
  | .STG_PERF_STARVE_FWD => [STG_PERF_STARVE_FWD.count]
  | .STG_PERF_STARVE_BWD => [STG_PERF_STARVE_BWD.count]
  | .STG_PERF_HOLD_ADMIT => [STG_PERF_HOLD_ADMIT.count]
  | .STG_PERF_HOLD_STK => [STG_PERF_HOLD_STK.count]
  | .STK_PERF_SPILL => [STK_PERF_SPILL.count]
  | .STK_PERF_DISCARD => [STK_PERF_DISCARD.count]
  | .STK_PERF_SKIP => [STK_PERF_SKIP.count]
  | .HMK_CMD => [HMK_CMD.op]
  | .HMK_ARG0 => [HMK_ARG0.partition, HMK_ARG0.slot, HMK_ARG0.addr]
  | .HMK_ARG1 => [HMK_ARG1.offset, HMK_ARG1.length]
  | .HMK_STATUS => [HMK_STATUS.state, HMK_STATUS.op, HMK_STATUS.step, HMK_STATUS.reason, HMK_STATUS.progress]
  | .HMK_ERR_INFO => [HMK_ERR_INFO.event, HMK_ERR_INFO.sect, HMK_ERR_INFO.step, HMK_ERR_INFO.detail]
  | .CST_STATE => [CST_STATE.configured, CST_STATE.pouring, CST_STATE.active_valid, CST_STATE.active_slot, CST_STATE.start_failures, CST_STATE.pour]
  | .CST_SLOT => [CST_SLOT.valid, CST_SLOT.running, CST_SLOT.confirmed, CST_SLOT.part_code, CST_SLOT.svn]
  | .FW_SLOT => [FW_SLOT.valid, FW_SLOT.running, FW_SLOT.confirmed, FW_SLOT.part_code, FW_SLOT.svn]
  | .HMK_SVN => [HMK_SVN.cast_svn, HMK_SVN.fw_svn]
  | .HMK_NAND => [HMK_NAND.bad_blocks, HMK_NAND.free_blocks, HMK_NAND.wear_mean, HMK_NAND.wear_max]
  | .TS_STATUS => [TS_STATUS.key_epoch, TS_STATUS.enrolled, TS_STATUS.revoked]
  | .TS_KEY_DIGEST => [TS_KEY_DIGEST.digest]
  | .HMK_LIFE_POWER_S => [HMK_LIFE_POWER_S.count]
  | .HMK_LIFE_RESETS => [HMK_LIFE_RESETS.count]
  | .HMK_LIFE_POURS => [HMK_LIFE_POURS.count]
  | .HMK_LIFE_START_POURS => [HMK_LIFE_START_POURS.count]
  | .HMK_LIFE_ABANDONED => [HMK_LIFE_ABANDONED.count]
  | .HMK_LIFE_THERMAL_HALTS => [HMK_LIFE_THERMAL_HALTS.count]
  | .HMK_LIFE_HOT_S => [HMK_LIFE_HOT_S.count]
  | .HMK_LIFE_NAND_ERASES => [HMK_LIFE_NAND_ERASES.count]
  | .HMK_LIFE_COPY_REPAIRS => [HMK_LIFE_COPY_REPAIRS.count]
  | .HMK_LIFE_ASSAY_MISMATCH => [HMK_LIFE_ASSAY_MISMATCH.count]
  | .NDC_COUNT => [NDC_COUNT.count]
  | .NDC_ADD => [NDC_ADD.die, NDC_ADD.amount]
  | .OBS_NDC_CFG => [OBS_NDC_CFG.alert]
  | .OBS_QUENCH_CTRL => [OBS_QUENCH_CTRL.fire, OBS_QUENCH_CTRL.release]
  | .OBS_QUENCH_CFG => [OBS_QUENCH_CFG.bcast, OBS_QUENCH_CFG.drive_pin, OBS_QUENCH_CFG.pin_en, OBS_QUENCH_CFG.bcast_en, OBS_QUENCH_CFG.view_mgmt, OBS_QUENCH_CFG.view_salter]
  | .OBS_QUENCH_STATUS => [OBS_QUENCH_STATUS.held, OBS_QUENCH_STATUS.sources, OBS_QUENCH_STATUS.matched, OBS_QUENCH_STATUS.dropped, OBS_QUENCH_STATUS.quenches]
  | .OBS_QUENCH_TIME => [OBS_QUENCH_TIME.ns]
  | .OBS_QUENCH_FRAME => [OBS_QUENCH_FRAME.frame, OBS_QUENCH_FRAME.cycle]
  | .OBS_MATCH => [OBS_MATCH.enable, OBS_MATCH.once, OBS_MATCH.cls, OBS_MATCH.code, OBS_MATCH.code_mask]
  | .OBS_SUM_CFG => [OBS_SUM_CFG.enable, OBS_SUM_CFG.size_log, OBS_SUM_CFG.base]
  | .OBS_SUM_STATUS => [OBS_SUM_STATUS.written, OBS_SUM_STATUS.next]
  | .OBS_BG_CFG => [OBS_BG_CFG.scp_scrub, OBS_BG_CFG.scp_period]
  | .OBS_PERF_QUENCH_DROP => [OBS_PERF_QUENCH_DROP.count]
  | .OBS_PERF_NDC_SW => [OBS_PERF_NDC_SW.count]
  | .OBS_PERF_SCP_SCRUB => [OBS_PERF_SCP_SCRUB.count]
  | .OBS_PERF_SCP_CORRECTED => [OBS_PERF_SCP_CORRECTED.count]
  | .OBS_PERF_SCP_LATE => [OBS_PERF_SCP_LATE.count]
  | .OBS_PERF_CAL_LATE => [OBS_PERF_CAL_LATE.count]
  | .OBS_PERF_THROTTLE_DOWN => [OBS_PERF_THROTTLE_DOWN.count]
  | .OBS_PERF_THROTTLE_UP => [OBS_PERF_THROTTLE_UP.count]
  | .UST_ARRAY => [UST_ARRAY.table_state, UST_ARRAY.path_state, UST_ARRAY.request, UST_ARRAY.present, UST_ARRAY.reason, UST_ARRAY.disagreements, UST_ARRAY.epoch]
  | .UST_LINK => [UST_LINK.table_state, UST_LINK.path_state, UST_LINK.request, UST_LINK.present, UST_LINK.reason, UST_LINK.disagreements, UST_LINK.epoch]
  | .UST_HBM => [UST_HBM.table_state, UST_HBM.path_state, UST_HBM.request, UST_HBM.present, UST_HBM.reason, UST_HBM.disagreements, UST_HBM.epoch]
  | .UST_BITTERN => [UST_BITTERN.table_state, UST_BITTERN.path_state, UST_BITTERN.request, UST_BITTERN.present, UST_BITTERN.reason, UST_BITTERN.disagreements, UST_BITTERN.epoch]
  | .UST_TEMPER => [UST_TEMPER.table_state, UST_TEMPER.path_state, UST_TEMPER.request, UST_TEMPER.present, UST_TEMPER.reason, UST_TEMPER.disagreements, UST_TEMPER.epoch]
  | .UST_STATUS => [UST_STATUS.rejected, UST_STATUS.opened]
  | .UST_PERF_DISAGREE => [UST_PERF_DISAGREE.count]
  | .ARR_ID => [ARR_ID.logical_id, ARR_ID.die, ARR_ID.row, ARR_ID.col]
  | .ARR_SEQ_CTRL => [ARR_SEQ_CTRL.clear_error, ARR_SEQ_CTRL.halt, ARR_SEQ_CTRL.run]
  | .ARR_SEQ_CFG => [ARR_SEQ_CFG.wait_limit, ARR_SEQ_CFG.trailer_window, ARR_SEQ_CFG.cmd_window]
  | .ARR_STATUS => [ARR_STATUS.seq_state, ARR_STATUS.seq_err, ARR_STATUS.cur_tile, ARR_STATUS.scale_clamp, ARR_STATUS.empty_row, ARR_STATUS.inf_in, ARR_STATUS.nan_in, ARR_STATUS.underflow, ARR_STATUS.overflow, ARR_STATUS.invalid]
  | .ARR_EXC_CNT => [ARR_EXC_CNT.invalid, ARR_EXC_CNT.overflow, ARR_EXC_CNT.underflow, ARR_EXC_CNT.empty_rows]
  | .ARR_ERR_INFO => [ARR_ERR_INFO.tile_id, ARR_ERR_INFO.cmd_offset]
  | .SCP_BANK_OWN => [SCP_BANK_OWN.pending, SCP_BANK_OWN.rejected, SCP_BANK_OWN.drain_timeout, SCP_BANK_OWN.violation, SCP_BANK_OWN.handovers, SCP_BANK_OWN.cur_owner, SCP_BANK_OWN.new_owner]
  | .SCP_BANK_CFG => [SCP_BANK_CFG.clearing, SCP_BANK_CFG.swizzle]
  | .ARR_WIN_CFG => [ARR_WIN_CFG.enable, ARR_WIN_CFG.overflow, ARR_WIN_CFG.underflow, ARR_WIN_CFG.cfg_err, ARR_WIN_CFG.size, ARR_WIN_CFG.base]
  | .ARR_WIN_HEAD => [ARR_WIN_HEAD.lap, ARR_WIN_HEAD.adv, ARR_WIN_HEAD.pos]
  | .ARR_WIN_TAIL => [ARR_WIN_TAIL.lap, ARR_WIN_TAIL.adv, ARR_WIN_TAIL.pos]
  | .ARR_WIN_OCC => [ARR_WIN_OCC.occupancy]
  | .MARCH_CTRL => [MARCH_CTRL.start, MARCH_CTRL.mode, MARCH_CTRL.borrow, MARCH_CTRL.bank_mask, MARCH_CTRL.bg_mask]
  | .MARCH_STATUS => [MARCH_STATUS.state, MARCH_STATUS.reason, MARCH_STATUS.failed_banks, MARCH_STATUS.unrepairable, MARCH_STATUS.new_repairs]
  | .SCP_REPAIR => [SCP_REPAIR.s0_used, SCP_REPAIR.s1_used, SCP_REPAIR.s0_bad, SCP_REPAIR.s1_bad, SCP_REPAIR.unrepairable, SCP_REPAIR.s1_line, SCP_REPAIR.s0_line]
  | .ARR_PERF_TILES => [ARR_PERF_TILES.count]
  | .ARR_PERF_BUSY => [ARR_PERF_BUSY.count]
  | .ARR_PERF_STALL_FEED => [ARR_PERF_STALL_FEED.count]
  | .ARR_PERF_STALL_OWN => [ARR_PERF_STALL_OWN.count]
  | .ARR_PERF_STALL_WAIT => [ARR_PERF_STALL_WAIT.count]
  | .ARR_PERF_STALL_TQ => [ARR_PERF_STALL_TQ.count]
  | .ARR_PERF_STALL_TRAILER => [ARR_PERF_STALL_TRAILER.count]
  | .SPM_CFG => [SPM_CFG.rowsplit]
  | .SPM_STATUS => [SPM_STATUS.state, SPM_STATUS.last_err, SPM_STATUS.walk_k]
  | .SPM_ERR_INFO => [SPM_ERR_INFO.ctile, SPM_ERR_INFO.reason, SPM_ERR_INFO.dir_entry]
  | .SPM_PERF_TILES => [SPM_PERF_TILES.count]
  | .SPM_PERF_ENTRIES => [SPM_PERF_ENTRIES.count]
  | .SPM_PERF_PAIRS => [SPM_PERF_PAIRS.count]
  | .SPM_PERF_SKIP_ACT => [SPM_PERF_SKIP_ACT.count]
  | .SPM_PERF_SPLIT => [SPM_PERF_SPLIT.count]
  | .SPM_PERF_ABSORB => [SPM_PERF_ABSORB.count]
  | .SPM_PERF_MERGE => [SPM_PERF_MERGE.count]
  | .SPM_PERF_MISPREDICT => [SPM_PERF_MISPREDICT.count]
  | .SPM_PERF_SPECIAL => [SPM_PERF_SPECIAL.count]
  | .SPM_PERF_STALL_LANEQ => [SPM_PERF_STALL_LANEQ.count]
  | .SPM_PERF_STALL_FEED => [SPM_PERF_STALL_FEED.count]
  | .SPM_PERF_STALL_LOAD => [SPM_PERF_STALL_LOAD.count]
  | .SPM_PERF_STALL_CONFLICT => [SPM_PERF_STALL_CONFLICT.count]
  | .VEC_CFG => [VEC_CFG.pacing]
  | .VEC_CTRL => [VEC_CTRL.tab_flush]
  | .VEC_STATUS => [VEC_STATUS.state, VEC_STATUS.last_err, VEC_STATUS.vop, VEC_STATUS.pass]
  | .VEC_LEN => [VEC_LEN.len]
  | .VEC_ERR_INFO => [VEC_ERR_INFO.status, VEC_ERR_INFO.vop, VEC_ERR_INFO.done]
  | .VEC_TAB_SLOT => [VEC_TAB_SLOT.valid, VEC_TAB_SLOT.tab_addr]
  | .TQ_STATUS => [TQ_STATUS.entries, TQ_STATUS.fwd_held, TQ_STATUS.bwd_held, TQ_STATUS.head_tile_id]
  | .FBI_CFG => [FBI_CFG.enable, FBI_CFG.bwd_window, FBI_CFG.wf, FBI_CFG.wb, FBI_CFG.bwd_reserve]
  | .FBI_STATUS => [FBI_STATUS.turn, FBI_STATUS.err_bwd, FBI_STATUS.count]
  | .VEC_PERF_CMDS => [VEC_PERF_CMDS.count]
  | .VEC_PERF_BUSY => [VEC_PERF_BUSY.count]
  | .VEC_PERF_STALL_OWN => [VEC_PERF_STALL_OWN.count]
  | .VEC_PERF_STALL_BANK => [VEC_PERF_STALL_BANK.count]
  | .VEC_PERF_STALL_ACC => [VEC_PERF_STALL_ACC.count]
  | .VEC_PERF_WAIT_TQ => [VEC_PERF_WAIT_TQ.count]
  | .VEC_PERF_WAIT_WIN => [VEC_PERF_WAIT_WIN.count]
  | .TQ_PERF_STALL_REGION => [TQ_PERF_STALL_REGION.count]
  | .TQ_PERF_STALL_CREDIT => [TQ_PERF_STALL_CREDIT.count]
  | .FBI_PERF_FWD => [FBI_PERF_FWD.count]
  | .FBI_PERF_BWD => [FBI_PERF_BWD.count]
  | .FBI_PERF_FROZEN => [FBI_PERF_FROZEN.count]
  | .DIE_INFO => [DIE_INFO.phys_rows, DIE_INFO.phys_cols, DIE_INFO.enabled, DIE_INFO.logical_base, DIE_INFO.spares_free, DIE_INFO.unbound, DIE_INFO.die_index]
  | .DIE_D2D_STATUS => [DIE_D2D_STATUS.link_down_peer, DIE_D2D_STATUS.link_down, DIE_D2D_STATUS.peer_modules_off, DIE_D2D_STATUS.hub_modules_off, DIE_D2D_STATUS.retry_count]
  | .DIE_SPARE_MAP => [DIE_SPARE_MAP.bound, DIE_SPARE_MAP.logical_id, DIE_SPARE_MAP.phys_row, DIE_SPARE_MAP.phys_col, DIE_SPARE_MAP.origin]
  | .DIE_CLK_STATUS => [DIE_CLK_STATUS.array_lock, DIE_CLK_STATUS.coast, DIE_CLK_STATUS.half, DIE_CLK_STATUS.mhz]
  | .DIE_PWR_STATUS => [DIE_PWR_STATUS.power, DIE_PWR_STATUS.temp_max, DIE_PWR_STATUS.throttle, DIE_PWR_STATUS.arrays_off]

/-- The reset value the manual's tables state in numbers, over all fields; fields whose reset is fused, from the
Hallmark, a strap or the casting contribute 0 here (log 3 to 6) and are supplied by `resetValue`. -/
def RegKind.resetBits : RegKind → Nat
  | .ID_PART => 0x90000000140
  | .ID_PARAMS => 0x4010200804020420
  | .CLK_STATUS => 0x800000000000000
  | .HP_NET_CFG => 0x5DC00007CF80000
  | .HP_RETX_CFG => 0x32100000000000
  | .HP_EVT_CFG => 0x8000000000000000
  | .HP_GW_CFG => 0x4000000000000000
  | .FAB_LINK_CFG => 0x10
  | .FAB_CFG => 0x4010000FA0
  | .FENCE_TIMEOUT => 0x2710
  | .FAB_RETX_CFG => 0x1000000008
  | .FAB_HOT_CFG => 0x8000000000000400
  | .TMP_ASSAY_CFG => 0x4
  | .HBM_STK_INFO => 0x240000000000
  | .BIT_STK_INFO => 0x800000000000
  | .MEM_IL_REGION => 0x1000000090000000
  | .MEM_SCRUB_CFG => 0xC018180000400040
  | .OBS_QUENCH_CFG => 0x3000000000000000
  | .OBS_MATCH => 0xFF00000000
  | .OBS_BG_CFG => 0x800003E800000000
  | .ARR_SEQ_CFG => 0x100
  | .SCP_BANK_OWN => 0x4004
  | .SCP_BANK_CFG => 0x1
  | .MARCH_CTRL => 0xF
  | .SPM_CFG => 0x10
  | .FBI_CFG => 0x211020000000000
  | .DIE_INFO => 0x2420000000000000
  | .DIE_CLK_STATUS => 0x4000000000000000
  | _ => 0

/-- Counters that are never cleared while the device runs: the `*_PERF_*` registers. -/
def RegKind.perf : RegKind → Bool
  | .CLK_PERF_FALLBACKS | .CLK_PERF_FALLBACK_US | .CLK_PERF_BAD_WINDOWS | .CLK_PERF_ALIGN_ERR | .CLK_PERF_JUDGE_FAIL
  | .HP_PERF_RX_FRAMES | .HP_PERF_TX_FRAMES | .HP_PERF_DISCARD | .HP_PERF_RESEND | .HP_PERF_NAK | .HP_PERF_MBX_FULL
  | .HP_PERF_GW_RX | .FAB_LINK_PERF_TX_BYTES | .FAB_LINK_PERF_RX_BYTES | .FAB_LINK_PERF_FEC | .FAB_LINK_PERF_RETRY
  | .FAB_LINK_PERF_TRANSIT | .FAB_LINK_PERF_DOWN | .FAB_PERF_MOVES | .FAB_PERF_FORCED | .FAB_PERF_RETX
  | .FAB_PERF_DUP | .FAB_PERF_REORDER_HELD | .FAB_PERF_REORDER_DROP | .FAB_PERF_RETX_FULL | .FAB_PERF_MERGES
  | .FAB_PERF_TABLE_FULL | .FAB_PERF_NDC | .FAB_PERF_SLICE_REFUSED | .FAB_PERF_TRANSIT_REFUSED | .FAB_PERF_FENCES
  | .FAB_PERF_BAD_PKT | .FAB_PERF_GW_BULK | .RX_PERF_SUBMITS | .RX_PERF_DISPATCH | .RX_PERF_DROP | .RX_PERF_ABSENT
  | .RX_PERF_STALL_DEST | .RX_PERF_STALL_FULL | .RX_PERF_GROUPS | .RX_PERF_EXC_OVF | .RX_PERF_EXC_UNF | .RX_PERF_NDC
  | .SLU_PERF_ROWS | .SLU_PERF_CANCEL_DROP | .SLU_PERF_LATE_CANCEL | .RES_PERF_FETCH_DEMAND
  | .RES_PERF_FETCH_PREFETCH | .RES_PERF_EVICT | .RES_PERF_WAIT | .TMP_PERF_UPDATES | .TMP_PERF_WITHHELD
  | .TMP_PERF_ZERO_VISIT | .TMP_PERF_SEGMENTS | .TMP_PERF_BAD_SEGMENT | .TMP_PERF_MISSING | .TMP_PERF_FETCH
  | .TMP_PERF_FETCH_RETRY | .TMP_PERF_ASSAY | .TMP_PERF_ASSAY_MISMATCH | .TMP_PERF_ASSAY_STALE
  | .TMP_PERF_ASSAY_ABANDON | .TMP_PERF_TELE_LOST | .TMP_PERF_RATIO_ALERT | .TMP_PERF_PARK_CYCLES
  | .HBM_PERF_RD_BYTES | .HBM_PERF_WR_BYTES | .HBM_PERF_CROSS_DIE | .HBM_PERF_RMW | .HBM_PERF_REFRESH
  | .HBM_PERF_SCRUB_BYTES | .BIT_PERF_RD_BYTES | .BIT_PERF_WR_BYTES | .BIT_PERF_CROSS_DIE | .BIT_PERF_RMW
  | .BIT_PERF_REFRESH | .BIT_PERF_SCRUB_BYTES | .MEM_PERF_CHECKED | .MEM_PERF_CRC_RETRY | .MEM_PERF_CRC_FAIL
  | .MEM_PERF_UNCHECKED | .MEM_PERF_SCRUB_LATE | .STG_PERF_LATE_ABORT | .STG_PERF_ADMIT | .STG_PERF_SPANS
  | .STG_PERF_SEND_FWD | .STG_PERF_SEND_BWD | .STG_PERF_STARVE_FWD | .STG_PERF_STARVE_BWD | .STG_PERF_HOLD_ADMIT
  | .STG_PERF_HOLD_STK | .STK_PERF_SPILL | .STK_PERF_DISCARD | .STK_PERF_SKIP | .OBS_PERF_QUENCH_DROP
  | .OBS_PERF_NDC_SW | .OBS_PERF_SCP_SCRUB | .OBS_PERF_SCP_CORRECTED | .OBS_PERF_SCP_LATE | .OBS_PERF_CAL_LATE
  | .OBS_PERF_THROTTLE_DOWN | .OBS_PERF_THROTTLE_UP | .UST_PERF_DISAGREE | .ARR_PERF_TILES | .ARR_PERF_BUSY
  | .ARR_PERF_STALL_FEED | .ARR_PERF_STALL_OWN | .ARR_PERF_STALL_WAIT | .ARR_PERF_STALL_TQ | .ARR_PERF_STALL_TRAILER
  | .SPM_PERF_TILES | .SPM_PERF_ENTRIES | .SPM_PERF_PAIRS | .SPM_PERF_SKIP_ACT | .SPM_PERF_SPLIT | .SPM_PERF_ABSORB
  | .SPM_PERF_MERGE | .SPM_PERF_MISPREDICT | .SPM_PERF_SPECIAL | .SPM_PERF_STALL_LANEQ | .SPM_PERF_STALL_FEED
  | .SPM_PERF_STALL_LOAD | .SPM_PERF_STALL_CONFLICT | .VEC_PERF_CMDS | .VEC_PERF_BUSY | .VEC_PERF_STALL_OWN
  | .VEC_PERF_STALL_BANK | .VEC_PERF_STALL_ACC | .VEC_PERF_WAIT_TQ | .VEC_PERF_WAIT_WIN | .TQ_PERF_STALL_REGION
  | .TQ_PERF_STALL_CREDIT | .FBI_PERF_FWD | .FBI_PERF_BWD | .FBI_PERF_FROZEN => true
  | _ => false

/-- Registers of the engines of chapters 03 to 08 that return to their reset values at a pour's RESET step (R388). -/
def RegKind.engine : RegKind → Bool
  | .SALT_CTRL | .SALT_STATUS | .RAKE_HALF_ARM | .QM_RELEASE | .RES_STEP | .SLU_SUBMIT | .SLU_CANCEL | .SLU_ARM
  | .RX_ERR_INFO | .RAKE_STREAM_CFG | .RAKE_STREAM_SUBMIT | .RAKE_STREAM_STATUS | .NTC_RING_CFG | .NTC_RING_PTR
  | .SLU_EPOCH_MAP | .RX_EXPERT_TABLE | .RX_LAYER_TABLE | .RES_HIST | .RES_STATE | .TMP_CFG | .TMP_SEED
  | .TEMPER_NORM_CEIL | .TMP_SHARD_BASE | .TMP_LAYER_BASE | .TMP_HSET_BASE | .TMP_TELE_CFG | .TMP_TELE_PTR
  | .TMP_ASSAY_CFG | .TMP_SEG_ARRIVE | .TMP_DERIVE | .TMP_ERR_INFO | .TMP_UNIT_STATUS | .TMP_STATUS | .TMP_EXC_CNT
  | .TMP_SHARD_STATE | .STG_ROOT | .STG_STEP_ARM | .STG_ABORT | .STG_STEP_STATUS | .STG_CLEAR | .STK_REQ | .STK_FREE
  | .STG_ARRIVE | .STG_RELEASE | .STG_ERR_INFO | .STG_ENTRY | .STG_QUEUE | .STK_USED | .STK_BRES | .STK_HWM
  | .STG_STATE | .ARR_ID | .ARR_SEQ_CTRL | .ARR_SEQ_CFG | .ARR_STATUS | .ARR_EXC_CNT | .ARR_ERR_INFO | .SCP_BANK_OWN
  | .SCP_BANK_CFG | .ARR_WIN_CFG | .ARR_WIN_HEAD | .ARR_WIN_TAIL | .ARR_WIN_OCC | .MARCH_CTRL | .MARCH_STATUS
  | .SCP_REPAIR | .SPM_CFG | .SPM_STATUS | .SPM_ERR_INFO | .VEC_CFG | .VEC_CTRL | .VEC_STATUS | .VEC_LEN
  | .VEC_ERR_INFO | .VEC_TAB_SLOT | .TQ_STATUS | .FBI_CFG | .FBI_STATUS => true
  | _ => false

end Sys2Proof.Machine
end

