-- ==== Sys2Proof/Machine/State.lean ====
section
/-! DEFINITION. The state of the package, as plain data: the register file, the addressed memory, and what each unit holds
behind its registers (INVENTORY.md lists every piece with its rule). A register that the register file does not list
reads its reset value; memory that is not listed reads 0 (log 7). -/

namespace Sys2Proof.Machine

/-- The two orderable parts (R1, R2). -/
inductive PartNo where
  | vlt9_2240 | vlt9_2048
  deriving DecidableEq, Repr

/-- What is fused at manufacture (R3, R6, R38, R432; log 3). -/
structure Part where
  number : PartNo := .vlt9_2240
  /-- The physical stack position VLT9-2048-HC leaves disabled (R3). -/
  disabledStack : Nat := 0
  serial : BitVec 64 := 0
  steppingHub : BitVec 16 := 0
  stepping1 : BitVec 16 := 0
  stepping0 : BitVec 16 := 0
  /-- Ring-oscillator frequency in kHz found at manufacture (R432). -/
  ringKHz : Nat := 100000
  /-- Fused MAC address (R376). -/
  mac : BitVec 48 := 0
  /-- SHAKE256 digest of the firmware root key (R383). -/
  firmwareRoot : List Byte := List.replicate 32 0#8
  deriving DecidableEq, Repr

/-- Completion of an access (R319). -/
inductive Completion where
  | ok | addrErr | ownErr | poison | sliceErr | unreachable
  deriving DecidableEq, Repr

/-- One event record (R365). The package field is the logical ID at the time it was raised. -/
structure EventRec where
  cls : Nat
  code : Nat
  package : Nat
  unit : Nat
  lost : Nat
  record : Nat
  time : Word
  step : Nat
  info : Word
  /-- Whether an EVENT datagram has carried it (R366, R373). -/
  sent : Bool := false
  deriving DecidableEq, Repr

/-- The event queue (R366). -/
structure Evt where
  queue : List EventRec := []
  /-- Records lost since the last one queued. -/
  lostRun : Nat := 0
  /-- A run of losses that 0x01:0x04 has not reported yet. -/
  runOpen : Bool := false
  deriving DecidableEq, Repr

/-- What the step summary counts over its window (R438, R447). -/
structure Window where
  start : Word := 0
  ndcStart0 : Word := 0
  ndcStart1 : Word := 0
  /-- The determinism count of a die has advanced in this window (R437). -/
  ndcAdvanced : Bool := false
  invalid : Nat := 0
  overflow : Nat := 0
  underflow : Nat := 0
  emptyRows : Nat := 0
  exc : Exc := Exc.none
  dropped : Nat := 0
  cancelRows : Nat := 0
  corrected : Nat := 0
  poisoned : Nat := 0
  crcFail : Nat := 0
  sramUe : Bool := false
  withheld : Nat := 0
  firstWithheld : Nat := 0
  anyWithheld : Bool := false
  zeroVisit : Nat := 0
  deriving DecidableEq, Repr

/-- Sideband pins (R373): inputs as last seen, open-drain outputs as driven (true: released). -/
structure Pins where
  pwrOk : Bool := true
  resetN : Bool := false
  straps : Nat := 0
  ready : Bool := true
  thermN : Bool := true
  faultN : Bool := true
  deriving DecidableEq, Repr

/-! ### Arrays (chapters 03 to 05) -/

/-- A 32-byte command fetched and not yet issued (R79), with the scratchpad offset it was fetched from. -/
structure Fetched where
  bytes : List Byte
  offset : Nat
  /-- A VEC that reached its turn and waits for a tile-queue entry or for its windows (R149, R168). -/
  waiting : Bool
  deriving DecidableEq, Repr

/-- The commands that hold the later commands of their stream (R80, R108). -/
inductive HoldKind where
  | own (bank : Nat)
  | wait (window threshold : Nat)
  | fence
  | signal (addr value : Nat)
  deriving DecidableEq, Repr

/-- A command that issued and holds its stream, with its command-window offset. -/
structure Hold where
  kind : HoldKind
  offset : Nat
  /-- The fabric fence a FENCE or SIGNAL waits for, once its local writes are complete (R331). -/
  fenceId : Option Nat := none
  deriving DecidableEq, Repr

/-- What a job still has to do. -/
inductive JobKind where
  | dense | reduce | sparse
  /-- A tile that meets a failure after issue and writes no accumulator word (R86, R128). -/
  | stopped
  deriving DecidableEq, Repr

/-- A word of the accumulator region: row, column, the A32 encoding to add or write, and the element's events so far. -/
structure Cell where
  row : Nat
  col : Nat
  value : BitVec 32
  exc : Exc
  deriving DecidableEq, Repr

/-- An issued TILE or REDUCE whose results are formed and not yet written (R84, R85, R87, R125). -/
structure Job where
  kind : JobKind
  /-- A sparse tile, stopped or not: no dense tile issues beside it (R129). -/
  sparse : Bool := false
  /-- The step a sparse tile's walk came to, and what a stopped one leaves in `SPM_ERR_INFO` (R128, R132). -/
  walkK : Nat := 0
  errInfo : Word := 0
  /-- The states that `SPM_STATUS` is still to show of a sparse tile after LOAD (R132). -/
  phases : List Nat := []
  backward : Bool
  tileId : BitVec 32
  offset : Nat
  accLine : Nat
  rows : Nat
  cols : Nat
  accumulates : Bool
  toVec : Bool
  /-- Sums of the cells (home sums of a sparse tile), by row and column. -/
  sums : List Cell
  /-- Helper partial sums of a sparse tile, merged per word in ascending lane (R126). -/
  helpers : List Cell
  /-- Words poisoned on the way in: slot words of a REDUCE (R78). -/
  poisoned : List (Nat × Nat)
  /-- Events that belong to no element of the region. -/
  record : Record
  /-- Cycles before the write-back's W (R83, R129). -/
  cycles : Nat
  /-- Array cycles spent waiting on a full tile queue or trailer window (R85, R86). -/
  stalled : Nat
  products : Nat
  status : Nat
  deriving DecidableEq, Repr

/-- A trailer held for window space (R86), with the array cycles it has waited, its command's offset in the scratchpad, and whether it
is an issued sparse tile's, behind which no TILE or REDUCE issues (R129). -/
structure Trailer where
  bytes : List Byte
  stalled : Nat
  offset : Nat
  sparse : Bool
  deriving DecidableEq, Repr

/-- A tile-queue entry (R147). -/
structure TqEntry where
  backward : Bool
  tileId : BitVec 32
  accLine : Nat
  rows : Nat
  cols : Nat
  exc : Exc
  deriving DecidableEq, Repr

/-- The VEC in execution: its class and operation, its window advances at the end (R137), and, once it met a poisoned
word, the elements done and the destination words written so far (R169). -/
structure VecJob where
  backward : Bool
  vop : Nat
  offset : Nat
  advances : List (Nat × Bool × Nat)
  /-- The scratchpad banks that it reads or writes (R92). -/
  banks : List Nat := []
  /-- Whether it reads or writes the accumulator buffer (R101). -/
  acc : Bool := false
  /-- The pass it comes to (R170). -/
  pass : Nat := 1
  poisonedAt : Option Nat
  written : List Nat
  deriving DecidableEq, Repr

/-- A table slot's contents (R156). -/
structure TabSlot where
  addr : Nat
  bytes : List Byte
  deriving DecidableEq, Repr

/-- What waits at a bank: an external access, whose requester takes a completion, or bytes that an engine writes, each with whether
it is poisoned. -/
inductive HeldKind where
  | external (x : Access) (errors : List MemError)
  | engine (off : Nat) (cells : List (Option (Byte × Bool)))
  /-- A completion record for a window, written at its head once the bank has passed (R97, R199). -/
  | record (window : Nat) (bytes : List Byte)
  deriving DecidableEq, Repr

/-- An access to an array's SRAM that is held for its bank, with the owner code of its requester (R92, R99, R103), and whether it was
accepted as the owner's, which a later handover does not undo (R92). -/
structure HeldAccess where
  code : Nat
  kind : HeldKind
  accepted : Bool
  deriving DecidableEq, Repr

/-- A march run in progress (R102, R103): the banks tested, the borrowed bank of a preserving run, and the phase it is in, as
`MARCH_STATUS.state` names it; a refused start shows REFUSED there and leaves the run as it is (R105). -/
structure MarchRun where
  banks : List Nat
  borrow : Option Nat
  phase : Nat
  deriving DecidableEq, Repr

/-- What an array holds behind its registers. -/
structure Arr where
  fwd : Option Fetched := none
  bwd : Option Fetched := none
  fwdHold : Option Hold := none
  bwdHold : Option Hold := none
  jobs : List Job := []
  trailers : List Trailer := []
  tq : List TqEntry := []
  /-- Tile-queue credits taken by issued tiles that have no entry yet, by class (R166). -/
  fwdCredits : Nat := 0
  bwdCredits : Nat := 0
  vec : Option VecJob := none
  tab0 : Option TabSlot := none
  tab1 : Option TabSlot := none
  /-- The slot least recently used is slot 1 when this is false, slot 0 when true. -/
  tabLast1 : Bool := false
  /-- Pending handovers: bank and incoming owner (R91). -/
  handovers : List (Nat × Nat) := []
  /-- Accesses held as the incoming owner's or behind a clear or a copy, in arrival order (R92, R99, R103). -/
  held : List HeldAccess := []
  march : Option MarchRun := none
  /-- A halt waits for the issued commands (R107). -/
  halting : Bool := false
  halted : Bool := false
  deriving DecidableEq, Repr

/-! ### The fabric (chapter 10) -/

/-- A request, response or message that a unit of this package makes, before injection: `dst` is a logical package ID,
`backward` the command stream of an array's request (R331). -/
structure Request where
  op : Nat
  dst : Nat
  requester : Nat
  addr : Nat
  func : Nat := 0
  mask : Nat := 0
  full : Bool := false
  payload : List Byte := []
  backward : Bool := false
  /-- The rake stream that made it, for its errors (R202). -/
  stream : Nat := 0
  /-- It goes only after every earlier write of its requester to its destination is complete (R185, R253). -/
  behind : Bool := false
  /-- `dst` is a physical ID already: copies of a broadcast and link notices. -/
  phys : Bool := false
  deriving DecidableEq, Repr

/-- A packet in the retransmit store (R322), with the times it was sent again and its fence stream. -/
structure Unacked where
  packet : Packet
  again : Nat
  backward : Bool
  stream : Nat := 0
  deriving DecidableEq, Repr

/-- An outbound flow (R320 to R327): class 0 REQ, 1 RSP, 2 CTL. -/
structure Flow where
  dst : Nat
  cls : Nat
  gen : Nat := 0
  /-- The generation's first packet has gone (R323). -/
  opened : Bool := false
  next : Nat := 0
  via : Nat := 0x3F
  /-- The links of its path as package and link, as far as the source chooses them; empty: it has had none. -/
  path : List (Nat × Nat) := []
  /-- Its path is out of service, and no other was found (R327, R330). -/
  cut : Bool := false
  unacked : List Unacked := []
  /-- Requests answered with a status other than OK and not yet acknowledged: sequence number and status. -/
  failed : List (Nat × Nat) := []
  deriving DecidableEq, Repr

/-- An inbound flow: next expected number, generation, and packets held in the reorder window (R323, R324). -/
structure InFlow where
  src : Nat
  cls : Nat
  gen : Nat
  expected : Nat
  held : List Packet := []
  /-- Packets taken in order that wait to be performed. -/
  queue : List Packet := []
  /-- Numbers of the requests in the combining table that are not applied yet, rising. -/
  inTable : List Nat := []
  /-- Failed requests, whose STATUS goes again with a duplicate: number, requester, address, status; the newest 1,024 (log 21). -/
  failed : List (Nat × Nat × Nat × Nat) := []
  deriving DecidableEq, Repr

/-- A fence in WAIT (R331): the number recorded per destination, and whether a covered request failed. -/
structure Fence where
  id : Nat
  requester : Nat
  backward : Bool
  recorded : List (Nat × Nat)
  failed : Bool := false
  deriving DecidableEq, Repr

/-- A source of a combining-table request: package, requester, sequence number, generation of its flow. -/
structure Source where
  package : Nat
  requester : Nat
  seq : Nat
  gen : Nat := 0
  /-- Of an array's request: its stream (R164). -/
  backward : Bool := false
  deriving DecidableEq, Repr

/-- An entry of the combining table (R333): one kind of operation on one line, oldest first within the line. -/
structure Entry where
  line : Nat
  op : Nat
  func : Nat
  mask : Nat
  data : List Byte
  sources : List Source
  /-- SWAP and CAS: byte offset of the word in the line. -/
  off : Nat := 0
  /-- Arithmetic events of merged A32 words, by word (R334). -/
  excs : List (Nat × Exc) := []
  /-- It goes to memory: no further request is merged into it. -/
  applying : Bool := false
  deriving DecidableEq, Repr

/-- A tracking record (R338): the line's first source and the words other sources have written. -/
structure Track where
  line : Nat
  /-- The sources that wrote the line, the first first: package, requester and the 4-byte words written. -/
  sources : List (Nat × Nat × Nat)
  deriving DecidableEq, Repr

/-- What the routers, the combining table and the gateways hold behind their registers (R312 to R349). -/
structure Fab where
  /-- Requests waiting for injection, oldest first. -/
  reqQ : List Request := []
  flows : List Flow := []
  inflows : List InFlow := []
  fences : List Fence := []
  nextFence : Nat := 0
  /-- Requesters, with their stream, whose earlier writes ended in a status other than OK that no fence has reported (R332). -/
  unreported : List (Nat × Bool) := []
  table : List Entry := []
  tracks : List Track := []
  lost : List Nat := []
  /-- Merges per line in the present hot-line window (R337). -/
  merges : List (Nat × Nat) := []
  /-- LOAD_REQ, SWAP and CAS requests whose answer has not come, with their stream. -/
  awaiting : List (Packet × Nat) := []
  /-- Successive failed replays of a link's flit (R312), and lanes that have failed, as 8 × link + lane (R313). -/
  replays : List (Nat × Nat) := []
  badLanes : List Nat := []
  /-- Transfers of this gateway that wait for the host port: field and packets (R347). -/
  transfers : List (Nat × List Packet) := []
  /-- Packets queued at each link; the channel and the level of each are told by its class, its transit bit and its hops (R317). -/
  tx : List (Nat × Packet) := []
  /-- What the links carried away in the last hub cycle, by link. -/
  wire : List (Nat × Packet) := []
  /-- Transit bytes each link carried in the present microsecond (R342). -/
  transitUse : List (Nat × Nat) := []
  /-- Links this package treats as out of service: package and link (R330). -/
  down : List (Nat × Nat) := []
  /-- Notices of links back in service, waiting for the next epoch advance (R330). -/
  backUp : List (Nat × Nat) := []
  /-- Staged writes of the remap table and the slice map: local address and value (R345). -/
  staged : List (Nat × Word) := []
  /-- Global link occupancy reported by the group's routers: package, link, flits (R326). -/
  occupancy : List (Nat × Nat × Nat) := []
  /-- Broadcasts seen: source and id (R349). -/
  seen : List (Nat × Nat) := []
  nextBcast : Nat := 0
  /-- Packets gathered for a far gateway, by field (R347). -/
  gathered : List (Nat × Packet) := []
  /-- The link on which this router sends each passing flow on, by source, destination, class and via (R327). -/
  picks : List ((Nat × Nat × Nat × Nat) × Nat) := []
  /-- Ingress ports whose REQ level is held, each with the package whose arrival waits there for an entry of the table (R336). -/
  portWaits : List (Nat × Nat) := []
  /-- 0x0A:0x04 was raised in the last 2^20 hub cycles: the cycle it was raised in (R341). -/
  refusedAt : Option Nat := none
  deriving DecidableEq, Repr


/-! ### The Hallmark store (chapter 12) -/

/-- The spare map (R26 to R28, R41): retired physical arrays as (die, row × 32 + column), and the logical IDs whose binding
is not nominal, with the physical array (none: unbound) and the origin code. -/
structure Spare where
  retired : List (Nat × Nat) := []
  binds : List (Nat × Option Nat × Nat) := []
  deriving DecidableEq, Repr

/-- A slot of the CAST_SLOTS or FW_STATE record (R397). -/
structure SlotRec where
  valid : Bool := false
  /-- FW_STATE only. -/
  confirmed : Bool := false
  svn : Nat := 0
  part : Nat := 0
  length : Nat := 0
  /-- D of R379. -/
  digest : List Byte := []
  deriving DecidableEq, Repr

/-- An owner key slot of the KEYS record (R384). -/
structure KeySlot where
  digest : List Byte := []
  valid : Bool := false
  revoked : Bool := false
  deriving DecidableEq, Repr

/-- A journal entry (R392); its CRC is computed from the rest. -/
structure JEntry where
  kind : Nat
  step : Nat
  slot : Nat
  flags : Nat
  svn : Nat
  pour : Nat
  seq : Nat
  digest : List Byte
  deriving DecidableEq, Repr

/-- A lane of the LASER record (R397). -/
structure Lane where
  bias : Nat
  maxCode : Nat
  hours : Nat
  drift : Nat
  calHours : Nat
  deriving DecidableEq, Repr

/-- The NAND behind its logical pages (R394, R395, R399). Blocks are numbered from 0; physical page p lies in block p / 64. -/
structure Nand where
  /-- Page map: logical page and physical page, by logical page, rising. -/
  map : List (Nat × Nat) := []
  /-- Erase counts that are not 0, by block. -/
  erases : List (Nat × Nat) := []
  /-- The bad-block bitmap. -/
  bad : List Nat := []
  /-- Blocks programmed since their last erase, the open block among them. -/
  used : List Nat := []
  openBlock : Nat := 0
  /-- Pages of the open block that are written; 64: no block is open. -/
  fill : Nat := 64
  /-- 0x0B:0x08 has been raised (R400). -/
  worn : Bool := false
  /-- Spare areas, oldest first: physical page, logical page and write sequence number; the next number (R395). -/
  areas : List (Nat × Nat × Nat) := []
  writes : Nat := 0
  /-- Wrong bits in a physical page's worst 1 KiB, and blocks whose programs fail (R395, R399). -/
  flaws : List (Nat × Nat) := []
  broken : List Nat := []
  deriving DecidableEq, Repr

/-- The contents of the records of R397. -/
structure RecData where
  spare : Spare := {}
  unitsRetired : Nat := 0
  hbmRepair : List Nat := []
  scpRepair : List (Nat × Word) := []
  laser : List (Nat × Lane) := []
  laserHours : Nat := 0
  keys : List KeySlot := [{}, {}, {}, {}]
  keyEpoch : Nat := 0
  fw0 : SlotRec := {}
  fw1 : SlotRec := {}
  cast0 : SlotRec := {}
  cast1 : SlotRec := {}
  deriving DecidableEq, Repr

/-- A version of a record in NAND (R396): its sequence number, its contents, and whether copies A and B have read back correct. -/
structure RecVersion where
  kind : Nat
  seq : Nat
  data : RecData
  a : Bool
  b : Bool
  deriving DecidableEq, Repr

/-- A store or a pour in progress (R387, R388): its operation, its slot, and the step it takes next (0: admission). -/
structure HmkJob where
  op : Nat
  slot : Nat
  stage : Nat := 0
  start : Bool := false
  fallback : Bool := false
  /-- A store: the container in HBM. -/
  addr : Nat := 0
  length : Nat := 0
  /-- Hub cycles spent waiting in QUIESCE. -/
  waited : Nat := 0
  /-- A store: D of the container admitted (R379). -/
  digest : List Byte := []
  deriving DecidableEq, Repr

/-- The Hallmark store and Touchstone; a reset touches none of it but the last four fields and what waits to be
written or raised. The NAND's bytes lie in the addressed
memory. -/
structure Hmk where
  /-- The event log, oldest first (R405). -/
  log : List EventRec := []
  /-- Records of the log that its ring has overwritten, in whole pages. -/
  logLost : Nat := 0
  /-- The SCP_REPAIR record: words that are not 0, by (die × 1152 + physical array) × 16 + bank (R104, R397). -/
  scpRepair : List (Nat × Word) := []
  /-- The HBM_REPAIR record: entries of R397, oldest first. -/
  hbmRepair : List Nat := []
  /-- The SPARE_MAP record, which may be ahead of the map in force (R402). -/
  spare : Spare := {}
  /-- The UNITS_RETIRED record: links in [15:0], HBM positions in [27:16], bittern stacks in [31:28], temper units in [35:32]. -/
  unitsRetired : Nat := 0
  /-- The KEYS record's slots 0 to 3. -/
  keys : List KeySlot := [{}, {}, {}, {}]
  /-- The CAST_SLOTS and FW_STATE records. -/
  cast0 : SlotRec := {}
  cast1 : SlotRec := {}
  fw0 : SlotRec := {}
  fw1 : SlotRec := {}
  /-- The LASER record, by 8 × port + lane; a lane it does not list is at its manufacturing bias. -/
  laser : List (Nat × Lane) := []
  /-- Laser-on hours at the newest LASER version (R403), and lanes whose 90 % has been reported. -/
  laserHours : Nat := 0
  laserHigh : List Nat := []
  /-- Versions in NAND, a kind's newest before its older one (R396); a kind with none stands as manufactured. -/
  versions : List RecVersion := []
  /-- Kinds whose newest version's copy B is still to be written, and events of class 0x0B to be raised, with their details. -/
  copying : List Nat := []
  reports : List (Nat × Nat) := []
  /-- The control block (R394). -/
  castSvn : Nat := 0
  fwSvn : Nat := 0
  keyEpoch : Nat := 0
  pour : Nat := 0
  active : Option Nat := none
  startFailures : Nat := 0
  /-- The pour journal's halves A and B: entries of 64 bytes, oldest first (R392). -/
  half0 : List (List Byte) := []
  half1 : List (List Byte) := []
  journalSeq : Nat := 0
  nand : Nand := {}
  /-- The firmware slot in use (R406). -/
  running : Option Nat := none
  job : Option HmkJob := none
  /-- The engines have stopped taking work (step QUIESCE). -/
  quiet : Bool := false
  /-- Start addresses of the salter threads, 8 × core + thread (R382). -/
  entries : List (Nat × Nat) := []
  deriving DecidableEq, Repr

/-! ### Memory (chapter 09) -/

/-- What the memory controllers hold behind their registers (R298 to R305). Stacks are numbered by HBM index, bittern stack b as 0x100 + b (R307). -/
structure Dram where
  /-- Next byte the patrol scrubber reads, by stack (R301). -/
  scrub : List (Nat × Nat) := []
  /-- Corrected errors of a row in the present pass, by stack × 2^28 + row (R303). -/
  corrected : List (Nat × Nat) := []
  /-- Stacks at 100 °C or above (R299). -/
  hot : List Nat := []
  /-- Test and repair operations in progress: stack and op (R305). -/
  testing : List (Nat × Nat) := []
  /-- Refresh level that a stack's readings call for, before the holdover's raise (R298, R419). -/
  levels : List (Nat × Nat) := []
  /-- The wrapper instruction last written through a stack's test port (R305). -/
  wrapper : List (Nat × Nat) := []
  deriving DecidableEq, Repr

/-! ### Token exchange (chapter 06) -/

/-- An armed half of one direction of a layer (R177), with what the rake and the sluice have done for it. -/
structure RakeHalf where
  slot : Nat
  backward : Bool
  half : Nat
  epoch : Nat
  groups : Nat
  cplArray : Nat
  cplWindow : Nat
  /-- Submissions accepted, taken up (R178) and dispatched in full. -/
  submitted : List Nat := []
  taken : List Nat := []
  done : Nat := 0
  /-- Choices sent to each expert, by expert index, rising. -/
  sent : List (Nat × Nat) := []
  finished : Bool := false
  /-- Return rows committed, and dropped for the cancelled epoch (R199). -/
  committed : Nat := 0
  dropped : Nat := 0
  deriving DecidableEq, Repr

/-- A submission: its store and the header of its route block (R175, R176), and how far it has come. -/
structure Submission where
  g : Nat
  half : Nat
  slot : Nat
  backward : Bool
  epoch : Nat
  tokAddr : Nat
  tokScale : Nat
  tokens : Nat
  idxAddr : Nat
  placeAddr : Nat
  firstToken : Nat
  pitch : Nat
  /-- The next choice to take up, counted as i × top_k + j. -/
  next : Nat := 0
  sent : Nat := 0
  dropped : Nat := 0
  absent : Nat := 0
  waiting : Nat := 0
  /-- Its place in the order of arrival at the package, over all streams (R178). -/
  stamp : Nat := 0
  deriving DecidableEq, Repr

/-- A rake stream's submissions: stores whose route block lies in a bank that holds the read (R92, R176), queued ones, and those taken
up that still have pending choices. -/
structure RakeStream where
  arriving : List Word := []
  queue : List Submission := []
  under : List Submission := []
  deriving DecidableEq, Repr

/-- A choice in a pending store (R187). -/
structure Pending where
  stream : Nat
  slot : Nat
  backward : Bool
  epoch : Nat
  half : Nat
  g : Nat
  i : Nat
  j : Nat
  expert : Nat
  deriving DecidableEq, Repr

/-- An open group: its sequence number, its half, the slots written and, for L4, the codes of the last even slot. -/
structure OpenGroup where
  seq : Nat
  epoch : Nat
  half : Nat
  written : List Nat := []
  last : List Nat := []
  deriving DecidableEq, Repr

/-- An expert queue's partition as its sending rank sees it (R180, R186). -/
structure Dest where
  slot : Nat
  expert : Nat
  backward : Bool
  nextSeq : Nat := 0
  opened : List OpenGroup := []
  occupied : List Nat := []
  deriving DecidableEq, Repr

/-- The rake and the armed halves (R175 to R187, R199 to R204). -/
structure Rake where
  /-- Armed halves in the order they were armed. -/
  halves : List RakeHalf := []
  /-- Halves whose commit point has passed, as epoch × 1024 + slot × 4 + half × 2 + direction, rising (R201). -/
  decided : List Nat := []
  /-- Forward halves of layers with train set in the order in which they are taken up: slot, half, epoch (R204). -/
  order : List (Nat × Nat × Nat) := []
  /-- Submissions accepted so far (R178). -/
  arrivals : Nat := 0
  /-- Streams that hold submissions, by number, rising. -/
  streams : List (Nat × RakeStream) := []
  /-- The pending stores, in order of entry. -/
  pending : List Pending := []
  dests : List Dest := []
  /-- Return rows that came in this hub cycle (R201). -/
  rows : List (List Byte) := []
  deriving DecidableEq, Repr

/-- A group that lies at this package and has not been released (R194). -/
structure HomeGroup where
  slot : Nat
  expert : Nat
  rank : Nat
  backward : Bool
  seq : Nat
  deriving DecidableEq, Repr

/-- The queue manager and the residency manager. -/
structure Qm where
  groups : List HomeGroup := []
  /-- ENDs delivered of halves that still lack one: layer slot, expert, direction, half, epoch, rank (R192). -/
  ends : List (Nat × Nat × Bool × Nat × Nat × Nat) := []
  /-- Histogram bins by expert table index, newest first (R211). -/
  bins : List (Nat × List Nat) := []
  /-- Fetches that wait for a pool slot: expert table index (R210). -/
  waiting : List Nat := []
  /-- Write-backs in progress: the evicted index and the index that waits for its slot. -/
  writeBacks : List (Nat × Nat) := []
  /-- Images that the temper unit has changed since their fetch. -/
  changed : List Nat := []
  /-- Experts whose update in the current step is pending. -/
  updates : List Nat := []
  deriving DecidableEq, Repr

/-- A sluice request of R195 as queued. -/
structure SluReq where
  kind : Nat
  slot : Nat
  backward : Bool
  n : Nat
  array : Nat
  cplWindow : Nat
  cpl : Bool
  expert : Nat
  a : Nat
  b : Nat
  c : Nat
  len : Nat
  addr : Nat
  deriving DecidableEq, Repr

/-! ### Stages (chapter 07) -/

/-- An IN queue as the receiver keeps it: the next sequence number of an arrival, of an ARRIVE record and of a release, and
the next (mb, span) of R226. `spans` is the micro-batch's number of spans once its first entry has come. -/
structure StgQueue where
  next : Nat := 0
  given : Nat := 0
  released : Nat := 0
  mb : Nat := 0
  span : Nat := 0
  spans : Nat := 0
  deriving DecidableEq, Repr

/-- A micro-batch in flight (R228), with its tokens once its last forward span has come (0: not yet). -/
structure InFlight where
  mb : Nat
  spans : Nat
  tokens : Nat := 0
  tripped : Bool := false
  deriving DecidableEq, Repr

/-- A ring of chunks (R231): allocations from the tail on, each with the micro-batch it is charged to (none: freed). -/
structure Ring where
  head : Nat := 0
  tail : Nat := 0
  charges : List (Option Nat × Nat) := []
  deriving DecidableEq, Repr

/-- A held stockpile request (R230). -/
structure StkReq where
  backward : Bool
  recomputable : Bool
  mb : Nat
  n : Nat
  tag : Nat
  deriving DecidableEq, Repr

/-- A forward entry whose ARRIVE record is still to come (R221, R228). -/
structure Arrival where
  q : Nat
  mb : Nat
  span : Nat
  spans : Nat
  tokens : Nat
  deriving DecidableEq, Repr

/-- A record held for window space (R223); `role` names the IN queue of an ARRIVE record. -/
structure StgRec where
  array : Nat
  window : Nat
  bytes : List Byte
  role : Option Nat := none
  deriving DecidableEq, Repr

/-- A stage slot behind its registers. `creditFwd` and `creditBwd` are the next sequence number a CREDIT record carries. -/
structure Stage where
  inFwd : StgQueue := {}
  inBwd : StgQueue := {}
  creditFwd : Nat := 0
  creditBwd : Nat := 0
  inflight : List InFlight := []
  /-- Micro-batches freed since the step was armed (R238). -/
  freed : Nat := 0
  stk : Ring := {}
  spill : Ring := {}
  bres : Ring := {}
  fwdReqs : List StkReq := []
  bwdReqs : List StkReq := []
  arrivals : List Arrival := []
  records : List StgRec := []
  deriving DecidableEq, Repr

/-- The stage controller. -/
structure Stg where
  /-- Stage slots whose hidden state is not empty. -/
  slots : List (Nat × Stage) := []
  /-- M of the armed step. -/
  mbs : Nat := 0
  /-- At the root: steps whose commit point has passed, each with its attempt (R239, R266). -/
  decided : List (Nat × Nat) := []
  /-- At the root: packages that are locally done, by step and package; packages that have cleared. -/
  doneFrom : List (Nat × Nat) := []
  clearedFrom : List Nat := []
  /-- COMMIT(ABORTED) received since the pour, modulo 2^16 (R266). -/
  attempts : Nat := 0
  /-- At the root: the aborts of this hub cycle by step, with package, cause, user code and attempt, and the hub cycle of the newest commit
  point (R239). -/
  aborts : List (Nat × Nat × Nat × Nat × Nat) := []
  decidedAt : Nat := 0
  deriving DecidableEq, Repr

/-! ### Temper units (chapter 08) -/

/-- A segment present at its owner (R253). -/
structure Seg where
  step : Nat
  replica : Nat
  count : Nat
  empty : Bool
  deriving DecidableEq, Repr

/-- What has come of one 1 KiB block of a fetched image (R270): lines, whether one was poisoned or missing, and how often the block
has failed. -/
structure FetchBlock where
  got : Nat := 0
  bad : Bool := false
  fails : Nat := 0
  deriving DecidableEq, Repr

/-- A fetch of an owner's image (R270, R277): lines still to come, and whether one failed. -/
structure Fetch where
  pkg : Nat
  addr : Nat
  bytes : Nat
  version : Nat
  /-- Lines still to come. -/
  left : Nat
  /-- A 1 KiB block has failed for the fourth time (R270). -/
  failed : Bool := false
  /-- Blocks in work, by index. -/
  blocks : List (Nat × FetchBlock) := []
  /-- The digest a refetched image must have (R277). -/
  digest : Option (List Byte) := none
  deriving DecidableEq, Repr

/-- A digest in work: the shard, the buffer, and at a replica the ASSAY message it answers (R276, R277). -/
structure Digest where
  shard : Nat
  base : Nat
  ask : Option (List Byte)
  deriving DecidableEq, Repr

/-- What a shard's unit holds for it beside `TMP_SHARD_STATE`. -/
structure Shard where
  segs : List Seg := []
  /-- Steps whose COMMIT(DONE) has come while the shard was not decided, oldest first; the oldest is the step in work (R266, R271). -/
  late : List Nat := []
  /-- The step of the replica message in work (R270, R271). -/
  step : Nat := 0
  /-- STAGED and UNCHANGED of later steps, which wait for the step in work, oldest first. -/
  waiting : List (List Byte) := []
  /-- Reason of UNCHANGED (R279). -/
  reason : Nat := 0
  /-- The clip factor of the apply phase, in binary64. -/
  k : Nat := 0
  /-- The apply phase is done: version, plane bytes and the sums of R273, in binary64. -/
  applied : Option (Nat × Nat × Nat × Nat) := none
  fetch : Option Fetch := none
  /-- A refetched image became current and its READY record is still to come (R277). -/
  repaired : Bool := false
  deriving DecidableEq, Repr

/-- A norm partial held for a layer (R257). -/
structure Partial where
  layer : Nat
  step : Nat
  ordinal : Nat
  skip : Bool
  missing : Bool
  value : Nat
  deriving DecidableEq, Repr

/-- A ratio partial held by a layer's lead (R273). -/
structure RatioPart where
  layer : Nat
  step : Nat
  ordinal : Nat
  skip : Bool
  u : Nat
  w : Nat
  deriving DecidableEq, Repr

/-- The temper units. -/
structure Tmp where
  /-- By shard table index. -/
  shards : List (Nat × Shard) := []
  partials : List Partial := []
  ratios : List RatioPart := []
  /-- Norms of decided layers: layer index, step, N in binary64 (R258). -/
  norms : List (Nat × Nat × Nat) := []
  /-- READY records held for window space, oldest first (R267). -/
  ready : List StgRec := []
  /-- The table index each unit's assay takes next (R276). -/
  visit : List (Nat × Nat) := []
  /-- Digests in work (R276, R277). -/
  digests : List Digest := []
  /-- At the lead: layers whose update of a step was withheld, by layer index and step. -/
  stopped : List (Nat × Nat) := []
  deriving DecidableEq, Repr

/-! ### Power, temperature and clocks (chapters 01 and 13) -/

/-- Power and temperature behind their registers (R31 to R34). -/
structure Pwr where
  /-- Package power samples in mW, newest first, each with how often it came in a row; the last second's (R32). -/
  samples : List (Nat × Nat) := []
  /-- Throttle steps taken for power and for temperature; the larger applies. -/
  power : Nat := 0
  thermal : Nat := 0
  /-- Samples since the last step, for the restoring of one step per 100 µs. -/
  restPower : Nat := 0
  restThermal : Nat := 0
  /-- Last reading of the hottest sensor of each die (2: the hub). -/
  dies : List (Nat × Nat) := []
  /-- The thermal halt of R34: nothing runs on the arrays until a reset. -/
  halted : Bool := false
  deriving DecidableEq, Repr


/-- What is kept of a salter thread: where its program stands, what its fault reported, and its non-maskable interrupts under Smrnmi
(R213, R418). -/
structure SalterThread where
  pc : Word := 0
  cause : Word := 0
  /-- mnepc and mncause, and whether the thread is inside its handler (mnstatus.NMIE is clear). -/
  nmiPc : Word := 0
  nmiCause : Nat := 0
  inNmi : Bool := false
  /-- Causes of interrupts that wait until the thread returns from its handler, oldest first. -/
  waiting : List Nat := []
  deriving DecidableEq, Repr

/-- The clocks behind their registers (R413 to R422). -/
structure Clk where
  /-- Counts of the passing gates of the last 65.536 ms, newest first, each with how often it came in a row (R417). -/
  gates : List (Nat × Nat) := []
  /-- The core loops have locked and step to nominal at the next frame boundary (R415). -/
  locked : Bool := false
  /-- The core domains halve at the next frame boundary (R417). -/
  halve : Bool := false
  /-- In RECOVERY: the memory and optical domains run from the reference again (R420). -/
  moved : Bool := false
  /-- TEST is being left. -/
  leaving : Bool := false
  /-- The time since SB_RESET_N was released, in units of 1/(15 × ro_cal) ns with ro_cal in kHz, by the hub cycles that have passed. -/
  time : Nat := 0
  /-- Hub cycles since the last frame boundary. -/
  place : Nat := 0
  /-- A write of CLK_CTRL.test in this hub cycle, and the hub cycle in which RECOVERY began (R422). -/
  test : Option Bool := none
  judgedAt : Nat := 0
  /-- Frame boundaries since the first failure (R419), and since it those that the counter of R434 has taken. -/
  frames : Nat := 0
  deriving DecidableEq, Repr

/-- Start-up (R429): rows ended of the Hallmark sequence (control block, page map, firmware), of the clock and link sequence
(reference, core loops, die-to-die, host port) and of the rows after both (records, repairs and training, march, retirements and
recovery, start pour). -/
structure Start where
  running : Bool := false
  facts : StartFacts := {}
  ready : Bool := false
  hallmark : Nat := 0
  clock : Nat := 0
  common : Nat := 0
  /-- The device is to stay unconfigured because of a fault (R430). -/
  fault : Bool := false
  /-- A lost record keeps the device unconfigured (R397). -/
  lost : Bool := false
  deriving DecidableEq, Repr

/-- The I2C target's registers that it holds itself (R375): bytes 0x10 to 0x51 that are not 0, and the ALERT bits. -/
structure I2c where
  bytes : List (Nat × Byte) := []
  alert : Nat := 0
  deriving DecidableEq, Repr

/-! ### The host port (chapter 11) -/

/-- One channel of a session (R358): the next number taken from the host, the commits no ACK covers yet, the hub cycle of the
last NAK, the next number sent, and the datagrams sent and not acknowledged with how often each was sent again. -/
structure HostChan where
  rx : Nat := 0
  commits : Nat := 0
  nakAt : Option Nat := none
  tx : Nat := 0
  unacked : List (Nat × List Byte × Nat) := []
  deriving DecidableEq, Repr

/-- A BULK datagram taken and not committed: number, the store set it waits for, and whether it has taken effect (R363). -/
structure BulkItem where
  seq : Nat
  id : Nat
  tag : Nat
  done : Bool
  deriving DecidableEq, Repr

/-- An open session (R357). -/
structure HostSession where
  peer : Nat
  gen : Nat
  mgmt : HostChan := {}
  cmd : HostChan := {}
  bulk : HostChan := {}
  evt : HostChan := {}
  /-- CMD datagrams taken and not committed (R361). -/
  cmdWait : List (List Byte) := []
  bulkItems : List BulkItem := []
  deriving DecidableEq, Repr

/-- A bulk read whose data is still to come (R363). -/
structure BulkRead where
  id : Nat
  peer : Nat
  gen : Nat
  tag : Nat
  addr : Nat
  len : Nat
  /-- Lines that have come: address, status and bytes with their poison. -/
  lines : List (Nat × Nat × List (Byte × Bool)) := []
  deriving DecidableEq, Repr

/-- The host port behind its registers. -/
structure HostPort where
  sessions : List HostSession := []
  /-- Last generation given to each peer (R357). -/
  gens : List (Nat × Nat) := []
  /-- The hub cycle in which 0x01:0x03 was last raised. -/
  strangerAt : Option Nat := none
  linkLost : Bool := false
  nextBulk : Nat := 0
  reads : List BulkRead := []
  /-- Bulk store sets that met a failure, with the first status. -/
  failed : List (Nat × Nat) := []
  /-- MAC addresses resolved by ARP or neighbour discovery (R353): IP address, with 2^128 added for IPv6, and MAC. -/
  neighbours : List (Nat × Nat) := []
  /-- IP packets that wait for the MAC of their destination, each with its priority. -/
  unresolved : List (Nat × Nat × List Byte) := []
  /-- Frames that wait to be sent. -/
  out : List Frame := []
  deriving DecidableEq, Repr


/-- What a snapshot latches: the register file, and what the registers that are computed show (R443). -/
structure Latch where
  regs : List (Nat × Word)
  /-- The spare map in force and as recorded, the repair words, and the arrays' hidden state. -/
  spare : Spare
  record : Spare
  repairs : List (Nat × Word)
  arr : List (Nat × Arr)
  /-- What is kept of the salter threads (R213). -/
  salt : List (Nat × SalterThread)
  deriving DecidableEq, Repr

/-- Observability behind its registers (R441 to R449). -/
structure Obs where
  /-- The snapshot, while one is held: what each clock domain latched, and the domains whose edge is still to come with the hub cycles until
  then (R443, R444). -/
  snapshot : List (Nat × Latch) := []
  latching : List (Nat × Nat) := []
  window : Window := {}
  /-- A quench of this package drives SB_QUENCH_N (R442). -/
  drivingQuench : Bool := false
  /-- The quench sources of this hub cycle and the match entry (R442). -/
  trigger : Option (Nat × Nat) := none
  deriving DecidableEq, Repr

/-- The state of the package. -/
structure State where
  part : Part := {}
  pins : Pins := {}
  /-- The register file: registers whose value is not their reset value, by `Reg.key`, rising. -/
  regs : List (Nat × Word) := []
  /-- The addressed memory: bytes that are not 0, by memory key, rising. -/
  mem : List Host.Cell := []
  /-- Poisoned units, by the memory key of their first byte, rising (R78, R290). -/
  poison : List Nat := []
  /-- Units whose check bits hold an error that no read has met, or that a read has met and a write has still to mend, by the memory
  key of their first byte, rising: true beyond correction (R78, R289; log 38). -/
  upsets : List (Nat × Bool) := []
  /-- Arrays whose hidden state is not empty, by logical ID, rising. -/
  arr : List (Nat × Arr) := []
  fab : Fab := {}
  dram : Dram := {}
  rake : Rake := {}
  qm : Qm := {}
  /-- The sluice engine's queue, oldest first (R195). -/
  slu : List SluReq := []
  /-- Addresses of sluice requests whose read is held at a bank, oldest first (R92, R195). -/
  sluWait : List Nat := []
  /-- Salter threads, by 8 × core + thread, rising (R213, R418; log 37). -/
  salt : List (Nat × SalterThread) := []
  stg : Stg := {}
  tmp : Tmp := {}
  hmk : Hmk := {}
  /-- The spare map in force. -/
  spare : Spare := {}
  pwr : Pwr := {}
  clk : Clk := {}
  start : Start := {}
  i2c : I2c := {}
  host : HostPort := {}
  evt : Evt := {}
  obs : Obs := {}
  /-- Free values taken so far (log 8). -/
  free : Nat := 0
  /-- Hub cycles passed on an empty queue (log 2). -/
  cycle : Nat := 0
  /-- The completion of the last access and the bytes it returned (R319). -/
  compl : Completion × List Byte := (.ok, [])
  /-- Commands that wait, first in first out. -/
  pending : List Instr := []
  deriving DecidableEq, Repr

/-- Ways a command stops the machine. The manual stops nothing: an error is a completion, a status, an event, a pin or a
step abort (R319, R106, R365, R373, R244). No meaning raises a fault. -/
inductive Fault where
  /-- Raised by no meaning; safe. -/
  | none
  deriving DecidableEq, Repr

/-- Ways a command is refused. -/
inductive Refusal where
  /-- The command has no meaning yet; raised by the dispatch alone; safe. -/
  | notModelled (mnemonic : String)
  deriving DecidableEq, Repr

/-- The package with power good and reset held (R373): registers at their reset values, memory with nothing listed. -/
def State.reset : State := {}

end Sys2Proof.Machine
end

