-- ==== Sys2Proof/Machine/Maps.lean ====
section
/-! DEFINITION. Sparse maps and rising lists, each in one canonical form. -/

namespace Sys2Proof.Machine

/-- The value at a key, or `d` where the map lists none. -/
def Sparse.get {α : Type} (d : α) : List (Nat × α) → Nat → α
  | [], _ => d
  | (a, v) :: m, k => if a = k then v else Sparse.get d m k

/-- Writes a value, keeping the keys rising; a value equal to `d` is not listed. -/
def Sparse.put {α : Type} [DecidableEq α] (d : α) : List (Nat × α) → Nat → α → List (Nat × α)
  | [], k, x => if x = d then [] else [(k, x)]
  | (a, v) :: m, k, x =>
    if k = a then (if x = d then Sparse.put d m k x else (a, x) :: m)
    else if k < a ∧ x ≠ d then (k, x) :: (a, v) :: m
    else (a, v) :: Sparse.put d m k x

/-- Adds a number to a rising list. -/
def insertKey (k : Nat) : List Nat → List Nat
  | [] => [k]
  | a :: l => if k < a then k :: a :: l else if k = a then a :: l else a :: insertKey k l

/-- Removes a number from a rising list. -/
def removeKey (k : Nat) : List Nat → List Nat
  | [] => []
  | a :: l => if k = a then l else a :: removeKey k l

end Sys2Proof.Machine
end

