-- ==== Sys2Proof/Machine/StoreOps.lean ====
section
/-! DEFINITION. What Hallmark's controller does by itself: NAND pages and blocks (R395, R399), the versions and copies of the records
(R396 to R398), and the pages of the event log (R405). -/

namespace Sys2Proof.Machine

/-! ### Partitions (R395) -/

def partCasting : Nat := 1
def partFirmware : Nat := 2
def partRecords : Nat := 3
def partLog : Nat := 4
def partIdentity : Nat := 5

/-- Bytes of a partition; of one slot, where it has slots. -/
def partSize (p : Nat) : Nat :=
  if p = partCasting then 2 ^ 30 else if p = partFirmware then 2 ^ 27 else if p = partRecords then 2 ^ 28
  else if p = partLog then 2 ^ 31 else if p = partIdentity then 2 ^ 20 else 0

/-- The first logical page of a partition's slot; pages are 16 KiB. -/
def firstPage (p slot : Nat) : Nat :=
  if p = partCasting then slot * 65536 else if p = partFirmware then 131072 + slot * 8192 else if p = partRecords then 147456
  else if p = partLog then 163840 else 294912

/-! ### Blocks and pages (R395, R399) -/

def nandBlocks : Nat := 16384

def Nand.erasesOf (n : Nand) (b : Nat) : Nat := Sparse.get 0 n.erases b

/-- Free blocks in order: not bad and not programmed. -/
def Nand.freeBlocks (n : Nand) : List Nat := (List.range nandBlocks).filter fun b => !(n.used.contains b) && !(n.bad.contains b)

/-- The element with the least value, the first of equals. -/
def leastBy (f : Nat → Nat) : List Nat → Option Nat
  | [] => none
  | a :: l => match leastBy f l with
    | none => some a
    | some b => if f b < f a then some b else some a

/-- The element with the greatest value, the first of equals. -/
def mostBy (f : Nat → Nat) : List Nat → Option Nat
  | [] => none
  | a :: l => match mostBy f l with
    | none => some a
    | some b => if f b > f a then some b else some a

/-- Logical pages that lie in a block. -/
def Nand.validPages (n : Nand) (b : Nat) : List Nat := (n.map.filter fun m => m.2 / 64 == b).map (·.1)

/-- A logical page is programmed into the open block, with its spare area; when it is full, the free block with the lowest erase count is
opened. -/
def Nand.program (n : Nand) (page : Nat) : Nand :=
  let n := if n.fill < 64 then n else
    match leastBy n.erasesOf n.freeBlocks with
    | some b => { n with openBlock := b, fill := 0, used := n.used ++ [b] }
    | none => n
  if n.fill ≥ 64 then n
  else
    let at' := n.openBlock * 64 + n.fill
    { n with map := (insertPage page at' n.map), fill := n.fill + 1, writes := n.writes + 1, areas := n.areas ++ [(at', page, n.writes)] }
where
  /-- Enters a page's place, by page, rising. -/
  insertPage (page at' : Nat) : List (Nat × Nat) → List (Nat × Nat)
    | [] => [(page, at')]
    | (a, v) :: l => if page < a then (page, at') :: (a, v) :: l else if page = a then (page, at') :: l else (a, v) :: insertPage page at' l

/-- The page map as the spare areas tell it: of each logical page the physical page with the highest write sequence number (R395). -/
def Nand.rebuild (n : Nand) : Nand :=
  { n with map := n.areas.foldl (fun m x => Nand.program.insertPage x.2.1 x.1 m) [] }

/-- Wrong bits in the worst 1 KiB of a logical page, as it is stored. -/
def Nand.flawOf (n : Nand) (page : Nat) : Nat :=
  match n.map.lookup page with
  | some at' => Sparse.get 0 n.flaws at'
  | none => 0

/-- Whether the check bits correct a logical page: at most 8 wrong bits in each 1 KiB (R395). -/
def Nand.readable (n : Nand) (page : Nat) : Bool := n.flaws.isEmpty || n.flawOf page ≤ 8

/-- A logical page reads back wrong. -/
def Nand.spoil (n : Nand) (page : Nat) : Nand :=
  match n.map.lookup page with
  | some at' => { n with flaws := Sparse.put 0 n.flaws at' 9 }
  | none => n

/-- A stored page is programmed anew; what could not be corrected stays wrong (R399). -/
def Nand.move (n : Nand) (page : Nat) : Nand := if n.readable page then n.program page else (n.program page).spoil page

/-- Whether a page just programmed reads back: its block does not fail programs. -/
def Nand.took (n : Nand) : Bool := !(n.broken.contains n.openBlock)

/-- Programs a page and reads it back; one that fails is written again in another block, as often as the first number says (R396). -/
def Nand.write : Nat → Nand → Nat → Nand × Bool
  | 0, n, page => ((n.program page).spoil page, false)
  | k + 1, n, page =>
    let m := n.program page
    if m.took then (m, true) else Nand.write k { m with fill := 64 } page

/-- Writes after the first (R396). -/
def nandRetries : Nat := 3

/-- Programs pages, each with its retries; with no failing block every program reads back. -/
def Nand.writeAll (n : Nand) (pages : List Nat) : Nand × Bool :=
  if n.broken.isEmpty then (pages.foldl Nand.program n, true) else
  pages.foldl (fun (x : Nand × Bool) p =>
    let w := Nand.write (nandRetries + 1) x.1 p
    (w.1, x.2 && w.2)) (n, true)

/-! ### Records (R396 to R398) -/

def recSpareMap : Nat := 0x10
def recUnits : Nat := 0x11
def recHbmRepair : Nat := 0x12
def recScpRepair : Nat := 0x13
def recLaser : Nat := 0x14
def recKeys : Nat := 0x15
def recFirmware : Nat := 0x16
def recCastings : Nat := 0x17

/-- The records' contents as Hallmark holds them. -/
def Hmk.data (h : Hmk) : RecData :=
  { spare := h.spare, unitsRetired := h.unitsRetired, hbmRepair := h.hbmRepair, scpRepair := h.scpRepair, laser := h.laser
    laserHours := h.laserHours, keys := h.keys, keyEpoch := h.keyEpoch, fw0 := h.fw0, fw1 := h.fw1, cast0 := h.cast0, cast1 := h.cast1 }

/-- One record's contents are taken from a version of it. -/
def Hmk.takeData (h : Hmk) (kind : Nat) (d : RecData) : Hmk :=
  if kind = recSpareMap then { h with spare := d.spare }
  else if kind = recUnits then { h with unitsRetired := d.unitsRetired }
  else if kind = recHbmRepair then { h with hbmRepair := d.hbmRepair }
  else if kind = recScpRepair then { h with scpRepair := d.scpRepair }
  else if kind = recLaser then { h with laser := d.laser, laserHours := d.laserHours }
  else if kind = recKeys then { h with keys := d.keys, keyEpoch := d.keyEpoch }
  else if kind = recFirmware then { h with fw0 := d.fw0, fw1 := d.fw1 }
  else if kind = recCastings then { h with cast0 := d.cast0, cast1 := d.cast1 }
  else h

/-- The newest version of a kind that has been written. -/
def Hmk.newest (h : Hmk) (kind : Nat) : Option RecVersion := h.versions.find? fun v => v.kind == kind

def Hmk.seqOf (h : Hmk) (kind : Nat) : Nat := match h.newest kind with
  | some v => v.seq
  | none => 0

/-- Whether both copies of a kind's newest version have read back. -/
def Hmk.whole (h : Hmk) (kind : Nat) : Bool := match h.newest kind with
  | some v => v.a && v.b
  | none => true

/-- States of an HBM_REPAIR entry. -/
def repPending : Nat := 0
def repSoft : Nat := 1
def repHard : Nat := 2
def repUnrepairable : Nat := 3

def repairState (e : Nat) : Nat := e / 2 ^ 32 % 4
def repairRow (e : Nat) : Nat := e % 2 ^ 32
/-- Position, pseudo-channel and bank of an entry. -/
def repairPlace (e : Nat) : Nat := e % 2 ^ 15

/-- An entry's state moves only from pending to another, and from soft to hard (R398). -/
def repairMoves (old new : Nat) : Bool := (old == repPending && new != repPending) || (old == repSoft && new == repHard)

/-- Whether an HBM_REPAIR entry may stand as another: the same row, in the same state or in one that it may move to (R398). -/
def entryMoves (old new : Nat) : Bool :=
  repairRow old == repairRow new && (repairState old == repairState new || repairMoves (repairState old) (repairState new))

/-- Whether a version may follow another: some records only grow (R398). -/
def mayFollow (kind : Nat) (old new : RecData) : Bool :=
  if kind = recSpareMap then old.spare.retired.all fun x => new.spare.retired.contains x
  else if kind = recUnits then old.unitsRetired &&& new.unitsRetired == old.unitsRetired
  else if kind = recHbmRepair then
    old.hbmRepair.length ≤ new.hbmRepair.length && (old.hbmRepair.zip new.hbmRepair).all fun x => entryMoves x.1 x.2
  else if kind = recScpRepair then
    old.scpRepair.all fun x => x.2.toNat &&& (Sparse.get 0 new.scpRepair x.1).toNat == x.2.toNat
  else if kind = recKeys then
    old.keyEpoch ≤ new.keyEpoch && (old.keys.zip new.keys).all fun x => !x.1.revoked || x.2.revoked
  else true

/-- Logical pages that a copy of a version takes in RECORDS; the numbering is the controller's own (DESIGN CHOICE, log 65). -/
def recordPages (kind seq copy : Nat) (d : RecData) : List Nat :=
  let n := if kind = recScpRepair then 12 else if kind = recHbmRepair then (32 + 8 * d.hbmRepair.length + 16383) / 16384 else 1
  (List.range n).map fun i => firstPage partRecords 0 + ((kind - recSpareMap) * 4 + seq % 2 * 2 + copy) * 16 + i

/-- Copy B of a kind's newest version is written, in another erase block than copy A, and read back. A copy that fails its retries is
reported (R396). -/
def Hmk.writeCopyB (h : Hmk) (kind : Nat) : Hmk :=
  let h := { h with copying := h.copying.filter fun k => k != kind }
  match h.newest kind with
  | none => h
  | some v =>
    let n := h.nand
    let n := if (recordPages kind v.seq 0 v.data).any fun p => (n.map.lookup p).any fun at' => at' / 64 == n.openBlock then { n with fill := 64 } else n
    let w := n.writeAll (recordPages kind v.seq 1 v.data)
    { h with nand := w.1
             versions := h.versions.map fun x => if x.kind = kind ∧ x.seq = v.seq then { x with b := w.2 } else x
             reports := if w.2 then h.reports else h.reports ++ [(5, kind)] }

/-- A version that would shrink is not written, and the event 0x0B:0x06 is to be raised (R398). -/
def Hmk.refuseRecord (h : Hmk) (kind : Nat) : Hmk := { h with reports := h.reports ++ [(6, kind)] }

/-- A kind's new version: refused where it shrinks, with the contents as before; else copy A is written and read back, and copy B follows
(R396, R398; log 65). -/
def Hmk.writeRecord (h : Hmk) (kind : Nat) : Hmk :=
  let h := if h.copying.contains kind then h.writeCopyB kind else h
  let old := (h.newest kind).map fun v => v.data
  let before := h.takeData kind (old.getD {})
  if !(mayFollow kind (old.getD {}) h.data) then before.refuseRecord kind
  else
    let seq := h.seqOf kind + 1
    let w := h.nand.writeAll (recordPages kind seq 0 h.data)
    if w.2 then
      -- the version before it stays until the next one
      let older := match h.newest kind with
        | some v => [v]
        | none => []
      { h with nand := w.1, copying := h.copying ++ [kind]
               versions := { kind := kind, seq := seq, data := h.data, a := true, b := false } :: (older ++ h.versions.filter fun v => v.kind != kind) }
    else { before with nand := w.1, reports := h.reports ++ [(5, kind)] }

/-! ### The event log (R405) -/

/-- Records of a full log ring, and of the page buffer behind it: 2 GiB of pages of 512 records (R395, R405). -/
def logRing : Nat := 131072 * 512

/-- The logical page of the log that holds its `n`-th page of records, in the order of writing. -/
def logPage (n : Nat) : Nat := firstPage partLog 0 + n % 131072

/-- A record enters the page buffer. A buffer that is full is written as a page, the oldest page of a full ring being overwritten; one that
fails its retries is reported (R396, R405). -/
def Hmk.logRecord (h : Hmk) (r : EventRec) : Hmk :=
  let l := h.log ++ [r]
  let total := h.logLost + l.length
  let h := if l.length ≥ logRing + 512 then { h with log := l.drop 512, logLost := h.logLost + 512 } else { h with log := l }
  if total % 512 ≠ 0 then h
  else
    let w := h.nand.writeAll [logPage (total / 512 - 1)]
    { h with nand := w.1, reports := if w.2 then h.reports else h.reports ++ [(5, w.1.openBlock)] }

end Sys2Proof.Machine
end

