-- ==== Sys2Proof/Machine/Ops.lean ====
section
/-! DEFINITION. The named operations over registers, memory, poison, arrays' hidden state, the event queue and the quench. -/

namespace Sys2Proof.Machine

/-! ### Bit fields -/

/-- Bits `hi` down to `lo` of a word, as a number (R9). -/
def bits (w : Word) (hi lo : Nat) : Nat := w.toNat / 2 ^ lo % 2 ^ (hi - lo + 1)

/-- A word with bits `hi` down to `lo` replaced. -/
def setBits (w : Word) (hi lo v : Nat) : Word :=
  let n := 2 ^ (hi - lo + 1)
  BitVec.ofNat 64 (w.toNat - bits w hi lo * 2 ^ lo + (v % n) * 2 ^ lo)

def bit (w : Word) (i : Nat) : Bool := w.getLsbD i

def b2n (b : Bool) : Nat := if b then 1 else 0

/-! ### Fused values -/

def Part.is2048 (p : Part) : Bool := p.number == .vlt9_2048

/-- Enabled arrays (R2), and per die. -/
def Part.arrays (p : Part) : Nat := if p.is2048 then 2048 else 2240
def Part.perDie (p : Part) : Nat := if p.is2048 then 1024 else 1120

/-- Enabled HBM stacks (R2). -/
def Part.stacks (p : Part) : Nat := if p.is2048 then 11 else 12

/-- Physical positions of the enabled stacks, in the order of their indices (R3). -/
def Part.positions (p : Part) : List Nat :=
  if p.is2048 then (List.range 12).filter (· != p.disabledStack % 12) else List.range 12

def Part.presentMask (p : Part) : Nat := (p.positions.map (2 ^ ·)).sum

/-- Expected reference cycles per ring cycle with 24 fraction bits, truncated (R414, R432). -/
def Part.ratio (p : Part) : Nat := 103759765625 * 2 ^ 24 / (1000000 * max 1 p.ringKHz)

/-- Ring cycles per gate: the calibration in MHz to the nearest integer (R416). -/
def Part.gate (p : Part) : Nat := (p.ringKHz + 500) / 1000

/-- The expected count of a gate, times 10^6 and the calibration (R416). -/
def Part.expected (p : Part) : Nat := 103759765625 * p.gate

/-- The passing counts, ±3 % rounded inward (R416). -/
def Part.lowCount (p : Part) : Nat :=
  (97 * p.expected + 100000000 * max 1 p.ringKHz - 1) / (100000000 * max 1 p.ringKHz)
def Part.highCount (p : Part) : Nat := 103 * p.expected / (100000000 * max 1 p.ringKHz)

def Part.partCode (p : Part) : Nat := if p.is2048 then 0x2048 else 0x2240

/-! ### The register file -/

/-- Where a register's value stands in the register file. -/
def regKey (k : RegKind) (i j : Nat) : Nat := (k.ctorIdx * 65536 + i) * 65536 + j

/-- The instances of a register on the largest part. -/
def RegKind.inRange (k : RegKind) (i j : Nat) : Bool := i < k.shape.n1 && j < k.shape.n2

/-- The reset value of a register (R12; log 3 to 6 for the values the tables do not state in numbers). -/
def resetValue (p : Part) (k : RegKind) (i j : Nat) : Word :=
  let base := BitVec.ofNat 64 k.resetBits
  match k with
  | .ID_PART => BitVec.ofNat 64 (k.resetBits + p.partCode * 2 ^ 48 + p.arrays * 2 ^ 28 + p.stacks * 2 ^ 24 + p.presentMask * 2 ^ 12)
  | .ID_SERIAL => p.serial
  | .ID_STEPPING => BitVec.ofNat 64 (p.steppingHub.toNat * 2 ^ 32 + p.stepping1.toNat * 2 ^ 16 + p.stepping0.toNat)
  | .CLK_RO_CAL => BitVec.ofNat 64 (p.ratio * 2 ^ 32 + p.ringKHz)
  | .CLK_MON => BitVec.ofNat 64 (p.gate * 2 ^ 48 + p.lowCount * 2 ^ 40 + p.highCount * 2 ^ 32)
  | .HBM_STK_INFO =>
    let pos := p.positions.getD i 0
    BitVec.ofNat 64 (k.resetBits + pos * 2 ^ 56 + (pos / 6) * 2 ^ 55)
  | .HP_UDP_CFG => 0xC800000000000000#64
  | .HP_SELF => if i = 0 then BitVec.ofNat 64 (p.mac.toNat % 2 ^ 48) else base
  | .MEM_IL_REGION => base + BitVec.ofNat 64 ((if i = 0 then 2 ^ 63 else 0) + (2 ^ p.stacks - 1) * 2 ^ 48)
  | .DIE_INFO => BitVec.ofNat 64 (k.resetBits + p.perDie * 2 ^ 36 + i * p.perDie * 2 ^ 24 + i)
  | .ARR_ID => BitVec.ofNat 64 (i * 2 ^ 48)
  | .DIE_SPARE_MAP => BitVec.ofNat 64 ((i * p.perDie + j) * 2 ^ 32)
  | .UST_ARRAY => BitVec.ofNat 64 (b2n (i < p.arrays) * 2 ^ 51)
  | .UST_HBM => BitVec.ofNat 64 (b2n (i < p.stacks) * 2 ^ 51)
  | .UST_LINK | .UST_BITTERN | .UST_TEMPER => 0x0008000000000000#64
  | .ARR_WIN_CFG | .ARR_WIN_HEAD | .ARR_WIN_TAIL => base
  | _ => base

/-- The registers fused at manufacture, which nothing changes (R38, R412). -/
def RegKind.fused : RegKind → Bool
  | .ID_PART | .ID_PARAMS | .ID_SERIAL | .ID_STEPPING | .CLK_RO_CAL => true
  | _ => false

def State.rd (s : State) (k : RegKind) (i : Nat := 0) (j : Nat := 0) : Word :=
  if k.fused then resetValue s.part k i j else Sparse.get (resetValue s.part k i j) s.regs (regKey k i j)

/-- Sets a register of the device; one that does not exist or is fused is left alone. -/
def State.wr (s : State) (k : RegKind) (i j : Nat) (v : Word) : State :=
  if k.inRange i j && !k.fused then { s with regs := Sparse.put (resetValue s.part k i j) s.regs (regKey k i j) v } else s

/-- A field of a register, as a number. -/
def State.fld (s : State) (f : Fld) (i : Nat := 0) (j : Nat := 0) : Nat := bits (s.rd f.kind i j) f.hi f.lo

def State.flag (s : State) (f : Fld) (i : Nat := 0) (j : Nat := 0) : Bool := s.fld f i j != 0

def State.setFld (s : State) (f : Fld) (i j v : Nat) : State :=
  s.wr f.kind i j (setBits (s.rd f.kind i j) f.hi f.lo v)

/-- The largest value of a field. -/
def Fld.top (f : Fld) : Nat := 2 ^ (f.hi - f.lo + 1) - 1

/-- Advances a saturating count. -/
def State.sat (s : State) (f : Fld) (i j n : Nat) : State :=
  if n = 0 then s else s.setFld f i j (min (s.fld f i j + n) f.top)

/-- Advances a counter that wraps at its width. -/
def State.bump (s : State) (f : Fld) (i j n : Nat) : State :=
  if n = 0 then s else s.setFld f i j (s.fld f i j + n)

/-- What a write does to one field by its access code (R12, R465). -/
def Fld.write (f : Fld) (old new : Word) : Word :=
  let o := bits old f.hi f.lo
  let n := bits new f.hi f.lo
  match f.acc with
  | .rw => setBits old f.hi f.lo n
  | .w1s => setBits old f.hi f.lo (o ||| n)
  | .w1c =>
    if f.count then (if n = f.top then setBits old f.hi f.lo 0 else old)
    else setBits old f.hi f.lo (o - (o &&& n))
  | .ro | .wo => old

/-- What a register write does by its fields' access codes; reserved bits are ignored (R12, R13). -/
def fieldWrite (k : RegKind) (old new : Word) : Word :=
  k.fields.foldl (fun w f => f.write w new) old

/-! ### The registers behind an address -/

/-- A register's instance. -/
structure Reg where
  kind : RegKind
  i : Nat
  j : Nat
  deriving DecidableEq, Repr

/-- The instance of a register that lies at a local address, if one does. -/
def RegKind.locate (k : RegKind) (addr : Nat) : Option Reg :=
  let sh := k.shape
  if addr < sh.base then none else
  let off := addr - sh.base
  let i := if sh.n1 = 1 then 0 else off / sh.s1
  let rest := off - i * sh.s1
  let j := if sh.n2 = 1 then 0 else rest / sh.s2
  if rest - j * sh.s2 = 0 ∧ i < sh.n1 ∧ j < sh.n2 then some ⟨k, i, j⟩ else none

/-- The register at a local address (R35, R36); none where no register is defined. -/
def Reg.ofAddr (addr : Nat) : Option Reg := RegKind.all.findSome? (·.locate addr)

/-- A register's local address. -/
def Reg.addr (r : Reg) : Nat := r.kind.shape.base + r.i * r.kind.shape.s1 + r.j * r.kind.shape.s2

/-! ### Memory -/

/-- What an unlisted byte reads as (R102 for the arrays' SRAM; log 7 for DRAM). -/
def unlisted : Byte := 0#8

/-- The canonical form of the memory: keys strictly rising, and no byte listed that reads as it would unlisted. -/
def Memory.wf : List Host.Cell → Bool
  | [] => true
  | [c] => c.2 != unlisted
  | c :: e :: m => c.2 != unlisted && c.1 < e.1 && Memory.wf (e :: m)

/-- A memory in canonical form: as it is, or, were it not, written anew; every byte reads as before. -/
def Memory.canonical (m : List Host.Cell) : List Host.Cell :=
  if Memory.wf m then m else m.foldr (fun c l => Sparse.put unlisted l c.1 c.2) []

def State.byte (s : State) (key : Nat) : Byte := Sparse.get unlisted s.mem key

def State.setByte (s : State) (key : Nat) (b : Byte) : State := { s with mem := Sparse.put unlisted s.mem key b }

def State.bytes (s : State) (key n : Nat) : List Byte := (List.range n).map fun i => s.byte (key + i)

def State.setBytes (s : State) : Nat → List Byte → State
  | _, [] => s
  | key, b :: bs => (s.setByte key b).setBytes (key + 1) bs

def State.isPoisoned (s : State) (key : Nat) : Bool := s.poison.contains key

def State.setPoison (s : State) (key : Nat) : State := { s with poison := insertKey key s.poison }

def State.clearPoison (s : State) (key : Nat) : State := { s with poison := removeKey key s.poison }

def State.mapWindow (s : State) (f : Window → Window) : State :=
  { s with obs := { s.obs with window := f s.obs.window } }

/-! ### Errors in the check bits (R78, R289; log 38) -/

/-- Adds an error to a rising list, in place of one of the same unit. -/
def insertUpset (k : Nat) (b : Bool) : List (Nat × Bool) → List (Nat × Bool)
  | [] => [(k, b)]
  | (a, c) :: l => if k < a then (k, b) :: (a, c) :: l else if k = a then (a, b || c) :: l else (a, c) :: insertUpset k b l

/-- An error strikes a unit; a poisoned unit is past striking. -/
def State.strike (s : State) (key : Nat) (uncorrectable : Bool) : State :=
  if s.isPoisoned key then s else { s with upsets := insertUpset key uncorrectable s.upsets }

/-- The error of a unit is gone: the unit was written whole, or poisoned. -/
def State.mend (s : State) (key : Nat) : State := { s with upsets := s.upsets.filter fun u => u.1 != key }

/-- A corrected error is counted for the step summary (R447). -/
def State.noteCorrectedWord (s : State) : State := s.mapWindow fun w => { w with corrected := w.corrected + 1 }

/-- A read of a 64-bit word meets its error: the word is poisoned in place, or delivered corrected (R78). -/
def State.meetWord (s : State) (u : Nat × Bool) : State :=
  if u.2 then (s.setPoison u.1).mend u.1 else s.noteCorrectedWord

/-- The bytes that `on` names have been written: a 64-bit word written whole has valid check bits; one written in part is read first,
keeps its poison, and is poisoned where that read meets an error beyond correction (R78). -/
def State.settleWords (s : State) (on : Nat → Bool) : State :=
  let whole := fun (u : Nat) => (List.range 8).all fun b => on (u + b)
  let part := fun (u : Nat) => (List.range 8).any fun b => on (u + b)
  let mixed := s.upsets.filter fun u => part u.1 && !(whole u.1)
  let s := { s with poison := s.poison.filter fun u => !(whole u), upsets := s.upsets.filter fun u => !(part u.1) }
  mixed.foldl (fun s u => if u.2 then s.setPoison u.1 else s.noteCorrectedWord) s

/-- The units of `n` bytes that a span of addresses touches. -/
def unitsOf (n start len : Nat) : List Nat :=
  if len = 0 then [] else (List.range ((start + len - 1) / n - start / n + 1)).map fun i => (start / n + i) * n

/-- A write of bytes of SRAM in one piece (R78). -/
def State.writeWords (s : State) (key : Nat) (data : List Byte) : State :=
  (s.setBytes key data).settleWords fun k => key ≤ k && k < key + data.length

/-! ### Array SRAM -/

/-- The memory key of a byte of an array's SRAM window is its local address (R35). -/
def sramKey (a off : Nat) : Nat := 0x080000000000 + a * 0x100000 + off

/-- The accumulator buffer's place in the window (R36). -/
def accBase : Nat := 0x80000

def State.sram (s : State) (a off n : Nat) : List Byte := s.bytes (sramKey a off) n

/-- Whether a span of an array's SRAM touches a poisoned 64-bit word (R78). -/
def State.sramPoison (s : State) (a off n : Nat) : Bool :=
  (unitsOf 8 (sramKey a off) n).any s.isPoisoned

def State.sramWrite (s : State) (a off : Nat) (data : List Byte) : State := s.writeWords (sramKey a off) data

/-- A read of spans of an array's SRAM meets the errors that stand in their words (R78). -/
def State.sramMeet (s : State) (a : Nat) (spans : List (Nat × Nat)) : State :=
  (s.upsets.filter fun u => spans.any fun sp => sp.2 != 0 && sramKey a sp.1 / 8 * 8 ≤ u.1 && u.1 < sramKey a sp.1 + sp.2).foldl State.meetWord s

/-- A word of the accumulator buffer as an A32 encoding (R100). -/
def State.accWord (s : State) (a off : Nat) : BitVec 32 := BitVec.ofNat 32 (leNat (s.sram a (accBase + off) 4))

/-- The 64-bit word that holds an accumulator word. -/
def accUnit (a off : Nat) : Nat := sramKey a (accBase + off) / 8 * 8

/-! ### Arrays' hidden state -/

def State.array (s : State) (a : Nat) : Arr := Sparse.get {} s.arr a

def State.setArray (s : State) (a : Nat) (x : Arr) : State := { s with arr := Sparse.put {} s.arr a x }

def State.mapArray (s : State) (a : Nat) (f : Arr → Arr) : State := s.setArray a (f (s.array a))

/-! ### Free values -/

/-- The next free value, and the state that has taken it (log 8). -/
def State.fresh (s : State) : Word × State := (Config.freeValue s.free, { s with free := s.free + 1 })

/-- Nanoseconds since SB_RESET_N was released, as the hub cycles that have passed give them (R365, R445; log 2). -/
def State.nanos (s : State) : Word := BitVec.ofNat 64 (s.clk.time / (15 * s.part.ringKHz))

/-! ### Recording arithmetic events -/

/-- Enters a command's events into `ARR_STATUS`, `ARR_EXC_CNT` (R71 to R73) and the counts of the summary window (R447). -/
def State.record (s : State) (a : Nat) (r : Record) : State :=
  let w := s.rd .ARR_STATUS a
  let s := s.wr .ARR_STATUS a 0 (w ||| r.bits.setWidth 64)
  let s := s.sat ARR_EXC_CNT.invalid a 0 r.invalid
  let s := s.sat ARR_EXC_CNT.overflow a 0 r.overflow
  let s := s.sat ARR_EXC_CNT.underflow a 0 r.underflow
  let s := s.sat ARR_EXC_CNT.empty_rows a 0 r.emptyRows
  let v := s.obs.window
  { s with obs := { s.obs with window := { v with
      invalid := v.invalid + r.invalid
      overflow := v.overflow + r.overflow
      underflow := v.underflow + r.underflow
      emptyRows := v.emptyRows + r.emptyRows } } }

/-- A tile trailer's exception byte (R74) enters the summary window (R447). -/
def State.noteTrailerExc (s : State) (x : Exc) : State := s.mapWindow fun w => { w with exc := w.exc ||| x }

/-- Poisoned data delivered to a requester (R447). -/
def State.notePoisoned (s : State) (n : Nat) : State := s.mapWindow fun w => { w with poisoned := w.poisoned + n }

/-! ### The quench (R441 to R445) -/

/-- Registers a snapshot latches: all but the identity sub-block, Hallmark and Touchstone, the layer, expert, stage and queue tables of the
pour (log 50) and the observability sub-block (R443). -/
def RegKind.latched (k : RegKind) : Bool :=
  let b := k.shape.base
  let hub := b / 0x100000
  !(hub == 0xF00000 || hub == 0xF00008 || hub == 0xF00009 ||
    k == .RX_EXPERT_TABLE || k == .RX_LAYER_TABLE || k == .STG_ENTRY || k == .STG_QUEUE)

/-- The clock domains by their latch edges (R444): the hub, salter cores, fabric routers, bittern controllers, the host port, the arrays and
temper units with the compute dies' own registers, and the HBM controllers. -/
def RegKind.domain (k : RegKind) : Nat :=
  let b := k.shape.base
  let hub := b / 0x100000
  if 0x0F4000000000 ≤ b then 5
  else if hub = 0xF00004 then 1
  else if hub = 0xF00003 then 2
  else if hub = 0xF00002 then 4
  else if hub = 0xF00006 then 5
  else if hub = 0xF00007 then (if b < 0x0F00007C0000 then 6 else 3)
  else 0

/-- Edges of each domain in an alignment frame of 2,125 reference cycles (R413); the host port's own clock is that of its lanes (log 59). -/
def frameEdges : List Nat := [30720, 40960, 32768, 21800, 2176000, 46080, 24576]

/-- Hub cycles from the end of Q to a domain's latch edge: its third own edge after Q, and on the compute dies after 16 hub cycles more
(R444); `place` is the number of hub cycles of the frame that have passed at the end of Q. -/
def latchDelay (place d : Nat) : Nat :=
  let n := frameEdges.getD d 30720
  let base := if d ≥ 5 then 16 else 0
  if d = 0 then 0 else (((place + base) * n / 30720 + 3) * 30720 + n - 1) / n - place

/-- Bits of `OBS_QUENCH_STATUS.sources`. -/
def srcFire : Nat := 16
def srcBcast : Nat := 8
def srcPin : Nat := 4
def srcMatch : Nat := 2
def srcThermal : Nat := 1

/-- Events that are also appended to the LOG partition (R405). -/
def persisted (cls code : Nat) : Bool :=
  cls == 5 || cls == 0x0B || [(2, 3), (3, 3), (4, 3), (8, 3), (8, 6), (9, 1), (9, 5), (0x0A, 1), (0x0A, 7)].contains (cls, code)

/-- A record enters the log (R405). -/
def State.logEvent (s : State) (r : EventRec) : State := { s with hmk := s.hmk.logRecord r }

/-- What Hallmark holds of a record kind is written as its new version (R396, R398). -/
def State.newVersion (s : State) (kind : Nat) : State := { s with hmk := s.hmk.writeRecord kind }

def State.refuseVersion (s : State) (kind : Nat) : State := { s with hmk := s.hmk.refuseRecord kind }

/-- Puts a request of one of the package's units behind those waiting for injection (R322). -/
def State.send (s : State) (r : Request) : State := { s with fab := { s.fab with reqQ := s.fab.reqQ ++ [r] } }

/-- Sends a quench broadcast to the slice, unit code 0x51 in payload byte 0 (R442, R349). -/
def State.sendQuenchBroadcast (s : State) : State :=
  s.send { op := 0x12, dst := 0xFFFF, requester := 0, addr := 0, payload := 0x51#8 :: List.replicate 31 0#8 }

/-- Sets bits of the I2C register ALERT: 1 the event queue, 2 temperature, 4 fault (R375). -/
def State.alarm (s : State) (n : Nat) : State := { s with i2c := { s.i2c with alert := s.i2c.alert ||| n } }

/-- SB_FAULT_N is asserted (R373). -/
def State.assertFault (s : State) : State := ({ s with pins := { s.pins with faultN := false } }).alarm 4

/-- A fault leaves the device unconfigured; during start-up SB_FAULT_N waits for its end (R430). -/
def State.faultUnconfigured (s : State) : State :=
  if s.start.running && !s.start.ready then { s with start := { s.start with fault := true } } else s.assertFault

/-- Appends a record to the event queue, or loses it (R366); a persisted one is kept in the Hallmark log in either case (R405, R431). -/
def State.enqueue (s : State) (cls code unit : Nat) (info : Word) : State :=
  let r : EventRec :=
    { cls := cls, code := code, package := s.fld FAB_ID.logical_id, unit := unit % 65536
      lost := min s.evt.lostRun 65535, record := s.fld HP_EVT_STATUS.next_record, time := s.nanos
      step := if s.fld STG_STEP_STATUS.state = 1 then s.fld STG_STEP_STATUS.step else 0, info := info }
  if s.evt.queue.length ≥ 4096 then
    let s := (s.sat HP_EVT_STATUS.lost 0 0 1).alarm 1
    let s := { s with evt := { s.evt with lostRun := s.evt.lostRun + 1, runOpen := true } }
    if persisted cls code then s.logEvent r else s
  else
    let s := { s with evt := { s.evt with queue := s.evt.queue ++ [r], lostRun := 0 } }
    let s := s.bump HP_EVT_STATUS.next_record 0 0 1
    let s := s.setFld HP_EVT_STATUS.queued 0 0 s.evt.queue.length
    let s := if 2 ≤ cls ∧ cls ≤ 4 then s.alarm 1 else s
    if persisted cls code then s.logEvent r else s

/-- What a quench taken from fire or a match does besides: it drives the pin and goes out to the slice, as configured (R442). -/
def State.spreadQuench (s : State) : State :=
  let s := if s.flag OBS_QUENCH_CFG.drive_pin then { s with obs := { s.obs with drivingQuench := true } } else s
  if s.flag OBS_QUENCH_CFG.bcast then s.sendQuenchBroadcast else s

/-- Whether a quench's sources name fire or a match. -/
def ownSources (sources : Nat) : Bool := sources / srcMatch % 2 == 1 || sources / srcFire % 2 == 1

/-- A source of a quench in this hub cycle: at the cycle's end all of them make one quench, and the first match entry is the one shown
(R442). -/
def State.quench (s : State) (sources entry : Nat) : State :=
  let (old, e) := s.obs.trigger.getD (0, 0)
  { s with obs := { s.obs with trigger := some (old ||| sources, if old / srcMatch % 2 = 1 then e else entry) } }

/-- The domain's registers are latched into the snapshot (R443, R444). -/
def State.latch (s : State) (d : Nat) : State :=
  let l : Latch := { regs := s.regs, spare := s.spare, record := s.hmk.spare, repairs := s.hmk.scpRepair, arr := s.arr, salt := s.salt }
  { s with obs := { s.obs with snapshot := s.obs.snapshot ++ [(d, l)] } }

/-- Domains whose latch edge falls at the end of this hub cycle are latched. -/
def State.latchDue (s : State) : State :=
  let waiting := s.obs.latching.map fun x => (x.1 - 1, x.2)
  let s := { s with obs := { s.obs with latching := waiting.filter fun x => x.1 != 0 } }
  (waiting.filter fun x => x.1 == 0).foldl (fun s x => s.latch x.2) s

/-- A quench is taken at the end of hub cycle Q: the hub is latched, the other domains at their own edges. The record 0x0C:0x02 is raised
(R442 to R445). -/
def State.takeQuench (s : State) (sources entry : Nat) : State :=
  let place := s.clk.place + 1
  let s := { s with obs := { s.obs with snapshot := [], latching := (List.range 6).map fun d => (latchDelay place (d + 1), d + 1) } }
  let s := s.latch 0
  let s := s.setFld OBS_QUENCH_STATUS.held 0 0 1
  let s := s.setFld OBS_QUENCH_STATUS.sources 0 0 sources
  let s := s.setFld OBS_QUENCH_STATUS.matched 0 0 entry
  let s := s.setFld OBS_QUENCH_STATUS.dropped 0 0 0
  let s := s.bump OBS_QUENCH_STATUS.quenches 0 0 1
  let s := s.setFld OBS_QUENCH_TIME.ns 0 0 s.nanos.toNat
  let s := s.setFld OBS_QUENCH_FRAME.frame 0 0 (s.fld CLK_STATUS.frames)
  let s := s.setFld OBS_QUENCH_FRAME.cycle 0 0 s.clk.place
  let s := if ownSources sources then s.spreadQuench else s
  s.enqueue 0x0C 0x02 0xFFFF (s.rd .OBS_QUENCH_STATUS)

/-- A quench is dropped while one is held; the first drop raises the record 0x0C:0x03 (R442). -/
def State.dropQuench (s : State) : State :=
  let first := s.fld OBS_QUENCH_STATUS.dropped == 0
  let s := s.sat OBS_QUENCH_STATUS.dropped 0 0 1
  let s := s.bump OBS_PERF_QUENCH_DROP.count 0 0 1
  if first then s.enqueue 0x0C 0x03 0xFFFF 0 else s

/-- The end of a hub cycle: latch edges, then the quench of the cycle's sources. A release has acted by then, so it acts first (R442). -/
def State.endQuench (s : State) : State :=
  let s := s.latchDue
  match s.obs.trigger with
  | none => s
  | some (sources, entry) =>
    let s := { s with obs := { s.obs with trigger := none } }
    if s.flag OBS_QUENCH_STATUS.held then s.dropQuench else s.takeQuench sources entry

/-- A quench held is released with its snapshot (R442). -/
def State.releaseQuench (s : State) : State :=
  { (s.setFld OBS_QUENCH_STATUS.held 0 0 0) with obs := { s.obs with snapshot := [], latching := [] } }

/-- The first enabled match entry that an event meets (R441). -/
def State.matchEntry (s : State) (cls code : Nat) : Option Nat :=
  if cls = 0x0C then none else
  (List.range 4).find? fun n =>
    s.flag OBS_MATCH.enable n && s.fld OBS_MATCH.cls n == cls &&
      (s.fld OBS_MATCH.code n &&& s.fld OBS_MATCH.code_mask n) == (code &&& s.fld OBS_MATCH.code_mask n)

/-- Raises an event (R365): its record is queued, and a matching entry takes a quench (R441). -/
def State.raise (s : State) (cls code unit : Nat) (info : Word) : State :=
  let s := s.enqueue cls code unit info
  match s.matchEntry cls code with
  | none => s
  | some n =>
    let s := if s.flag OBS_MATCH.once n then s.setFld OBS_MATCH.enable n 0 0 else s
    s.quench srcMatch n

end Sys2Proof.Machine
end

