-- ==== Sys2Proof/Machine/UnitOps.lean ====
section
/-! DEFINITION. The spare map (R25 to R28, R41), the unit state table (R369 to R372) and which units an access may reach. -/

namespace Sys2Proof.Machine

/-! ### The spare map -/

/-- The die and the die-local index of a logical array ID (R25). -/
def Part.dieOf (p : Part) (id : Nat) : Nat := if id < p.perDie then 0 else 1
def Part.localIndex (p : Part) (id : Nat) : Nat := id - p.dieOf id * p.perDie

/-- The physical array bound to a logical ID, as row × 32 + column on its die, with the origin code (R26, R27, R41). -/
def State.binding (s : State) (id : Nat) : Option Nat × Nat :=
  match s.spare.binds.lookup id with
  | some b => b
  | none => (some (s.part.localIndex id), 0)

def State.bound (s : State) (id : Nat) : Bool := (s.binding id).1.isSome

/-- Logical IDs of a die. -/
def Part.idsOf (p : Part) (die : Nat) : List Nat := (List.range p.perDie).map (· + die * p.perDie)

/-- The free spares of a die in the order of R27: lowest row, then lowest column. -/
def State.freeSpares (s : State) (die : Nat) : List Nat :=
  let taken := s.spare.binds.filterMap fun b => if s.part.dieOf b.1 = die then b.2.1 else none
  ((List.range (1152 - s.part.perDie)).map (· + s.part.perDie)).filter fun ph =>
    !(s.spare.retired.contains (die, ph)) && !(taken.contains ph)

/-- The physical arrays neither bound nor retired: free spares, and nominal arrays whose ID is bound elsewhere are retired. -/
def State.sparesFree (s : State) (die : Nat) : Nat := (s.freeSpares die).length

def State.unboundCount (s : State) (die : Nat) : Nat :=
  (s.spare.binds.filter fun b => s.part.dieOf b.1 == die && b.2.1.isNone).length

/-! ### The unit state table -/

/-- A unit of the table: its register and index. -/
structure UnitId where
  kind : RegKind
  i : Nat
  deriving DecidableEq, Repr

def tsActive : Nat := 0
def tsDraining : Nat := 1
def tsFenced : Nat := 2
def tsRetired : Nat := 3
def tsSpare : Nat := 4

/-- Every unit's entry shares one layout (R369). -/
def State.tableState (s : State) (u : UnitId) : Nat := bits (s.rd u.kind u.i) 63 60
def State.pathState (s : State) (u : UnitId) : Nat := bits (s.rd u.kind u.i) 59 56
def State.present (s : State) (u : UnitId) : Bool := bit (s.rd u.kind u.i) 51

def State.setUst (s : State) (u : UnitId) (hi lo v : Nat) : State := s.wr u.kind u.i 0 (setBits (s.rd u.kind u.i) hi lo v)

/-- The units of the part, in table order. -/
def Part.units (p : Part) : List UnitId :=
  ((List.range p.arrays).map (⟨.UST_ARRAY, ·⟩)) ++ ((List.range 16).map (⟨.UST_LINK, ·⟩)) ++
  ((List.range p.stacks).map (⟨.UST_HBM, ·⟩)) ++ ((List.range 4).map (⟨.UST_BITTERN, ·⟩)) ++
  ((List.range 4).map (⟨.UST_TEMPER, ·⟩))

/-- A disagreement of one entry is counted (R372). -/
def State.countDisagreement (s : State) (u : UnitId) : State :=
  let n := bits (s.rd u.kind u.i) 47 32
  let s := s.setUst u 47 32 (min (n + 1) 65535)
  s.bump UST_PERF_DISAGREE.count 0 0 1

/-- Sets `UST_STATUS.open` after one entry changed from differing or not to differing or not. -/
def State.noteOpen (s : State) (before after : Bool) : State :=
  let n := s.fld UST_STATUS.opened
  if before = after then s else s.setFld UST_STATUS.opened 0 0 (if after then n + 1 else n - 1)

/-- A change of table_state with its reason; counted when the views differ after it (R370, R372). -/
def State.setTable (s : State) (u : UnitId) (v reason : Nat) : State :=
  let before := s.tableState u != s.pathState u
  let s := s.setUst u 63 60 v
  let s := s.setUst u 50 48 reason
  let after := s.tableState u != s.pathState u
  let s := s.noteOpen before after
  if after then s.countDisagreement u else s

/-- The device fences a unit on a fault (R370); the event 0x02:0x03 names the unit. -/
def State.deviceFence (s : State) (u : UnitId) : State :=
  let t := s.tableState u
  if t = tsActive ∨ t = tsDraining ∨ t = tsSpare then
    (s.setTable u tsFenced 2).raise 2 3 u.i 0
  else s

/-- Whether a unit refuses new accesses other than MGMT (R372). -/
def State.isolated (s : State) (u : UnitId) : Bool := s.tableState u == tsFenced || s.tableState u == tsRetired

/-- Whether an array's window or registers answer: enabled (R4), bound (R28), and, unless for MGMT, not isolated (R372). -/
def State.arrayAnswers (s : State) (a : Nat) (mgmt : Bool) : Bool :=
  a < s.part.arrays && s.bound a && (mgmt || !(s.isolated ⟨.UST_ARRAY, a⟩))

/-- Whether a register access to units on the named dies arrives: a link of one of them to the hub is in service, or the units are the
hub's own (R37). -/
def State.dieOpen (s : State) (dies : List Nat) : Bool := dies.isEmpty || dies.any fun d => !(s.flag DIE_D2D_STATUS.link_down d)

/-- Advances the determinism count of a die for the row of R435 named (R437, R438). -/
def State.ndc (s : State) (die row n : Nat) : State :=
  if n = 0 then s else
  let s := s.bump NDC_COUNT.count die 0 n
  -- only the window's first advance can alert
  let first := !s.obs.window.ndcAdvanced
  let s := s.mapWindow fun w => { w with ndcAdvanced := true }
  if first && s.flag OBS_NDC_CFG.alert then s.raise 0x0C 4 0xFFFF (BitVec.ofNat 64 (die * 2 ^ 63 + row)) else s

end Sys2Proof.Machine
end

