-- ==== Sys2Proof/Machine/FenceOps.lean ====
section
/-! DEFINITION. Fences over the fabric's flows (R331, R332). -/

namespace Sys2Proof.Machine

def clsReq : Nat := 0
def clsRsp : Nat := 1
def clsCtl : Nat := 2

/-- The class of an operation (R318). -/
def opClass (op : Nat) : Nat := if op < 0x08 then clsReq else if op < 0x10 then clsRsp else clsCtl

/-- The writes a fence covers: STORE, ATOMIC, SWAP and CAS (R331). -/
def isWriteOp (op : Nat) : Bool := op == 2 || op == 3 || op == 4 || op == 5

/-- How a fence ends (R331). -/
inductive FenceEnd where
  | done | failed | timeout
  deriving DecidableEq, Repr

/-- Per destination, the highest number among a requester's unacknowledged writes (R331). -/
def State.fenceRecord (s : State) (requester : Nat) (backward : Bool) : List (Nat × Nat) :=
  s.fab.flows.filterMap fun f =>
    if f.cls ≠ clsReq then none else
    let mine := f.unacked.filter fun u => u.packet.requester == requester && u.backward == backward && isWriteOp u.packet.op
    match mine.getLast? with
    | none => none
    | some u => some (f.dst, u.packet.seq)

/-- Whether a requester still has writes that wait for injection. -/
def State.uninjected (s : State) (requester : Nat) (backward : Bool) : Bool :=
  s.fab.reqQ.any fun r => r.requester == requester && r.backward == backward && isWriteOp r.op

/-- A requester's earlier failures enter the fence that reports them (R332). -/
def State.takeUnreported (s : State) (requester : Nat) (backward : Bool) : Bool × State :=
  (s.fab.unreported.contains (requester, backward),
   { s with fab := { s.fab with unreported := s.fab.unreported.filter (· != (requester, backward)) } })

/-- What issuing a fence answers: it waits for room or for injection, it ended, or it is in progress under an id. -/
inductive FenceStart where
  | wait | ended (e : FenceEnd) | started (id : Nat)
  deriving DecidableEq, Repr

/-- A fence is issued: SNAP records the flows; with none recorded it is DONE, or FAILED when a covered write already
failed (R331, R332). At most 256 are in progress. -/
def State.fenceIssue (s : State) (requester : Nat) (backward : Bool) : FenceStart × State :=
  if s.uninjected requester backward ∨ s.fab.fences.length ≥ 256 then (.wait, s) else
  let recorded := s.fenceRecord requester backward
  let (bad, s) := s.takeUnreported requester backward
  if recorded.isEmpty then
    (.ended (if bad then .failed else .done), s.bump FAB_PERF_FENCES.count 0 0 1)
  else
    let id := s.fab.nextFence
    (.started id, { s with fab := { s.fab with
      nextFence := id + 1
      fences := s.fab.fences ++ [{ id := id, requester := requester, backward := backward, recorded := recorded, failed := bad }] } })

end Sys2Proof.Machine
end

