-- ==== Sys2Proof/Machine/ArrayOps.lean ====
section
/-! DEFINITION. What the sequencer, the banks, the windows and the march engine of an array share (chapter 03). -/

namespace Sys2Proof.Machine

/-! ### Windows (R96, R97) -/

def State.winSize (s : State) (a w : Nat) : Nat := 64 * s.fld ARR_WIN_CFG.size a w

/-- A window that may be used: enabled, with a configuration that holds R96. -/
def State.winOn (s : State) (a w : Nat) : Bool := s.flag ARR_WIN_CFG.enable a w && !(s.flag ARR_WIN_CFG.cfg_err a w)

def State.winOcc (s : State) (a w : Nat) : Nat :=
  let h := s.fld ARR_WIN_HEAD.pos a w
  let t := s.fld ARR_WIN_TAIL.pos a w
  if s.fld ARR_WIN_HEAD.lap a w = s.fld ARR_WIN_TAIL.lap a w then h - t else s.winSize a w - t + h

def State.winFree (s : State) (a w : Nat) : Nat := s.winSize a w - s.winOcc a w

/-- The scratchpad offset of byte `o` of an access that starts at position `p` (R96). -/
def State.winOffset (s : State) (a w p o : Nat) : Nat :=
  64 * s.fld ARR_WIN_CFG.base a w + (p + o) % (max 1 (s.winSize a w))

/-- Moves a position by `n` bytes, toggling the lap bit at the wrap (R97). -/
def State.winMove (s : State) (a w : Nat) (tail : Bool) (n : Nat) : State :=
  let k : RegKind := if tail then .ARR_WIN_TAIL else .ARR_WIN_HEAD
  let p := bits (s.rd k a w) 18 0 + n
  let S := s.winSize a w
  let v := s.rd k a w
  let v := if p ≥ S then setBits (setBits v 18 0 (p - S)) 63 63 (1 - bits v 63 63) else setBits v 18 0 p
  s.wr k a w v

/-- Whether an advance is allowed (R97). -/
def State.winMay (s : State) (a w : Nat) (tail : Bool) (n : Nat) : Bool :=
  s.winOn a w && n % 32 == 0 && n ≤ s.winSize a w &&
    (if tail then n ≤ s.winOcc a w else s.winOcc a w + n ≤ s.winSize a w)

/-- An advance of the head or tail, or its refusal (R97). -/
def State.winAdvance (s : State) (a w : Nat) (tail : Bool) (n : Nat) : State × Bool :=
  if s.winMay a w tail n then (s.winMove a w tail n, true)
  else (s.setFld (if tail then ARR_WIN_CFG.underflow else ARR_WIN_CFG.overflow) a w 1, false)

/-- The bytes of a window from a position, in access order. -/
def State.winBytes (s : State) (a w p n : Nat) : List Byte :=
  (List.range n).map fun o => s.byte (sramKey a (s.winOffset a w p o))

/-- The spans of scratchpad an access through a window covers: one, or two when it wraps. -/
def State.winSpans (s : State) (a w p n : Nat) : List (Nat × Nat) :=
  let S := s.winSize a w
  if p + n ≤ S then [(s.winOffset a w p 0, n)]
  else [(s.winOffset a w p 0, S - p), (s.winOffset a w p (S - p), n - (S - p))]

/-- A write of the window configuration (R97): positions to 0 with equal laps; a configuration that breaks R96 stays
disabled and sets cfg_err. -/
def State.winConfigure (s : State) (a w : Nat) (v : Word) : State :=
  let s := s.wr .ARR_WIN_CFG a w (fieldWrite .ARR_WIN_CFG (s.rd .ARR_WIN_CFG a w) v)
  let s := s.wr .ARR_WIN_HEAD a w 0
  let s := s.wr .ARR_WIN_TAIL a w 0
  let B := s.fld ARR_WIN_CFG.base a w
  let N := s.fld ARR_WIN_CFG.size a w
  if B < 5120 ∧ 1 ≤ N ∧ N ≤ 5120 ∧ B + N ≤ 5120 then s
  else (s.setFld ARR_WIN_CFG.enable a w 0).setFld ARR_WIN_CFG.cfg_err a w 1

/-! ### Banks (R88 to R95) -/

def bankOf (off : Nat) : Nat := off / 0x8000

/-- The scratchpad banks that spans of offsets touch. -/
def banksOf (spans : List (Nat × Nat)) : List Nat :=
  (List.range 10).filter fun b => spans.any fun sp => sp.2 != 0 && bankOf sp.1 ≤ b && b ≤ bankOf (sp.1 + sp.2 - 1)

def ownSeq : Nat := 1
def ownVec : Nat := 2
def ownRake : Nat := 3
def ownExt : Nat := 4
def ownMarch : Nat := 5

/-- Whether an owner's new accesses to a bank are performed: it owns the bank and no handover drains (R90, R92). -/
def State.owns (s : State) (a b code : Nat) : Bool :=
  s.fld SCP_BANK_OWN.cur_owner a b == code && !(s.flag SCP_BANK_OWN.pending a b)

/-- Whether a requester is the incoming owner of a bank, whose accesses are held (R92). -/
def State.incoming (s : State) (a b code : Nat) : Bool := (s.array a).handovers.contains (b, code)

/-- Whether accesses to a bank stall whoever makes them: a clear runs (R99), or a march run copies the bank (R103). -/
def State.bankStalls (s : State) (a b : Nat) : Bool :=
  s.flag SCP_BANK_CFG.clearing a b ||
    match (s.array a).march with
    | some m => m.borrow.isSome && m.banks.contains b && (m.phase == 1 || m.phase == 4)
    | none => false

/-- The banks under some spans that refuse an owner: neither its own nor to become its own (R90, R92). -/
def State.refusing (s : State) (a code : Nat) (spans : List (Nat × Nat)) : List Nat :=
  (banksOf spans).filter fun b => !(s.owns a b code) && !(s.incoming a b code)

def State.refuses (s : State) (a code : Nat) (spans : List (Nat × Nat)) : Bool := !(s.refusing a code spans).isEmpty

/-- Whether an owner waits for a bank under some spans to become its own (R92). -/
def State.awaits (s : State) (a code : Nat) (spans : List (Nat × Nat)) : Bool := (banksOf spans).any fun b => s.incoming a b code

/-- Whether accesses to some spans stall whoever makes them (R99, R103). -/
def State.stalls (s : State) (a : Nat) (spans : List (Nat × Nat)) : Bool := (banksOf spans).any (s.bankStalls a)

/-- Whether an owner's accesses to some spans are held: a bank is still to become its own, or stalls (R92, R99, R103). -/
def State.holdsBack (s : State) (a code : Nat) (spans : List (Nat × Nat)) : Bool := s.awaits a code spans || s.stalls a spans

/-- An access by other than the owner is refused and sets violation for the bank (R90). -/
def State.violate (s : State) (a : Nat) (banks : List Nat) : State :=
  banks.foldl (fun s b => s.setFld SCP_BANK_OWN.violation a b 1) s

/-- A handover of a bank invalidates the table slots that hold part of it (R156). -/
def State.dropTables (s : State) (a b : Nat) : State :=
  let x := s.array a
  let hit := fun (t : Option TabSlot) => match t with
    | none => false
    | some t => (banksOf [(t.addr, t.bytes.length)]).contains b
  let s := if hit x.tab0 then (s.setFld VEC_TAB_SLOT.valid a 0 0).mapArray a (fun x => { x with tab0 := none }) else s
  if hit x.tab1 then (s.setFld VEC_TAB_SLOT.valid a 1 0).mapArray a (fun x => { x with tab1 := none }) else s

/-- A command that ends with BANK_NOT_OWNED sets violation for the banks that refused it (R90). -/
def State.noteRefusal (s : State) (a code : Nat) (spans : List (Nat × Nat)) (status : Nat) : State :=
  if status = 5 then s.violate a (s.refusing a code spans) else s

/-- What a handover request comes to (R91). -/
inductive Handover where
  | rejected | atOnce | pending
  deriving DecidableEq, Repr

/-- A request to hand a bank over, judged in the order of R91. A write that is ignored leaves new_owner as it was, and a request for
the current owner, which completes at once, advances no handover count (DEDUCED, log 12). -/
def State.requestHandover (s : State) (a b code : Nat) : State × Handover :=
  if code > 5 ∨ s.flag SCP_BANK_OWN.pending a b then (s.setFld SCP_BANK_OWN.rejected a b 1, .rejected)
  else
  let s := s.setFld SCP_BANK_OWN.new_owner a b code
  if s.fld SCP_BANK_OWN.cur_owner a b = code then (s, .atOnce)
  else
    let s := s.setFld SCP_BANK_OWN.pending a b 1
    (s.mapArray a (fun x => { x with handovers := x.handovers ++ [(b, code)] }), .pending)

/-! ### External access through the SRAM window (R36, R78, R90, R92) -/

/-- Whether a span of window offsets is occupied (R36). -/
def windowSpan (off n : Nat) : Bool :=
  (off + n ≤ 0x50000) || (0x80000 ≤ off && off + n ≤ 0x90000)

/-- The errors of an access strike words of the SRAM, counted from the access's first word (log 38). -/
def State.strikeSram (s : State) (a off : Nat) (errors : List MemError) : State :=
  errors.foldl (fun s e =>
    let w := off / 8 * 8 + 8 * e.unit
    if windowSpan w 8 then s.strike (sramKey a w) e.uncorrectable else s) s

/-- Performs an access to an array's SRAM whose banks are open. A read meets the errors of its words, corrects or poisons
(R78), and returns poisoned data as such. -/
def State.sramPerform (s : State) (a : Nat) (x : Access) (errors : List MemError) : State :=
  match x with
  | .write off data => { ((s.strikeSram a off errors).sramWrite a off data) with compl := (.ok, []) }
  | .read off n =>
    let s := (s.strikeSram a off errors).sramMeet a [(off, n)]
    let bad := ((unitsOf 8 (sramKey a off) n).filter s.isPoisoned).length
    let data := s.sram a off n
    if bad > 0 then { (s.notePoisoned bad) with compl := (.poison, data) } else { s with compl := (.ok, data) }

/-- An engine's read of spans of an array's SRAM: the errors of its words are met (R78), and words that are poisoned are noted for the
step's summary (R447). Whether one was. -/
def State.sramSeen (s : State) (a : Nat) (spans : List (Nat × Nat)) : State × Bool :=
  let s := s.sramMeet a spans
  let bad := s.poison.filter fun u => spans.any fun sp => sp.2 != 0 && sramKey a sp.1 / 8 * 8 ≤ u && u < sramKey a sp.1 + sp.2
  (if bad.isEmpty then s else s.notePoisoned bad.length, !bad.isEmpty)

def accessSpan : Access → Nat × Nat
  | .read off n => (off, n)
  | .write off data => (off, data.length)

/-- The span of an access that waits; a record's place is known when its turn comes. -/
def HeldKind.span : HeldKind → Option (Nat × Nat)
  | .external x _ => some (accessSpan x)
  | .engine off cells => some (off, cells.length)
  | .record _ _ => none

/-- An access to some spans waits at its banks; it is accepted where every bank is its requester's own. -/
def State.holdAccess (s : State) (a code : Nat) (spans : List (Nat × Nat)) (k : HeldKind) : State :=
  s.mapArray a fun y => { y with held := y.held ++ [{ code := code, kind := k, accepted := !(s.awaits a code spans) }] }

/-- Whether a write to an array waits because heat has halted the array: its state is held until the next reset, and reads see it (R34,
DEDUCED, log 55). -/
def State.sealed (s : State) (x : Access) : Bool :=
  s.pwr.halted && match x with
    | .write _ _ => true
    | .read _ _ => false

/-- An EXT access through the window: performed, held as the incoming owner's or behind a clear or a copy, or refused. -/
def State.sramAccess (s : State) (a : Nat) (x : Access) (errors : List MemError) : State :=
  let sp := accessSpan x
  if !(windowSpan sp.1 sp.2) ∨ !(s.arrayAnswers a false) then { s with compl := (.addrErr, []) }
  else if sp.1 ≥ 0x80000 then
    if s.sealed x then s.holdAccess a ownExt [] (.external x errors) else s.sramPerform a x errors
  else if s.refusing a ownExt [sp] ≠ [] then { (s.violate a (s.refusing a ownExt [sp])) with compl := (.ownErr, []) }
  else if s.sealed x || s.holdsBack a ownExt [sp] then s.holdAccess a ownExt [sp] (.external x errors)
  else s.sramPerform a x errors

/-- Writes the enabled bytes of an SRAM span; a word that receives a poisoned byte is poisoned (R78, R291). -/
def State.sramPutMarked (s : State) (a off : Nat) (cells : List (Option (Byte × Bool))) : State :=
  let k := sramKey a off
  let s := (List.range cells.length).foldl (fun s i => match cells.getD i none with
    | some b => s.setByte (k + i) b.1
    | none => s) s
  let s := s.settleWords fun j => k ≤ j && (cells.getD (j - k) none).isSome
  ((List.range cells.length).filter fun i => (cells.getD i none).any (·.2)).foldl (fun s i => s.setPoison ((k + i) / 8 * 8)) s

/-- An engine's write of an array's SRAM by its owner code: performed, held, or refused, which sets violation (R90, R92). An array
that does not answer takes nothing. -/
def State.sramEngineWrite (s : State) (a off code : Nat) (cells : List (Option (Byte × Bool))) : State :=
  let sp := [(off, cells.length)]
  if !(windowSpan off cells.length) ∨ !(s.arrayAnswers a false) then s
  else if off ≥ 0x80000 then
    if s.pwr.halted then s.holdAccess a code [] (.engine off cells) else s.sramPutMarked a off cells
  else if s.refusing a code sp ≠ [] then s.violate a (s.refusing a code sp)
  else if s.pwr.halted || s.holdsBack a code sp then s.holdAccess a code sp (.engine off cells)
  else s.sramPutMarked a off cells

/-- What stands before an access: it is performed, it is held as the incoming owner's or behind a clear (R92, R99), or it is
refused with a completion. -/
inductive Gate where
  | opened | held | refused (c : Completion)
  deriving DecidableEq, Repr

/-- The gate of an access to an array's SRAM window by an owner code (R28, R36, R90, R92, R372). -/
def State.sramGate (s : State) (a off len code : Nat) : Gate :=
  if !(windowSpan off len) ∨ !(s.arrayAnswers a false) then .refused .addrErr
  else if off ≥ 0x80000 then .opened
  else if s.refuses a code [(off, len)] then .refused .ownErr
  else if s.holdsBack a code [(off, len)] then .held
  else .opened

/-- `FBI_CFG` is not enabled with a share or a reserve of zero (R170). -/
def fbiEmpty (v : Word) : Bool := bit v 63 && (bits v 55 52 == 0 || bits v 51 48 == 0 || bits v 42 40 == 0)

/-- The records that wait at the banks of a window. -/
def State.recordsWaiting (s : State) (a w : Nat) : Nat :=
  ((s.array a).held.filter fun h => match h.kind with
    | .record v _ => v == w
    | _ => false).length

/-- Whether a window has room for one more 32-byte record behind those that wait at its banks (R97, R223). -/
def State.recordRoom (s : State) (a w : Nat) : Bool := s.winMay a w false (32 * (s.recordsWaiting a w + 1))

/-- Writes a record at the head of its window, past its banks. -/
def State.recordPut (s : State) (a w : Nat) (bs : List Byte) : State :=
  let off := s.winOffset a w (s.fld ARR_WIN_HEAD.pos a w) 0
  ((s.sramPutMarked a off (bs.map fun b => some (b, false))).winAdvance a w false 32).1

/-- Writes a 32-byte record at the head of an array's window, as an EXT requester; the head advances by 32 (R97, R199). A record whose
bank is still to become EXT's waits, and later ones of its window behind it (R92). An array halted for heat takes none (R34). The answer
says how the access ended. -/
def State.windowRecord (s : State) (a w : Nat) (bs : List Byte) : State × Gate :=
  if s.pwr.halted then (s, .opened)
  else if !(s.recordRoom a w) then (s.setFld ARR_WIN_CFG.overflow a w 1, .opened)
  else
    let sp := [(s.winOffset a w (s.fld ARR_WIN_HEAD.pos a w) 0, 32)]
    if s.recordsWaiting a w ≠ 0 then (s.holdAccess a ownExt sp (.record w bs), .held) else
    match s.sramGate a (s.winOffset a w (s.fld ARR_WIN_HEAD.pos a w) 0) 32 ownExt with
    | .opened => (s.recordPut a w bs, .opened)
    | .held => (s.holdAccess a ownExt sp (.record w bs), .held)
    | .refused c => (s.violate a (s.refusing a ownExt sp), .refused c)

/-- A held access is tried again: one that was accepted needs only that its banks serve again (R92, R99, R103); any other is judged
anew. -/
def State.retryHeld (s : State) (a : Nat) (h : HeldAccess) : State :=
  let again := s.mapArray a fun y => { y with held := y.held ++ [h] }
  if h.accepted then
    match h.kind with
    | .external x errors => if s.stalls a [accessSpan x] then again else s.sramPerform a x errors
    | .engine off cells => if s.stalls a [(off, cells.length)] then again else s.sramPutMarked a off cells
    | .record w bs => if s.stalls a [(s.winOffset a w (s.fld ARR_WIN_HEAD.pos a w) 0, 32)] then again else s.recordPut a w bs
  else
    match h.kind with
    | .external x errors => s.sramAccess a x errors
    | .engine off cells => s.sramEngineWrite a off h.code cells
    | .record w bs => (s.windowRecord a w bs).1

/-- Held accesses are tried again in arrival order: granted once their banks have passed (R92), held on, or refused when the handover
was abandoned (R93). -/
def State.grantHeld (s : State) (a : Nat) : State :=
  (s.array a).held.foldl (State.retryHeld · a ·) (s.mapArray a fun y => { y with held := [] })

/-! ### The sequencer's state (R106, R107) -/

def seqIdle : Nat := 0
def seqRun : Nat := 1
def seqWaiting : Nat := 2
def seqHalted : Nat := 3
def seqError : Nat := 4

/-- Whether an issued command is still executing. -/
def Arr.executing (x : Arr) : Bool := !x.jobs.isEmpty || !x.trailers.isEmpty || x.vec.isSome

def Arr.holding (x : Arr) : Bool := x.fwdHold.isSome || x.bwdHold.isSome

/-- The tile queue's counts as `TQ_STATUS` shows them (R170). -/
def State.syncQueue (s : State) (a : Nat) : State :=
  let x := s.array a
  let n := fun (b : Bool) => (x.tq.filter fun e => e.backward == b).length
  let v := (x.tq.length * 2 ^ 60 + (n false + x.fwdCredits) * 2 ^ 56 + (n true + x.bwdCredits) * 2 ^ 52 +
    (match x.tq with
     | [] => 0
     | e :: _ => e.tileId.toNat) * 2 ^ 16)
  s.wr .TQ_STATUS a 0 (BitVec.ofNat 64 v)

/-- The sequencer's state follows run, halt, the holds and the commands in execution (R107). ERROR stays until it is
cleared (R106). -/
def State.syncSeq (s : State) (a : Nat) : State :=
  let s := s.syncQueue a
  let x := s.array a
  let still := !x.executing && !x.holding
  let (s, x) := if x.halting && still then
      let s := (s.setFld ARR_SEQ_CTRL.run a 0 0).mapArray a fun x => { x with halting := false, halted := true }
      (s, s.array a)
    else (s, x)
  if s.fld ARR_STATUS.seq_state a = seqError then s else
  let st := if x.halted then seqHalted else if x.holding then seqWaiting
    else if s.flag ARR_SEQ_CTRL.run a || x.executing then seqRun else seqIdle
  s.setFld ARR_STATUS.seq_state a 0 st

/-- The window a stream's commands come from (R164). -/
def State.streamWindow (s : State) (a : Nat) (backward : Bool) : Nat :=
  if backward then s.fld FBI_CFG.bwd_window a else s.fld ARR_SEQ_CFG.cmd_window a

def Arr.fetched (x : Arr) (backward : Bool) : Option Fetched := if backward then x.bwd else x.fwd
def Arr.hold (x : Arr) (backward : Bool) : Option Hold := if backward then x.bwdHold else x.fwdHold

def Arr.setFetched (x : Arr) (backward : Bool) (f : Option Fetched) : Arr :=
  if backward then { x with bwd := f } else { x with fwd := f }

def Arr.setHold (x : Arr) (backward : Bool) (h : Option Hold) : Arr :=
  if backward then { x with bwdHold := h } else { x with fwdHold := h }

/-- ERROR with a status (R106): the failed command's tile_id and offset go to `ARR_ERR_INFO`, the event 0x03:0x01 is raised,
and commands fetched and not issued are dropped, to be fetched again. -/
def State.seqFail (s : State) (a : Nat) (status : Nat) (tileId : Nat) (offset : Nat) : State :=
  let s := s.setFld ARR_STATUS.seq_state a 0 seqError
  let s := s.setFld ARR_STATUS.seq_err a 0 status
  let s := s.setFld ARR_ERR_INFO.tile_id a 0 tileId
  let s := s.setFld ARR_ERR_INFO.cmd_offset a 0 offset
  let s := s.mapArray a fun x => { x with fwd := none, bwd := none }
  let s := if status = 6 then s.mapWindow fun w => { w with sramUe := true } else s
  s.raise 3 1 a (s.rd .ARR_ERR_INFO a)

/-- A rejection also says in which stream it fell (R170). -/
def State.seqReject (s : State) (a : Nat) (backward : Bool) (status tileId offset : Nat) : State :=
  (s.setFld FBI_STATUS.err_bwd a 0 (b2n backward)).seqFail a status tileId offset

/-- Whether a trailer waits for room in the trailer window and holds every later command (R86). -/
def State.trailerBlocked (s : State) (a : Nat) : Bool :=
  let w := s.fld ARR_SEQ_CFG.trailer_window a
  !(s.array a).trailers.isEmpty && s.winOn a w && s.winFree a w < 16

/-- Whether the sequencer fetches and issues in a stream (R79, R80, R106, R107, R164). A DRAINING path issues no new work, whatever run
says (R371). -/
def State.streamOpen (s : State) (a : Nat) (backward : Bool) : Bool :=
  let x := s.array a
  let st := s.fld ARR_STATUS.seq_state a
  !s.pwr.halted && s.arrayAnswers a true && s.pathState ⟨.UST_ARRAY, a⟩ != tsDraining && s.flag ARR_SEQ_CTRL.run a && (st == seqRun || st == seqWaiting) && !x.halting &&
    (!backward || s.flag FBI_CFG.enable a) && (x.hold backward).isNone && !(s.trailerBlocked a)

/-- A fetched command of a given opcode at the head of a stream that may issue. -/
def State.head (s : State) (a : Nat) (backward : Bool) (opcode : Nat) : Option Fetched :=
  if s.streamOpen a backward then
    match (s.array a).fetched backward with
    | some f => if (f.bytes.headD 0).toNat = opcode then some f else none
    | none => none
  else none

/-- A command issues: the tail passes it, and the prefetch slot is free (R79). -/
def State.issue (s : State) (a : Nat) (backward : Bool) : State :=
  let s := s.winMove a (s.streamWindow a backward) true 32
  s.mapArray a fun x => x.setFetched backward none

/-! ### Fields of commands and descriptors -/

/-- A little-endian number in `n` bytes of a structure. -/
def num (bs : List Byte) (off n : Nat) : Nat := leNat ((bs.drop off).take n)

def byteAt (bs : List Byte) (off : Nat) : Nat := (bs.getD off 0).toNat

/-- Whether the bytes of a span are all zero. -/
def zeros (bs : List Byte) (off n : Nat) : Bool := num bs off n == 0

/-- The lowest code among the checks that fail. -/
def firstFailure : List (Nat × Bool) → Option Nat
  | [] => none
  | (c, bad) :: l =>
    match firstFailure l with
    | none => if bad then some c else none
    | some d => some (if bad then min c d else d)

/-- Cuts a list into chunks of `n` entries, at most `fuel` of them. -/
def chunksOf {α : Type} (n : Nat) : Nat → List α → List (List α)
  | 0, _ => []
  | _ + 1, [] => []
  | fuel + 1, l => l.take n :: chunksOf n fuel (l.drop n)

/-! ### Trailers (R86) -/

/-- The 16 bytes of a trailer. -/
def trailerBytes (tileId status : Nat) (exc : Exc) (flags cycles products : Nat) : List Byte :=
  leBytes 4 tileId ++ [BitVec.ofNat 8 status, exc.setWidth 8, BitVec.ofNat 8 flags, 0] ++
    leBytes 4 (min cycles 0xFFFFFFFF) ++ leBytes 4 products

/-- A trailer of the command fetched at an offset waits for its writing; `sparse` names an issued sparse tile's. -/
def State.pushTrailer (s : State) (a offset : Nat) (sparse : Bool) (t : List Byte) : State :=
  s.mapArray a fun x => { x with trailers := x.trailers ++ [{ bytes := t, stalled := 0, offset := offset, sparse := sparse }] }

/-- Word 8–11 of a trailer, its cycles, grown by the cycles it waited for window room; a rejected command's stays 0. -/
def Trailer.final (t : Trailer) : List Byte :=
  let c := num t.bytes 8 4
  if c = 0 then t.bytes
  else t.bytes.take 8 ++ leBytes 4 (min (c + t.stalled) 0xFFFFFFFF) ++ t.bytes.drop 12

/-! ### FENCE, SIGNAL and the other holds (R80, R108, R331) -/

/-- A SIGNAL's store (R108); the requester code of an array is its logical ID (R318). R108 has no check of the address: the store is
the line's that holds the address, and value bytes past the line's end are not stored (DESIGN CHOICE, log 51). -/
def State.signalStore (s : State) (a : Nat) (backward : Bool) (addr value : Nat) : State :=
  s.send { op := 2, dst := addr / 2 ^ 48, requester := a, addr := addr % 2 ^ 48 / 128 * 128
           mask := 255 * 2 ^ (addr % 128) % 2 ^ 128, backward := backward
           payload := (List.replicate (addr % 128) 0 ++ leBytes 8 value ++ List.replicate 120 0).take 128 }

/-- Ends a hold that waited as a fence does, by the fence's outcome (R332). -/
def State.endFenceHold (s : State) (a : Nat) (backward : Bool) (h : Hold) (e : FenceEnd) : State :=
  let s := s.mapArray a fun x => x.setHold backward none
  let s := match e, h.kind with
    | .done, .signal addr value => s.signalStore a backward addr value
    | .done, _ => s
    | .failed, _ => s.seqFail a 0x0B 0 h.offset
    | .timeout, _ => s.seqFail a 0x0A 0 h.offset
  s.syncSeq a

/-- Bit 1 of a trailer's flags: its command is of the backward class (R86). -/
def Trailer.backward (t : Trailer) : Bool := byteAt t.bytes 6 / 2 % 2 == 1

/-- Whether the earlier commands of a stream have completed their writes inside the array, their trailers among them (R80, R86,
R164). -/
def State.localWritesDone (s : State) (a : Nat) (backward : Bool) : Bool :=
  let x := s.array a
  let mine := fun (b : Bool) => !(s.flag FBI_CFG.enable a) || b == backward
  !(x.jobs.any fun j => mine j.backward) && !(x.vec.any fun v => mine v.backward) && !(x.trailers.any fun t => mine t.backward)

/-- A FENCE or SIGNAL that holds its stream looks again whether it can end. -/
def State.pollHold (s : State) (a : Nat) (backward : Bool) : State :=
  if s.pwr.halted then s else
  match (s.array a).hold backward with
  | none => s
  | some h =>
    match h.kind, h.fenceId with
    | .own _, _ => s
    | .wait _ _, _ => s
    | _, some _ => s
    | _, none =>
      if s.localWritesDone a backward then
        match s.fenceIssue a backward with
        | (.wait, s) => s
        | (.ended e, s) => s.endFenceHold a backward h e
        | (.started id, s) => s.mapArray a fun x => x.setHold backward (some { h with fenceId := some id })
      else s

def State.pollHolds (s : State) (a : Nat) : State := ((s.pollHold a false).pollHold a true).syncSeq a

/-- A fabric fence of an array has ended (R331, R332); an array halted for heat does nothing more (R34). -/
def State.arrayFenceEnded (s : State) (a : Nat) (backward : Bool) (id : Nat) (e : FenceEnd) : State :=
  if s.pwr.halted then s else
  match (s.array a).hold backward with
  | some h => if h.fenceId = some id then s.endFenceHold a backward h e else s
  | none => s

/-! ### Handover completion (R92, R93) -/

/-- The OWN commands that waited on a bank's handover end: `ok` completed, otherwise abandoned with DRAIN_TIMEOUT. -/
def State.endOwnHold (s : State) (a b : Nat) (ok : Bool) (backward : Bool) : State :=
  match (s.array a).hold backward with
  | some h =>
    if h.kind = .own b then
      let s := s.mapArray a fun x => x.setHold backward none
      if ok then s else s.seqFail a 8 0 h.offset
    else s
  | none => s

/-- Whether the owner of a bank has accepted accesses to it still to make (R92): a VEC in execution those of its streams, a march run
those to the banks it tests or borrows, and any requester those that wait for the bank to serve again. -/
def State.ownerBusy (s : State) (a b : Nat) : Bool :=
  let x := s.array a
  let o := s.fld SCP_BANK_OWN.cur_owner a b
  (o == ownVec && x.vec.any fun v => v.banks.contains b) ||
    (o == ownMarch && x.march.any fun m => m.banks.contains b || m.borrow == some b) ||
    x.held.any fun h => h.accepted && h.code == o && (match h.kind with
      | .record w _ => (banksOf [(s.winOffset a w (s.fld ARR_WIN_HEAD.pos a w) 0, 32)]).contains b
      | k => k.span.any fun sp => (banksOf [sp]).contains b)

/-- The bank passes to its incoming owner once the outgoing owner has made its last accepted access: pending clears, the count
advances, held accesses are granted (R92). -/
def State.completeHandover (s : State) (a b : Nat) : State :=
  match (s.array a).handovers.lookup b with
  | none => s
  | some code =>
    if s.ownerBusy a b then s else
    let s := s.setFld SCP_BANK_OWN.cur_owner a b code
    let s := s.setFld SCP_BANK_OWN.pending a b 0
    let s := s.bump SCP_BANK_OWN.handovers a b 1
    let s := s.mapArray a fun x => { x with handovers := x.handovers.filter fun h => h.1 != b }
    let s := s.dropTables a b
    let s := s.grantHeld a
    ((s.endOwnHold a b true false).endOwnHold a b true true).syncSeq a

/-- A handover that has not drained is abandoned (R93); the event's info is the register with the bank number in
bits [11:8]. -/
def State.abandonHandover (s : State) (a b : Nat) : State :=
  match (s.array a).handovers.lookup b with
  | none => s
  | some _ =>
    let s := s.setFld SCP_BANK_OWN.pending a b 0
    let s := s.setFld SCP_BANK_OWN.drain_timeout a b 1
    let s := s.mapArray a fun x => { x with handovers := x.handovers.filter fun h => h.1 != b }
    let s := s.raise 3 2 a (setBits (s.rd .SCP_BANK_OWN a b) 11 8 b)
    let s := s.grantHeld a
    ((s.endOwnHold a b false false).endOwnHold a b false true).syncSeq a

end Sys2Proof.Machine
end

