-- ==== Sys2Proof/Machine/Live.lean ====
section
/-! DEFINITION. What every command of a running package shares: nothing happens while the package is held in reset (R428). -/

namespace Sys2Proof.Machine

/-- Power is good and SB_RESET_N is high (R373, R428). -/
def State.up (s : State) : Bool := s.pins.pwrOk && s.pins.resetN

/-- The state `s'` as the step from `s` leaves it: no step changes the queue of waiting commands or what manufacture fixed, and the
memory is in its canonical form. -/
def State.settle (s s' : State) : State :=
  { s' with pending := s.pending, part := s.part, mem := Memory.canonical s'.mem }

/-- A command's effect on a running package; in reset every part is held and nothing happens. -/
def live (s s' : State) : Host.Outcome State Fault Refusal := .next (if s.up then s.settle s' else s)

/-- Work that an engine takes up by itself; from the step QUIESCE of a pour on it takes none (R388). -/
def State.work (s : State) (f : State → State) : State := if s.hmk.quiet then s else f s

/-- A write of a register that does not answer during a pour (R389). -/
def State.written (s : State) (f : State → State) : State := if s.flag CST_STATE.pouring then s else f s

/-- An effect on an array that is there, enabled and bound (R4, R28), and not held by the thermal halt (R34). -/
def State.onArray (s : State) (a : Nat) (f : State → State) : State :=
  if s.arrayAnswers a true && !s.pwr.halted then f s else s

/-- A write of a register of units on compute dies: the dies' link to the hub is in service (R37). -/
def State.writtenAt (s : State) (dies : List Nat) (f : State → State) : State := s.written fun s => if s.dieOpen dies then f s else s

/-- A write of a register of an HBM stack, whose controller sits on a compute die (R37). -/
def State.stackWritten (s : State) (stack : Nat) (f : State → State) : State := s.writtenAt [s.part.positions.getD stack 0 / 6] f

/-- A write of a register of an array. -/
def State.arrayWritten (s : State) (a : Nat) (f : State → State) : State := s.writtenAt [s.part.dieOf a] fun s => s.onArray a f

end Sys2Proof.Machine
end

