-- ==== Sys2Proof/Machine/SeqOps.lean ====
section
/-! DEFINITION. The sequencer's fetch and its plain commands, its control registers, the bank swizzle and the march engine
(R79, R80, R91, R97, R99, R102 to R108). -/

namespace Sys2Proof.Machine

/-! ### Fetch (R79) -/

/-- Fetches the command at the tail of a stream's window into its empty slot, or rejects it as poisoned or as BAD_OPCODE. -/
def State.commandFetch (s : State) (a : Nat) (backward : Bool) : State :=
  let w := s.streamWindow a backward
  if !(s.streamOpen a backward) ∨ ((s.array a).fetched backward).isSome ∨ !(s.winOn a w) ∨ s.winOcc a w < 32 then s else
  let p := s.fld ARR_WIN_TAIL.pos a w
  let off := s.winOffset a w p 0
  -- the read of a bank that is being cleared or copied waits (R99, R103)
  if s.stalls a [(off, 32)] then s else
  let s := s.sramMeet a [(off, 32)]
  let bytes := s.winBytes a w p 32
  let opcode := byteAt bytes 0
  if s.sramPoison a off 32 then
    -- the trailer of R86 needs the command's kind, identity and flags, which lie in its first word (log 12)
    let known := !(s.sramPoison a off 8) && (opcode == 1 || opcode == 3)
    let id := if known then num bytes 4 4 else 0
    let flags := if opcode = 1 then byteAt bytes 2 / 16 % 4 else 2 * b2n backward
    let s := if known then s.pushTrailer a off false (trailerBytes id 6 Exc.none flags 0 0) else s
    (s.seqReject a backward 6 id off).syncSeq a
  else if opcode ≥ 8 then (s.seqReject a backward 1 0 off).syncSeq a
  else (s.mapArray a fun x => x.setFetched backward (some { bytes := bytes, offset := off, waiting := false })).syncSeq a

/-! ### NOP, OWN, WAIT, FENCE, SIGNAL (R80, R91, R108) -/

/-- A command without trailer at a stream's head: rejected with the lowest failing code, or issued and carried on. R106 has
`ARR_ERR_INFO` take the command's tile_id field; a command without one leaves 0 there (DESIGN CHOICE, log 39). -/
def State.plainIssue (s : State) (a : Nat) (backward : Bool) (opcode : Nat) (checks : List Byte → List (Nat × Bool))
    (go : State → Fetched → State) : State :=
  match s.head a backward opcode with
  | none => s
  | some f =>
    match firstFailure (checks f.bytes) with
    | some code => (s.seqReject a backward code 0 f.offset).syncSeq a
    | none => (go (s.issue a backward) f).syncSeq a

def State.setHold (s : State) (a : Nat) (backward : Bool) (k : HoldKind) (offset : Nat) : State :=
  s.mapArray a fun x => x.setHold backward (some { kind := k, offset := offset })

def State.nopIssue (s : State) (a : Nat) (backward : Bool) : State :=
  s.plainIssue a backward 0 (fun bs => [(3, !(zeros bs 1 31))]) fun s _ => s

def State.ownIssue (s : State) (a : Nat) (backward : Bool) : State :=
  s.plainIssue a backward 4
    (fun bs => [(3, !(zeros bs 3 29)), (4, byteAt bs 1 > 9 || byteAt bs 2 > 5 || s.flag SCP_BANK_OWN.pending a (byteAt bs 1))])
    fun s f =>
      match s.requestHandover a (byteAt f.bytes 1) (byteAt f.bytes 2) with
      | (s, .pending) => s.setHold a backward (.own (byteAt f.bytes 1)) f.offset
      | (s, _) => s

def State.waitIssue (s : State) (a : Nat) (backward : Bool) : State :=
  s.plainIssue a backward 5
    (fun bs => [(3, !(zeros bs 2 6 && zeros bs 12 20)), (4, byteAt bs 1 > 7)])
    fun s f =>
      let w := byteAt f.bytes 1
      let n := num f.bytes 8 4
      if n ≤ s.winOcc a w then s else s.setHold a backward (.wait w n) f.offset

def State.fenceIssueCmd (s : State) (a : Nat) (backward : Bool) : State :=
  s.plainIssue a backward 7 (fun bs => [(3, !(zeros bs 1 31))])
    fun s f => (s.setHold a backward .fence f.offset).pollHold a backward

def State.signalIssue (s : State) (a : Nat) (backward : Bool) : State :=
  s.plainIssue a backward 6 (fun bs => [(3, !(zeros bs 1 7 && zeros bs 24 8))])
    fun s f => (s.setHold a backward (.signal (num f.bytes 8 8) (num f.bytes 16 8)) f.offset).pollHold a backward

/-- A waiting WAIT whose window has reached its threshold lets the stream go on. -/
def State.waitSatisfied (s : State) (a : Nat) (backward : Bool) : State :=
  match (s.array a).hold backward with
  | some ⟨.wait w n, _, _⟩ =>
    if n ≤ s.winOcc a w then (s.mapArray a fun x => x.setHold backward none).syncSeq a else s
  | _ => s

/-- A WAIT that has not been satisfied in time (R108); with wait_limit 0 it never ends so. -/
def State.waitTimeout (s : State) (a : Nat) (backward : Bool) : State :=
  match (s.array a).hold backward with
  | some ⟨.wait w n, offset, _⟩ =>
    if n ≤ s.winOcc a w ∨ s.fld ARR_SEQ_CFG.wait_limit a = 0 then s
    else ((s.mapArray a fun x => x.setHold backward none).seqFail a 7 0 offset).syncSeq a
  | _ => s

/-! ### Control (R106, R107) -/

/-- Fetched commands that have not issued are dropped, to be fetched again at the tail. -/
def State.dropFetched (s : State) (a : Nat) : State := s.mapArray a fun x => { x with fwd := none, bwd := none }

def State.seqRunWrite (s : State) (a : Nat) (on : Bool) : State :=
  let s := s.setFld ARR_SEQ_CTRL.run a 0 (b2n on)
  let s := if on then s.mapArray a fun x => { x with halted := false } else s.dropFetched a
  s.syncSeq a

def State.seqHalt (s : State) (a : Nat) : State :=
  ((s.dropFetched a).mapArray a fun x => { x with halting := true }).syncSeq a

/-- clear_error leaves ERROR in the sequencer and, after R169, in the vector engine. Where a halt has come to its end in ERROR the state
is then HALTED (R107; DEDUCED, log 12). -/
def State.seqClear (s : State) (a : Nat) : State :=
  let s := if s.fld VEC_STATUS.state a = 4 then s.setFld VEC_STATUS.state a 0 0 else s
  if s.fld ARR_STATUS.seq_state a = seqError then ((s.setFld ARR_STATUS.seq_state a 0 seqIdle).dropFetched a).syncSeq a else s

/-- A write of `ARR_SEQ_CTRL`: its bits act in the order clear_error, run, halt (log 12). -/
def State.seqControl (s : State) (a : Nat) (v : Word) : State :=
  let s := if bit v 2 then s.seqClear a else s
  let s := s.seqRunWrite a (bit v 0)
  if bit v 1 then s.seqHalt a else s

def State.seqConfigure (s : State) (a : Nat) (v : Word) : State :=
  let st := s.fld ARR_STATUS.seq_state a
  if (st ≠ seqIdle ∧ st ≠ seqHalted) ∨ bits v 10 8 = bits v 2 0 then s
  else s.wr .ARR_SEQ_CFG a 0 (fieldWrite .ARR_SEQ_CFG (s.rd .ARR_SEQ_CFG a) v)

/-- A write of `SPM_CFG` whose rowsplit is outside 8 to 256 is ignored (R132). -/
def State.spmConfigure (s : State) (a : Nat) (v : Word) : State :=
  let w := fieldWrite .SPM_CFG (s.rd .SPM_CFG a) v
  let n := bits w SPM_CFG.rowsplit.hi SPM_CFG.rowsplit.lo
  if n < 8 ∨ n > 256 then s else s.wr .SPM_CFG a 0 w

/-! ### Banks: ownership writes, swizzle and clears (R91, R99) -/

/-- A write of `SCP_BANK_OWN`: the W1C bits clear, and new_owner requests a handover. -/
def State.ownWrite (s : State) (a b : Nat) (v : Word) : State :=
  let old := s.rd .SCP_BANK_OWN a b
  let keep := old.toNat &&& v.toNat &&& 0x7000000000000000
  let s := s.wr .SCP_BANK_OWN a b (BitVec.ofNat 64 (old.toNat - keep))
  ((s.requestHandover a b (bits v 3 0)).1).syncSeq a

/-- Writes zero over a span of memory, with valid check bits. -/
def State.zeroSpan (s : State) (key n : Nat) : State :=
  { s with mem := s.mem.filter fun c => !(key ≤ c.1 && c.1 < key + n)
           poison := s.poison.filter fun u => !(key ≤ u && u < key + n)
           upsets := s.upsets.filter fun u => !(key ≤ u.1 && u.1 < key + n) }

def bankKey (a b : Nat) : Nat := sramKey a (b * 0x8000)

def State.zeroBank (s : State) (a b : Nat) : State := s.zeroSpan (bankKey a b) 0x8000

/-- A write of `SCP_BANK_CFG.swizzle`, heeded while the owner is NONE or MARCH. A change clears the bank (R99). -/
def State.swizzleWrite (s : State) (a b : Nat) (on : Bool) : State :=
  let o := s.fld SCP_BANK_OWN.cur_owner a b
  if b > 9 ∨ (o ≠ 0 ∧ o ≠ ownMarch) ∨ s.flag SCP_BANK_CFG.swizzle a b = on then s else
  let s := s.setFld SCP_BANK_CFG.swizzle a b (b2n on)
  (s.zeroBank a b).setFld SCP_BANK_CFG.clearing a b 1

/-- The clear of a bank ends; accesses that stalled go on (R99). -/
def State.clearDone (s : State) (a b : Nat) : State :=
  if b > 9 ∨ !(s.flag SCP_BANK_CFG.clearing a b) then s
  else (s.setFld SCP_BANK_CFG.clearing a b 0).grantHeld a

/-- A write of a window's adv field advances its head or tail (R97). -/
def State.advanceWrite (s : State) (a w : Nat) (tail : Bool) (n : Nat) : State :=
  if w > 7 then s else (s.winAdvance a w tail (n % 2 ^ 19)).1

/-! ### The march engine (R102 to R105) -/

/-- Banks of a mask. -/
def maskBanks (m : Nat) : List Nat := (List.range 10).filter fun b => m / 2 ^ b % 2 == 1

def State.marchRefuse (s : State) (a reason : Nat) : State :=
  (s.setFld MARCH_STATUS.state a 0 6).setFld MARCH_STATUS.reason a 0 reason

/-- A write of `MARCH_CTRL`. Without start its fields take their values. With start the run is refused under R105, which
changes nothing else, or starts. When several cases of R105 hold, the reason shown is the first in the order of its list (DESIGN
CHOICE, log 20). A preserving run starts in COPY_IN, a destructive one in TEST (R102, R103). -/
def State.marchWrite (s : State) (a : Nat) (v : Word) : State :=
  let w := fieldWrite .MARCH_CTRL (s.rd .MARCH_CTRL a) v
  if !(bit v 63) then s.wr .MARCH_CTRL a 0 w else
  let preserving := bit v 56
  let u := bits v 51 48
  let banks := maskBanks (bits v 41 32)
  let owned := fun b => s.owns a b ownMarch
  if (s.array a).march.isSome then s.marchRefuse a 1
  else if bits v 3 0 = 0 then s.marchRefuse a 2
  else if preserving ∧ banks.length ≠ 1 then s.marchRefuse a 3
  else if (if preserving then !(u < 10 && owned u) else !(banks.all owned)) then s.marchRefuse a 4
  else if preserving ∧ banks = [u] then s.marchRefuse a 5
  else
    let s := s.wr .MARCH_CTRL a 0 w
    let s := (s.setFld MARCH_STATUS.state a 0 (if preserving then 1 else 2)).setFld MARCH_STATUS.reason a 0 0
    s.mapArray a fun x =>
      { x with march := some { banks := banks, borrow := if preserving then some u else none, phase := if preserving then 1 else 2 } }

/-- The SCP_REPAIR word of a bank belongs to the bound physical array and is kept in Hallmark (R104, R397). -/
def State.repairKey (s : State) (a b : Nat) : Option Nat :=
  (s.binding a).1.map fun ph => (s.part.dieOf a * 1152 + ph) * 16 + b

def State.repairWord (s : State) (a b : Nat) : Word :=
  match s.repairKey a b with
  | none => 0
  | some k => Sparse.get 0 s.hmk.scpRepair k

def State.setRepairWord (s : State) (a b : Nat) (v : Word) : State :=
  match s.repairKey a b with
  | none => s
  | some k => ({ s with hmk := { s.hmk with scpRepair := Sparse.put 0 s.hmk.scpRepair k v } }).newVersion recScpRepair

/-- What a bank's march comes to: the new SCP_REPAIR word and the repairs made. Each failing line that no good spare
replaces yet takes the lowest unused spare that did not fail; with too few of them the bank is unrepairable and its failing
lines stay mapped as they were. -/
def repairBank (old : Word) (failing : List Nat) : Word × Nat :=
  let bad0 := bit old 61 || failing.contains 512
  let bad1 := bit old 60 || failing.contains 513
  let used0 := bit old 63
  let used1 := bit old 62
  let mapped := (if used0 && !bad0 then [bits old 8 0] else []) ++ (if used1 && !bad1 then [bits old 24 16] else [])
  let lost := (if used0 && bad0 then [bits old 8 0] else []) ++ (if used1 && bad1 then [bits old 24 16] else [])
  let need := (List.range 512).filter fun l => (failing.contains l || lost.contains l) && !(mapped.contains l)
  let free0 := !used0 && !bad0
  let free1 := !used1 && !bad1
  let marked := setBits (setBits old 61 61 (b2n bad0)) 60 60 (b2n bad1)
  if need.length > b2n free0 + b2n free1 then (setBits marked 59 59 1, 0)
  else
    let put0 := fun (w : Word) (l : Nat) => setBits (setBits w 63 63 1) 8 0 l
    let put1 := fun (w : Word) (l : Nat) => setBits (setBits w 62 62 1) 24 16 l
    match need with
    | [] => (marked, 0)
    | [l] => (if free0 then put0 marked l else put1 marked l, 1)
    | l :: m :: _ => (put1 (put0 marked l) m, 2)

/-- The phases of a run pass with time (R103): COPY_IN, TEST, REPAIR and, in preserving mode, COPY_OUT, in which the run stays until
MARCH_DONE tells its end. Accesses to the target stall in both copies; in between they are served from the borrowed bank, which no
other requester can see, so the bytes keep their place under the target's addresses until the run ends. -/
def State.marchStep (s : State) (a : Nat) : State :=
  match (s.array a).march with
  | none => s
  | some run =>
    if run.phase = 4 ∨ (run.phase = 3 ∧ run.borrow.isNone) then s else
    let s := s.mapArray a fun x => { x with march := some { run with phase := run.phase + 1 } }
    let s := s.setFld MARCH_STATUS.state a 0 (run.phase + 1)
    if run.phase = 1 then s.grantHeld a else s

/-- A march run ends with the lines that failed (R102 to R104). -/
def State.marchDone (s : State) (a : Nat) (failing : List LineFailure) : State :=
  match (s.array a).march with
  | none => s
  | some run =>
    let s := s.mapArray a fun x => { x with march := none }
    let s := match run.borrow, run.banks with
      | some u, t :: _ =>
        let bytes := s.bytes (bankKey a t) 0x8000
        -- the copies read every word of t, and the copy back gives every word of it valid check bits
        let s := (s.sramMeet a [(t * 0x8000, 0x8000)])
        let s := { s with upsets := s.upsets.filter fun k => !(bankKey a t ≤ k.1 && k.1 < bankKey a t + 0x8000) }
        let ps := s.poison.filter fun k => bankKey a t ≤ k && k < bankKey a t + 0x8000
        let s := (s.zeroBank a u).setBytes (bankKey a u) bytes
        ps.foldl (fun s k => s.setPoison (k - bankKey a t + bankKey a u)) s
      | _, bs => bs.foldl (fun s b => s.zeroBank a b) s
    let lines := fun b => (failing.filter fun f => f.bank == b && f.line < 514).map (·.line)
    let failed := run.banks.filter fun b => !(lines b).isEmpty
    let done := failed.foldl (fun (acc : State × Nat × List Nat) b =>
      let r := repairBank (acc.1.repairWord a b) (lines b)
      (acc.1.setRepairWord a b r.1, acc.2.1 + r.2, if bit r.1 59 then b :: acc.2.2 else acc.2.2)) (s, 0, [])
    let s := done.1
    let all := (List.range 10).filter fun b => bit (s.repairWord a b) 59
    let s := s.setFld MARCH_STATUS.state a 0 5
    let s := s.setFld MARCH_STATUS.reason a 0 0
    let s := s.setFld MARCH_STATUS.failed_banks a 0 (failed.map (2 ^ ·)).sum
    let s := s.setFld MARCH_STATUS.unrepairable a 0 (all.map (2 ^ ·)).sum
    let s := s.setFld MARCH_STATUS.new_repairs a 0 (min done.2.1 255)
    let s := s.grantHeld a
    if done.2.2.isEmpty then s
    else (s.raise 3 3 a (s.rd .MARCH_STATUS a)).deviceFence ⟨.UST_ARRAY, a⟩

end Sys2Proof.Machine
end

