-- ==== Sys2Proof/Machine/Banks.lean ====
section
/-! DEFINITION. Scratchpad banks, windows, swizzle and the march engine (chapter 03). -/

namespace Sys2Proof.Machine

open Host (Outcome)

/-- SCP_BANK_OWN_WRITE: a write of new_owner requests a handover (R91). -/
def execScpBankOwnWrite (array : Nat) (bank : Nat) (owner : Nat) (s : State) : Outcome State Fault Refusal :=
  live s (s.arrayWritten array fun s => if bank > 9 then s else ((s.requestHandover array bank (owner % 16)).1).syncSeq array)

/-- HANDOVER_COMPLETE: the bank passes to its incoming owner (R92). -/
def execHandoverComplete (array : Nat) (bank : Nat) (s : State) : Outcome State Fault Refusal :=
  live s (s.onArray array fun s => s.completeHandover array bank)

/-- DRAIN_TIMEOUT: a handover that has not drained is abandoned (R93). -/
def execDrainTimeout (array : Nat) (bank : Nat) (s : State) : Outcome State Fault Refusal :=
  live s (s.onArray array fun s => s.abandonHandover array bank)

/-- SRAM_WINDOW_ACCESS: an access through the SRAM window (R36, R78, R90, R92). -/
def execSramWindowAccess (array : Nat) (access : Access) (errors : List MemError) (s : State) : Outcome State Fault Refusal :=
  live s (s.sramAccess array access errors)

/-- ARR_WIN_CFG_WRITE: a window configuration is written (R97). -/
def execArrWinCfgWrite (array : Nat) (window : Nat) (value : Word) (s : State) : Outcome State Fault Refusal :=
  live s (s.arrayWritten array fun s => if window > 7 then s else s.winConfigure array window value)

/-- WINDOW_ADVANCE: adv of a head or tail is written (R97). -/
def execWindowAdvance (array : Nat) (window : Nat) (tail : Bool) (bytes : Nat) (s : State) : Outcome State Fault Refusal :=
  live s (s.arrayWritten array fun s => s.advanceWrite array window tail bytes)

/-- SWIZZLE_WRITE: the swizzle of a bank is written (R99). -/
def execSwizzleWrite (array : Nat) (bank : Nat) (swizzle : Bool) (s : State) : Outcome State Fault Refusal :=
  live s (s.arrayWritten array fun s => s.swizzleWrite array bank swizzle)

/-- BANK_CLEAR_DONE: the clear of a bank ends (R99). -/
def execBankClearDone (array : Nat) (bank : Nat) (s : State) : Outcome State Fault Refusal :=
  live s (s.onArray array fun s => s.clearDone array bank)

/-- MARCH_START: `MARCH_CTRL` is written with start (R102, R103, R105). -/
def execMarchStart (array : Nat) (value : Word) (s : State) : Outcome State Fault Refusal :=
  live s (s.arrayWritten array fun s => s.marchWrite array (setBits value 63 63 1))

/-- MARCH_DONE: a march run ends (R102 to R104). -/
def execMarchDone (array : Nat) (failing : List LineFailure) (s : State) : Outcome State Fault Refusal :=
  live s (s.onArray array fun s => s.marchDone array failing)

end Sys2Proof.Machine
end

