-- ==== Sys2Proof/Machine/Checksum.lean ====
section
/-! DEFINITION. The check values the manual names: CRC-32C (R292) and SHAKE256 with 32 bytes of output (FIPS 202; R378, R379). -/

namespace Sys2Proof.Machine

/-- `n` times `f`. -/
def repeatFn {α : Type} (f : α → α) : Nat → α → α
  | 0, x => x
  | n + 1, x => repeatFn f n (f x)

/-- One byte enters a CRC-32C register (polynomial 0x1EDC_6F41, reflected). -/
def crcByte (c : Nat) (b : Byte) : Nat :=
  repeatFn (fun c => if c % 2 = 1 then (c / 2) ^^^ 0x82F63B78 else c / 2) 8 (c ^^^ b.toNat)

/-- The register update alone: initial value 0, no final exclusive-or (R295). -/
def crcLin (bs : List Byte) : Nat := bs.foldl crcByte 0

/-- CRC-32C of R292. -/
def crc32c (bs : List Byte) : Nat := bs.foldl crcByte 0xFFFFFFFF ^^^ 0xFFFFFFFF

/-! ### SHAKE256

The permutation works on 25 lanes of 64 bits; the lane in column `x` of row `y` stands at `x + 5 * y`. Offsets and constants follow from
their recurrences. -/

/-- A lane turned left by `n` places, `n` below 64. -/
def turnLane (n v : Nat) : Nat := v * 2 ^ n % 2 ^ 64 + v / 2 ^ (64 - n)

/-- One step of the shift register behind the round constants: division by the polynomial x^8 + x^6 + x^5 + x^4 + 1. -/
def shiftRegister (r : Nat) : Nat := if r < 128 then 2 * r else (2 * r - 256) ^^^ 0x71

/-- What round `n` flips in lane 0: its places 0, 1, 3, 7, 15, 31 and 63 where the register's next seven outputs are 1. -/
def roundFlip (n : Nat) : Nat :=
  ((List.range 7).map fun j => repeatFn shiftRegister (7 * n + j) 1 % 2 * 2 ^ (2 ^ j - 1)).sum

/-- The tour of the 24 lanes other than lane 0, from the lane in column `x` of row `y` on: each hop's goal, its start, and by how much a lane
turns on it, which grows by one more at every hop. -/
def laneTour : Nat → Nat → Nat → Nat → List (Nat × Nat × Nat)
  | 0, _, _, _ => []
  | hops + 1, x, y, turn =>
    let z := (2 * x + 3 * y) % 5
    (y + 5 * z, x + 5 * y, turn % 64) :: laneTour hops y z (turn + (25 - hops))

/-- The lanes after the tour: each stands at its hop's goal, turned. -/
def tourLanes (ls : List Nat) : List Nat :=
  (laneTour 24 1 0 1).foldl (fun out h => out.set h.1 (turnLane h.2.2 (ls.getD h.2.1 0))) ls

/-- Each lane takes the parity of the column before its own and, turned by one, of the column behind it. -/
def mixColumns (ls : List Nat) : List Nat :=
  let parity := fun (x : Nat) => [0, 5, 10, 15, 20].foldl (fun a r => a ^^^ ls.getD (x % 5 + r) 0) 0
  ls.mapIdx fun i v => v ^^^ parity (i + 4) ^^^ turnLane 1 (parity (i + 1))

/-- Each lane is flipped where, in its row, the next lane is 0 and the one after it 1. -/
def mixRows (ls : List Nat) : List Nat :=
  ls.mapIdx fun i v =>
    let at' := fun (k : Nat) => ls.getD (i / 5 * 5 + (i + k) % 5) 0
    v ^^^ (at' 2 ^^^ (at' 1 &&& at' 2))

/-- The 24 rounds. -/
def permuteLanes (ls : List Nat) : List Nat :=
  (List.range 24).foldl (fun ls n => (mixRows (tourLanes (mixColumns ls))).modify 0 (roundFlip n ^^^ ·)) ls

/-- Bytes that a block of SHAKE256 takes in. -/
def shakeRate : Nat := 136

/-- A message with its end marked: the bits 1111 and 1 behind it, and the last bit of its last block. -/
def padMessage (m : List Byte) : List Byte :=
  let room := shakeRate - m.length % shakeRate
  if room = 1 then m ++ [0x9F#8] else m ++ 0x1F#8 :: List.replicate (room - 2) 0#8 ++ [0x80#8]

/-- A block enters the first 17 lanes, and the lanes are permuted. -/
def takeBlock (ls : List Nat) (block : List Byte) : List Nat :=
  permuteLanes (ls.mapIdx fun i v => v ^^^ leNat ((block.drop (8 * i)).take 8))

/-- SHAKE256, the first 32 bytes of output. -/
def shake256 (m : List Byte) : List Byte :=
  let p := padMessage m
  let ls := (List.range (p.length / shakeRate)).foldl (fun ls k => takeBlock ls ((p.drop (shakeRate * k)).take shakeRate)) (List.replicate 25 0)
  (ls.take 4).flatMap (leBytes 8 ·)

end Sys2Proof.Machine
end

