-- ==== Sys2Proof/Machine/MemOps.lean ====
section
/-! DEFINITION. The addressed memory: where an address lands (R35, R36, R285 to R288), check bits and poison (R289 to R291), the
block CRC (R292 to R297), and accesses to array SRAM by any requester (R78, R90, R92). -/

namespace Sys2Proof.Machine

/-! ### Where an address lands -/

/-- Granule of a code of R287. -/
def granuleBytes : Nat → Nat
  | 0 => 0x400 | 1 => 0x1000 | 2 => 0x4000 | 3 => 0x10000 | _ => 0x200000

/-- A region in force: granule, stack indices, offset and extent in bytes (R285). -/
structure Region where
  granule : Nat
  members : List Nat
  offset : Nat
  extent : Nat
  deriving DecidableEq, Repr

def regionOf (w : Word) : Region :=
  { granule := granuleBytes (bits w 62 60), members := (List.range 12).filter fun i => bits w 59 48 / 2 ^ i % 2 == 1
    offset := bits w 47 32 * 0x100000, extent := bits w 31 16 * 0x100000 }

/-- The valid regions, which form a prefix (R286). -/
def State.regions (s : State) : List Region :=
  (((List.range 8).map fun r => s.rd .MEM_IL_REGION r).takeWhile fun w => bit w 63).map regionOf

/-- The stack and stack offset of an HBM address (R285). -/
def placeIn : List Region → Nat → Option (Nat × Nat)
  | [], _ => none
  | r :: rs, v =>
    let n := r.members.length
    if v < n * r.extent then
      let g := v / r.granule
      some (r.members.getD (g % n) 0, r.offset + g / n * r.granule + v % r.granule)
    else placeIn rs (v - n * r.extent)

/-- A place in DRAM: a stack (HBM index, or 0x100 + b) and a stack offset. -/
structure Dplace where
  stack : Nat
  off : Nat
  deriving DecidableEq, Repr

def hbmTop (p : Part) : Nat := p.stacks * 0x900000000
def bitBase : Nat := 0x10000000000
def bitTop : Nat := 0x18000000000

/-- The DRAM byte behind a local address (R35, R285, R288). -/
def State.dplace (s : State) (addr : Nat) : Option Dplace :=
  if addr < hbmTop s.part then (placeIn s.regions addr).map fun p => ⟨p.1, p.2⟩
  else if bitBase ≤ addr ∧ addr < bitTop then
    let a := addr - bitBase
    some ⟨0x100 + a / 0x1000 % 4, a / 0x4000 * 0x1000 + a % 0x1000⟩
  else none

def Dplace.bittern (d : Dplace) : Bool := d.stack ≥ 0x100

/-- The memory key of a DRAM byte. -/
def Dplace.key (d : Dplace) : Nat :=
  if d.bittern then 2 ^ 40 + (d.stack - 0x100) * 2 ^ 37 + d.off else d.stack * 2 ^ 36 + d.off

/-- The 32-byte unit of a stack that holds a place: what is poisoned as one (R290). -/
def Dplace.unit (d : Dplace) : Nat := Dplace.key ⟨d.stack, d.off / 32 * 32⟩

/-- The word with check bits of its own that holds a place (R289). -/
def Dplace.ecc (d : Dplace) : Nat := if d.bittern then Dplace.key ⟨d.stack, d.off / 8 * 8⟩ else d.unit

/-- The unit of the state table that a stack is. -/
def Dplace.unitId (d : Dplace) : UnitId := if d.bittern then ⟨.UST_BITTERN, d.stack - 0x100⟩ else ⟨.UST_HBM, d.stack⟩

/-- The array and window offset of an address in the SRAM range (R35). -/
def sramPlace (addr : Nat) : Option (Nat × Nat) :=
  if 0x080000000000 ≤ addr ∧ addr < 0x08008C000000 then some ((addr - 0x080000000000) / 0x100000, addr % 0x100000) else none

/-- Cuts an access at the 1 KiB blocks, none of which spans two stacks (R287): address and length of each piece. -/
def pieces (addr len : Nat) : List (Nat × Nat) :=
  (unitsOf 1024 addr len).map fun u =>
    let a := max u addr
    (a, min (u + 1024) (addr + len) - a)

/-! ### Error records of a stack -/

/-- The HBM or bittern register of a pair, by stack. -/
def Dplace.fldOf (d : Dplace) (h b : Fld) : Fld × Nat := if d.bittern then (b, d.stack - 0x100) else (h, d.stack)

def State.bumpStack (s : State) (d : Dplace) (h b : Fld) (n : Nat) : State :=
  s.bump (d.fldOf h b).1 (d.fldOf h b).2 0 n

def State.satStack (s : State) (d : Dplace) (h b : Fld) (n : Nat) : State :=
  s.sat (d.fldOf h b).1 (d.fldOf h b).2 0 n

/-- A row for repair enters the controller's log and the Hallmark record, or is lost when the log is full (R303). -/
def State.logRow (s : State) (d : Dplace) : State :=
  if d.bittern then s else
  let row := (Config.hbmRow d.off).toNat
  let id := s.part.positions.getD d.stack 0 + 16 * row
  if s.hmk.hbmRepair.any fun e => e % 2 ^ 32 == id then s
  else if s.fld HBM_REPAIR_STATUS.logged d.stack ≥ 32 ∨ s.hmk.hbmRepair.length ≥ 4096 then s.sat HBM_REPAIR_STATUS.lost d.stack 0 1
  else
    let s := s.sat HBM_REPAIR_STATUS.logged d.stack 0 1
    let s := s.sat HBM_REPAIR_STATUS.pending d.stack 0 1
    ({ s with hmk := { s.hmk with hbmRepair := s.hmk.hbmRepair ++ [id] } }).newVersion recHbmRepair

/-- A corrected error: counted; the fourth of a row within one scrub pass enters the repair log (R289, R303). -/
def State.noteCorrected (s : State) (d : Dplace) : State :=
  let s := s.satStack d HBM_ECC_CNT.corrected BIT_ECC_CNT.corrected 1
  let s := s.mapWindow fun w => { w with corrected := w.corrected + 1 }
  if d.bittern then s else
  let k := d.stack * 2 ^ 28 + (Config.hbmRow d.off).toNat
  let n := Sparse.get 0 s.dram.corrected k + 1
  let s := { s with dram := { s.dram with corrected := Sparse.put 0 s.dram.corrected k n } }
  if n = 4 then s.logRow d else s

/-- An uncorrectable error in a unit that is not poisoned yet (R290). -/
def State.noteUncorrectable (s : State) (d : Dplace) (scrub : Bool) : State :=
  let unitOff := d.off / 32 * 32
  if s.isPoisoned d.unit then s else
  let s := s.setPoison d.unit
  let s := { s with upsets := s.upsets.filter fun u => !(d.unit ≤ u.1 && u.1 < d.unit + 32) }
  let s := s.satStack d HBM_ECC_CNT.uncorrectable BIT_ECC_CNT.uncorrectable 1
  let v := BitVec.ofNat 64 (2 ^ 63 + b2n scrub * 2 ^ 62 + unitOff)
  let s := if d.bittern then s.wr .BIT_ECC_LOG (d.stack - 0x100) 0 v else s.wr .HBM_ECC_LOG d.stack 0 v
  let s := s.logRow d
  s.raise 9 1 d.stack v

/-- The words of a span of local addresses that carry check bits of their own: 64 bits in bittern, 32 bytes in HBM (R289). -/
def eccWords (addr len : Nat) : List Nat := unitsOf (if addr < bitBase then 32 else 8) addr len

/-- An error strikes the word with check bits that holds a place, unless its unit is poisoned. -/
def State.strikePlace (s : State) (d : Dplace) (uncorrectable : Bool) : State :=
  if s.isPoisoned d.unit then s else s.strike d.ecc uncorrectable

/-- The errors of an access strike words with check bits, counted from the word of an address (log 38). -/
def State.strikeDram (s : State) (addr : Nat) (errors : List MemError) : State :=
  let n := if addr < bitBase then 32 else 8
  errors.foldl (fun s e =>
    match s.dplace (addr / n * n + n * e.unit) with
    | none => s
    | some d => s.strikePlace d e.uncorrectable) s

/-- A read of a word with check bits meets the error that stands in it (R289, R290). A demand read leaves a corrected error where it
is; the scrubber writes the corrected value back (R302). -/
def State.meetWordOf (s : State) (scrub : Bool) (d : Dplace) : State :=
  match s.upsets.lookup d.ecc with
  | none => s
  | some true => (s.mend d.ecc).noteUncorrectable d scrub
  | some false => if s.isPoisoned d.unit then s.mend d.ecc else if scrub then (s.mend d.ecc).noteCorrected d else s.noteCorrected d

/-- The errors of some words are gone: they have been rewritten. -/
def State.mendAll (s : State) (words : List Nat) : State :=
  if s.upsets.isEmpty then s else
  words.foldl (fun s u => match s.dplace u with
    | none => s
    | some d => s.mend d.ecc) s

/-- A read of some words, named by local addresses, meets their errors. -/
def State.meetErrors (s : State) (units : List Nat) : State :=
  if s.upsets.isEmpty then s else
  units.foldl (fun s u => match s.dplace u with
    | none => s
    | some d => s.meetWordOf false d) s

/-! ### Protected ranges (R292) -/

/-- A protected range: base, size in bytes, table. -/
structure CrcRange where
  base : Nat
  size : Nat
  table : Nat
  deriving DecidableEq, Repr

def State.crcRanges (s : State) : List CrcRange :=
  (List.range 16).filterMap fun n =>
    if s.flag MEM_CRC_BASE.valid n then
      some { base := s.fld MEM_CRC_BASE.base n, size := s.fld MEM_CRC_SIZE.size n * 0x100000, table := s.fld MEM_CRC_TABLE.table n }
    else none

def State.crcRange (s : State) (addr : Nat) : Option CrcRange :=
  s.crcRanges.find? fun r => r.base ≤ addr && addr < r.base + r.size

/-- The address of a block's entry. -/
def CrcRange.entry (r : CrcRange) (blk : Nat) : Nat := r.table + 4 * ((blk - r.base) / 1024)

/-! ### Bytes by local address, without checks -/

/-- The memory key of a byte of DRAM; addresses without a place share no key with any. -/
def State.dkey (s : State) (addr : Nat) : Option Nat := (s.dplace addr).map Dplace.key

def State.dbyte (s : State) (addr : Nat) : Byte :=
  match s.dkey addr with
  | some k => s.byte k
  | none => 0

/-- Bytes of a span that lies within one 1 KiB block, which is contiguous in its stack. -/
def State.dbytes (s : State) (addr n : Nat) : List Byte :=
  match s.dkey addr with
  | some k => s.bytes k n
  | none => List.replicate n 0

def State.dbad (s : State) (addr : Nat) : Bool :=
  match s.dkey (addr / 32 * 32) with
  | some k => s.isPoisoned k
  | none => false

/-- Writes the enabled bytes of a span within one block; a word written whole has valid check bits (R289), and a unit written whole
loses its poison (R290). -/
def State.dput (s : State) (addr : Nat) (cells : List (Option Byte)) : State :=
  match s.dkey addr with
  | none => s
  | some k =>
    let on := (List.range cells.length).filter fun i => (cells.getD i none).isSome
    let s := on.foldl (fun s i => match cells.getD i none with
      | some b => s.setByte (k + i) b
      | none => s) s
    let whole := fun (n u : Nat) => k ≤ u && u < k + cells.length && (List.range n).all fun j => on.contains (u + j - k)
    { s with poison := s.poison.filter fun u => !(whole 32 u)
             upsets := s.upsets.filter fun u => !(whole (if addr < bitBase then 32 else 8) u.1) }

def State.entryWord (s : State) (at' : Nat) : Nat := leNat (s.dbytes at' 4)

def State.setEntry (s : State) (at' v : Nat) : State := s.dput at' ((leBytes 4 v).map some)

/-- An entry as its controller reads it: its unit is read like any other and may meet an error; from a poisoned one there is none (R289,
R290; log 61). -/
def State.readEntry (s : State) (at' : Nat) : State × Option Nat :=
  let s := s.meetErrors (eccWords at' 4)
  (s, if s.dbad at' then none else some (s.entryWord at'))

/-- An entry changes by a read-modify-write of its unit, which then has valid check bits (R289, R290, R295). -/
def State.updateEntry (s : State) (at' : Nat) (f : Nat → Nat) : State :=
  let s := s.meetErrors (eccWords at' 4)
  (s.setEntry at' (f (s.entryWord at'))).mendAll (eccWords at' 4)

/-! ### DRAM reads and writes -/

/-- A read's result: its completion and its bytes, each with whether it is poisoned. -/
structure Taken where
  status : Completion
  cells : List (Byte × Bool)
  deriving DecidableEq, Repr

def Taken.bytes (t : Taken) : List Byte := t.cells.map (·.1)
def Taken.bad (t : Taken) : Bool := t.cells.any (·.2)

/-- Whether every byte of a span is in DRAM that answers: inside the map, its stack not isolated (R36, R306, R372). R37 speaks of
register accesses alone: a data access to a die whose link to the hub is out of service is performed (DESIGN CHOICE, log 40). -/
def State.dramOpen (s : State) (addr len : Nat) : Bool :=
  (pieces addr len).all fun p =>
    (s.dplace (p.1 + p.2 - 1)).isSome &&
    match s.dplace p.1 with
    | some d => !(s.isolated d.unitId)
    | none => false

/-- Counts bytes moved for a requester; `die` is the requester's compute die, 2 for the hub (R309). -/
def State.countBytes (s : State) (d : Dplace) (write : Bool) (die n : Nat) : State :=
  let s := if write then s.bumpStack d HBM_PERF_WR_BYTES.count BIT_PERF_WR_BYTES.count n
           else s.bumpStack d HBM_PERF_RD_BYTES.count BIT_PERF_RD_BYTES.count n
  if !d.bittern ∧ die < 2 ∧ s.fld HBM_STK_INFO.die d.stack ≠ die then s.bump HBM_PERF_CROSS_DIE.count d.stack 0 n else s

/-- Records a failed block check (R297, R302): source 1 the requesting port, 2 the scrubber. -/
def State.crcFailed (s : State) (blk source code : Nat) : State :=
  let g := s.fld FAB_ID.logical_id * 2 ^ 48 + blk
  let s := s.wr .MEM_CRC_ERR_INFO 0 0 (BitVec.ofNat 64 (g / 1024 * 1024 + source))
  let d := (s.dplace blk).getD ⟨0, 0⟩
  s.raise 9 code d.stack (s.rd .MEM_CRC_ERR_INFO)

/-- One piece of a read within a block. A whole block of a protected range is checked, at most four times; `garbled` of the
attempts arrive damaged (R297). -/
def State.readPiece (s : State) (die garbled : Nat) (p : Nat × Nat) : State × List (Byte × Bool) :=
  match s.dplace p.1 with
  | none => (s, List.replicate p.2 (0, true))
  | some d =>
    let s := s.countBytes d false die p.2
    let cells := (s.dbytes p.1 p.2).zip ((List.range p.2).map fun i => s.dbad (p.1 + i))
    let poisoned := cells.any (·.2)
    match s.crcRange p.1 with
    | some r =>
      if p.2 = 1024 then
        if poisoned then (s, cells)
        else
          let e := s.readEntry (r.entry p.1)
          let s := e.1
          let good := e.2 == some (crc32c (cells.map (·.1)))
          let fails := if good then min garbled 4 else 4
          let s := s.bump MEM_PERF_CRC_RETRY.count 0 0 (min fails 3)
          if fails < 4 then (s.bump MEM_PERF_CHECKED.count 0 0 1, cells)
          else
            let s := s.bump MEM_PERF_CRC_FAIL.count 0 0 1
            let s := s.mapWindow fun w => { w with crcFail := w.crcFail + 1 }
            (s.crcFailed p.1 1 2, cells.map fun c => (c.1, true))
      else (s, cells)
    | none => (s, cells)

/-- Every stack that serves a poisoned unit of a read request counts the request once (R308). -/
def State.countPoisoned (s : State) (addr len : Nat) : State :=
  if s.poison.isEmpty then s else
  let bad := ((unitsOf 32 addr len).filter s.dbad).filterMap fun u => (s.dplace u).map fun d => d.stack
  bad.eraseDups.foldl (fun s n => s.satStack ⟨n, 0⟩ HBM_ECC_CNT.poisoned_reads BIT_ECC_CNT.poisoned_reads 1) s

/-- A read of DRAM for a requester (R289 to R291, R297). -/
def State.dramRead (s : State) (addr len die garbled : Nat) (errors : List MemError) : State × Taken :=
  if !(s.dramOpen addr len) then (s, { status := .addrErr, cells := [] }) else
  let s := ((s.strikeDram addr errors).meetErrors (eccWords addr len)).countPoisoned addr len
  let ps := pieces addr len
  let (s, cells) := ps.foldl (fun (acc : State × List (Byte × Bool)) p =>
    let r := acc.1.readPiece die garbled p
    (r.1, acc.2 ++ r.2)) (s, [])
  let inside := ps.filter fun p => (s.crcRange p.1).isSome
  let unchecked := len > 0 && !inside.isEmpty && inside.all fun p => p.2 != 1024
  let s := if unchecked then s.bump MEM_PERF_UNCHECKED.count 0 0 1 else s
  let bad := cells.any (·.2)
  let units := ((unitsOf 32 addr len).filter fun u => (List.range 32).any fun i => u + i ≥ addr && (cells.getD (u + i - addr) (0, false)).2).length
  let s := if bad then s.notePoisoned units else s
  (s, { status := if bad then .poison else .ok, cells := cells })

/-- One line, or part of one, written into a protected range (R295). -/
def State.lineWrite (s : State) (r : CrcRange) (line : Nat) (cells : List (Option Byte)) : State :=
  let blk := line - (line - r.base) % 1024
  let s := s.meetErrors (eccWords line 128)
  let old := s.dbytes line 128
  let d := (s.dplace line).getD ⟨0, 0⟩
  let s := s.bumpStack d HBM_PERF_RMW.count BIT_PERF_RMW.count 1
  if (List.range 4).any fun i => s.dbad (line + 32 * i) then
    let s := (List.range 32).foldl (fun s i => match s.dkey (blk + 32 * i) with
      | some k => s.setPoison k
      | none => s) s
    s.raise 9 3 d.stack 0
  else
    let m := old.zip cells |>.map fun x => x.2.getD x.1
    let s := s.dput line (m.map some)
    let j := (line - r.base) % 1024 / 128
    let diff := old.zip m |>.map fun x => x.1 ^^^ x.2
    let x := crcLin (List.replicate (128 * j) 0 ++ diff ++ List.replicate (896 - 128 * j) 0)
    s.updateEntry (r.entry blk) (· ^^^ x)

/-- The words with check bits that a write covers in part (R289). -/
def partWords (addr : Nat) (cells : List (Option Byte)) : List Nat :=
  let n := if addr < bitBase then 32 else 8
  (eccWords addr cells.length).filter fun u =>
    let on := ((List.range n).filter fun i => u + i ≥ addr && (cells.getD (u + i - addr) none).isSome).length
    on != 0 && on != n

/-- Each stack that performs a write outside the protected ranges as a read-modify-write counts it once (R309). -/
def State.countRmw (s : State) (addr : Nat) (cells : List (Option Byte)) : State :=
  let hit := ((partWords addr cells).filter fun u => (s.crcRange u).isNone).filterMap fun u => (s.dplace u).map fun d => d.stack
  hit.eraseDups.foldl (fun s n => s.bumpStack ⟨n, 0⟩ HBM_PERF_RMW.count BIT_PERF_RMW.count 1) s

/-- One piece of a write within a block: a block write, line writes, or a plain write (R289, R294, R295). -/
def State.writePiece (s : State) (die : Nat) (addr : Nat) (cells : List (Option Byte)) : State :=
  match s.dplace addr with
  | none => s
  | some d =>
    let s := s.countBytes d true die (cells.filter (·.isSome)).length
    match s.crcRange addr with
    | some r =>
      if cells.length = 1024 ∧ cells.all (·.isSome) then
        let s := s.dput addr cells
        s.updateEntry (r.entry addr) fun _ => crc32c (cells.map fun c => c.getD 0)
      else
        (unitsOf 128 addr cells.length).foldl (fun s line =>
          let part := (List.range 128).map fun i => if line + i ≥ addr then cells.getD (line + i - addr) none else none
          if part.all (·.isNone) then s else s.lineWrite r line part) s
    | none =>
      let partly := partWords addr cells
      if partly.isEmpty then s.dput addr cells else ((s.meetErrors partly).mendAll partly).dput addr cells

/-- A write of DRAM for a requester; a word written in part is read first and may meet an error (R289, R290), one written whole is not
read. -/
def State.dramWrite (s : State) (addr : Nat) (cells : List (Option Byte)) (die : Nat) (errors : List MemError) : State × Completion :=
  if !(s.dramOpen addr cells.length) then (s, .addrErr) else
  let s := (s.strikeDram addr errors).countRmw addr cells
  ((pieces addr cells.length).foldl (fun s p => s.writePiece die p.1 ((cells.drop (p.1 - addr)).take p.2)) s, .ok)

/-! ### Memory of any kind: DRAM and array SRAM -/

/-- The gate of an access to memory by local address. -/
def State.memGate (s : State) (addr len code : Nat) : Gate :=
  match sramPlace addr with
  | some (a, off) => if off + len > 0x100000 then .refused .addrErr else s.sramGate a off len code
  | none => if s.dramOpen addr len then .opened else .refused .addrErr

/-- A refused access to a bank sets violation (R90). -/
def State.memRefused (s : State) (addr len code : Nat) (c : Completion) : State :=
  match sramPlace addr, c with
  | some (a, off), .ownErr => s.violate a (s.refusing a code [(off, len)])
  | _, _ => s

/-- Reads SRAM whose gate is open: each byte with the poison of its word (R78). -/
def State.sramTake (s : State) (a off len : Nat) : List (Byte × Bool) :=
  (s.sram a off len).zip ((List.range len).map fun i => s.isPoisoned (sramKey a (off + i) / 8 * 8))

/-- Cells of a write that carry no poison. -/
def clean (cells : List (Option Byte)) : List (Option (Byte × Bool)) := cells.map fun c => c.map fun b => (b, false)

/-- Writes the enabled bytes of an SRAM span; a word written whole loses its poison. -/
def State.sramPut (s : State) (a off : Nat) (cells : List (Option Byte)) : State := s.sramPutMarked a off (clean cells)

/-- The die that counts as a requester's for the C0 to C1 link: of an array and of a temper unit of this package its compute die, of
every other requester the hub, 2 (R22, R309). -/
def State.requesterDie (s : State) (requester : Nat) : Nat :=
  if requester < s.part.arrays then s.part.dieOf requester
  else if 0xF04 ≤ requester ∧ requester < 0xF08 then (requester - 0xF04) / 2
  else 2

def dieHub : Nat := 2

/-- A read of memory by local address for an engine with an owner code on a die: answered when the gate is open. -/
def State.memRead (s : State) (addr len code die : Nat) : State × Gate × List (Byte × Bool) :=
  match s.memGate addr len code with
  | .opened =>
    match sramPlace addr with
    | some (a, off) =>
      let s := s.sramMeet a [(off, len)]
      let cells := s.sramTake a off len
      let bad := ((unitsOf 8 (sramKey a off) len).filter s.isPoisoned).length
      (if bad > 0 then s.notePoisoned bad else s, .opened, cells)
    | none =>
      let r := s.dramRead addr len die 0 []
      (r.1, .opened, r.2.cells)
  | .held => (s, .held, [])
  | .refused c => (s.memRefused addr len code c, .refused c, [])

/-- A write of memory by local address; one to an array that heat has halted waits (R34, DEDUCED, log 55). -/
def State.memWrite (s : State) (addr : Nat) (cells : List (Option Byte)) (code die : Nat) : State × Gate :=
  match s.memGate addr cells.length code with
  | .opened =>
    match sramPlace addr with
    | some (a, off) => if s.pwr.halted then (s, .held) else (s.sramPut a off cells, .opened)
    | none => ((s.dramWrite addr cells die []).1, .opened)
  | .held => (s, .held)
  | .refused c => (s.memRefused addr cells.length code c, .refused c)

/-- Writes bytes that an engine on a die places in memory. A write to a bank that holds it waits there (R92); a refused one leaves
memory as it was. -/
def State.putMem (s : State) (addr : Nat) (bs : List Byte) (code die : Nat) : State :=
  match sramPlace addr with
  | some (a, off) => s.sramEngineWrite a off code (bs.map fun b => some (b, false))
  | none => (s.memWrite addr (bs.map some) code die).1

/-- Bytes of a table that a unit took in when it was loaded (R249, R258): they stand in memory, and looking them up is no access. -/
def State.getMem (s : State) (addr len : Nat) : List Byte :=
  match sramPlace addr with
  | some (a, off) => s.sram a off len
  | none => (pieces addr len).flatMap fun p => s.dbytes p.1 p.2

/-- Marks the words or units of a copied span poisoned where its source was (R291). -/
def State.copyPoison (s : State) (addr : Nat) (cells : List (Byte × Bool)) : State :=
  match sramPlace addr with
  | some (a, off) =>
    (unitsOf 8 (sramKey a off) cells.length).foldl (fun s u =>
      if (List.range 8).any fun i => u + i ≥ sramKey a off && (cells.getD (u + i - sramKey a off) (0, false)).2 then s.setPoison u else s) s
  | none =>
    (unitsOf 32 addr cells.length).foldl (fun s u =>
      if (List.range 32).any fun i => u + i ≥ addr && (cells.getD (u + i - addr) (0, false)).2 then
        (match s.dkey u with
         | some k => s.setPoison k
         | none => s)
      else s) s

/-- Copies bytes, each with its poison, to memory for an engine on a die (R291); held at a bank with their poison (R92). -/
def State.putCopy (s : State) (addr : Nat) (cells : List (Byte × Bool)) (code die : Nat) : State :=
  match sramPlace addr with
  | some (a, off) => s.sramEngineWrite a off code (cells.map some)
  | none => ((s.memWrite addr (cells.map fun c => some c.1) code die).1).copyPoison addr cells

end Sys2Proof.Machine
end

