-- ==== Sys2Proof/Machine/RakeOps.lean ====
section
/-! DEFINITION. The rake engine: layer and expert tables, streams, dispatch, groups, halves, cancellation (R172 to R188, R199 to R205). -/

namespace Sys2Proof.Machine

/-! ### Tables (R172) -/

structure Layer where
  layerId : Nat
  experts : Nat
  topK : Nat
  fmt : Nat
  eager : Bool
  drop : Bool
  train : Bool
  visitNorm : Bool
  d : Nat
  ranks : Nat
  myRank : Nat
  expertBase : Nat
  cap : Nat
  qe8Fwd : Nat
  qe8Bwd : Nat
  histWindow : Nat
  poolSlots : Nat
  prefetchMin : Nat
  tMax : Nat
  slotUnits : Nat
  retBase : Nat
  rankTable : Nat
  poolBase : Nat
  deriving DecidableEq, Repr

def Layer.parse (bs : List Byte) : Layer :=
  let f := byteAt bs 5
  { layerId := num bs 0 2, experts := num bs 2 2 % 0x2000, topK := byteAt bs 4 % 32, fmt := f % 4, eager := f / 4 % 2 == 1
    drop := f / 8 % 2 == 1, train := f / 16 % 2 == 1, visitNorm := f / 32 % 2 == 1, d := num bs 6 2, ranks := byteAt bs 8 % 128
    myRank := byteAt bs 9 % 64, expertBase := num bs 10 2 % 0x4000, cap := num bs 12 4 % 0x100000, qe8Fwd := byteAt bs 16
    qe8Bwd := byteAt bs 17, histWindow := byteAt bs 18 % 32, poolSlots := byteAt bs 19, prefetchMin := num bs 20 4
    tMax := num bs 24 4 % 0x200000, slotUnits := num bs 28 4 % 0x1000000, retBase := num bs 32 8 % 2 ^ 48
    rankTable := num bs 40 8 % 2 ^ 48, poolBase := num bs 48 8 % 2 ^ 48 }

structure Expert where
  homeRank : Nat
  hbmQueue : Bool
  rests : Bool
  gq : Nat
  homeArray : Nat
  ring : Nat
  fwdQueue : Nat
  bwdQueue : Nat
  image : Nat
  deriving DecidableEq, Repr

def Expert.parse (bs : List Byte) : Expert :=
  { homeRank := byteAt bs 0 % 64, hbmQueue := byteAt bs 0 / 64 % 2 == 1, rests := byteAt bs 0 / 128 == 1, gq := byteAt bs 1
    homeArray := num bs 2 2 % 0x1000, ring := byteAt bs 4, fwdQueue := num bs 8 8 % 2 ^ 48, bwdQueue := num bs 16 8 % 2 ^ 48
    image := num bs 24 8 % 2 ^ 48 }

/-- The bytes of a table entry held in consecutive registers. -/
def State.tableBytes (s : State) (k : RegKind) (i words : Nat) : List Byte :=
  (List.range words).flatMap fun j => leBytes 8 (s.rd k i j).toNat

/-- The layer of a slot; a slot whose entry names no expert holds none. -/
def State.layer (s : State) (slot : Nat) : Option Layer :=
  let l := Layer.parse (s.tableBytes .RX_LAYER_TABLE slot 8)
  if slot < 256 ∧ l.experts ≠ 0 then some l else none

def State.expertAt (s : State) (index : Nat) : Expert := Expert.parse (s.tableBytes .RX_EXPERT_TABLE index 4)

def State.expert (s : State) (l : Layer) (e : Nat) : Expert := s.expertAt (l.expertBase + e)

/-- Format code of a direction: the layer's forward format, or G8 backward (R179). -/
def Layer.fmtOf (l : Layer) (backward : Bool) : Nat := if backward then 2 else l.fmt
def Layer.qe8 (l : Layer) (backward : Bool) : Nat := if backward then l.qe8Bwd else l.qe8Fwd

def fmtLog : Nat → LogFmt
  | 0 => .l4
  | 1 => .l8
  | _ => .g8

/-- Twice the bytes of an element. -/
def half2 (fmt : Nat) : Nat := if fmt = 0 then 1 else 2

/-! ### Queue groups (R179, R180) -/

def Layer.codeBytes (l : Layer) (backward : Bool) : Nat := 16 * l.d * half2 (l.fmtOf backward)
def Layer.recordOff (l : Layer) (backward : Bool) : Nat := l.codeBytes backward + 2 * l.d
def Layer.tagOff (l : Layer) (backward : Bool) : Nat := l.codeBytes backward + 10 * l.d
def Layer.groupBytes (l : Layer) (backward : Bool) : Nat := l.tagOff backward + 256

/-- The local address, at the home package, of the group with a sequence number from a rank (R180). -/
def groupAddr (l : Layer) (x : Expert) (backward : Bool) (rank seq : Nat) : Nat :=
  let n := rank * x.gq + seq % (max 1 x.gq)
  let q := if backward then x.bwdQueue else x.fwdQueue
  if x.hbmQueue then q + n * l.groupBytes backward
  else 0x080000000000 + x.homeArray * 0x100000 + q % 2 ^ 19 + n * ((l.groupBytes backward + 0x7FFF) / 0x8000 * 0x8000)

/-- The package of a rank, from the layer's rank table (R172). -/
def State.packageOf (s : State) (l : Layer) (rank : Nat) : Nat := leNat (s.getMem (l.rankTable + 2 * rank) 2)

/-- The tag of a choice (R181). -/
def tagOf (epoch half choice rank token : Nat) : Nat :=
  epoch * 2 ^ 48 + half * 2 ^ 47 + choice * 2 ^ 43 + rank * 2 ^ 24 + token

def emptyTag : Nat := 2 ^ 64 - 1

/-! ### Messages of the token exchange -/

/-- Message port of the rake, queue manager and sluice: their block's address (log 14). -/
def rakePort : Nat := 0x0F0000500000

/-- A notice (R190); kind 0x04, the release of a group, takes the notice's layout (log 14). -/
def noticeBytes (kind slot half : Nat) (backward : Bool) (rank expert fill seq count epoch addr : Nat) : List Byte :=
  leBytes 1 kind ++ leBytes 1 slot ++ leBytes 1 (half + 2 * b2n backward) ++ leBytes 1 rank ++ leBytes 2 expert ++ leBytes 1 fill ++
    [0#8] ++ leBytes 4 seq ++ leBytes 4 count ++ leBytes 2 epoch ++ List.replicate 6 0#8 ++ leBytes 8 addr

def rakeCode : Nat := 0xF00
def sluiceCode : Nat := 0xF01

/-- Stores of single bytes at ascending addresses, one request a 128-byte line (R318). -/
def lineRequests (dst requester stream : Nat) (cells : List (Nat × Byte)) : List Request :=
  let ls := (cells.map fun c => c.1 / 128 * 128).eraseDups
  ls.map fun line =>
    let mine := cells.filter fun c => c.1 / 128 * 128 == line
    let mask := (mine.map fun c => 2 ^ (c.1 - line)).sum
    { op := 2, dst := dst, requester := requester, addr := line, mask := mask, full := mine.length == 128, stream := stream
      payload := (List.range 128).map fun i => (mine.lookup (line + i)).getD 0 }

def State.sendAll (s : State) (rs : List Request) : State := { s with fab := { s.fab with reqQ := s.fab.reqQ ++ rs } }

def enumBytes (addr : Nat) (bs : List Byte) : List (Nat × Byte) := (List.range bs.length).map fun i => (addr + i, bs.getD i 0)

/-- A run of bytes stored at a package. -/
def State.storeTo (s : State) (dst requester stream addr : Nat) (bs : List Byte) : State :=
  s.sendAll (lineRequests dst requester stream (enumBytes addr bs))

/-! ### Streams, halves and destinations as kept -/

def State.stream (s : State) (n : Nat) : RakeStream := Sparse.get {} s.rake.streams n
def State.setStream (s : State) (n : Nat) (x : RakeStream) : State :=
  { s with rake := { s.rake with streams := Sparse.put {} s.rake.streams n x } }

def State.pendingOf (s : State) (n : Nat) : Nat := (s.rake.pending.filter fun p => p.stream == n).length

/-- `RAKE_STREAM_STATUS` shows the stream (R214); ERROR stays until the stream is disabled. -/
def State.syncStream (s : State) (n : Nat) : State :=
  let x := s.stream n
  let p := s.pendingOf n
  let s := s.setFld RAKE_STREAM_STATUS.pending n 0 p
  let s := s.setFld RAKE_STREAM_STATUS.queued n 0 (x.queue.length + x.arriving.length)
  let s := match x.queue with
    | q :: _ => s.setFld RAKE_STREAM_STATUS.g n 0 q.g
    | [] => s
  if s.fld RAKE_STREAM_STATUS.state n = 3 then s
  else s.setFld RAKE_STREAM_STATUS.state n 0 (if x.queue.isEmpty && x.under.isEmpty && x.arriving.isEmpty then 0 else if p ≥ 256 then 2 else 1)

/-- The armed half of a submission. -/
def RakeHalf.is (h : RakeHalf) (slot : Nat) (backward : Bool) (half epoch : Nat) : Bool :=
  h.slot == slot && h.backward == backward && h.half == half && h.epoch == epoch

def State.halfOf (s : State) (slot : Nat) (backward : Bool) (half epoch : Nat) : Option RakeHalf :=
  s.rake.halves.find? fun h => h.is slot backward half epoch

def State.mapHalf (s : State) (slot : Nat) (backward : Bool) (half epoch : Nat) (f : RakeHalf → RakeHalf) : State :=
  { s with rake := { s.rake with halves := s.rake.halves.map fun h => if h.is slot backward half epoch then f h else h } }

/-- The half of a layer and direction that is taken up (R177, R204): one that has been begun; else, forward, the first armed one that is
not finished, and backward the one whose forward half was taken up first, for which an earlier armed one waits. A backward half without a
forward one on record is taken up when no other is armed, in arming order (DEDUCED, log 14). -/
def State.halfInWork (s : State) (slot : Nat) (backward : Bool) : Option RakeHalf :=
  let hs := s.rake.halves.filter fun h => h.slot == slot && h.backward == backward && !h.finished
  let ofForward := s.rake.order.filter fun o => o.1 == slot
  let paired := hs.any fun h => ofForward.any fun o => h.is o.1 true o.2.1 o.2.2
  (hs.find? fun h => !h.taken.isEmpty).orElse fun _ =>
    if backward && paired then (match ofForward with
      | o :: _ => hs.find? fun h => h.is o.1 true o.2.1 o.2.2
      | [] => none)
    else hs.head?

def State.dest (s : State) (slot e : Nat) (backward : Bool) : Dest :=
  (s.rake.dests.find? fun d => d.slot == slot && d.expert == e && d.backward == backward).getD { slot := slot, expert := e, backward := backward }

def State.setDest (s : State) (x : Dest) : State :=
  let others := s.rake.dests.filter fun d => !(d.slot == x.slot && d.expert == x.expert && d.backward == x.backward)
  { s with rake := { s.rake with dests := others ++ [x] } }

/-- Whether an epoch is cancelled (R198, R200). -/
def State.cancelled (s : State) (epoch : Nat) : Bool := bit (s.rd .SLU_EPOCH_MAP (epoch / 64)) (epoch % 64)

/-! ### Completion records (R199) -/

def completionBytes (kind slot half : Nat) (backward : Bool) (epoch g a b c : Nat) : List Byte :=
  leBytes 1 kind ++ leBytes 1 slot ++ leBytes 1 (half + 2 * b2n backward) ++ [0#8] ++ leBytes 2 epoch ++ leBytes 2 g ++ leBytes 4 a ++
    leBytes 4 b ++ leBytes 4 c ++ List.replicate 12 0#8

/-- The key under which a half whose commit point has passed is kept (R201). -/
def decidedKey (slot : Nat) (backward : Bool) (half epoch : Nat) : Nat := epoch * 1024 + slot % 256 * 4 + half % 2 * 2 + b2n backward

/-- The half's commit point, once it has come: exactly one record of R199. -/
def State.decideHalf (s : State) (slot : Nat) (backward : Bool) (half epoch : Nat) : State :=
  match s.halfOf slot backward half epoch with
  | none => s
  | some h =>
    let sent := (h.sent.map (·.2)).sum
    let write := fun (s : State) (kind b : Nat) =>
      let s := (s.windowRecord h.cplArray h.cplWindow (completionBytes kind slot half backward epoch 0 h.committed b 0)).1
      { s with rake := { s.rake with
          halves := s.rake.halves.filter fun x => !(x.is slot backward half epoch)
          decided := insertKey (decidedKey slot backward half epoch) s.rake.decided } }
    if !h.finished then s
    else if h.committed = sent then write s 0x11 0
    else if h.committed + h.dropped ≥ sent ∧ s.cancelled epoch then write s 0x12 h.dropped
    else s

/-! ### Groups -/

/-- The slots of a group that nothing was written to. -/
def OpenGroup.holes (g : OpenGroup) : List Nat := (List.range 32).filter fun t => !(g.written.contains t)

/-- What a remote store of the rake carries so that its refusal finds the stream, the slot, the direction and g (R202). -/
def rakeTag (stream slot : Nat) (backward : Bool) (g : Nat) : Nat := stream % 64 + 64 * (slot % 256) + 2 ^ 14 * b2n backward + 2 ^ 15 * g

/-- Closes a group: pads its empty slots, sends the GROUP notice behind the group's writes (R185). -/
def State.closeGroup (s : State) (l : Layer) (d : Dest) (g : OpenGroup) : State :=
  let x := s.expert l d.expert
  let dst := s.packageOf l x.homeRank
  let base := groupAddr l x d.backward l.myRank g.seq
  let hb := half2 (l.fmtOf d.backward)
  let holes := g.holes
  let codes := (List.range l.d).flatMap fun st =>
    if hb = 2 then holes.map fun t => (base + st * 32 + t, 0#8)
    else ((List.range 16).filter fun p => holes.contains (2 * p) && holes.contains (2 * p + 1)).map fun p => (base + st * 16 + p, 0#8)
  let tags := holes.flatMap fun t => enumBytes (base + l.tagOff d.backward + 8 * t) (leBytes 8 emptyTag)
  let s := s.sendAll (lineRequests dst rakeCode (rakeTag 0 d.slot d.backward 0) (codes ++ tags))
  let s := s.send { op := 0x11, dst := dst, requester := rakeCode, addr := rakePort, behind := true
                    payload := noticeBytes 1 d.slot g.half d.backward l.myRank d.expert g.written.length g.seq 0 g.epoch base }
  let s := s.bump RX_PERF_GROUPS.count 0 0 1
  s.setDest { d with opened := (s.dest d.slot d.expert d.backward).opened.filter fun y => y.seq != g.seq
                     nextSeq := (s.dest d.slot d.expert d.backward).nextSeq
                     occupied := (s.dest d.slot d.expert d.backward).occupied }

/-- A half is finished: its open groups close, an END goes to every expert, and its commit point may have come (R185, R199). -/
def State.finishHalf (s : State) (slot : Nat) (backward : Bool) (half epoch : Nat) : State :=
  match s.halfOf slot backward half epoch, s.layer slot with
  | some h, some l =>
    if h.finished then s else
    let s := s.mapHalf slot backward half epoch fun h => { h with finished := true }
    let s := if backward then { s with rake := { s.rake with order := s.rake.order.erase (slot, half, epoch) } } else s
    let ds := s.rake.dests.filter fun d => d.slot == slot && d.backward == backward
    let s := ds.foldl (fun s d => (d.opened.filter fun g => g.epoch == epoch && g.half == half).foldl (fun s g => s.closeGroup l d g) s) s
    let s := (List.range l.experts).foldl (fun s e =>
      s.send { op := 0x11, dst := s.packageOf l (s.expert l e).homeRank, requester := rakeCode, addr := rakePort, behind := true
               payload := noticeBytes 2 slot half backward l.myRank e 0 0 (Sparse.get 0 h.sent e) epoch 0 }) s
    s.decideHalf slot backward half epoch
  | _, _ => s

/-! ### Errors and cancellation (R200 to R202) -/

def State.writeErr (s : State) (source code stream slot detail : Nat) : State :=
  s.wr .RX_ERR_INFO 0 0 (BitVec.ofNat 64 (source % 256 * 2 ^ 56 + code % 256 * 2 ^ 48 + stream % 256 * 2 ^ 40 + slot % 256 * 2 ^ 32 + detail % 2 ^ 32))

/-- A refusal of the token exchange: `RX_ERR_INFO` and an event of class 0x06 (R195, R201, R216). -/
def State.rxRefuse (s : State) (source code : Nat) (event unit slot detail : Nat) : State :=
  let s := s.writeErr source code 0 slot detail
  s.raise 6 event unit (s.rd .RX_ERR_INFO)

/-- The placement word of a choice. -/
def placeOff (q : Submission) (n : Nat) : Nat := q.placeAddr + 4 * n

/-- Writes a placement word in the source array (R176, R182); one whose bank is still to become EXT's waits there (R92). -/
def State.placeWord (s : State) (stream : Nat) (q : Submission) (n v : Nat) : State × Gate :=
  let a := s.fld RAKE_STREAM_CFG.array stream
  (s.sramEngineWrite a (placeOff q n) ownExt ((leBytes 4 v).map fun b => some (b, false)), s.sramGate a (placeOff q n) 4 ownExt)

/-- The RAKE_DONE record of a submission (R199), into the stream's window. -/
def State.rakeDone (s : State) (stream : Nat) (q : Submission) : State × Gate :=
  s.windowRecord (s.fld RAKE_STREAM_CFG.array stream) (s.fld RAKE_STREAM_CFG.cpl_window stream)
    (completionBytes 0x10 q.slot q.half q.backward q.epoch q.g q.sent q.dropped q.absent)

/-- What a cancel does in one stream: pending choices and choices not taken up lose their places, every submission of the
epoch gets its RAKE_DONE (R200). -/
def State.cancelStream (s : State) (epoch n : Nat) : State :=
  let x := s.stream n
  let mine := fun (q : Submission) => q.epoch == epoch
  let blank := fun (s : State) (q : Submission) (ns : List Nat) => ns.foldl (fun s m => (s.placeWord n q m 0xFFFFFFFF).1) s
  let topK := fun (q : Submission) => match s.layer q.slot with
    | some l => l.topK
    | none => 0
  let waits := fun (q : Submission) =>
    (s.rake.pending.filter fun p => p.stream == n && p.epoch == epoch && p.slot == q.slot && p.half == q.half &&
      p.backward == q.backward && p.g == q.g).map fun p => p.i * topK q + p.j
  let s := (x.under.filter mine).foldl (fun s q => (blank s q (waits q)).rakeDone n q |>.1) s
  let s := (x.queue.filter mine).foldl (fun s q =>
    let rest := (List.range (q.tokens * topK q)).filter fun m => m ≥ q.next
    (blank s q (waits q ++ rest)).rakeDone n q |>.1) s
  let s := s.setStream n { x with queue := x.queue.filter fun q => !(mine q), under := x.under.filter fun q => !(mine q) }
  let s := { s with rake := { s.rake with pending := s.rake.pending.filter fun p => !(p.stream == n && p.epoch == epoch) } }
  s.syncStream n

/-- A write of `SLU_CANCEL` (R200, R201). -/
def State.cancelEpoch (s : State) (epoch : Nat) : State :=
  let w := s.rd .SLU_EPOCH_MAP (epoch / 64)
  let s := s.wr .SLU_EPOCH_MAP (epoch / 64) 0 (setBits w (epoch % 64) (epoch % 64) 1)
  let s := if s.rake.decided.any (fun k => k / 1024 == epoch) then s.bump SLU_PERF_LATE_CANCEL.count 0 0 1 else s
  let s := (s.rake.streams.map (·.1)).foldl (fun s n => s.cancelStream epoch n) s
  -- no backward half follows a cancelled forward one
  let s := { s with rake := { s.rake with order := s.rake.order.filter fun o => o.2.2 != epoch } }
  let hs := s.rake.halves.filter fun h => h.epoch == epoch
  let s := hs.foldl (fun s h => s.finishHalf h.slot h.backward h.half h.epoch) s
  hs.foldl (fun s h => s.decideHalf h.slot h.backward h.half h.epoch) s

/-- A write of `SLU_ARM` clears the epoch's bit; what was decided in it belongs to its former use (R201). -/
def State.rearmEpoch (s : State) (epoch : Nat) : State :=
  let w := s.rd .SLU_EPOCH_MAP (epoch / 64)
  let s := { s with rake := { s.rake with decided := s.rake.decided.filter fun k => k / 1024 != epoch } }
  s.wr .SLU_EPOCH_MAP (epoch / 64) 0 (setBits w (epoch % 64) (epoch % 64) 0)

/-- A stream error cancels the epoch of the half in work and raises 0x06:0x01 (R202). -/
def State.streamError (s : State) (stream code slot g : Nat) (backward : Bool) : State :=
  let s := s.setFld RAKE_STREAM_STATUS.state stream 0 3
  let s := s.setFld RAKE_STREAM_STATUS.err stream 0 code
  let s := s.writeErr 1 code stream slot g
  let s := match s.halfInWork slot backward with
    | some h => s.cancelEpoch h.epoch
    | none => s
  s.raise 6 1 stream (s.rd .RX_ERR_INFO)

def State.streamFailed (s : State) (stream slot g : Nat) (backward : Bool) (c : Completion) : State :=
  s.streamError stream (if c = .ownErr then 4 else 5) slot g backward

/-! ### Submitting (R175 to R177) -/

/-- The header of a route block; none where a field is outside R175. -/
def routeHeader (l : Layer) (bs : List Byte) (g half slot : Nat) : Option Submission :=
  let backward := byteAt bs 7 % 2 == 1
  let top := fun off => num bs off 3 ≥ 2 ^ 19
  let bad := top 0 || top 4 || top 8 || top 12 || byteAt bs 3 == 0 || byteAt bs 3 > 32 || byteAt bs 7 > 1 || byteAt bs 11 != 0 ||
    byteAt bs 15 != 0 || !(zeros bs 24 8) || num bs 8 3 % 4 != 0 || num bs 12 3 % 4 != 0 || num bs 16 4 ≥ 2 ^ 24 ||
    num bs 16 4 ≥ l.tMax || (if backward then num bs 22 2 % 32 != 0 else num bs 22 2 != 0)
  if bad then none else
  some { g := g, half := half, slot := slot, backward := backward, epoch := num bs 20 2, tokAddr := num bs 0 3, tokScale := num bs 4 3
         tokens := byteAt bs 3, idxAddr := num bs 8 3, placeAddr := num bs 12 3, firstToken := num bs 16 4, pitch := num bs 22 2 }

/-- The direction of a submission whose route header cannot tell it: that of the stream's submission in work, else the one that has a
half in work (DEDUCED, log 14). -/
def State.submitSide (s : State) (stream slot : Nat) : Bool :=
  match (s.stream stream).under ++ (s.stream stream).queue with
  | q :: _ => q.backward
  | [] => (s.halfInWork slot false).isNone && (s.halfInWork slot true).isSome

/-- A submission's route block is read, and the submission enters its stream's queue or is refused (R175 to R177). None: the block lies
in a bank that holds the read (R92). -/
def State.takeSubmission (s : State) (stream : Nat) (v : Word) : Option State :=
  let g := bits v 63 48
  let half := bits v 47 47
  let slot := bits v 39 32
  let side := s.submitSide stream slot
  match s.layer slot with
  | none => some (s.streamError stream 1 slot g side)
  | some l =>
    let a := s.fld RAKE_STREAM_CFG.array stream
    match s.memRead (0x080000000000 + a * 0x100000 + bits v 18 0) 32 ownExt dieHub with
    | (s, .refused c, _) => some (s.streamFailed stream slot g side c)
    | (_, .held, _) => none
    | (s, .opened, cells) =>
      if cells.any (·.2) then some (s.streamError stream 6 slot g side) else
      match routeHeader l (cells.map (·.1)) g half slot with
      | none => some (s.streamError stream 2 slot g (byteAt (cells.map (·.1)) 7 % 2 == 1))
      | some q =>
        match s.halfOf slot q.backward half q.epoch with
        | none => some (s.streamError stream 1 slot g q.backward)
        | some h =>
          if h.finished ∨ g ≥ h.groups ∨ h.submitted.contains g then some (s.streamError stream 1 slot g q.backward)
          else
            let s := s.mapHalf slot q.backward half q.epoch fun h => { h with submitted := h.submitted ++ [g] }
            let x := s.stream stream
            let s := { s with rake := { s.rake with arrivals := s.rake.arrivals + 1 } }
            some ((s.setStream stream { x with queue := x.queue ++ [{ q with stamp := s.rake.arrivals }] }).syncStream stream)

/-- Submissions whose route block could not be read yet are taken, in order, as far as their banks allow. -/
def State.admitArriving (s : State) (stream : Nat) : List Word → State
  | [] => s
  | v :: vs =>
    if s.fld RAKE_STREAM_STATUS.state stream = 3 then s else
    let x := s.stream stream
    match (s.setStream stream { x with arriving := vs }).takeSubmission stream v with
    | none => s
    | some s => s.admitArriving stream vs

/-- A store to `RAKE_STREAM_SUBMIT`. A stream that is disabled or in error takes none (log 14). -/
def State.rakeSubmit (s : State) (stream : Nat) (v : Word) : State :=
  let g := bits v 63 48
  let slot := bits v 39 32
  if stream > 63 ∨ !(s.flag RAKE_STREAM_CFG.enable stream) ∨ s.fld RAKE_STREAM_STATUS.state stream = 3 then s else
  let x := s.stream stream
  if (s.layer slot).isNone ∨ bits v 46 40 ≠ 0 ∨ bits v 31 19 ≠ 0 ∨ bits v 18 0 % 32 ≠ 0 then
    s.streamError stream 1 slot g (s.submitSide stream slot)
  else if x.queue.length + x.arriving.length ≥ 16 then s.streamError stream 3 slot g (s.submitSide stream slot)
  else if !x.arriving.isEmpty then (s.setStream stream { x with arriving := x.arriving ++ [v] }).syncStream stream
  else match s.takeSubmission stream v with
    | some s => s
    | none => (s.setStream stream { x with arriving := [v] }).syncStream stream

/-- A write of `RAKE_HALF_ARM` (R177, R201). -/
def State.armHalf (s : State) (v : Word) : State :=
  let slot := bits v 31 24
  let epoch := bits v 63 48
  let half := bits v 23 23
  let backward := bit v 22
  if (s.layer slot).isNone ∨ epoch = 0xFFFF ∨ s.cancelled epoch ∨ (s.halfOf slot backward half epoch).isSome then
    s.rxRefuse 3 1 3 0xFFFF slot 0
  else
    let h : RakeHalf := { slot := slot, backward := backward, half := half, epoch := epoch, groups := bits v 47 32
                          cplArray := bits v 15 4, cplWindow := bits v 2 0 }
    let trained := match s.layer slot with
      | some l => l.train && !backward && bits v 47 32 != 0
      | none => false
    let s := { s with rake := { s.rake with
      halves := s.rake.halves ++ [h], decided := removeKey (decidedKey slot backward half epoch) s.rake.decided
      order := if trained then s.rake.order.erase (slot, half, epoch) ++ [(slot, half, epoch)] else s.rake.order } }
    if h.groups = 0 then s.finishHalf slot backward half epoch else s

/-- A write of `RAKE_STREAM_CFG`; enable 0 discards what the stream holds and clears its error (R214). -/
def State.streamConfigure (s : State) (stream : Nat) (v : Word) : State :=
  if stream > 63 then s else
  let s := s.wr .RAKE_STREAM_CFG stream 0 (fieldWrite .RAKE_STREAM_CFG (s.rd .RAKE_STREAM_CFG stream) v)
  if bit v 63 then s else
  let s := s.setStream stream {}
  let s := { s with rake := { s.rake with pending := s.rake.pending.filter fun p => p.stream != stream } }
  let s := s.setFld RAKE_STREAM_STATUS.state stream 0 0
  let s := s.setFld RAKE_STREAM_STATUS.err stream 0 0
  s.syncStream stream

/-! ### Dispatch of one choice (R182 to R184, R204) -/

/-- How a choice ended; `failed`: its return row was refused (R182, R214). -/
inductive ChoiceEnd where
  | sent | dropped | absent | pended
  | failed (c : Completion)
  deriving DecidableEq, Repr

/-- The exact rescale of a code (R183), with whether it saturated and whether it vanished. -/
def rescale (fmt code e8 qe8 : Nat) : Nat × Bool × Bool :=
  let f := fmtLog fmt
  match f.read code e8 with
  | .nan => (if e8 = 0xFF then f.canonicalNan else code, false, false)
  | .inf _ => (code, false, false)
  | .zero => (code, false, false)
  | .val s _ =>
    let top := if f = .l4 then 8 else 128
    let c : Int := (code % top : Nat) + (f.steps : Int) * ((e8 : Int) - qe8)
    if c > f.cmax then (f.withSign s f.cmax, true, false) else if c ≤ 0 then (0, false, true) else (f.withSign s c.toNat, false, false)

/-- The codes of a token's column, rescaled, with the counts of saturated and vanished elements. -/
def State.tokenColumn (s : State) (stream : Nat) (l : Layer) (q : Submission) (i j : Nat) : List Nat × Nat × Nat :=
  let a := s.fld RAKE_STREAM_CFG.array stream
  let fmt := l.fmtOf q.backward
  let hb := half2 fmt
  let shift := if q.backward then j * q.pitch else 0
  let cs := (List.range l.d).map fun st =>
    let half := (st * 32 + i) * hb
    let b := (s.byte (sramKey a (q.tokAddr + shift + half / 2))).toNat
    let code := if fmt = 0 then (if half % 2 = 0 then b % 16 else b / 16) else b
    let e8 := (s.byte (sramKey a (q.tokScale + shift + st))).toNat
    rescale fmt code e8 (l.qe8 q.backward)
  (cs.map (·.1), (cs.filter (·.2.1)).length, (cs.filter (·.2.2)).length)

/-- Row n of the return region's codes and scales, for a direction (R197). -/
def retCodes (l : Layer) (backward : Bool) (n : Nat) : Nat :=
  let kf := l.tMax * l.topK
  let F := kf * l.d * half2 l.fmt / 2
  let F2 := F + kf * l.d / 32
  if backward then l.retBase + F2 + n * l.d else l.retBase + n * l.d * half2 l.fmt / 2

def retScales (l : Layer) (backward : Bool) (n : Nat) : Nat :=
  let kf := l.tMax * l.topK
  let F := kf * l.d * half2 l.fmt / 2
  let F3 := F + kf * l.d / 32 + kf * l.d
  l.retBase + (if backward then F3 else F) + n * l.d / 32

/-- zero_row of R182. -/
def State.zeroRow (s : State) (l : Layer) (backward : Bool) (n : Nat) : State :=
  let s := s.putMem (retCodes l backward n) (List.replicate (l.d * half2 (l.fmtOf backward) / 2) 0#8) ownExt dieHub
  s.putMem (retScales l backward n) (List.replicate (l.d / 32) 0x7F#8) ownExt dieHub

/-- The refusal that writing return row n meets, if one does. -/
def State.rowRefusal (s : State) (l : Layer) (backward : Bool) (n : Nat) : Option Completion :=
  [(retCodes l backward n, l.d * half2 (l.fmtOf backward) / 2), (retScales l backward n, l.d / 32)].findSome? fun sp =>
    match s.memGate sp.1 sp.2 ownExt with
    | .refused c => some c
    | _ => none

/-- What a choice without a column ends with: `e`, or the refusal of its zero row. -/
def State.zeroEnd (s : State) (l : Layer) (backward : Bool) (n : Nat) (e : ChoiceEnd) : ChoiceEnd :=
  match s.rowRefusal l backward n with
  | some c => .failed c
  | none => e

/-- The stores and record adds of one column at a slot of a group (R182, R184). -/
def State.writeColumn (s : State) (tag0 : Nat) (l : Layer) (d : Dest) (g : OpenGroup) (t : Nat) (codes : List Nat) (tag : Nat) : State :=
  let x := s.expert l d.expert
  let dst := s.packageOf l x.homeRank
  let base := groupAddr l x d.backward l.myRank g.seq
  let fmt := l.fmtOf d.backward
  let f := fmtLog fmt
  let cells := (List.range l.d).map fun st =>
    let c := codes.getD st 0
    if half2 fmt = 2 then (base + st * 32 + t, BitVec.ofNat 8 c)
    else (base + st * 16 + t / 2, BitVec.ofNat 8 (if t % 2 = 0 then c else g.last.getD st 0 + 16 * c))
  let s := s.sendAll (lineRequests dst rakeCode tag0 cells)
  let words := (List.range l.d).filterMap fun st =>
    let c := codes.getD st 0
    let finite := match f.read c 0 with
      | .nan => false
      | .inf _ => false
      | _ => true
    if c = 0 then none else some (base + l.recordOff d.backward + 8 * st, 2 ^ t + (if finite then 0 else 2 ^ (32 + t)))
  let lines := (words.map fun w => w.1 / 128 * 128).eraseDups
  let s := s.sendAll (lines.map fun line =>
    let mine := words.filter fun w => w.1 / 128 * 128 == line
    { op := 3, dst := dst, requester := rakeCode, addr := line, func := 0x10, stream := tag0
      mask := (mine.map fun w => 2 ^ ((w.1 - line) / 8)).sum
      payload := (List.range 16).flatMap fun k => leBytes 8 ((mine.lookup (line + 8 * k)).getD 0) })
  s.storeTo dst rakeCode tag0 (base + l.tagOff d.backward + 8 * t) (leBytes 8 tag)

/-- Opens a group at a free position: its record plane is written to zero (R184, R186). -/
def State.openGroup (s : State) (tag : Nat) (l : Layer) (d : Dest) (seq epoch half : Nat) : State :=
  let x := s.expert l d.expert
  let base := groupAddr l x d.backward l.myRank seq
  let s := s.storeTo (s.packageOf l x.homeRank) rakeCode tag (base + l.recordOff d.backward) (List.replicate (8 * l.d) 0#8)
  s.setDest { d with opened := d.opened ++ [{ seq := seq, epoch := epoch, half := half }], occupied := d.occupied ++ [seq]
                     nextSeq := if d.backward then d.nextSeq else (seq + 1) % 2 ^ 24 }

/-- Sequence numbers wrap at 2^24 (R180): whether one lies before another, at most half the ring away. -/
def seqBelow (a b : Nat) : Bool := 0 < (b + 2 ^ 24 - a) % 2 ^ 24 && (b + 2 ^ 24 - a) % 2 ^ 24 < 2 ^ 23

/-- Whether the ring position of a sequence number is free (R186). -/
def Dest.free (d : Dest) (gq seq : Nat) : Bool := !(d.occupied.any fun o => o % max 1 gq == seq % max 1 gq)

/-- Writes a choice into an open group and counts it. -/
def State.putChoice (s : State) (stream : Nat) (l : Layer) (q : Submission) (i j e seq t : Nat) : State :=
  let d := s.dest q.slot e q.backward
  match d.opened.find? fun g => g.seq == seq with
  | none => s
  | some g =>
    let (codes, ovf, unf) := s.tokenColumn stream l q i j
    let s := s.bump RX_PERF_EXC_OVF.count 0 0 ovf
    let s := s.bump RX_PERF_EXC_UNF.count 0 0 unf
    let s := s.mapWindow fun w => { w with overflow := w.overflow + ovf, underflow := w.underflow + unf }
    let s := s.writeColumn (rakeTag stream q.slot q.backward q.g) l d g t codes (tagOf q.epoch q.half j l.myRank (q.firstToken + i))
    let g' := { g with written := g.written ++ [t], last := codes }
    let s := s.setDest { d with opened := d.opened.map fun y => if y.seq == seq then g' else y }
    let s := s.mapHalf q.slot q.backward q.half q.epoch fun h => { h with sent := Sparse.put 0 h.sent e (Sparse.get 0 h.sent e + 1) }
    let s := s.bump RX_PERF_DISPATCH.count 0 0 1
    if g'.written.length = 32 ∧ !q.backward then s.closeGroup l (s.dest q.slot e q.backward) g' else s

/-- dispatch of R182 for a forward choice. -/
def State.dispatchForward (s : State) (stream : Nat) (l : Layer) (q : Submission) (i j e : Nat) : State × ChoiceEnd :=
  let n := (q.firstToken + i) * l.topK + j
  let place := fun (s : State) (v : Nat) => (s.placeWord stream q (i * l.topK + j) v).1
  if e = 0xFFFFFFFF then
    (((place s 0xFFFFFFFF).zeroRow l false n).bump RX_PERF_ABSENT.count 0 0 1, s.zeroEnd l false n .absent)
  else
    let sent := match s.halfOf q.slot q.backward q.half q.epoch with
      | some h => Sparse.get 0 h.sent e
      | none => 0
    if l.drop ∧ sent = l.cap then
      let t := ((place s 0xFFFFFFFF).zeroRow l false n).bump RX_PERF_DROP.count 0 0 1
      (t.mapWindow fun w => { w with dropped := w.dropped + 1 }, s.zeroEnd l false n .dropped)
    else
      let d := s.dest q.slot e false
      let x := s.expert l e
      match d.opened with
      | [] =>
        if !(d.free x.gq d.nextSeq) then (s, .pended)
        else
          let seq := d.nextSeq
          let s := s.openGroup (rakeTag stream q.slot false q.g) l d seq q.epoch q.half
          ((place s (seq * 256)).putChoice stream l q i j e seq 0, .sent)
      | g :: _ =>
        let t := g.written.length
        ((place s (g.seq * 256 + t)).putChoice stream l q i j e g.seq t, .sent)

/-- A backward choice goes to its forward placement (R204, R205). -/
def State.dispatchBackward (s : State) (stream : Nat) (l : Layer) (q : Submission) (i j e : Nat) : State × ChoiceEnd :=
  let n := (q.firstToken + i) * l.topK + j
  let a := s.fld RAKE_STREAM_CFG.array stream
  let word := leNat (s.sram a (placeOff q (i * l.topK + j)) 4)
  if word = 0xFFFFFFFF ∨ e = 0xFFFFFFFF then
    ((s.zeroRow l true n).bump RX_PERF_ABSENT.count 0 0 1, s.zeroEnd l true n .absent)
  else
    let seq := word / 256
    let t := word % 256
    let x := s.expert l e
    let d := s.dest q.slot e true
    -- ORDERED: a choice that names a higher group closes the one before it
    let s := if l.eager then s else (d.opened.filter fun g => seqBelow g.seq seq).foldl (fun s g => s.closeGroup l (s.dest q.slot e true) g) s
    let d := s.dest q.slot e true
    if d.opened.any fun g => g.seq == seq then (s.putChoice stream l q i j e seq t, .sent)
    else if !(d.free x.gq seq) then (s, .pended)
    else
      let s := s.openGroup (rakeTag stream q.slot true q.g) l d seq q.epoch q.half
      (s.putChoice stream l q i j e seq t, .sent)

def State.dispatchChoice (s : State) (stream : Nat) (l : Layer) (q : Submission) (i j e : Nat) : State × ChoiceEnd :=
  if q.backward then s.dispatchBackward stream l q i j e else s.dispatchForward stream l q i j e

def Submission.count (q : Submission) : ChoiceEnd → Submission
  | .sent => { q with sent := q.sent + 1 }
  | .dropped => { q with dropped := q.dropped + 1 }
  | .absent => { q with absent := q.absent + 1 }
  | .pended => { q with waiting := q.waiting + 1 }
  | .failed _ => q

/-- A submission dispatched in full gets its RAKE_DONE; the last one of a half finishes it (R177, R199). -/
def State.submissionDone (s : State) (stream : Nat) (q : Submission) : State :=
  match s.rakeDone stream q with
  | (s, .refused c) => s.streamFailed stream q.slot q.g q.backward c
  | (s, _) =>
    let s := s.mapHalf q.slot q.backward q.half q.epoch fun h => { h with done := h.done + 1 }
    match s.halfOf q.slot q.backward q.half q.epoch with
    | some h => if h.done ≥ h.groups then s.finishHalf q.slot q.backward q.half q.epoch else s
    | none => s

/-! ### Taking up a submission (R178, R187) -/

/-- Takes up choices in ascending slot and choice until the submission ends, the pending store is full, or one fails, and answers that
failure. A destination with a pending choice takes no later one first. -/
def State.takeChoices (s : State) (stream : Nat) (l : Layer) (q : Submission) : Nat → State × Submission × Option Completion
  | 0 => (s, q, none)
  | fuel + 1 =>
    if q.next ≥ q.tokens * l.topK ∨ s.pendingOf stream ≥ 256 then (s, q, none) else
    let i := q.next / max 1 l.topK
    let j := q.next % max 1 l.topK
    let a := s.fld RAKE_STREAM_CFG.array stream
    let e := leNat (s.sram a (q.idxAddr + 4 * q.next) 4)
    let blocked := s.rake.pending.any fun p => p.slot == q.slot && p.backward == q.backward && p.expert == e
    -- a choice without a destination waits for none (R182, R204)
    let sent := e != 0xFFFFFFFF && !(q.backward && leNat (s.sram a (placeOff q q.next) 4) == 0xFFFFFFFF)
    let (s, r) := if blocked && sent then (s, ChoiceEnd.pended) else s.dispatchChoice stream l q i j e
    let s := if r = .pended then
        { s with rake := { s.rake with pending := s.rake.pending ++
            [{ stream := stream, slot := q.slot, backward := q.backward, epoch := q.epoch, half := q.half, g := q.g, i := i, j := j, expert := e }] } }
      else s
    match r with
    | .failed c => (s, q, some c)
    | r => takeChoices s stream l { q.count r with next := q.next + 1 } fuel

/-- The spans of the source array that a submission reads and writes. -/
def Submission.spans (q : Submission) (l : Layer) : List (Nat × Nat) :=
  let fmt := l.fmtOf q.backward
  let planes := if q.backward then List.range l.topK else [0]
  (planes.flatMap fun j => [(q.tokAddr + j * q.pitch, 16 * l.d * half2 fmt), (q.tokScale + j * q.pitch, l.d)]) ++
    [(q.idxAddr, 4 * q.tokens * l.topK), (q.placeAddr, 4 * q.tokens * l.topK)]

/-- What a submission reads of them; forward, the placement words are only written. -/
def Submission.reads (q : Submission) (l : Layer) : List (Nat × Nat) := if q.backward then q.spans l else (q.spans l).dropLast

/-- Whether a submission's turn has come (R178): ORDERED, every lower one has been taken up; EAGER, every earlier one of its half. -/
def State.submissionTurn (s : State) (l : Layer) (h : RakeHalf) (q : Submission) : Bool :=
  if l.eager then
    !((s.rake.streams.flatMap fun x => x.2.queue).any fun y => h.is y.slot y.backward y.half y.epoch && y.stamp < q.stamp)
  else (List.range q.g).all h.taken.contains

/-- The head submission of a stream is taken up, when its half is in work and its turn has come (R177, R178, R182). -/
def State.rakeDispatch (s : State) (stream : Nat) (backward : Bool) : State :=
  let s := s.admitArriving stream (s.stream stream).arriving
  let x := s.stream stream
  match x.queue with
  | [] => s
  | q :: rest =>
    if q.backward ≠ backward ∨ s.fld RAKE_STREAM_STATUS.state stream = 3 then s else
    match s.layer q.slot, s.halfInWork q.slot q.backward with
    | some l, some h =>
      if !(h.is q.slot q.backward q.half q.epoch) then s
      else if !(s.submissionTurn l h q) then s
      else
        let a := s.fld RAKE_STREAM_CFG.array stream
        let gates := (q.spans l).map fun sp => s.memGate (0x080000000000 + a * 0x100000 + sp.1) sp.2 ownExt
        let refusal := gates.findSome? fun g => match g with
          | .refused c => some c
          | _ => none
        match refusal with
        | some c =>
          let s := (q.spans l).foldl (fun s sp => s.memRefused (0x080000000000 + a * 0x100000 + sp.1) sp.2 ownExt c) s
          s.streamFailed stream q.slot q.g q.backward c
        | none =>
          if gates.contains .held then s else
          let (s, poisoned) := s.sramSeen a (q.reads l)
          if poisoned then s.streamError stream 6 q.slot q.g q.backward
          else
            let idx := (List.range (q.tokens * l.topK)).map fun n => leNat (s.sram a (q.idxAddr + 4 * n) 4)
            let reach := idx.take (match idx.findIdx? fun e => e ≥ l.experts && e != 0xFFFFFFFF with
              | some n => n
              | none => idx.length)
            let full := reach.length = idx.length
            let (s, q1, failure) := s.takeChoices stream l q (if full then idx.length + 1 else reach.length - q.next)
            -- what has been taken up stands, whatever stops the rest (R202)
            let kept := s.setStream stream { (s.stream stream) with queue := q1 :: rest }
            if failure.isSome then kept.streamFailed stream q.slot q.g q.backward (failure.getD .addrErr)
            else if !full ∧ q1.next ≥ reach.length then kept.streamError stream 2 q.slot q.g q.backward
            else if q1.next < q.tokens * l.topK then kept.syncStream stream
            else
              let early := (List.range q.g).any fun g => !(h.taken.contains g)
              let s := s.mapHalf q.slot q.backward q.half q.epoch fun h => { h with taken := h.taken ++ [q.g] }
              let s := s.bump RX_PERF_SUBMITS.count 0 0 1
              let s := if l.eager ∧ early then (s.bump RX_PERF_NDC.count 0 0 1).ndc (s.part.dieOf a) 1 1 else s
              let s := s.setStream stream { x with queue := rest, under := if q1.waiting = 0 then x.under else x.under ++ [q1] }
              let s := if q1.waiting = 0 then s.submissionDone stream q1 else s
              s.syncStream stream
    | _, _ => s

/-! ### Releases and pending choices (R186, R187) -/

/-- The submission a pending choice belongs to, and the stream without it. -/
def RakeStream.findOf (x : RakeStream) (p : Pending) : Option Submission :=
  (x.under ++ x.queue).find? fun q => q.g == p.g && q.slot == p.slot && q.half == p.half && q.epoch == p.epoch && q.backward == p.backward

def RakeStream.replace (x : RakeStream) (q : Submission) : RakeStream :=
  let same := fun (y : Submission) => y.g == q.g && y.slot == q.slot && y.half == q.half && y.epoch == q.epoch && y.backward == q.backward
  { x with queue := x.queue.map fun y => if same y then q else y, under := x.under.map fun y => if same y then q else y }

/-- The spans of the source array that one choice reads and writes: its plane, its scales and its placement word. -/
def Submission.choiceSpans (q : Submission) (l : Layer) (i j : Nat) : List (Nat × Nat) :=
  let shift := if q.backward then j * q.pitch else 0
  [(q.tokAddr + shift, 16 * l.d * half2 (l.fmtOf q.backward)), (q.tokScale + shift, l.d), (placeOff q (i * l.topK + j), 4)]

/-- The words one choice reads: its column, its scales and, backward, its placement word (R78, R202). -/
def Submission.choiceReads (q : Submission) (l : Layer) (i j : Nat) : List (Nat × Nat) :=
  let shift := if q.backward then j * q.pitch else 0
  ((List.range l.d).map fun st => (q.tokAddr + shift + (st * 32 + i) * half2 (l.fmtOf q.backward) / 2, 1)) ++
    [(q.tokScale + shift, l.d)] ++ (if q.backward then [(placeOff q (i * l.topK + j), 4)] else [])

/-- What stands before a pending choice's reads and writes in the source array: the first refusal among its spans, or a hold. -/
def State.choiceGate (s : State) (a : Nat) (l : Layer) (q : Submission) (i j : Nat) : Gate :=
  let gates := (q.choiceSpans l i j).map fun sp => s.sramGate a sp.1 sp.2 ownExt
  match gates.find? fun g => g != .opened && g != .held with
  | some g => g
  | none => if gates.contains .held then .held else .opened

/-- Pending choices of a destination leave in order while their position is free; each reads the source array again. Those of a stream in
ERROR stay. -/
def State.drainPending (s : State) (slot e : Nat) (backward : Bool) : Nat → State
  | 0 => s
  | fuel + 1 =>
    match s.rake.pending.find? fun p => p.slot == slot && p.expert == e && p.backward == backward, s.layer slot with
    | some p, some l =>
      if s.fld RAKE_STREAM_STATUS.state p.stream = 3 then s else
      match (s.stream p.stream).findOf p with
      | none => s
      | some q =>
        let a := s.fld RAKE_STREAM_CFG.array p.stream
        match s.choiceGate a l q p.i p.j with
        | .held => s
        | .refused c =>
          ((q.choiceSpans l p.i p.j).foldl (fun s sp => s.memRefused (0x080000000000 + a * 0x100000 + sp.1) sp.2 ownExt c) s).streamFailed
            p.stream q.slot q.g q.backward c
        | .opened =>
        let (s, poisoned) := s.sramSeen a (q.choiceReads l p.i p.j)
        if poisoned then s.streamError p.stream 6 q.slot q.g q.backward else
        match s.dispatchChoice p.stream l q p.i p.j e with
        | (_, .pended) => s
        | (s, .failed c) => s.streamFailed p.stream q.slot q.g q.backward c
        | (s, r) =>
          let s := { s with rake := { s.rake with pending := s.rake.pending.erase p } }
          let q : Submission := { q.count r with waiting := q.waiting - 1 }
          let inQueue := (s.stream p.stream).queue.any fun y => y.g == q.g && y.slot == q.slot && y.half == q.half && y.epoch == q.epoch && y.backward == q.backward
          let s := s.setStream p.stream ((s.stream p.stream).replace q)
          let s := if q.waiting = 0 ∧ !inQueue then
              let x := s.stream p.stream
              (s.setStream p.stream { x with under := x.under.filter fun y => y != q }).submissionDone p.stream q
            else s
          drainPending (s.syncStream p.stream) slot e backward fuel
    | _, _ => s

/-- Whether the group of a pending choice could be opened or is open: what its dispatch needs of its destination (R186, R187). -/
def State.mayLeave (s : State) (p : Pending) : Bool :=
  match s.layer p.slot, (s.stream p.stream).findOf p with
  | some l, some q =>
    let d := s.dest p.slot p.expert p.backward
    let seq := if p.backward then
        leNat (s.sram (s.fld RAKE_STREAM_CFG.array p.stream) (placeOff q (p.i * l.topK + p.j)) 4) / 256
      else d.nextSeq
    (if p.backward then d.opened.any fun g => g.seq == seq else !d.opened.isEmpty) || d.free (s.expert l p.expert).gq seq
  | _, _ => false

/-- Pending choices whose position is free leave as soon as nothing else holds them (R187). -/
def State.drainAll (s : State) : State :=
  (((s.rake.pending.filter s.mayLeave).map fun p => (p.slot, p.expert, p.backward)).eraseDups).foldl
    (fun s d => s.drainPending d.1 d.2.1 d.2.2 (s.rake.pending.length + 1)) s

/-- The release of a group arrives at its sending rake (R186). -/
def State.releaseArrival (s : State) (slot e : Nat) (backward : Bool) (seq : Nat) : State :=
  let d := s.dest slot e backward
  if !(d.occupied.contains seq) then s else
  let s := s.setDest { d with occupied := d.occupied.erase seq }
  s.drainPending slot e backward (s.rake.pending.length + 1)

/-- A message of the token exchange that names a release. Bits above the expert and the sequence number are not looked at (DESIGN CHOICE,
log 58). -/
def State.releaseMessage (s : State) (payload : List Byte) : State :=
  if byteAt payload 0 ≠ 4 then s
  else s.releaseArrival (byteAt payload 1) (num payload 4 2 % 0x1000) (byteAt payload 2 / 2 % 2 == 1) (num payload 8 4 % 2 ^ 24)

end Sys2Proof.Machine
end

