-- ==== Sys2Proof/Machine/ShardTable.lean ====
section
/-! DEFINITION. The temper units' tables (R248 to R250) and what is kept of a shard (R252, R280). -/

namespace Sys2Proof.Machine

/-! ### Tables (R248 to R250) -/

structure ShardEntry where
  kind : Nat
  opt : Nat
  owner : Bool
  visitNorm : Bool
  tiled : Bool
  h : Nat
  unit : Nat
  layer : Nat
  ordinal : Nat
  hset : Nat
  readyWindow : Nat
  id : Nat
  readyArray : Nat
  nRep : Nat
  myRep : Nat
  ownerPkg : Nat
  expert : Nat
  parts : List (Nat × Nat)
  image0 : Nat
  image1 : Nat
  moment0 : Nat
  moment1 : Nat
  landing : Nat
  replicas : Nat
  deriving DecidableEq, Repr

def ShardEntry.parse (bs : List Byte) : ShardEntry :=
  let f := byteAt bs 0
  { kind := f % 4, opt := f / 4 % 4, owner := f / 16 % 2 == 1, visitNorm := f / 32 % 2 == 1, tiled := f / 64 % 2 == 1
    h := if f / 128 = 1 then 4 else 2, unit := byteAt bs 1 % 4, layer := num bs 2 2 % 1024, ordinal := num bs 4 2 % 8192
    hset := byteAt bs 6 % 64, readyWindow := byteAt bs 7 % 8, id := num bs 8 4, readyArray := num bs 12 2 % 4096
    nRep := num bs 14 2 % 8192, myRep := num bs 16 2 % 8192, ownerPkg := num bs 18 2, expert := num bs 20 2 % 4096
    parts := ((List.range 4).map fun p => (num bs (24 + 4 * p) 2, num bs (26 + 4 * p) 2)).filter fun p => p.1 * p.2 != 0
    image0 := num bs 48 8 % 2 ^ 48, image1 := num bs 56 8 % 2 ^ 48, moment0 := num bs 64 8 % 2 ^ 48, moment1 := num bs 72 8 % 2 ^ 48
    landing := num bs 80 8 % 2 ^ 48, replicas := num bs 88 8 % 2 ^ 48 }

structure TLayer where
  layerId : Nat
  nShards : Nat
  ceil : Nat
  clip : Nat
  ratioAlert : Nat
  leadPkg : Nat
  leadUnit : Nat
  owners : Nat
  partials : Nat
  deriving DecidableEq, Repr

def TLayer.parse (bs : List Byte) : TLayer :=
  { layerId := num bs 0 2, nShards := num bs 2 2 % 8192, ceil := num bs 4 4, clip := num bs 8 4, ratioAlert := num bs 12 4
    leadPkg := num bs 16 2, leadUnit := byteAt bs 18 % 4, owners := num bs 24 8 % 2 ^ 48, partials := num bs 32 8 % 2 ^ 48 }

/-- The shard table's entries, by index. -/
def State.shardCount (s : State) : Nat := min 32768 (s.fld TMP_SHARD_BASE.count)

def State.shardEntry (s : State) (x : Nat) : Option ShardEntry :=
  if x < s.shardCount then some (ShardEntry.parse (s.getMem (s.fld TMP_SHARD_BASE.base + 128 * x) 128)) else none

def State.shardList (s : State) : List (Nat × ShardEntry) :=
  (List.range s.shardCount).filterMap fun x => (s.shardEntry x).map fun e => (x, e)

def State.layerCount (s : State) : Nat := min 1024 (s.fld TMP_LAYER_BASE.count)

def State.tlayer (s : State) (l : Nat) : TLayer := TLayer.parse (s.getMem (s.fld TMP_LAYER_BASE.base + 64 * l) 64)

/-- The layer table index of a layer_id. -/
def State.tlayerIndex (s : State) (layerId : Nat) : Option Nat := (List.range s.layerCount).find? fun l => (s.tlayer l).layerId == layerId

/-- The owner list of a layer: package and unit by ordinal. -/
def State.ownerList (s : State) (l : TLayer) : List (Nat × Nat) :=
  (List.range l.nShards).map fun o =>
    let w := leNat (s.getMem (l.owners + 4 * o) 4)
    (w % 65536, w / 65536 % 4)

/-- The replica list of a shard: package and replica rank. -/
def State.replicaList (s : State) (e : ShardEntry) : List (Nat × Nat) :=
  (List.range e.nRep).map fun r =>
    let w := leNat (s.getMem (e.replicas + 4 * r) 4)
    (w % 65536, w / 65536)

/-! ### Shards as kept -/

def phIdle : Nat := 0
def phCollect : Nat := 1
def phParked : Nat := 2
def phApply : Nat := 3
def phStaged : Nat := 4
def phUnchanged : Nat := 5
def phFetching : Nat := 6
def phFetched : Nat := 7
def phDamaged : Nat := 8

def State.tshard (s : State) (x : Nat) : Shard := Sparse.get {} s.tmp.shards x

def State.setTshard (s : State) (x : Nat) (v : Shard) : State :=
  { s with tmp := { s.tmp with shards := Sparse.put {} s.tmp.shards x v } }

def State.phase (s : State) (x : Nat) : Nat := s.fld TMP_SHARD_STATE.phase x

def State.setPhase (s : State) (x ph : Nat) : State := s.setFld TMP_SHARD_STATE.phase x 0 ph

end Sys2Proof.Machine
end

