-- ==== Sys2Proof/Machine/QueueOps.lean ====
section
/-! DEFINITION. The queue manager's notices and releases, resting experts, and the sluice engine (R190 to R198, R206 to R211). -/

namespace Sys2Proof.Machine

/-! ### Notice rings (R190) -/

/-- Writes a notice at the head of a ring that is in use; the head and its lap move on. -/
def State.ringNotice (s : State) (ring : Nat) (bs : List Byte) : State :=
  if !(s.flag NTC_RING_CFG.enable ring) then s else
  let n := 2 ^ s.fld NTC_RING_CFG.size_log ring
  let h := s.fld NTC_RING_PTR.head ring
  let s := s.putMem (s.fld NTC_RING_CFG.base ring + 32 * (h % n)) bs ownExt dieHub
  if h + 1 ≥ n then
    (s.setFld NTC_RING_PTR.head ring 0 0).setFld NTC_RING_PTR.head_lap ring 0 (1 - s.fld NTC_RING_PTR.head_lap ring)
  else s.setFld NTC_RING_PTR.head ring 0 (h + 1)

/-! ### Residency (R209 to R211) -/

def resPinned : Nat := 0
def resResident : Nat := 1
def resResting : Nat := 2
def resFetching : Nat := 3
def resWritingBack : Nat := 4

/-- An expert's key in the residency lists: layer slot and expert index. -/
def resKey (slot e : Nat) : Nat := slot * 4096 + e

/-- An expert's 16-bit entry of `RES_STATE`: state and pool slot. -/
def State.res (s : State) (index : Nat) : Nat × Nat :=
  let v := (s.rd .RES_STATE (index / 4)).toNat / 2 ^ (16 * (index % 4)) % 65536
  (v / 4096, v % 256)

def State.setRes (s : State) (index st pool : Nat) : State :=
  let w := s.rd .RES_STATE (index / 4)
  let k := 16 * (index % 4)
  s.wr .RES_STATE (index / 4) 0 (setBits w (k + 15) k (st * 4096 + pool % 256))

/-- The histogram sum of an expert over the newest hist_window bins (R211). -/
def State.histSum (s : State) (l : Layer) (e : Nat) : Nat :=
  ((Sparse.get [] s.qm.bins (l.expertBase + e)).take l.histWindow).sum % 2 ^ 32

def State.setHist (s : State) (index v : Nat) : State :=
  let w := s.rd .RES_HIST (index / 2)
  let k := 32 * (index % 2)
  s.wr .RES_HIST (index / 2) 0 (setBits w (k + 31) k v)

/-- Adds a forward END's count to the current bin. -/
def State.addHist (s : State) (l : Layer) (e count : Nat) : State :=
  let i := l.expertBase + e
  let bs := match Sparse.get [] s.qm.bins i with
    | [] => [count]
    | b :: rest => (b + count) :: rest
  let s := { s with qm := { s.qm with bins := Sparse.put [] s.qm.bins i bs } }
  s.setHist i (s.histSum l e)

/-- The layers whose pool slots are those of a layer: its own, and any whose entry names the same slots (DEDUCED, log 15). -/
def State.poolMates (s : State) (l : Layer) : List (Nat × Layer) :=
  (List.range 256).filterMap fun slot => (s.layer slot).bind fun m =>
    if m.poolBase = l.poolBase ∧ m.slotUnits = l.slotUnits then some (slot, m) else none

/-- An expert in a pool holds a slot in the states RESIDENT, FETCHING and WRITING_BACK. -/
def State.poolUsed (s : State) (l : Layer) (pool : Nat) : Bool :=
  (s.poolMates l).any fun m => (List.range m.2.experts).any fun e =>
    let r := s.res (m.2.expertBase + e)
    (r.1 == resResident || r.1 == resFetching || r.1 == resWritingBack) && r.2 == pool

def State.freePool (s : State) (l : Layer) : Option Nat := (List.range l.poolSlots).find? fun p => !(s.poolUsed l p)

/-- Whether an expert's image here is still to be updated for a step: a segment with tokens has come, or its shard is on the way from
its reduction to its new image (R210, R256 to R271). -/
def State.updatePending (s : State) (layerId e : Nat) : Bool :=
  s.tmp.shards.any fun x => match s.shardEntry x.1 with
    | some t => t.kind == 2 && t.expert == e && (s.tlayer t.layer).layerId == layerId &&
        (!x.2.late.isEmpty || (x.2.segs.any fun g => g.count != 0) || s.phase x.1 == phParked || s.phase x.1 == phApply ||
          s.phase x.1 == phStaged || s.phase x.1 == phFetching || s.phase x.1 == phFetched)
    | none => false

/-- RESIDENT, with no unreleased group and no update pending in the step, be it by tokens that came here or by what the temper units
hold (R210). -/
def State.evictable (s : State) (slot : Nat) (l : Layer) (e : Nat) : Bool :=
  (s.res (l.expertBase + e)).1 == resResident && !(s.qm.groups.any fun g => g.slot == slot && g.expert == e) &&
    !(s.qm.updates.contains (resKey slot e)) && !(s.updatePending l.layerId e)

/-- The evictable expert of a layer's pool with the lowest sum, among equals the lowest layer slot and then the lowest index (R210):
layer slot, layer, expert. `below` bounds the sum of a prefetch's victim (R211). -/
def State.victim (s : State) (l : Layer) (below : Option Nat) : Option (Nat × Layer × Nat) :=
  let all := (s.poolMates l).flatMap fun m => ((List.range m.2.experts).filter fun e => s.evictable m.1 m.2 e &&
    (s.res (m.2.expertBase + e)).2 < l.poolSlots && (match below with
    | none => true
    | some b => s.histSum m.2 e < b)).map fun e => (m.1, m.2, e)
  all.foldl (fun best x =>
      match best with
      | none => some x
      | some b => if s.histSum x.2.1 x.2.2 < s.histSum b.2.1 b.2.2 then some x else best) none

/-- Starts a fetch into a free slot or an evictable expert's; an image changed since its fetch is written back first. Whether
a slot was found. -/
def State.startFetch (s : State) (slot : Nat) (l : Layer) (e : Nat) (prefetch : Bool) : State × Bool :=
  let i := l.expertBase + e
  let counter := if prefetch then RES_PERF_FETCH_PREFETCH.count else RES_PERF_FETCH_DEMAND.count
  let unwait := fun (s : State) => { s with qm := { s.qm with waiting := s.qm.waiting.erase (resKey slot e) } }
  match s.freePool l with
  | some p => (((unwait s).setRes i resFetching p).bump counter 0 0 1, true)
  | none =>
    match s.victim l (if prefetch then some (s.histSum l e) else none) with
    | none => (s, false)
    | some (vslot, vl, v) =>
      let vi := vl.expertBase + v
      let p := (s.res vi).2
      let s := ((unwait s).bump counter 0 0 1).bump RES_PERF_EVICT.count 0 0 1
      if s.qm.changed.contains (resKey vslot v) then
        let s := s.setRes vi resWritingBack p
        ({ s with qm := { s.qm with writeBacks := s.qm.writeBacks ++ [(resKey vslot v, resKey slot e)] } }, true)
      else ((s.setRes vi resResting 0).setRes i resFetching p, true)

/-- Copies memory between the tiers, poison with it (R291); whether both ends answered. -/
def State.copyMem (s : State) (src dst : Nat) (len : Nat) : State × Bool :=
  (List.range (ceilDiv1024 len)).foldl (fun (acc : State × Bool) k =>
    let n := min 1024 (len - 1024 * k)
    let r := acc.1.dramRead (src + 1024 * k) n 2 0 []
    if r.2.cells.isEmpty then (r.1, false) else
    let w := r.1.dramWrite (dst + 1024 * k) (r.2.cells.map fun c => some c.1) 2 []
    (w.1.copyPoison (dst + 1024 * k) r.2.cells, acc.2 && w.2 == .ok)) (s, true)
where
  ceilDiv1024 (n : Nat) : Nat := (n + 1023) / 1024

def Layer.poolAddr (l : Layer) (pool : Nat) : Nat := l.poolBase + pool * l.slotUnits * 4096

/-- A fetch or write-back failed (R216). -/
def State.fetchFailed (s : State) (slot e : Nat) : State := s.rxRefuse 5 1 6 0xFFFF slot e

/-- A fetch that waits looks for a slot again (R210). -/
def State.fetchRetry (s : State) (slot e : Nat) : State :=
  match s.layer slot with
  | none => s
  | some l => if s.qm.waiting.contains (resKey slot e) then (s.startFetch slot l e false).1 else s

/-- A write-back ends: the evicted image rests, and the fetch that waited for its slot starts. -/
def State.writeBackDone (s : State) (slot v : Nat) (ok : Bool) : State :=
  match s.layer slot, s.qm.writeBacks.find? fun w => w.1 == resKey slot v with
  | some l, some w =>
    let vi := l.expertBase + v
    let p := (s.res vi).2
    let s := { s with qm := { s.qm with writeBacks := s.qm.writeBacks.erase w } }
    let (s, good) := if ok then s.copyMem (l.poolAddr p) (s.expert l v).image (l.slotUnits * 4096) else (s, false)
    if good then
      let s := { s with qm := { s.qm with changed := s.qm.changed.erase (resKey slot v) } }
      let wl := (s.layer (w.2 / 4096)).getD l
      (s.setRes vi resResting 0).setRes (wl.expertBase + w.2 % 4096) resFetching p
    else (s.setRes vi resResident p).fetchFailed (w.2 / 4096) (w.2 % 4096)
  | _, _ => s

/-- A fetch ends: the expert is RESIDENT and its ring gets a RESIDENT notice, or it stays RESTING (R210, R216). -/
def State.fetchDone (s : State) (slot e : Nat) (ok : Bool) : State :=
  match s.layer slot with
  | none => s
  | some l =>
    let i := l.expertBase + e
    if e ≥ l.experts ∨ (s.res i).1 ≠ resFetching then s else
    let p := (s.res i).2
    let x := s.expert l e
    let (s, good) := if ok then s.copyMem x.image (l.poolAddr p) (l.slotUnits * 4096) else (s, false)
    if good then
      let s := { s with qm := { s.qm with changed := s.qm.changed.erase (resKey slot e) } }
      (s.setRes i resResident p).ringNotice x.ring (noticeBytes 3 slot 0 false 0 e 0 0 0 0 0)
    else (s.setRes i resResting 0).fetchFailed slot e

/-- Every expert of the layer table that is at home here and rests: layer slot, layer, expert (R209, R211). -/
def State.restingExperts (s : State) : List (Nat × Layer × Nat) :=
  (List.range 256).flatMap fun slot =>
    match s.layer slot with
    | none => []
    | some l => ((List.range l.experts).filter fun e => (s.expert l e).rests && (s.expert l e).homeRank == l.myRank && (s.res (l.expertBase + e)).1 == resResting).map fun e => (slot, l, e)

/-- Inserts into a list kept by descending sum, earlier entries first among equals. -/
def insertBySum (x : Nat × Nat × Layer × Nat) : List (Nat × Nat × Layer × Nat) → List (Nat × Nat × Layer × Nat)
  | [] => [x]
  | y :: ys => if x.1 > y.1 then x :: y :: ys else y :: insertBySum x ys

/-- A write of `RES_STEP`: the next bin, and a prefetch round that stops at the first expert without a slot (R211). -/
def State.resStep (s : State) : State :=
  let s := { s with qm := { s.qm with bins := s.qm.bins.map fun (b : Nat × List Nat) => (b.1, (0 :: b.2).take 16) } }
  let s := (List.range 256).foldl (fun s slot => match s.layer slot with
    | none => s
    | some l => (List.range l.experts).foldl (fun s e => s.setHist (l.expertBase + e) (s.histSum l e)) s) s
  let wanted := s.restingExperts.filter fun (x : Nat × Layer × Nat) =>
    !(s.qm.waiting.contains (resKey x.1 x.2.2)) && !(s.qm.writeBacks.any fun w => w.2 == resKey x.1 x.2.2) &&
      s.histSum x.2.1 x.2.2 ≥ x.2.1.prefetchMin
  let order := wanted.foldl (fun (acc : List (Nat × Nat × Layer × Nat)) (x : Nat × Layer × Nat) =>
    insertBySum (s.histSum x.2.1 x.2.2, x.1, x.2.1, x.2.2) acc) []
  (order.foldl (fun (acc : State × Bool) (x : Nat × Nat × Layer × Nat) =>
    if acc.2 then acc.1.startFetch x.2.1 x.2.2.1 x.2.2.2 true else acc) (s, true)).1

/-! ### Notices (R190, R192) -/

/-- Whether a rank below has not delivered its END for an expert, half and direction. -/
def State.lowerOpen (s : State) (slot e : Nat) (backward : Bool) (half epoch rank : Nat) : Bool :=
  (List.range rank).any fun p => !(s.qm.ends.contains (slot, e, backward, half, epoch, p))

/-- A GROUP notice arrives at the expert's home (R190, R192, R210). Its bits that R190 calls zero are not looked at (DESIGN CHOICE,
log 58). -/
def State.groupNotice (s : State) (bs : List Byte) : State :=
  let slot := byteAt bs 1
  let half := byteAt bs 2 % 2
  let backward := byteAt bs 2 / 2 % 2 == 1
  let rank := byteAt bs 3 % 64
  let e := num bs 4 2 % 4096
  match s.layer slot with
  | none => s
  | some l =>
    if byteAt bs 0 ≠ 1 ∨ bs.length ≠ 32 ∨ e ≥ l.experts then s else
    let x := s.expert l e
    let s := s.ringNotice x.ring bs
    let g : HomeGroup := { slot := slot, expert := e, rank := rank, backward := backward, seq := num bs 8 4 % 2 ^ 24 }
    let s := { s with qm := { s.qm with groups := s.qm.groups ++ [g]
                                        updates := if l.train then insertKey (resKey slot e) s.qm.updates else s.qm.updates } }
    let s := if l.eager && s.lowerOpen slot e backward half (num bs 16 2) rank then
        (s.bump RX_PERF_NDC.count 0 0 1).ndc (s.part.dieOf x.homeArray) 2 1 else s
    if x.rests && (s.res (l.expertBase + e)).1 == resResting && !(s.qm.waiting.contains (resKey slot e)) &&
        !(s.qm.writeBacks.any fun w => w.2 == resKey slot e) then
      let s := { s with qm := { s.qm with waiting := s.qm.waiting ++ [resKey slot e] } }
      (s.startFetch slot l e false).1
    else s

/-- An END notice arrives (R190, R192, R211). ENDs of a half are forgotten once every rank has delivered its own. Its bits that R190 calls
zero are not looked at (DESIGN CHOICE, log 58). -/
def State.endNotice (s : State) (bs : List Byte) : State :=
  let slot := byteAt bs 1
  let half := byteAt bs 2 % 2
  let backward := byteAt bs 2 / 2 % 2 == 1
  let rank := byteAt bs 3 % 64
  let e := num bs 4 2 % 4096
  let epoch := num bs 16 2
  match s.layer slot with
  | none => s
  | some l =>
    if byteAt bs 0 ≠ 2 ∨ bs.length ≠ 32 ∨ e ≥ l.experts then s else
    let s := s.ringNotice (s.expert l e).ring bs
    let s := if backward then s else s.addHist l e (num bs 12 4)
    let ends := s.qm.ends ++ [(slot, e, backward, half, epoch, rank)]
    let all := (List.range l.ranks).all fun p => ends.contains (slot, e, backward, half, epoch, p)
    let ends := if all then ends.filter fun x => !(x.1 == slot && x.2.1 == e && x.2.2.1 == backward && x.2.2.2.1 == half && x.2.2.2.2.1 == epoch) else ends
    { s with qm := { s.qm with ends := ends } }

/-- A write of `QM_RELEASE` (R194). -/
def State.qmRelease (s : State) (v : Word) : State :=
  let g : HomeGroup := { slot := bits v 63 56, expert := bits v 35 24, rank := bits v 55 50, backward := bit v 49, seq := bits v 23 0 }
  match s.layer g.slot with
  | none => s.rxRefuse 4 1 4 0xFFFF g.slot g.expert
  | some l =>
    if !(s.qm.groups.contains g) then s.rxRefuse 4 1 4 0xFFFF g.slot g.expert
    else
      let s := { s with qm := { s.qm with groups := s.qm.groups.erase g } }
      s.send { op := 0x11, dst := s.packageOf l g.rank, requester := sluiceCode, addr := rakePort
               payload := noticeBytes 4 g.slot 0 g.backward g.rank g.expert 0 g.seq 0 0 0 }

/-! ### The sluice (R193, R195 to R198, R206, R207) -/

def SluReq.parse (bs : List Byte) : SluReq :=
  let w := num bs 4 2
  { kind := byteAt bs 0, slot := byteAt bs 1, backward := byteAt bs 2 % 2 == 1, n := byteAt bs 3, array := w % 4096
    cplWindow := w / 4096 % 8, cpl := w / 32768 == 1, expert := num bs 6 2, a := num bs 8 3, b := num bs 12 3, c := num bs 16 3
    len := num bs 20 4, addr := num bs 24 8 }

/-- Whether a request breaks the table of R195. -/
def State.sluBad (s : State) (bs : List Byte) : Bool :=
  let r := SluReq.parse bs
  match s.layer r.slot with
  | none => true
  | some l =>
    r.kind == 0 || r.kind > 3 || byteAt bs 2 > 1 || byteAt bs 11 != 0 || byteAt bs 15 != 0 || byteAt bs 19 != 0 ||
      r.a ≥ 2 ^ 19 || r.b ≥ 2 ^ 19 || r.c ≥ 2 ^ 19 || r.expert ≥ 4096 || r.expert ≥ l.experts || r.array ≥ s.part.arrays ||
      (r.kind == 1 && (r.n != 0 || r.b != 0 || r.c != 0 || r.len != 0 || r.a % 64 != 0 ||
        r.addr + l.groupBytes r.backward > hbmTop s.part)) ||
      (r.kind == 2 && (r.n == 0 || r.n > 32 || r.len != 0 || r.addr != 0)) ||
      (r.kind == 3 && (r.backward || r.n != 0 || r.b != 0 || r.c != 0))

/-- The request at an address is read and queued, or refused. None: its bank holds the read (R92). -/
def State.sluTake (s : State) (addr : Nat) : Option State :=
  let r := s.memRead addr 32 ownExt dieHub
  let bs := r.2.2.map (·.1)
  if r.2.1 = .held then none
  else if r.2.1 ≠ .opened ∨ r.2.2.any (·.2) ∨ s.sluBad bs then some (r.1.rxRefuse 2 1 2 0xFFFF (byteAt bs 1) addr)
  else some { r.1 with slu := r.1.slu ++ [SluReq.parse bs] }

/-- Requests whose read was held are read, in order, as far as their banks allow. -/
def State.sluAdmit (s : State) : List Nat → State
  | [] => s
  | addr :: rest =>
    match ({ s with sluWait := rest }).sluTake addr with
    | none => s
    | some s => s.sluAdmit rest

/-- A store to `SLU_SUBMIT` (R195). -/
def State.sluSubmit (s : State) (v : Word) : State :=
  let addr := bits v 47 0
  if addr % 32 ≠ 0 ∨ s.slu.length + s.sluWait.length ≥ 64 then s.rxRefuse 2 1 2 0xFFFF 0 addr
  else if !s.sluWait.isEmpty then { s with sluWait := s.sluWait ++ [addr] }
  else match s.sluTake addr with
    | some s => s
    | none => { s with sluWait := [addr] }

/-- The sluice is done with its oldest request; a completion record follows when asked for (R199). -/
def State.sluEnd (s : State) (r : SluReq) (kind half epoch a : Nat) : State :=
  let s := { s with slu := s.slu.drop 1 }
  if r.cpl then (s.windowRecord r.array r.cplWindow (completionBytes kind r.slot half r.backward epoch 0 a 0 0)).1 else s

/-- A request that meets an ownership or address error, or poisoned data that it cannot carry on as poisoned, is refused as a whole
(R450, log 15). -/
def State.sluFail (s : State) (r : SluReq) : State :=
  ({ s with slu := s.slu.drop 1 }).rxRefuse 2 1 2 0xFFFF r.slot r.expert

def winAddr (a off : Nat) : Nat := 0x080000000000 + a * 0x100000 + off

/-- GATHER at the head of the sluice's queue (R193). -/
def State.gather (s : State) : State :=
  let s := s.sluAdmit s.sluWait
  match s.slu with
  | [] => s
  | r :: _ =>
    if r.kind ≠ 1 then s else
    match s.layer r.slot with
    | none => s.sluFail r
    | some l =>
      let n := l.groupBytes r.backward
      match s.memGate (winAddr r.array r.a) n ownExt, s.memGate (r.addr % 2 ^ 48) n ownExt with
      | .held, _ => s
      | _, .held => s
      | .opened, .opened =>
        let x := s.memRead (r.addr % 2 ^ 48) n ownExt dieHub
        let s := (x.1.memWrite (winAddr r.array r.a) (x.2.2.map fun c => some c.1) ownExt 2).1
        (s.copyPoison (winAddr r.array r.a) x.2.2).sluEnd r 0x13 0 0 0
      | _, _ => (s.memRefused (winAddr r.array r.a) n ownExt .ownErr).sluFail r

/-- A return row as sent: kind 5, layer slot, direction, poison mark, tag, codes, scales (log 14). -/
def rowBytes (slot : Nat) (backward poison : Bool) (tag : Nat) (codes scales : List Byte) : List Byte :=
  [5#8, BitVec.ofNat 8 slot, BitVec.ofNat 8 (2 * b2n backward), BitVec.ofNat 8 (b2n poison)] ++ List.replicate 4 0#8 ++
    leBytes 8 tag ++ codes ++ scales

def packLog (fmt : Nat) (cs : List Nat) : List Byte :=
  if fmt = 0 then (List.range ((cs.length + 1) / 2)).map fun i => BitVec.ofNat 8 (cs.getD (2 * i) 0 + 16 * cs.getD (2 * i + 1) 0)
  else cs.map (BitVec.ofNat 8)

/-- One output row converted to the direction's format under DYNAMIC scaling (R196): codes, scales, and whether a word of it is poisoned.
R196 names no register for the conversion's events, and they are recorded in none (DESIGN CHOICE, log 15). -/
def State.returnRow (s : State) (l : Layer) (r : SluReq) (t : Nat) : List Byte × List Byte × Bool :=
  let fmt := l.fmtOf r.backward
  let f := fmtLog fmt
  let hb := half2 fmt
  let vals := (List.range l.d).map fun st =>
    let half := (st * 32 + t) * hb
    let b := (s.byte (sramKey r.array (r.a + half / 2))).toNat
    let code := if fmt = 0 then (if half % 2 = 0 then b % 16 else b / 16) else b
    f.num code (s.byte (sramKey r.array (r.b + st))).toNat
  let bad := (List.range l.d).any fun st => s.sramPoison r.array (r.a + (st * 32 + t) * hb / 2) 1 || s.sramPoison r.array (r.b + st) 1
  let blocks := chunksOf 32 (l.d / 32 + 1) vals
  let done := blocks.map fun b =>
    let e := (dynamicE8 f b).1
    (b.map fun x => (toLog f x e).1, e)
  (packLog fmt (done.flatMap (·.1)), done.map fun x => BitVec.ofNat 8 x.2, bad)

/-- The words that a slot's row is read from. -/
def rowSpans (l : Layer) (r : SluReq) (t : Nat) : List (Nat × Nat) :=
  ((List.range l.d).map fun st => (r.a + (st * 32 + t) * half2 (l.fmtOf r.backward) / 2, 1)) ++ [(r.b, l.d)]

/-- Rows in flight toward a package: each holds a credit until it is committed or dropped there (R198). -/
def State.rowsToward (s : State) (pkg : Nat) : Nat :=
  (s.fab.reqQ.filter fun q => q.requester == sluiceCode && q.dst == pkg && q.op == 0x11 && byteAt q.payload 0 == 5).length +
  (s.fab.flows.map fun f => if f.dst = pkg then
      (f.unacked.filter fun u => u.packet.requester == sluiceCode && u.packet.op == 0x11 && byteAt u.packet.payload 0 == 5).length else 0).sum

/-- RETURN at the head of the sluice's queue (R196, R206). It waits for row credits. A poisoned tag fails it, since it names no place; a
row with a poisoned code or scale goes as poisoned (R291, R450). -/
def State.returnRows (s : State) : State :=
  let s := s.sluAdmit s.sluWait
  match s.slu with
  | [] => s
  | r :: _ =>
    if r.kind ≠ 2 then s else
    match s.layer r.slot with
    | none => s.sluFail r
    | some l =>
      let spans := [(r.a, l.codeBytes r.backward), (r.b, l.d), (r.c, 256)]
      let gates := spans.map fun sp => s.memGate (winAddr r.array sp.1) sp.2 ownExt
      if gates.contains .held then s
      else if gates.any fun g => g != .opened then
        (spans.foldl (fun s sp => s.memRefused (winAddr r.array sp.1) sp.2 ownExt .ownErr) s).sluFail r
      else
        let (s, lost) := s.sramSeen r.array [(r.c, 8 * r.n)]
        if lost then s.sluFail r else
        let tags := (List.range r.n).map fun t => (t, leNat (s.sram r.array (r.c + 8 * t) 8))
        let live := tags.filter fun x => x.2 != emptyTag
        let pkg := fun (tag : Nat) => s.packageOf l (tag / 2 ^ 24 % 64)
        let short := live.any fun x => s.rowsToward (pkg x.2) + (live.filter fun y => pkg y.2 == pkg x.2).length > 512
        if short then s else
        let s := (s.sramSeen r.array (live.flatMap fun x => rowSpans l r x.1)).1
        let s0 := s
        let s := live.foldl (fun s x =>
          let row := s0.returnRow l r x.1
          s.send { op := 0x11, dst := pkg x.2, requester := sluiceCode, addr := rakePort
                   payload := rowBytes r.slot r.backward row.2.2 x.2 row.1 row.2.1 }) s
        let tag := match live with
          | x :: _ => x.2
          | [] => 0
        s.sluEnd r 0x14 (tag / 2 ^ 47 % 2) (tag / 2 ^ 48) live.length

/-- A return row arrives at its source: it is judged at the end of the hub cycle, so that a cancel of the cycle drops it (R201). -/
def State.rowArrival (s : State) (bs : List Byte) : State := { s with rake := { s.rake with rows := s.rake.rows ++ [bs] } }

/-- A return row is committed to its place, or dropped with its epoch (R198, R199). -/
def State.takeRow (s : State) (bs : List Byte) : State :=
  let slot := byteAt bs 1
  let backward := byteAt bs 2 / 2 % 2 == 1
  let tag := num bs 8 8
  let epoch := tag / 2 ^ 48
  let half := tag / 2 ^ 47 % 2
  match s.layer slot with
  | none => s
  | some l =>
    if byteAt bs 0 ≠ 5 then s
    else if s.cancelled epoch then
      let s := s.bump SLU_PERF_CANCEL_DROP.count 0 0 1
      let s := s.mapWindow fun w => { w with cancelRows := w.cancelRows + 1 }
      (s.mapHalf slot backward half epoch fun h => { h with dropped := h.dropped + 1 }).decideHalf slot backward half epoch
    else
      let n := tag % 2 ^ 24 * l.topK + tag / 2 ^ 43 % 16
      let nc := l.d * half2 (l.fmtOf backward) / 2
      let codes := (bs.drop 16).take nc
      let scales := (bs.drop (16 + nc)).take (l.d / 32)
      let s := s.putMem (retCodes l backward n) codes ownExt dieHub
      let s := s.putMem (retScales l backward n) scales ownExt dieHub
      let mark := fun (s : State) (addr : Nat) (x : List Byte) => s.copyPoison addr (x.map fun b => (b, true))
      let s := if byteAt bs 3 % 2 = 1 then mark (mark s (retCodes l backward n) codes) (retScales l backward n) scales else s
      let s := s.bump SLU_PERF_ROWS.count 0 0 1
      (s.mapHalf slot backward half epoch fun h => { h with committed := h.committed + 1 }).decideHalf slot backward half epoch

/-- The rows of the hub cycle, in the order in which they came. -/
def State.takeRows (s : State) : State :=
  s.rake.rows.foldl (fun s bs => s.takeRow bs) { s with rake := { s.rake with rows := [] } }

/-- Where a gradient lies: a scratchpad offset, or, past its end, the accumulator buffer (R195; log 15). -/
def gradientOff (a : Nat) : Nat := if a < 0x50000 then a else a + 0x30000

/-- The register that a finished segment announces itself to (R253). -/
def segArriveAddr : Nat := Reg.addr ⟨.TMP_SEG_ARRIVE, 0, 0⟩

/-- SEGMENT at the head of the sluice's queue: the header and payload go to the landing slot, then its address to
`TMP_SEG_ARRIVE` behind them (R207, R253). The sluice forms the payload's CRC (log 15). A store carries no mark of poison, so a segment
with poisoned data is not sent (R450). -/
def State.segment (s : State) : State :=
  let s := s.sluAdmit s.sluWait
  match s.slu with
  | [] => s
  | r :: _ =>
    if r.kind ≠ 3 then s else
    let off := gradientOff r.a
    let n := 32 + r.len
    match s.memGate (winAddr r.array off) n ownExt with
    | .held => s
    | .refused c => (s.memRefused (winAddr r.array off) n ownExt c).sluFail r
    | .opened =>
      let x := s.memRead (winAddr r.array off) n ownExt dieHub
      let bs := x.2.2.map (·.1)
      if x.2.2.any (·.2) then x.1.sluFail r else
      let payload := bs.drop 32
      let crc := if r.len = 0 then 0 else crc32c payload
      let data := bs.take 20 ++ leBytes 4 crc ++ (bs.drop 24).take 8 ++ payload
      let dst := r.addr / 2 ^ 48
      let at' := r.addr % 2 ^ 48
      let s := x.1.storeTo dst sluiceCode 0 at' data
      let line := segArriveAddr / 128 * 128
      let s := s.send { op := 2, dst := dst, requester := sluiceCode, addr := line, mask := 255 * 2 ^ (segArriveAddr - line), behind := true
                        payload := List.replicate (segArriveAddr - line) 0#8 ++ leBytes 8 at' ++ List.replicate (120 - (segArriveAddr - line)) 0#8 }
      s.sluEnd r 0x15 0 0 0

/-! ### Salter threads (R213) -/

/-- A write of `SALT_CTRL`: run starts and stops threads, halt stops those named. A thread that a fault halted stays halted
until it is run again. -/
def State.saltRun (s : State) (core threads : Nat) : State :=
  if core > 31 then s else
  let old := s.fld SALT_CTRL.run core
  let started := threads % 256 &&& (255 - old)
  let s := s.setFld SALT_CTRL.run core 0 (threads % 256)
  let s := s.setFld SALT_STATUS.faulted core 0 (s.fld SALT_STATUS.faulted core &&& (255 - started))
  s.setFld SALT_STATUS.running core 0 (threads % 256 &&& (255 - s.fld SALT_STATUS.faulted core) &&& (255 - s.fld SALT_STATUS.remote core))

def State.saltHalt (s : State) (core threads : Nat) : State :=
  if core > 31 then s else
  let keep := 255 - threads % 256
  let s := s.setFld SALT_CTRL.run core 0 (s.fld SALT_CTRL.run core &&& keep)
  let s := s.setFld SALT_STATUS.running core 0 (s.fld SALT_STATUS.running core &&& keep)
  s.setFld SALT_STATUS.remote core 0 (s.fld SALT_STATUS.remote core &&& keep)

/-- Threads that wait on a remote access, and run on once it is complete (R213, R214). -/
def State.threadWaits (s : State) (n : Nat) : State :=
  let b := 2 ^ (n % 8)
  let s := s.setFld SALT_STATUS.running (n / 8) 0 (s.fld SALT_STATUS.running (n / 8) &&& (255 - b))
  s.setFld SALT_STATUS.remote (n / 8) 0 (s.fld SALT_STATUS.remote (n / 8) ||| b)

def State.threadAnswered (s : State) (requester : Nat) : State :=
  let n := requester - 0xE00
  let b := 2 ^ (n % 8)
  if requester < 0xE00 ∨ requester ≥ 0xF00 ∨ s.fld SALT_STATUS.remote (n / 8) / b % 2 = 0 then s else
  let s := s.setFld SALT_STATUS.remote (n / 8) 0 (s.fld SALT_STATUS.remote (n / 8) &&& (255 - b))
  s.setFld SALT_STATUS.running (n / 8) 0 (s.fld SALT_STATUS.running (n / 8) ||| b)

/-- What is kept of a salter thread (R213, R418). -/
def State.thread (s : State) (n : Nat) : SalterThread := Sparse.get {} s.salt n
def State.setThread (s : State) (n : Nat) (x : SalterThread) : State := { s with salt := Sparse.put {} s.salt n x }

/-- A thread is halted by a fault and keeps its state; `info` is what it reports of the fault. The event's info is zero: R213 names no
register for it (R213, R365). -/
def State.saltFault (s : State) (core thread : Nat) (info : Word) : State :=
  if core > 31 ∨ thread > 7 ∨ (s.fld SALT_STATUS.running core / 2 ^ thread % 2 = 0 ∧ s.fld SALT_STATUS.remote core / 2 ^ thread % 2 = 0) then s else
  let b := 2 ^ thread
  let s := s.saltHalt core b
  let s := s.setFld SALT_STATUS.faulted core 0 (s.fld SALT_STATUS.faulted core ||| b)
  let s := s.setThread (8 * core + thread) { s.thread (8 * core + thread) with cause := info }
  s.raise 6 5 (8 * core + thread) 0

end Sys2Proof.Machine
end

