-- ==== Sys2Proof/Machine/TileOps.lean ====
section
/-! DEFINITION. TILE and REDUCE: their fields, checks, operand feed, sums, write-back and trailers (R54 to R62, R81 to R87,
R147 to R150, R162 to R166). -/

namespace Sys2Proof.Machine

/-- The fields of a TILE command. -/
structure TileCmd where
  pass : Nat
  fmtA : Nat
  fmtB : Nat
  sparse : Bool
  transA : Bool
  transB : Bool
  accumulates : Bool
  toVec : Bool
  backward : Bool
  frozen : Bool
  tileId : Nat
  aAddr : Nat
  aStride : Nat
  bAddr : Nat
  bStride : Nat
  kLen : Nat
  accLine : Nat
  aScale : Nat
  mRows : Nat
  bScale : Nat
  nCols : Nat
  sparseMeta : Nat
  /-- A reserved field, or a bit above a field's range within its bytes, is non-zero (R81, R466). -/
  reserved : Bool
  deriving DecidableEq, Repr

def TileCmd.parse (bs : List Byte) : TileCmd :=
  let b1 := byteAt bs 1
  let b2 := byteAt bs 2
  let top := fun off => num bs off 3 ≥ 2 ^ 19
  let sparse := b2 % 2 == 1
  { pass := b1 / 64, fmtA := b1 / 8 % 8, fmtB := b1 % 8
    sparse := sparse, transA := b2 / 2 % 2 == 1, transB := b2 / 4 % 2 == 1, accumulates := b2 / 8 % 2 == 1
    toVec := b2 / 16 % 2 == 1, backward := b2 / 32 % 2 == 1, frozen := b2 / 64 % 2 == 1
    tileId := num bs 4 4, aAddr := num bs 8 3, aStride := byteAt bs 11, bAddr := num bs 12 3, bStride := byteAt bs 15
    kLen := num bs 16 2, accLine := num bs 18 2, aScale := num bs 20 3, mRows := byteAt bs 23
    bScale := num bs 24 3, nCols := byteAt bs 27, sparseMeta := num bs 28 4
    reserved := b2 / 128 == 1 || byteAt bs 3 != 0 || top 8 || top 12 || top 20 || top 24 || num bs 18 2 ≥ 512 ||
      (!sparse && num bs 28 4 != 0) }

/-- Format codes of a TILE (R80). -/
def tileFmt : Nat → Option LogFmt
  | 0 => some .l4
  | 1 => some .l8
  | 2 => some .g8
  | _ => none

/-- Whether a pair of formats is one of R54. -/
def pairOk (a b pass : Nat) : Bool :=
  pass != 0 && a ≤ 2 && b ≤ 2 && !(a != 0 && b == 0) && (pass == 1 || (a == 1 && b == 1))

/-- Twice the bytes of an element: 1 for L4, 2 for L8 and G8. -/
def halfBytes (fmt : Nat) : Nat := if fmt = 0 then 1 else 2

/-- The bytes of one code plane of an operand (R80). -/
def planeSize (kLen fmt : Nat) : Nat := kLen * 16 * halfBytes fmt

/-- The spans of scratchpad that the feed reads for an operand's code planes (R82). -/
def codeSpans (addr stride kLen fmt pass : Nat) (trans : Bool) : List (Nat × Nat) :=
  (List.range pass).flatMap fun i =>
    let base := addr + i * planeSize kLen fmt
    if trans then (List.range 32).map fun e => (base + e * stride * 64, (kLen * halfBytes fmt + 1) / 2)
    else [(base, planeSize kLen fmt)]

def scaleSpans (scale kLen pass : Nat) : List (Nat × Nat) := [(scale, pass * kLen)]

def TileCmd.codeSpansA (c : TileCmd) := codeSpans c.aAddr c.aStride c.kLen c.fmtA c.pass c.transA
def TileCmd.codeSpansB (c : TileCmd) := codeSpans c.bAddr c.bStride c.kLen c.fmtB c.pass c.transB

/-- Every span a dense tile reads. -/
def TileCmd.reads (c : TileCmd) : List (Nat × Nat) :=
  c.codeSpansA ++ c.codeSpansB ++ scaleSpans c.aScale c.kLen c.pass ++ scaleSpans c.bScale c.kLen c.pass

def beyond (limit : Nat) (spans : List (Nat × Nat)) : Bool := spans.any fun s => s.1 + s.2 > limit

def TileCmd.badFormat (c : TileCmd) : Bool := !(pairOk c.fmtA c.fmtB c.pass)

def TileCmd.badShape (c : TileCmd) : Bool :=
  c.kLen == 0 || c.kLen > 65504 || c.kLen % 32 != 0 || c.mRows == 0 || c.mRows > 32 || c.nCols == 0 || c.nCols > 32 ||
  (c.transA && c.aStride == 0) || (c.transB && !c.sparse && c.bStride == 0) || c.reserved

def TileCmd.badRegion (c : TileCmd) : Bool := c.accLine * 128 + c.mRows * 128 > 0x10000

/-- The checks of R81 that rest on the command alone; a frozen tile makes no other (R162). -/
def TileCmd.checks (c : TileCmd) : List (Nat × Bool) :=
  [(2, c.badFormat), (3, c.badShape), (4, (!c.sparse && beyond 0x50000 c.reads) || c.badRegion)]

/-- A backward bit that differs from the stream's class, with interleave enabled (R164). -/
def State.wrongClass (s : State) (a : Nat) (stream bit : Bool) : Bool := s.flag FBI_CFG.enable a && stream != bit

/-! ### The sums -/

/-- A term of an operand at an output index and a step (R82), as the code read and its block scale. -/
def State.operand (s : State) (a addr scale stride kLen fmt term : Nat) (trans : Bool) (e k : Nat) : LogVal × Nat :=
  match tileFmt fmt with
  | none => (.nan, 0xFF)
  | some f =>
    let half := if trans then e * stride * 128 + k * halfBytes fmt else (k * 32 + e) * halfBytes fmt
    let off := addr + term * planeSize kLen fmt + half / 2
    let b := (s.byte (sramKey a off)).toNat
    let code := if fmt = 0 then (if half % 2 = 0 then b % 16 else b / 16) else b
    let so := scale + term * kLen + (if trans then e * (kLen / 32) + k / 32 else k)
    let e8 := (s.byte (sramKey a so)).toNat
    (f.read code e8, e8)

def State.operandA (s : State) (a : Nat) (c : TileCmd) (term i k : Nat) : LogVal × Nat :=
  s.operand a c.aAddr c.aScale c.aStride c.kLen c.fmtA term c.transA i k

def State.operandB (s : State) (a : Nat) (c : TileCmd) (term j k : Nat) : LogVal × Nat :=
  s.operand a c.bAddr c.bScale c.bStride c.kLen c.fmtB term c.transB j k

/-- The term schedule of R60, terms counted from 0. -/
def termOrder : Nat → List (Nat × Nat)
  | 2 => [(1, 0), (0, 1), (0, 0)]
  | 3 => [(2, 0), (1, 1), (0, 2), (1, 0), (0, 1), (0, 0)]
  | _ => [(0, 0)]

/-- A running sum with its events and the number of products formed. -/
structure Sum where
  value : Num := .zero
  exc : Exc := Exc.none
  products : Nat := 0
  deriving DecidableEq, Repr

/-- A product enters a sum by R57. -/
def Sum.take (r : Sum) (p : Num × Exc) : Sum :=
  let q := accumulate r.value p.1
  { value := q.1, exc := r.exc ||| p.2 ||| q.2, products := r.products + 1 }

/-- One operand pair (R58, R60, R61): its term products are gathered in a pair register and the register is accumulated. -/
def State.pairStep (s : State) (a : Nat) (c : TileCmd) (i j : Nat) (r : Sum) (k : Nat) : Sum :=
  let a0 := s.operandA a c 0 i k
  let b0 := s.operandB a c 0 j k
  if c.pass = 1 then r.take (logProduct a0.1 b0.1 a0.2 b0.2)
  else
    let special := a0.1.isNan || a0.1.isInf || b0.1.isNan || b0.1.isInf
    let order := if special then [(0, 0)] else termOrder c.pass
    let pair := order.foldl (fun (q : Sum) t =>
      let x := s.operandA a c t.1 i k
      let y := s.operandB a c t.2 j k
      q.take (logProduct x.1 y.1 x.2 y.2)) {}
    let z := accumulate r.value pair.value
    { value := z.1, exc := r.exc ||| pair.exc ||| z.2, products := r.products + pair.products }

/-- The two products of an L4 × L4 cell's cycle, summed exactly and then accumulated (R58). A pair sum may need more than 24 bits, when
steps 2j and 2j + 1 carry different block scales; R58 gives no cut for it, and the accumulation takes its upper 24 bits and drops the
rest without a sticky bit, as R57 drops the bits below its field (DESIGN CHOICE, log 43). -/
def State.doubleStep (s : State) (a : Nat) (c : TileCmd) (i j : Nat) (r : Sum) (k : Nat) : Sum :=
  let prod := fun k =>
    let x := s.operandA a c 0 i k
    let y := s.operandB a c 0 j k
    logProduct x.1 y.1 x.2 y.2
  let p := prod (2 * k)
  let q := prod (2 * k + 1)
  let t := p.1.add q.1
  let z := accumulate r.value t.1
  { value := z.1, exc := r.exc ||| p.2 ||| q.2 ||| t.2 ||| z.2, products := r.products + 2 }

/-- The sum of an output element in ascending reduction index (R58). -/
def State.tileSum (s : State) (a : Nat) (c : TileCmd) (i j : Nat) : Sum :=
  if c.fmtA = 0 ∧ c.fmtB = 0 then (List.range (c.kLen / 2)).foldl (s.doubleStep a c i j) {}
  else (List.range c.kLen).foldl (s.pairStep a c i j) {}

def Num.bits32 (x : Num) : BitVec 32 := BitVec.ofNat 32 (Lin.a32.encode x).1

/-- Rows and columns of a tile, in write-back order. -/
def cellsOf (m n : Nat) : List (Nat × Nat) := (List.range m).flatMap fun i => (List.range n).map fun j => (i, j)

/-! ### Timing (R83) -/

/-- Trailing zero bits of a stride, at most 5; 5 in a bank without swizzle (R83, R98). -/
def trailingZeros (n : Nat) : Nat :=
  if n % 2 ≠ 0 then 0 else if n % 4 ≠ 0 then 1 else if n % 8 ≠ 0 then 2 else if n % 16 ≠ 0 then 3
  else if n % 32 ≠ 0 then 4 else 5

/-- Four times the feed time F of an operand. R83 speaks of one bank; an operand whose lines run over several is taken by the bank of its
base address (DESIGN CHOICE, log 52). -/
def State.feed4 (s : State) (a addr stride fmt : Nat) (trans : Bool) : Nat :=
  if trans then
    let z := if s.flag SCP_BANK_CFG.swizzle a (bankOf addr) then trailingZeros stride else 5
    2 ^ z * halfBytes fmt
  else 0

/-- Four times c / r, the cell time of a step. -/
def TileCmd.cell4 (c : TileCmd) : Nat :=
  let terms := if c.pass = 2 then 3 else if c.pass = 3 then 6 else 1
  if c.fmtA = 0 ∧ c.fmtB = 0 then 2 * terms else 4 * terms

/-- Four times the step time s. -/
def State.step4 (s : State) (a : Nat) (c : TileCmd) : Nat :=
  let fa := s.feed4 a c.aAddr c.aStride c.fmtA c.transA
  let fb := s.feed4 a c.bAddr c.bStride c.fmtB c.transB
  let f := if c.transA ∧ c.transB ∧ bankOf c.aAddr = bankOf c.bAddr then fa + fb else max fa fb
  max c.cell4 f

def ceilDiv (x y : Nat) : Nat := (x + y - 1) / y

/-- W of a write-back: from m_rows up to ⌈m_rows / 8⌉ more (R83, R125; log 8). -/
def State.writebackCycles (s : State) (m : Nat) : Nat × State :=
  let (f, s) := s.fresh
  (m + f.toNat % (ceilDiv m 8 + 1), s)

/-! ### Issue -/

/-- Whether a TILE or REDUCE region overlaps one that a tile-queue entry still holds (R150). -/
def Arr.regionHeld (x : Arr) (accLine rows : Nat) : Bool :=
  x.tq.any fun e => accLine < e.accLine + e.rows && e.accLine < accLine + rows

/-- Credits and entries a class holds (R166). -/
def Arr.held8 (x : Arr) (backward : Bool) : Nat :=
  (x.tq.filter fun e => e.backward == backward).length + (if backward then x.bwdCredits else x.fwdCredits)

/-- Whether a class may take a tile-queue credit (R166). -/
def State.creditFree (s : State) (a : Nat) (backward : Bool) : Bool :=
  let x := s.array a
  let all := x.held8 false + x.held8 true
  all < 8 && (backward || x.held8 false + s.fld FBI_CFG.bwd_reserve a < 8)

/-- Whether the cells and the sum registers are free for a tile or REDUCE (R84, R129, R150, R166): a sparse tile keeps them until its
trailer is written. -/
def State.matrixFree (s : State) (a accLine rows : Nat) (alone toVec backward : Bool) : Bool :=
  let x := s.array a
  !(x.regionHeld accLine rows) && !(x.jobs.any fun j => j.sparse) && !(x.trailers.any fun t => t.sparse) &&
    (if alone then x.jobs.isEmpty else x.jobs.length < 2) &&
    (!toVec || !(s.flag FBI_CFG.enable a) || s.creditFree a backward)

/-! ### The sparse descriptor (R112 to R114) -/

/-- The fields of a sparse descriptor (R112). A stripe code of 3, which is invalid, is kept as stripe count 0: a plane of it names no bank,
so the descriptor is rejected for itself (DESIGN CHOICE, log 53). -/
structure SparseDesc where
  dirAddr : Nat
  recAddr : Nat
  record : Bool
  aStripe : Nat
  bStripe : Nat
  rowsplit : Nat
  bLines : Nat
  dirStride : Nat
  /-- A must-be-0 field, a bit above a field's range or a stripe code 3 (R112, R114). -/
  bad : Bool
  deriving DecidableEq, Repr

def SparseDesc.parse (bs : List Byte) : SparseDesc :=
  let b7 := byteAt bs 7
  let sa := b7 / 2 % 4
  let sb := b7 / 8 % 4
  { dirAddr := num bs 0 3, recAddr := num bs 4 3, record := b7 % 2 == 1
    aStripe := if sa = 3 then 0 else 2 ^ sa, bStripe := if sb = 3 then 0 else 2 ^ sb
    rowsplit := num bs 8 2, bLines := num bs 10 2, dirStride := num bs 12 2
    bad := num bs 0 3 ≥ 2 ^ 19 || byteAt bs 3 != 0 || num bs 4 3 ≥ 2 ^ 19 || b7 / 32 != 0 || !(zeros bs 14 18) || sa == 3 || sb == 3 }

/-- The checks of SP_MODE, which rest on the command's own bytes (R114). -/
def spMode (c : TileCmd) : List (Nat × Bool) :=
  [(0x10, c.pass != 1 || c.transA || c.bScale != 0 || c.bStride != 0 || c.sparseMeta ≥ 2 ^ 19 || c.sparseMeta % 32 != 0)]

/-- The offset of byte `x` of a plane with a stripe count (R113). -/
def stripedOffset (base stripe x : Nat) : Nat :=
  if stripe = 1 then base + x
  else
    let n := x / 64
    (base / 0x8000 + n % stripe) * 0x8000 + (base % 0x8000 / 64 + n / stripe) * 64 + x % 64

/-- The spans of a plane of `len` bytes. A striped plane's lines past bank-relative line 511 lie in no bank (R113). -/
def planeSpans (base stripe len : Nat) : List (Nat × Nat) :=
  if stripe = 0 then []
  else if stripe = 1 then [(base, len)]
  else ((List.range (ceilDiv len 64)).filter fun n => base % 0x8000 / 64 + n / stripe < 512).map fun n => (stripedOffset base stripe (64 * n), 64)

/-- Whether a striped plane breaks the bank limits of R113. -/
def stripeLimits (base stripe len : Nat) : Bool :=
  stripe != 1 && (base / 0x8000 + stripe > 10 || base % 0x8000 / 64 + ceilDiv (ceilDiv len 64) stripe > 512)

def TileCmd.stepBytes (c : TileCmd) : Nat := 16 * halfBytes c.fmtA

/-- The spans the tile reads, the descriptor apart (R114). -/
def SparseDesc.spans (d : SparseDesc) (c : TileCmd) : List (Nat × Nat) :=
  ((List.range (c.kLen / 32)).map fun t => (d.dirAddr + 4 * t * d.dirStride, 4)) ++
  planeSpans c.aAddr d.aStripe (c.kLen * c.stepBytes) ++ [(c.aScale, c.kLen)] ++
  (if d.record then planeSpans d.recAddr d.aStripe (8 * c.kLen) else []) ++
  planeSpans c.bAddr d.bStripe (64 * d.bLines)

/-- SP_DESC and SP_RANGE (R114). -/
def SparseDesc.checks (d : SparseDesc) (c : TileCmd) : List (Nat × Bool) :=
  [(0x11, d.bad || !(d.rowsplit == 0 || (8 ≤ d.rowsplit && d.rowsplit ≤ 256)) || d.dirStride == 0 || d.bLines == 0 ||
      d.bLines > 5120 || d.dirAddr % 4 != 0 || d.recAddr % 64 != 0 || (!d.record && d.recAddr != 0) ||
      (d.aStripe != 1 && c.aAddr % 64 != 0) || (d.bStripe != 1 && c.bAddr % 64 != 0)),
   (0x12, beyond 0x50000 ((c.sparseMeta, 32) :: d.spans c) || stripeLimits c.aAddr d.aStripe (c.kLen * c.stepBytes) ||
      (d.record && stripeLimits d.recAddr d.aStripe (8 * c.kLen)) || stripeLimits c.bAddr d.bStripe (64 * d.bLines))]

/-- The banks a sparse tile's checks name before its descriptor is known: the descriptor's and the scale plane's (R114). -/
def TileCmd.ownSpans (c : TileCmd) : List (Nat × Nat) := [(c.sparseMeta % 2 ^ 19, 32), (c.aScale, c.kLen)]

/-- Whether a sparse tile's descriptor lies in the scratchpad and can be read (R114). -/
def State.descReadable (s : State) (a : Nat) (c : TileCmd) : Bool :=
  c.sparseMeta % 2 ^ 19 + 32 ≤ 0x50000 && !(s.sramPoison a (c.sparseMeta % 2 ^ 19) 32)

/-- The spans whose banks a sparse tile needs: all of them, or, with no descriptor to read, those the command names itself. -/
def State.sparseSpans (s : State) (a : Nat) (c : TileCmd) : List (Nat × Nat) :=
  if s.descReadable a c then c.ownSpans ++ (SparseDesc.parse (s.sram a (c.sparseMeta % 2 ^ 19) 32)).spans c else c.ownSpans

/-- The fields of a REDUCE command (R87). -/
structure ReduceCmd where
  slots : Nat
  tileId : Nat
  slotAddr : Nat
  slotStride : Nat
  accLine : Nat
  mRows : Nat
  nCols : Nat
  mustBeZero : Bool
  deriving DecidableEq, Repr

def ReduceCmd.parse (bs : List Byte) : ReduceCmd :=
  { slots := byteAt bs 1, tileId := num bs 4 4, slotAddr := num bs 8 3 % 2 ^ 19, slotStride := num bs 12 2
    accLine := num bs 18 2 % 512, mRows := byteAt bs 23, nCols := byteAt bs 27
    mustBeZero := !(zeros bs 2 2 && num bs 8 3 < 2 ^ 19 && zeros bs 11 1 && zeros bs 14 4 && num bs 18 2 < 512 &&
      zeros bs 20 3 && zeros bs 24 3 && zeros bs 28 4) }

/-- Rows 0 to m_rows − 1 of every slot. -/
def ReduceCmd.spans (c : ReduceCmd) : List (Nat × Nat) :=
  (List.range c.slots).map fun k => (c.slotAddr + k * c.slotStride * 128, c.mRows * 128)

/-- Whether a stream's head is a TILE or REDUCE that could issue: its cells, region and credit are free, and no bank of its reads holds
it back (R92, R150, R165, R166). -/
def State.matrixHead (s : State) (a : Nat) (backward : Bool) : Bool :=
  match s.head a backward 1, s.head a backward 3 with
  | some f, _ =>
    let c := TileCmd.parse f.bytes
    c.frozen || (s.matrixFree a c.accLine c.mRows c.sparse c.toVec backward && !(s.holdsBack a ownSeq (if c.sparse then s.sparseSpans a c else c.reads)))
  | none, some f =>
    let c := ReduceCmd.parse f.bytes
    s.matrixFree a c.accLine c.mRows true false backward && !(s.holdsBack a ownSeq c.spans)
  | none, none => false

/-- Whether the turn lets a class's TILE or REDUCE issue (R165). -/
def State.turnAllows (s : State) (a : Nat) (backward : Bool) : Bool :=
  !(s.flag FBI_CFG.enable a) || s.flag FBI_STATUS.turn a == backward || !(s.matrixHead a (!backward))

/-- The turn after a stream issued a TILE or REDUCE (R165), and the issue counts by the command's own class (R171). -/
def State.takeTurn (s : State) (a : Nat) (backward ofBackward : Bool) : State :=
  let s := s.bump (if ofBackward then FBI_PERF_BWD.count else FBI_PERF_FWD.count) a 0 1
  if !(s.flag FBI_CFG.enable a) then s else
  let n := if s.flag FBI_STATUS.turn a = backward then s.fld FBI_STATUS.count a + 1 else 1
  let limit := if backward then s.fld FBI_CFG.wb a else s.fld FBI_CFG.wf a
  if n ≥ limit then (s.setFld FBI_STATUS.turn a 0 (b2n (!backward))).setFld FBI_STATUS.count a 0 0
  else (s.setFld FBI_STATUS.turn a 0 (b2n backward)).setFld FBI_STATUS.count a 0 n

/-- The trailer's flags byte (R86). -/
def TileCmd.flags (c : TileCmd) (frozen : Bool) : Nat := b2n c.toVec + 2 * b2n c.backward + 4 * b2n frozen

/-- A TILE's rejection: the trailer with cycles 0, and ERROR (R86, R106). A sparse tile's status also stands in SPM_STATUS
(R132, log 12). -/
def State.rejectTile (s : State) (a : Nat) (backward : Bool) (c : TileCmd) (offset status : Nat) : State :=
  let s := if c.sparse then s.setFld SPM_STATUS.last_err a 0 status else s
  ((s.pushTrailer a offset false (trailerBytes c.tileId status Exc.none (c.flags false) 0 0)).seqReject a backward status c.tileId offset).syncSeq a

/-- A job enters the pipeline: the command issues, `cur_tile` names it, and a to_vec tile takes its credit. -/
def State.startJob (s : State) (a : Nat) (backward : Bool) (j : Job) : State :=
  let s := s.issue a backward
  let s := s.setFld ARR_STATUS.cur_tile a 0 j.tileId.toNat
  let s := s.takeTurn a backward j.backward
  let credit := j.toVec && s.flag FBI_CFG.enable a
  let s := s.mapArray a fun x =>
    { x with jobs := x.jobs ++ [j]
             fwdCredits := x.fwdCredits + b2n (credit && !backward)
             bwdCredits := x.bwdCredits + b2n (credit && backward) }
  s.syncSeq a

/-- The job of a dense tile: its sums, its events, its cycles before W (R83, R85). -/
def State.denseJob (s : State) (a : Nat) (c : TileCmd) (offset : Nat) : Job × State :=
  let poison := c.reads.any fun sp => s.sramPoison a sp.1 sp.2
  let cells := (cellsOf c.mRows c.nCols).map fun ij => (ij, s.tileSum a c ij.1 ij.2)
  let t4 := s.step4 a c
  let compute := ceilDiv (c.kLen * t4) 4
  let busy := if t4 < 4 then compute else ceilDiv (c.kLen * c.cell4) 4
  let s := s.bump ARR_PERF_BUSY.count a 0 (if t4 < 4 then compute else max c.kLen busy)
  let s := s.bump ARR_PERF_STALL_FEED.count a 0 (compute - ceilDiv (c.kLen * c.cell4) 4)
  ({ kind := if poison then .stopped else .dense
     backward := c.backward, tileId := BitVec.ofNat 32 c.tileId, offset := offset, accLine := c.accLine
     rows := c.mRows, cols := c.nCols, accumulates := c.accumulates, toVec := c.toVec
     sums := cells.map fun x => { row := x.1.1, col := x.1.2, value := x.2.value.bits32, exc := x.2.exc }
     helpers := [], poisoned := [], record := {}
     cycles := 20 + compute + b2n poison, stalled := 0
     products := (cells.map fun x => x.2.products).sum
     status := if poison then 6 else 0 }, s)

/-- The dense TILE at a stream's head: checked, rejected with the lowest code, or issued when the cells are free (R81). Its reads of a
bank that is still to become SEQ's are held (R92): it waits at the head (DEDUCED, log 32). -/
def State.tileIssue (s : State) (a : Nat) (backward : Bool) : State :=
  match s.head a backward 1 with
  | none => s
  | some f =>
    let c := TileCmd.parse f.bytes
    if c.sparse ∨ c.frozen then s else
    let checks := c.checks ++ [(5, s.refuses a ownSeq c.reads), (0x28, s.wrongClass a backward c.backward)]
    match firstFailure checks with
    | some code => (s.noteRefusal a ownSeq c.reads code).rejectTile a backward c f.offset code
    | none =>
      if s.holdsBack a ownSeq c.reads ∨ !(s.turnAllows a backward) ∨ !(s.matrixFree a c.accLine c.mRows false c.toVec backward) then s else
      let (j, s) := (s.sramMeet a c.reads).denseJob a c f.offset
      let s := s.startJob a backward j
      -- a feed that read a poisoned word fails the tile after issue (R78, R106)
      if j.status = 0 then s else (s.seqFail a 6 c.tileId f.offset).syncSeq a

/-- A TILE with frozen set: checked without ownership, then skipped with its trailer (R162). -/
def State.frozenTileIssue (s : State) (a : Nat) (backward : Bool) (sparseChecks : TileCmd → List (Nat × Bool)) : State :=
  match s.head a backward 1 with
  | none => s
  | some f =>
    let c := TileCmd.parse f.bytes
    if !c.frozen then s else
    let checks := c.checks ++ (if c.sparse then sparseChecks c else []) ++ [(0x28, s.wrongClass a backward c.backward)]
    match firstFailure checks with
    | some code => s.rejectTile a backward c f.offset code
    | none =>
      let s := s.issue a backward
      let s := s.setFld ARR_STATUS.cur_tile a 0 c.tileId
      let s := s.bump FBI_PERF_FROZEN.count a 0 1
      let s := s.bump ARR_PERF_TILES.count a 0 1
      (s.pushTrailer a f.offset false (trailerBytes c.tileId 0 Exc.none (c.flags true) 1 0)).syncSeq a

/-! ### Write-back -/

/-- The word of a region: byte offset in the accumulator buffer (R85). -/
def regionWord (accLine i j : Nat) : Nat := accLine * 128 + i * 128 + j * 4

/-- One word of a region: what is written and the element's events. With `add`, the old word is added in; a poisoned old
word is left as it is (R78, R85). -/
def State.wordResult (s : State) (a : Nat) (accLine : Nat) (add : Bool) (c : Cell) : Option (BitVec 32) × Exc :=
  let off := regionWord accLine c.row c.col
  if add then
    if s.isPoisoned (accUnit a off) then (none, c.exc)
    else
      let w := a32 (s.accWord a off).toNat
      let r := accumulate w (a32 c.value.toNat)
      (some r.1.bits32, c.exc ||| r.2 ||| consumed [w])
  else (some c.value, c.exc)

/-- A write-back that meets a VEC in execution on the accumulator banks goes first (R101); how long the VEC waits for its grants is not
stated (log 8). -/
def State.accContention (s : State) (a : Nat) : State :=
  if (s.array a).vec.any (·.acc) then
    let (w, s) := s.fresh
    s.bump VEC_PERF_STALL_ACC.count a 0 (w.toNat % 65536)
  else s

/-- Writes one row of a region, its words in one write; words not written keep what they hold (R78). -/
def State.writeRow (s : State) (a accLine : Nat) (row : Nat) (ws : List (Nat × BitVec 32)) : State :=
  let keys := ws.map fun w => sramKey a (accBase + regionWord accLine row w.1)
  let s := ws.foldl (fun s w => s.setBytes (sramKey a (accBase + regionWord accLine row w.1)) (leBytes 4 w.2.toNat)) s
  s.settleWords fun k => keys.any fun w => w ≤ k && k < w + 4

/-- The spans of a region's words. -/
def regionSpans (accLine rows cols : Nat) : List (Nat × Nat) :=
  (List.range rows).map fun i => (accBase + regionWord accLine i 0, 4 * cols)

/-- Adds or writes a list of cells into a region row by row; answers the record and whether a poisoned word was met. The old words
that are added in may meet errors of their own (R78). -/
def State.writeRegion (s : State) (a accLine rows : Nat) (add : Bool) (cells : List Cell) : State × Record × Bool :=
  let s := if add then s.sramMeet a (cells.map fun c => (accBase + regionWord accLine c.row c.col, 4)) else s
  (List.range rows).foldl (fun (acc : State × Record × Bool) i =>
    let (s, r, bad) := acc
    let mine := cells.filter fun c => c.row == i
    let res := mine.map fun c => (c, s.wordResult a accLine add c)
    let s := s.writeRow a accLine i (res.filterMap fun x => x.2.1.map fun v => (x.1.col, v))
    (s, res.foldl (fun r x => r.element x.2.2) r, bad || res.any fun x => x.2.1.isNone)) (s, {}, false)

/-- A to_vec tile gives up the credit it took at its issue (R166). -/
def State.dropCredit (s : State) (a : Nat) (j : Job) : State :=
  if !j.toVec then s else
  s.mapArray a fun x => { x with fwdCredits := x.fwdCredits - b2n (!j.backward), bwdCredits := x.bwdCredits - b2n j.backward }

/-- A finished tile enters the tile queue, where its entry stands for its credit (R147, R166). -/
def State.appendTq (s : State) (a : Nat) (j : Job) (exc : Exc) : State :=
  (s.dropCredit a j).mapArray a fun x =>
    { x with tq := x.tq ++ [{ backward := j.backward, tileId := j.tileId, accLine := j.accLine, rows := j.rows, cols := j.cols, exc := exc }] }

def Job.flags (j : Job) : Nat := b2n j.toVec + 2 * b2n j.backward

/-- Ends a job: its events are recorded, its trailer is formed, a failure puts the sequencer into ERROR, and the holds of FENCE and SIGNAL
look again (R86, R106, R108). One that ended with SRAM_UE counts as completed, as it wrote its trailer (DESIGN CHOICE, log 54). -/
def State.finishJob (s : State) (a : Nat) (j : Job) (r : Record) (status cycles : Nat) : State :=
  let r := j.record.join r
  let s := (s.record a r).noteTrailerExc r.bits
  let s := s.bump ARR_PERF_TILES.count a 0 1
  let s := s.mapArray a fun x => { x with jobs := x.jobs.drop 1 }
  let s := if j.kind = .stopped then s.dropCredit a j else s
  let s := s.pushTrailer a j.offset j.sparse (trailerBytes j.tileId.toNat status r.bits j.flags (cycles + j.stalled) j.products)
  let s := if status = 0 ∨ status = j.status then s else s.seqFail a status j.tileId.toNat j.offset
  s.pollHolds a

/-- The record of cells that are formed and not written: the events of a tile that a poisoned operand stopped are recorded though no
element of it is written (DESIGN CHOICE, log 54). -/
def cellsRecord (cells : List Cell) : Record := cells.foldl (fun r c => r.element c.exc) {}

/-- The oldest dense tile writes back (R85), or, stopped by a poisoned operand, ends without a write-back (R86). A full
tile queue holds a to_vec tile back when interleave is disabled. -/
def State.tileWriteback (s : State) (a : Nat) : State :=
  match (s.array a).jobs with
  | [] => s
  | j :: _ =>
    match j.kind with
    | .stopped => if j.sparse then s else s.finishJob a j (cellsRecord j.sums) j.status j.cycles
    | .dense =>
      if j.toVec ∧ !(s.flag FBI_CFG.enable a) ∧ (s.array a).tq.length ≥ 8 then s else
      let (W, s) := (s.accContention a).writebackCycles j.rows
      let (s, r, bad) := s.writeRegion a j.accLine j.rows j.accumulates j.sums
      let s := if j.toVec then s.appendTq a j (j.record.join r).bits else s
      s.finishJob a j r (if bad then 6 else 0) (j.cycles + W)
    | .reduce | .sparse => s

/-- The oldest trailer is written into the trailer window once 16 bytes are free and its bank serves, and the head moves by 16 (R86, R99,
R103). The write is exempt from bank ownership (R95). Through a disabled window it ends as BAD_RANGE (R97). -/
def State.trailerWrite (s : State) (a : Nat) : State :=
  match (s.array a).trailers with
  | [] => s
  | t :: rest =>
    let w := s.fld ARR_SEQ_CFG.trailer_window a
    let gone := fun (s : State) => s.mapArray a fun x => { x with trailers := rest }
    if !(s.winOn a w) then ((gone s).seqFail a 4 (num t.bytes 0 4) t.offset).pollHolds a else
    let off := s.winOffset a w (s.fld ARR_WIN_HEAD.pos a w) 0
    if s.winFree a w < 16 ∨ s.stalls a [(off, 16)] then s else
    (gone ((s.sramWrite a off t.final).winMove a w false 16)).pollHolds a

/-! ### REDUCE (R87) -/

def State.reduceChecks (s : State) (a : Nat) (c : ReduceCmd) : List (Nat × Bool) :=
  [(3, c.slots == 0 || c.slots > 16 || c.mRows == 0 || c.mRows > 32 || c.nCols == 0 || c.nCols > 32 || c.mustBeZero),
   (4, c.slotAddr % 128 != 0 || beyond 0x50000 c.spans || c.accLine * 128 + c.mRows * 128 > 0x10000),
   (5, s.refuses a ownSeq c.spans)]

/-- The word of a region after every slot in ascending order; none when a poisoned word was met (R78, R87). -/
def State.reduceWord (s : State) (a : Nat) (c : ReduceCmd) (i j : Nat) : Option (BitVec 32) × Exc :=
  let off := regionWord c.accLine i j
  if s.isPoisoned (accUnit a off) then (none, Exc.none) else
  let old := a32 (s.accWord a off).toNat
  let start : Option Num × Exc := (some old, consumed [old])
  let r := c.spans.foldl (fun (acc : Option Num × Exc) sp =>
    match acc.1 with
    | none => acc
    | some v =>
      let o := sp.1 + i * 128 + 4 * j
      if s.sramPoison a o 4 then (none, acc.2)
      else
        let w := a32 (leNat (s.sram a o 4))
        let q := accumulateRec v w
        (some q.1, acc.2 ||| q.2)) start
  (r.1.map Num.bits32, r.2)

/-- REDUCE at a stream's head: checked, rejected, or, with no earlier write-back outstanding, carried out with its trailer.
The cycles beyond the slots' own are not stated (log 8). A slot's poisoned word leaves the region's word poisoned. A REDUCE has no
backward bit of its own: flag bit 1 of its trailer is the class of its stream (DESIGN CHOICE, log 39). -/
def State.reduceIssue (s : State) (a : Nat) (backward : Bool) : State :=
  match s.head a backward 3 with
  | none => s
  | some f =>
    let c := ReduceCmd.parse f.bytes
    match firstFailure (s.reduceChecks a c) with
    | some code =>
      let s := s.noteRefusal a ownSeq c.spans code
      ((s.pushTrailer a f.offset false (trailerBytes c.tileId code Exc.none (2 * b2n backward) 0 0)).seqReject a backward code c.tileId f.offset).syncSeq a
    | none =>
      if s.holdsBack a ownSeq c.spans ∨ !(s.turnAllows a backward) ∨ !(s.matrixFree a c.accLine c.mRows true false backward) then s else
      let s := s.sramMeet a ((c.spans.flatMap fun sp => (List.range c.mRows).map fun i => (sp.1 + i * 128, 4 * c.nCols)) ++
        regionSpans c.accLine c.mRows c.nCols)
      let s := s.issue a backward
      let s := s.setFld ARR_STATUS.cur_tile a 0 c.tileId
      let s := (s.takeTurn a backward backward).accContention a
      let s0 := s
      let (s, r, bad) := (List.range c.mRows).foldl (fun (acc : State × Record × Bool) i =>
        let (s, r, bad) := acc
        let res := (List.range c.nCols).map fun j => (j, s0.reduceWord a c i j)
        let s := s.writeRow a c.accLine i (res.filterMap fun x => x.2.1.map fun v => (x.1, v))
        let s := (res.filter fun x => x.2.1.isNone).foldl (fun s x => s.setPoison (accUnit a (regionWord c.accLine i x.1))) s
        (s, res.foldl (fun r x => r.element x.2.2) r, bad || res.any fun x => x.2.1.isNone)) (s, {}, false)
      let s := (s.record a r).noteTrailerExc r.bits
      let s := s.bump ARR_PERF_TILES.count a 0 1
      let (fv, s) := s.fresh
      let cycles := c.slots * c.mRows * 2 + fv.toNat % 65536
      let status := if bad then 6 else 0
      let s := s.pushTrailer a f.offset false (trailerBytes c.tileId status r.bits (2 * b2n backward) cycles 0)
      let s := if bad then s.seqFail a 6 c.tileId f.offset else s
      s.pollHolds a

end Sys2Proof.Machine
end

