-- ==== Sys2Proof/Machine/VecMath.lean ====
section
/-! DEFINITION. The A32 operations of the vector engine (R69, R142, R154): correctly rounded arithmetic, the three functions
accurate to less than one unit in the last place, and the function tables. -/

namespace Sys2Proof.Machine

/-- An exact result rounded once to A32, with the events of both steps. -/
def rounded (p : Num × Exc) : Num × Exc :=
  let r := round32 p.1
  (r.1, p.2 ||| r.2)

def addA (a b : Num) : Num × Exc := rounded (a.add b)
def subA (a b : Num) : Num × Exc := rounded (a.add b.neg)
def mulA (a b : Num) : Num × Exc := rounded (a.mul b)

/-- a × b + c with one rounding. -/
def fmaA (a b c : Num) : Num × Exc :=
  let p := a.mul b
  let q := p.1.add c
  rounded (q.1, p.2 ||| q.2)

def maxA32 (neg : Bool) : Num := a32 (Lin.a32.maxFinite neg)

/-- The quotient of non-zero magnitudes with a sticky bit below, enough for any rounding to A32. -/
def quotient (s : Bool) (ma : Nat) (ea : Int) (mb : Nat) (eb : Int) : Num :=
  let n := ma <<< (64 + Nat.log2 mb)
  .fin s (2 * (n / mb) + (if n % mb = 0 then 0 else 1)) (ea - eb - 65 - Nat.log2 mb)

/-- Division, correctly rounded (R69, R142). -/
def divA (a b : Num) : Num × Exc :=
  match a, b with
  | .nan, _ => (.nan, Exc.none)
  | _, .nan => (.nan, Exc.none)
  | .inf _, .inf _ => (.nan, Exc.invalid)
  | .inf s, .fin u m _ => (.inf (s != (u && m != 0)), Exc.none)
  | .fin _ _ _, .inf _ => (.zero, Exc.none)
  | .fin s ma ea, .fin u mb eb =>
    if ma = 0 ∧ mb = 0 then (.nan, Exc.invalid)
    else if mb = 0 then (maxA32 s, Exc.overflow)
    else if ma = 0 then (.zero, Exc.none)
    else round32 (quotient (s != u) ma ea mb eb)

def recipA (a : Num) : Num × Exc :=
  match a with
  | .fin _ 0 _ => (maxA32 false, Exc.overflow)
  | _ => divA .one a

/-- The floor of a square root, one bit at a time from bit `k - 1` down. -/
def isqrtFrom (n : Nat) : Nat → Nat → Nat
  | 0, r => r
  | k + 1, r => let t := r + 2 ^ k; isqrtFrom n k (if t * t ≤ n then t else r)

def isqrt (n : Nat) : Nat := isqrtFrom n (Nat.log2 n / 2 + 1) 0

/-- A magnitude with an even exponent. -/
def evenExp (m : Nat) (e : Int) : Nat × Int := if e % 2 = 0 then (m, e) else (2 * m, e - 1)

/-- Square root, correctly rounded. -/
def sqrtA (a : Num) : Num × Exc :=
  match a with
  | .nan => (.nan, Exc.none)
  | .inf s => if s then (.nan, Exc.invalid) else (.inf false, Exc.none)
  | .fin s m e =>
    if m = 0 then (.zero, Exc.none) else if s then (.nan, Exc.invalid) else
    let (m, e) := evenExp m e
    let n := m <<< 64
    let r := isqrt n
    round32 (.fin false (2 * r + (if r * r = n then 0 else 1)) (e / 2 - 33))

/-- A positive value given by its floor to many bits: the exact value where it is one, else one of the two A32 neighbours,
which of them Config decides by operation and input (R142; log 9). -/
def neighbour (op : Nat) (input : Num) (neg : Bool) (m : Nat) (e : Int) (exact : Bool) : Num × Exc :=
  let d := Nat.log2 m - 23
  let q := m >>> d
  if exact ∧ m % 2 ^ d = 0 then round32 (.fin neg q (e + d))
  else
    let up := Config.upperNeighbour op (BitVec.ofNat 32 (Lin.a32.encode input).1)
    round32 (.fin neg (if up then q + 1 else q) (e + d))

/-- Reciprocal square root. -/
def rsqrtA (a : Num) : Num × Exc :=
  match a with
  | .nan => (.nan, Exc.none)
  | .inf s => if s then (.nan, Exc.invalid) else (.zero, Exc.none)
  | .fin s m e =>
    if m = 0 then (maxA32 false, Exc.overflow) else if s then (.nan, Exc.invalid) else
    let (m, e) := evenExp m e
    let n := 2 ^ 128
    let r := isqrt (n / m)
    neighbour 0 a false r (-64 - e / 2) (r * r * m = n)

/-! Fixed-point numbers with 320 fraction bits. -/

def fixBits : Nat := 320

/-- ln 2, rounded down to 320 fraction bits. -/
def ln2Fix : Nat :=
  0xB17217F7D1CF79ABC9E3B39803F2F6AF40F343267298B62D8A0D175B8BAAFA2BE7B876206DEBAC98

/-- Terms r^i / i! of the exponential series from term i on, at most `fuel` of them. -/
def expSeries (r : Nat) : Nat → Nat → Nat → Nat
  | 0, _, _ => 0
  | fuel + 1, i, t => t + expSeries r fuel (i + 1) (t * r / 2 ^ fixBits / (i + 1))

/-- e^x. -/
def expA (a : Num) : Num × Exc :=
  match a with
  | .nan => (.nan, Exc.none)
  | .inf s => (if s then .zero else .inf false, Exc.none)
  | .fin s m e =>
    if m = 0 then (.one, Exc.none)
    else if (Nat.log2 m : Int) + e ≥ 8 then (if s then (.zero, Exc.underflow) else (maxA32 false, Exc.overflow))
    else
      let mag : Nat := if e ≥ 0 then m <<< (fixBits + e.toNat) else (m <<< fixBits) >>> (-e).toNat
      let x : Int := if s then -(mag : Int) else mag
      let k : Int := x / (ln2Fix : Int)
      let r : Nat := (x - k * ln2Fix).toNat
      let y := expSeries r 100 0 (2 ^ fixBits)
      let res := neighbour 1 a false y (k - fixBits) false
      -- a result above the largest finite value lies above its lower neighbour too (R69)
      if (Nat.log2 y : Int) + k - fixBits > 127 ∨ (Nat.log2 y : Int) + k - fixBits = 127 ∧ y >>> (Nat.log2 y - 23) = 2 ^ 24 - 1
      then (maxA32 false, Exc.overflow) else res

/-- Terms z^(2i+1) / (2i+1) of the inverse hyperbolic tangent from term i on. -/
def atanhSeries (z2 : Nat) : Nat → Nat → Nat → Nat
  | 0, _, _ => 0
  | fuel + 1, i, t => t / (2 * i + 1) + atanhSeries z2 fuel (i + 1) (t * z2 / 2 ^ fixBits)

/-- The natural logarithm. -/
def logA (a : Num) : Num × Exc :=
  match a with
  | .nan => (.nan, Exc.none)
  | .inf s => if s then (.nan, Exc.invalid) else (.inf false, Exc.none)
  | .fin s m e =>
    if m = 0 then (maxA32 true, Exc.overflow) else if s then (.nan, Exc.invalid) else
    let l := Nat.log2 m
    let k : Int := (l : Int) + e
    let z := ((m - 2 ^ l) <<< fixBits) / (m + 2 ^ l)
    let v : Int := k * ln2Fix + 2 * (atanhSeries (z * z / 2 ^ fixBits) 110 0 z : Nat)
    if k = 0 ∧ m = 2 ^ l then (.zero, Exc.none) else neighbour 2 a (v < 0) v.natAbs (-(fixBits : Int)) false

/-! ### Function tables (R153, R154) -/

/-- A table's header. -/
structure TabHead where
  version : Nat
  emin : Int
  nOct : Nat
  g : Nat
  sym : Nat
  clean : Bool
  deriving DecidableEq, Repr

def tabNum (t : List Byte) (off : Nat) : Num := a32 (leNat ((t.drop off).take 4))

def TabHead.parse (t : List Byte) : TabHead :=
  let b := fun n => (t.getD n 0).toNat
  { version := b 0, emin := if b 1 ≥ 128 then (b 1 : Int) - 256 else b 1, nOct := b 2, g := b 3 % 4, sym := b 3 / 4 % 4
    clean := b 3 / 16 == 0 && leNat ((t.drop 28).take 4) == 0 }

def TabHead.ok (h : TabHead) : Bool :=
  h.version == 1 && h.emin ≥ -126 && h.emin ≤ 127 && h.nOct ≥ 1 && h.nOct ≤ 16 && h.emin + h.nOct ≤ 128 && h.sym ≤ 2 && h.clean

/-- The bytes a table occupies. -/
def TabHead.size (h : TabHead) : Nat := 32 + 12 * h.nOct * 2 ^ h.g * (if h.sym = 0 then 2 else 1)

/-- a × b + c of a table's terms: the records of the operation and of the coefficients it consumes (R69, R468). -/
def tabStep (a b c : Num) (coeffs : List Num) : Num × Exc :=
  let r := fmaA a b c
  (r.1, r.2 ||| consumed coeffs)

/-- slope × x + intercept, where a zero slope makes the product zero even at an infinity. -/
def lineA (slope x c : Num) : Num × Exc := if x.isInf ∧ slope.isZero then (c, consumed [c]) else tabStep slope x c [slope, c]

def negR (p : Num × Exc) : Num × Exc := (p.1.neg, p.2)

/-- The magnitude of a value. -/
def Num.abs : Num → Num
  | .fin _ m e => .fin false m e
  | .inf _ => .inf false
  | .nan => .nan

/-- The tail branches of R154, for a at or above the last octave or infinite. -/
def tabTail (t : List Byte) (h : TabHead) (x : Num) : Num × Exc :=
  if !x.isNeg then lineA (tabNum t 12) x (tabNum t 16)
  else if h.sym = 0 then lineA (tabNum t 20) x (tabNum t 24)
  else
    let v := lineA (tabNum t 12) x.abs (tabNum t 16)
    if h.sym = 1 then negR v else v

/-- A table evaluated at an input (R154). -/
def tabEval (t : List Byte) (x : Num) : Num × Exc :=
  let h := TabHead.parse t
  match x with
  | .nan => (.nan, Exc.none)
  | .inf _ => tabTail t h x
  | .fin s m e =>
    if m = 0 then (tabNum t 4, consumed [tabNum t 4]) else
    let lg : Int := (Nat.log2 m : Int) + e
    if lg < h.emin then lineA (tabNum t 8) x (tabNum t 4)
    else if lg ≥ h.emin + h.nOct then tabTail t h x
    else
      let l := Nat.log2 m
      -- the top g fraction bits of the significand
      let j := ((m * 2 ^ h.g) >>> l) % 2 ^ h.g
      let xs : Num := .fin false (2 ^ h.g + j) (lg - h.g)
      let u := ((Num.fin false m e).add xs.neg).1
      let sigma := (lg - h.emin).toNat * 2 ^ h.g + j
      let half := h.nOct * 2 ^ h.g
      let idx := if s ∧ h.sym = 0 then half + sigma else sigma
      let c := fun i => tabNum t (32 + 12 * idx + 4 * i)
      let p := tabStep u (c 2) (c 1) [c 2, c 1]
      let q := tabStep u p.1 (c 0) [c 0]
      let v := (q.1, p.2 ||| q.2)
      if s ∧ h.sym = 1 then negR v else v

end Sys2Proof.Machine
end

