-- ==== Sys2Proof/Machine/VecOps.lean ====
section
/-! DEFINITION. The vector engine (chapter 05): VEC commands and stream descriptors, their checks, element access in every format
and space, the operations of R141 in their evaluation order, and what a poisoned read does (R134 to R156, R168 to R171,
R469 to R471). -/

namespace Sys2Proof.Machine

/-! ### Commands and descriptors (R135, R136) -/

structure VecCmd where
  vop : Nat
  lenInd : Bool
  tq : Bool
  masked : Bool
  backward : Bool
  flagsEn : Bool
  save : Bool
  tqCols : Bool
  nsrc : Nat
  vecLen : Nat
  descAddr : Nat
  rowlen : Nat
  param : Nat
  imm : Nat
  tabAddr : Nat
  flagAddr : Nat
  reserved : Bool
  deriving DecidableEq, Repr

def VecCmd.parse (bs : List Byte) : VecCmd :=
  let b2 := byteAt bs 2
  let f := fun n => b2 / 2 ^ n % 2 == 1
  { vop := byteAt bs 1, lenInd := f 0, tq := f 1, masked := f 2, backward := f 3, flagsEn := f 4, save := f 5, tqCols := f 6
    nsrc := byteAt bs 3, vecLen := num bs 4 4, descAddr := num bs 8 3, rowlen := num bs 12 2, param := num bs 14 2
    imm := num bs 16 4, tabAddr := num bs 20 3, flagAddr := num bs 24 3
    reserved := f 7 || byteAt bs 11 != 0 || byteAt bs 23 != 0 || !(zeros bs 27 5) || num bs 8 3 ≥ 2 ^ 19 ||
      num bs 20 3 ≥ 2 ^ 19 || num bs 24 3 ≥ 2 ^ 19 }

/-- The operations by code: sources, passes, whether pacing admits them (R141). -/
def vopRow : Nat → Option (Nat × Nat × Bool)
  | 0x00 => some (1, 1, true) | 0x01 => some (2, 1, true) | 0x02 => some (2, 1, true) | 0x03 => some (2, 1, true)
  | 0x04 => some (3, 1, true) | 0x05 => some (2, 1, true) | 0x06 => some (2, 1, true) | 0x07 => some (1, 1, true)
  | 0x08 => some (2, 1, true) | 0x09 => some (1, 1, true) | 0x0A => some (1, 1, true) | 0x0B => some (1, 1, true)
  | 0x0C => some (1, 1, true) | 0x0D => some (1, 1, true) | 0x10 => some (1, 1, true) | 0x11 => some (2, 1, true)
  | 0x18 => some (1, 1, true) | 0x19 => some (1, 1, true) | 0x1A => some (1, 1, true) | 0x1B => some (1, 1, true)
  | 0x1C => some (1, 1, true) | 0x1D => some (1, 1, true) | 0x1E => some (1, 2, false) | 0x20 => some (1, 3, false)
  | 0x21 => some (2, 4, false) | 0x22 => some (2, 2, false) | 0x28 => some (1, 1, false) | 0x30 => some (1, 1, false)
  | 0x31 => some (1, 1, false)
  | _ => none

def vRlse : Nat := 0x1E
def vSoftmax : Nat := 0x20
def vSmaxBwd : Nat := 0x21
def vNorm : Nat := 0x22
def vTopk : Nat := 0x28
def vPassform : Nat := 0x30
def vPack : Nat := 0x31

/-- Row operations with one result per row. -/
def isReduce (vop : Nat) : Bool := 0x18 ≤ vop && vop ≤ 0x1E
/-- Row operations with a result per element. -/
def isRowFull (vop : Nat) : Bool := vop == vSoftmax || vop == vSmaxBwd || vop == vNorm
def isElementwise (vop : Nat) : Bool := vop ≤ 0x11 || vop == vPassform

inductive Space where
  | scp | acc | win
  deriving DecidableEq, Repr

/-- A stream descriptor (R136). -/
structure Desc where
  addr : Nat
  fmt : Nat
  space : Nat
  scale : Nat
  e8 : Nat
  stride : Nat
  pitch : Nat
  dyn : Bool
  writesRec : Bool
  writesPhase : Bool
  recAddr : Nat
  phaseAddr : Nat
  phasePitch : Nat
  reserved : Bool
  zero : Bool
  deriving DecidableEq, Repr

def Desc.parse (bs : List Byte) : Desc :=
  let b3 := byteAt bs 3
  let b12 := byteAt bs 12
  { addr := num bs 0 3, fmt := b3 % 8, space := b3 / 8 % 4, scale := num bs 4 3, e8 := byteAt bs 7, stride := num bs 8 2
    pitch := num bs 10 2, dyn := b12 % 2 == 1, writesRec := b12 / 2 % 2 == 1, writesPhase := b12 / 4 % 2 == 1, recAddr := num bs 13 3
    phaseAddr := num bs 16 3, phasePitch := num bs 19 2
    reserved := b3 / 32 != 0 || b12 / 8 != 0 || !(zeros bs 21 11) || num bs 0 3 ≥ 2 ^ 19 || num bs 4 3 ≥ 2 ^ 19 ||
      num bs 13 3 ≥ 2 ^ 19 || num bs 16 3 ≥ 2 ^ 19
    zero := bs.all (· == 0) }

/-- Bits of an element (R137). -/
def fmtBits : Nat → Nat
  | 0 => 4
  | 1 | 2 => 8
  | 3 | 4 => 16
  | 5 | 6 => 32
  | _ => 1

def isLog (fmt : Nat) : Bool := fmt ≤ 2

def logOf (fmt : Nat) : LogFmt := if fmt = 0 then .l4 else if fmt = 1 then .l8 else .g8

def Desc.isWin (d : Desc) : Bool := d.space == 2

/-- A stream in execution: its descriptor, its shape, its window position, and for a tile-queue source the tile's region
as it stood when the command began (R148). -/
structure Stream where
  d : Desc
  rows : Nat
  len : Nat
  pos : Nat := 0
  tile : Option (List (List (BitVec 32 × Bool))) := none
  deriving DecidableEq, Repr

def ceil32 (n : Nat) : Nat := ceilDiv n 32 * 32

/-- Elements a row of a stream occupies in a window (R137). -/
def Stream.winRow (v : Stream) : Nat := if isLog v.d.fmt then ceil32 v.len else v.len

/-- The place of an element in its stream, in bits from the stream's first byte (R137). -/
def Stream.bitOff (v : Stream) (r n : Nat) : Nat :=
  if v.d.isWin then (r * v.winRow + n) * fmtBits v.d.fmt else (r * v.d.pitch + n * v.d.stride) * fmtBits v.d.fmt

/-- Bytes of a window stream. -/
def Stream.winBytes (v : Stream) : Nat := ceilDiv (v.rows * v.winRow * fmtBits v.d.fmt) 8

/-- The memory key of byte x of a stream. -/
def State.streamKey (s : State) (a : Nat) (v : Stream) (x : Nat) : Nat :=
  if v.d.space = 0 then sramKey a (v.d.addr + x)
  else if v.d.space = 1 then sramKey a (accBase + v.d.addr + x)
  else sramKey a (s.winOffset a (v.d.addr % 8) v.pos x)

/-- The scratchpad offset of an element's block scale (R137). -/
def Stream.scaleOff (v : Stream) (r n : Nat) : Nat :=
  if v.d.isWin then v.d.scale + r * ceilDiv v.len 32 + n / 32
  else v.d.scale + r * (v.d.pitch / 32) + n / 32

/-- The memory keys an element's read touches, its scale among them. -/
def State.elemKeys (s : State) (a : Nat) (v : Stream) (r n : Nat) : List Nat :=
  match v.tile with
  | some _ => []
  | none =>
    let b := v.bitOff r n
    ((List.range (max 1 (fmtBits v.d.fmt / 8))).map fun x => s.streamKey a v (b / 8 + x)) ++
      (if isLog v.d.fmt then [sramKey a (v.scaleOff r n)] else [])

/-- Whether reading an element meets a poisoned word. -/
def State.elemPoison (s : State) (a : Nat) (v : Stream) (r n : Nat) : Bool :=
  match v.tile with
  | some t => ((t.getD r []).getD n (0, false)).2
  | none => (s.elemKeys a v r n).any fun k => s.isPoisoned (k / 8 * 8)

/-- The raw bits of an element. -/
def State.elemRaw (s : State) (a : Nat) (v : Stream) (r n : Nat) : Nat :=
  match v.tile with
  | some t => ((t.getD r []).getD n (0, false)).1.toNat
  | none =>
    let b := v.bitOff r n
    let w := fmtBits v.d.fmt
    if w < 8 then (s.byte (s.streamKey a v (b / 8))).toNat / 2 ^ (b % 8) % 2 ^ w
    else leNat ((List.range (w / 8)).map fun x => s.byte (s.streamKey a v (b / 8 + x)))

def State.elemScale (s : State) (a : Nat) (v : Stream) (r n : Nat) : Nat := (s.byte (sramKey a (v.scaleOff r n))).toNat

/-- An element's value, log codes with an unlimited exponent (R56, R470). -/
def State.elemExact (s : State) (a : Nat) (v : Stream) (r n : Nat) : Num × Exc :=
  let raw := s.elemRaw a v r n
  match v.d.fmt with
  | 3 => (Lin.w16.decode raw, Exc.none)
  | 4 => (Lin.m16.decode raw, Exc.none)
  | 5 => (a32 raw, Exc.none)
  | 6 => ((round32 (.fin false raw 0)).1, Exc.none)
  | 7 => (if raw = 1 then .one else .zero, Exc.none)
  | f => ((logOf f).num raw (s.elemScale a v r n), Exc.none)

/-- An element as an A32 operand; a log value outside the A32 range is brought in with its events (R467). -/
def State.elem (s : State) (a : Nat) (v : Stream) (r n : Nat) : Num × Exc :=
  let x := s.elemExact a v r n
  if isLog v.d.fmt then round32 x.1 else x

/-! ### Writing -/

/-- A value on its way to a destination: its number, its events, whether it is an identity of R75 (whose conversion
records nothing), and for U32 destinations an index written directly. -/
structure Val where
  x : Num
  exc : Exc := Exc.none
  ident : Bool := false
  index : Option Nat := none
  deriving DecidableEq, Repr

/-- Integer conversion of R470. -/
def toU32 (x : Num) : Nat × Exc :=
  match x with
  | .nan => (0, Exc.none)
  | .inf s => (if s then 0 else 0xFFFFFFFF, Exc.overflow)
  | .fin s m e =>
    let q := quantise shiftNearest m e 0
    if s then (0, if q = 0 then Exc.none else Exc.overflow)
    else if q > 0xFFFFFFFF then (0xFFFFFFFF, Exc.overflow) else (q, Exc.none)

/-- Bits of a value in a format without blocks, with the events of the conversion. R470 writes an index to U32 and names no other format;
to any other a RARGMAX or RARGMIN result converts as the number it is (DESIGN CHOICE, log 56). -/
def encodePlain (fmt : Nat) (v : Val) : Nat × Exc :=
  match fmt, v.index with
  | 6, some i => (i, Exc.none)
  | 3, _ => Lin.w16.encode v.x
  | 4, _ => Lin.m16.encode v.x
  | 5, _ => Lin.a32.encode v.x
  | 6, _ => toU32 v.x
  | _, _ => (if v.x.isNan || v.x.isZero then 0 else 1, Exc.none)

/-- What a VEC has done so far. -/
structure Run where
  s : State
  record : Record := {}
  /-- Values of the destination's unfinished log blocks, by destination. -/
  pend0 : List Val := []
  pend1 : List Val := []
  /-- Bytes of the group being processed: memory key and byte. -/
  out : List (Nat × Byte) := []
  /-- Memory keys the group touches. -/
  touched : List Nat := []
  /-- 64-bit words written in the command. -/
  written : List Nat := []
  /-- Elements the present pass has processed, and its number (R169, R170). -/
  done : Nat := 0
  pass : Nat := 1
  /-- Rows in which an unmasked NaN has been read (R143). -/
  nans : List Nat := []
  stopped : Bool := false
  /-- Bytes of the ctiles that PACK has written. -/
  packed : Nat := 0
  /-- Cycles processing groups, and those that s_v adds above 1 (R146). -/
  busy : Nat := 0
  slow : Nat := 0

/-- The value a byte of the group will have: the group's own earlier write, or memory. -/
def Run.peek (x : Run) (key : Nat) : Byte :=
  match x.out.reverse.lookup key with
  | some b => b
  | none => x.s.byte key

def Run.poke (x : Run) (keys : List Nat) (bs : List Byte) : Run :=
  { x with out := x.out ++ keys.zip bs, touched := x.touched ++ keys }

/-- The codes of a finished block written with its scale, and the record and phase planes of R158 and R159. -/
def Run.block (x : Run) (a : Nat) (v : Stream) (r n0 : Nat) (vals : List Val) : Run :=
  let f := logOf v.d.fmt
  let (e8, clamp) := if v.d.dyn then dynamicE8 f (vals.map (·.x)) else (v.d.e8, Exc.none)
  let codes := vals.map fun w =>
    let c := toLog f w.x e8
    (c.1, w.exc ||| (if w.ident then Exc.none else c.2))
  let padded := codes.map (·.1) ++ List.replicate (32 - codes.length) 0
  let nbytes := if v.d.fmt = 0 then 16 else 32
  let bytes := (List.range nbytes).map fun i =>
    if v.d.fmt = 0 then BitVec.ofNat 8 (padded.getD (2 * i) 0 + 16 * padded.getD (2 * i + 1) 0)
    else BitVec.ofNat 8 (padded.getD i 0)
  let base := v.bitOff r n0 / 8
  let x := x.poke ((List.range nbytes).map fun i => x.s.streamKey a v (base + i)) bytes
  let x := x.poke [sramKey a (v.scaleOff r n0)] [BitVec.ofNat 8 e8]
  let x := if v.d.writesRec then
      let nz := (padded.zipIdx.map fun c => if f.read c.1 e8 = .zero then 0 else 2 ^ c.2).sum
      let nf := (padded.zipIdx.map fun c => if (f.read c.1 e8).isNan || (f.read c.1 e8).isInf then 2 ^ c.2 else 0).sum
      x.poke ((List.range 8).map fun i => sramKey a (v.d.recAddr + 8 * r + i)) (leBytes 8 (nz + nf * 2 ^ 32))
    else x
  let x := if v.d.writesPhase then
      let H := if v.d.fmt = 0 then 4 else 2
      x.poke [sramKey a (v.d.phaseAddr + (r % H) * v.d.phasePitch + r / H)] [BitVec.ofNat 8 e8]
    else x
  { x with record := (codes.foldl (fun q c => q.element c.2) x.record).bitsOnly clamp }

/-- One value goes to element (r, n) of a destination (`second`: the second one); a log block is written with its last
element. -/
def Run.put (x : Run) (a : Nat) (v : Stream) (second : Bool) (r n : Nat) (w : Val) : Run :=
  if isLog v.d.fmt then
    let pend := (if second then x.pend1 else x.pend0) ++ [w]
    if n % 32 = 31 ∨ n + 1 = v.len then
      let x := if second then { x with pend1 := [] } else { x with pend0 := [] }
      x.block a v r (n / 32 * 32) pend
    else if second then { x with pend1 := pend } else { x with pend0 := pend }
  else
    let c := encodePlain v.d.fmt w
    let b := v.bitOff r n
    let width := fmtBits v.d.fmt
    let x := { x with record := x.record.element (w.exc ||| (if w.ident then Exc.none else c.2)) }
    if width < 8 then
      let k := x.s.streamKey a v (b / 8)
      let old := (x.peek k).toNat
      let bitv := 2 ^ (b % 8)
      x.poke [k] [BitVec.ofNat 8 (old - (old / bitv % 2) * bitv + c.1 % 2 * bitv)]
    else x.poke ((List.range (width / 8)).map fun i => x.s.streamKey a v (b / 8 + i)) (leBytes (width / 8) c.1)

/-- The bank step of a group (R146): distinct 64-byte lines in one scratchpad bank, or words over 4 in an accumulator bank. -/
def bankStep (a : Nat) (keys : List Nat) : Nat :=
  let offs := (keys.map fun k => k - sramKey a 0).eraseDups
  let scp := (List.range 10).map fun b => (((offs.filter fun o => o < 0x50000 && bankOf o == b).map (· / 64)).eraseDups).length
  let acc := (List.range 16).map fun b =>
    ceilDiv ((((offs.filter (· ≥ accBase)).map fun o => (o - accBase) / 4).eraseDups.filter fun w => w % 16 == b).length) 4
  (scp ++ acc).foldl max 1

/-- Ends a group that only reads. -/
def Run.groupRead (x : Run) (a : Nat) : Run :=
  let n := bankStep a x.touched
  { x with busy := x.busy + n, slow := x.slow + (n - 1), touched := [] }

/-- Ends a group: its writes take effect together, as one write (R78, R471). -/
def Run.flush (x : Run) (a : Nat) : Run :=
  let keys := x.out.map (·.1)
  let s := (x.out.foldl (fun s w => s.setByte w.1 w.2) x.s).settleWords keys.contains
  let units := (keys.map fun k => k / 8 * 8).eraseDups
  { x with s := s, out := [], touched := [], written := x.written ++ units.filter fun u => !(x.written.contains u)
           busy := x.busy + bankStep a x.touched, slow := x.slow + (bankStep a x.touched - 1) }

/-- Writes that belong to no group of the pass: those of a row with no elements. -/
def Run.flushAlone (x : Run) (a : Nat) : Run := { x.flush a with busy := x.busy, slow := x.slow }

/-- Reads meet the errors of the words under some bytes (R78). -/
def State.meetKeys (s : State) (keys : List Nat) : State :=
  (s.upsets.filter fun u => keys.any fun k => k / 8 * 8 == u.1).foldl State.meetWord s

/-! ### The command in execution -/

/-- A VEC with its streams resolved. -/
structure Vec where
  a : Nat
  c : VecCmd
  rows : Nat
  len : Nat
  dst : Stream
  dst2 : Stream
  srcs : List Stream
  mask : Option Stream
  table : List Byte
  pacing : Bool
  deriving DecidableEq, Repr

def Vec.src (v : Vec) (i : Nat) : Stream := v.srcs.getD i v.dst

/-- Whether an element takes part (R140). -/
def Vec.active (v : Vec) (s : State) (r n : Nat) : Bool :=
  match v.mask with
  | none => true
  | some m => s.elemRaw v.a m r n == 1

/-- The positions of the command in stream order. -/
def Vec.positions (v : Vec) : List (Nat × Nat) := (List.range v.rows).flatMap fun r => (List.range v.len).map fun n => (r, n)

/-- The memory keys and the poison of reading some sources and the mask at a position. -/
def Vec.readKeys (v : Vec) (s : State) (srcs : List Stream) (p : Nat × Nat) : List Nat :=
  (match v.mask with
   | none => []
   | some m => s.elemKeys v.a m p.1 p.2) ++ srcs.flatMap fun t => s.elemKeys v.a t p.1 p.2

def Vec.readPoison (v : Vec) (s : State) (srcs : List Stream) (p : Nat × Nat) : Bool :=
  (match v.mask with
   | none => false
   | some m => s.elemPoison v.a m p.1 p.2) ||
  (v.active s p.1 p.2 && srcs.any fun t => s.elemPoison v.a t p.1 p.2)

/-- Whether an unmasked NaN is read at a position. SMAX_BWD treats a −∞ of its saved input as masked (R141, R143). -/
def Vec.readsNan (v : Vec) (s : State) (srcs : List Stream) (p : Nat × Nat) : Bool :=
  v.active s p.1 p.2 && !(v.c.vop == vSmaxBwd && (s.elem v.a (v.src 1) p.1 p.2).1 == .inf true) &&
    srcs.any fun t => (s.elemExact v.a t p.1 p.2).1.isNan

/-- Reads of a group: the run stops at the first position whose read meets a poisoned word (R169). -/
def Vec.touch (v : Vec) (x : Run) (srcs : List Stream) (g : List (Nat × Nat)) : Run :=
  if x.stopped then x else
  let s := x.s.meetKeys (g.flatMap fun p => v.readKeys x.s (if v.active x.s p.1 p.2 then srcs else []) p)
  let x := { x with s := s }
  match g.findIdx? fun p => v.readPoison s srcs p with
  | some i => { x with stopped := true, done := x.done + i }
  | none =>
    { x with touched := x.touched ++ g.flatMap fun p => v.readKeys s srcs p
             nans := if v.c.flagsEn then x.nans ++ (g.filter (v.readsNan s srcs)).map (·.1) else x.nans }

/-- The result of one element of an elementwise operation (R141). -/
def elementOp (vop imm : Nat) (table : List Byte) (xs : List Num) : Num × Exc :=
  let x := xs.getD 0 .zero
  let y := xs.getD 1 .zero
  let z := xs.getD 2 .zero
  match vop with
  | 0x01 => addA x y
  | 0x02 => subA x y
  | 0x03 => mulA x y
  | 0x04 => fmaA x y z
  | 0x05 => if x.isNan || y.isNan then (.nan, Exc.none) else (if x.lt y then y else x, Exc.none)
  | 0x06 => if x.isNan || y.isNan then (.nan, Exc.none) else (if y.lt x then y else x, Exc.none)
  | 0x07 => mulA x (a32 imm)
  | 0x08 => divA x y
  | 0x09 => recipA x
  | 0x0A => sqrtA x
  | 0x0B => rsqrtA x
  | 0x0C => expA x
  | 0x0D => logA x
  | 0x10 => tabEval table x
  | 0x11 => let t := tabEval table y
            let m := mulA x t.1
            (m.1, t.2 ||| m.2)
  | _ => (x, Exc.none)

/-- The value a position gets in an elementwise operation: a masked element is +0 and records nothing (R140); a COPY between
log formats keeps the exponent unlimited (R467). -/
def Vec.elementAt (v : Vec) (s : State) (r n : Nat) : Val :=
  if !(v.active s r n) then { x := .zero } else
  if v.c.vop = 0 ∧ isLog (v.src 0).d.fmt ∧ isLog v.dst.d.fmt then
    let x := s.elemExact v.a (v.src 0) r n
    { x := x.1, exc := consumed [x.1] }
  else
    let xs := v.srcs.map fun t => s.elem v.a t r n
    let q := elementOp v.c.vop v.c.imm v.table (xs.map (·.1))
    { x := q.1, exc := xs.foldl (fun e x => e ||| x.2) q.2 ||| consumed (xs.map (·.1) ++ (if v.c.vop = 7 then [a32 v.c.imm] else [])) }

/-- Groups of a list of positions. -/
def groupsOf (n : Nat) (ps : List (Nat × Nat)) : List (List (Nat × Nat)) := chunksOf n (ps.length + 1) ps

/-- The row-flag byte (R143). -/
def Vec.flagRow (v : Vec) (x : Run) (r : Nat) (empty : Bool) : Run :=
  if v.c.flagsEn then x.poke [sramKey v.a (v.c.flagAddr + r)] [BitVec.ofNat 8 (b2n empty + 2 * b2n (x.nans.contains r))] else x

/-- The flag bytes of the rows that a group ends. -/
def Vec.flagEnds (v : Vec) (x : Run) (g : List (Nat × Nat)) : Run :=
  (g.filter fun p => p.2 + 1 == v.len).foldl (fun x p => v.flagRow x p.1 false) x

/-- The flag bytes of rows that hold no element, in an operation by elements (R143). -/
def Vec.flagBare (v : Vec) (x : Run) : Run :=
  if v.len = 0 then ((List.range v.rows).foldl (fun x r => v.flagRow x r false) x).flushAlone v.a else x

/-- What FTAB's save gives its second destination: the input as read; between log formats the exponent stays unlimited (R64, R467). -/
def Vec.saved (v : Vec) (s : State) (r n : Nat) : Val :=
  if !(v.active s r n) then { x := .zero }
  else if isLog (v.src 0).d.fmt ∧ isLog v.dst2.d.fmt then { x := (s.elemExact v.a (v.src 0) r n).1 }
  else { x := (s.elem v.a (v.src 0) r n).1, exc := (s.elem v.a (v.src 0) r n).2 }

/-- An elementwise operation: groups of consecutive stream elements, each read whole and then written (R139, R146, R471). -/
def Vec.runElementwise (v : Vec) (x : Run) : Run :=
  (groupsOf (if v.pacing then 32 else 64) v.positions).foldl (fun x g =>
    let x := v.touch x v.srcs g
    if x.stopped then x else
    let s := x.s
    let vals := g.map fun p => (p, v.elementAt s p.1 p.2)
    let x := vals.foldl (fun x q => x.put v.a v.dst false q.1.1 q.1.2 q.2) x
    let x := if v.c.save then g.foldl (fun x p => x.put v.a v.dst2 true p.1 p.2 (v.saved s p.1 p.2)) x else x
    { ((v.flagEnds x g).flush v.a) with done := x.done + g.length }) (v.flagBare x)

/-! ### Row operations (R75, R76, R142) -/

/-- The active elements of a source's row: index, value, events of taking it in. -/
def Vec.rowVals (v : Vec) (s : State) (t : Stream) (r : Nat) : List (Nat × Num × Exc) :=
  (List.range v.len).filterMap fun n => if v.active s r n then some (n, s.elem v.a t r n) else none

/-- Combines 64 lane partials by the fixed tree: neighbours in pairs, six levels (R142). -/
def treeCombine (op : Num → Num → Num × Exc) : Nat → List (Num × Exc) → Num × Exc
  | 0, l => l.headD (.zero, Exc.none)
  | k + 1, l =>
    treeCombine op k ((List.range (l.length / 2)).map fun m =>
      let x := l.getD (2 * m) (.zero, Exc.none)
      let y := l.getD (2 * m + 1) (.zero, Exc.none)
      let z := op x.1 y.1
      (z.1, x.2 ||| y.2 ||| z.2))

/-- A row's sum or product: lanes and tree natively, strictly ascending in pacing mode (R142, R151). -/
def combineRow (op : Num → Num → Num × Exc) (identity : Num) (pacing : Bool) (xs : List (Nat × Num)) : Num × Exc :=
  let step := fun (acc : Num × Exc) (x : Nat × Num) =>
    let z := op acc.1 x.2
    (z.1, acc.2 ||| z.2)
  if pacing then xs.foldl step (identity, Exc.none)
  else treeCombine op 6 ((List.range 64).map fun l => (xs.filter fun x => x.1 % 64 == l).foldl step (identity, Exc.none))

/-- The row maximum with its index (R76): a NaN is greatest, the lowest index among equals. -/
def rowMax (xs : List (Nat × Num)) : Option (Nat × Num) :=
  xs.foldl (fun acc x => match acc with
    | none => some x
    | some m => if m.2.isNan then some m else if x.2.isNan || m.2.lt x.2 then some x else some m) none

/-- The row minimum with its index (R76): NaNs are passed over unless every element is one. -/
def rowMin (xs : List (Nat × Num)) : Option (Nat × Num) :=
  match xs.filter fun x => !x.2.isNan with
  | [] => xs.head?
  | y :: ys => some (ys.foldl (fun m x => if x.2.lt m.2 then x else m) y)

/-- The Max identity; the most negative code in L4 (R75). -/
def negInf : Num := .inf true
def posInf : Num := .inf false

/-- The consumption and conversion events of a row's values. -/
def rowExc (xs : List (Nat × Num × Exc)) : Exc := xs.foldl (fun e x => e ||| x.2.2) (consumed (xs.map (·.2.1)))

/-- Σ e^(x − m) over a row's values, with the sum's own events. -/
def expSum (pacing : Bool) (m : Num) (xs : List (Nat × Num)) : Num × Exc :=
  let es := xs.map fun x =>
    let d := subA x.2 m
    let e := expA d.1
    (x.1, e.1, d.2 ||| e.2)
  let t := combineRow addA .zero pacing (es.map fun e => (e.1, e.2.1))
  (t.1, es.foldl (fun q e => q ||| e.2.2) t.2)

/-- One result of a reducing operation: its value and whether the row is EMPTY. RLSE takes the maximum `m` that its first pass found (none:
the row was fully masked) (R141, R471). However many log source elements of the row fall outside the A32 range, their events count once,
with the element written (R73, R467; DESIGN CHOICE, log 46). -/
def Vec.reduceRow (v : Vec) (m : Option Num) (xs : List (Nat × Num × Exc)) : Val × Bool :=
  let vals := xs.map fun x => (x.1, x.2.1)
  let e := rowExc xs
  let idx := fun (o : Option (Nat × Num)) => match o with
    | some m => m.1
    | none => 0xFFFFFFFF
  let ofIdx := fun i => { x := .fin false i 0, exc := e, ident := xs.isEmpty, index := some i : Val }
  match v.c.vop with
  | 0x18 => if xs.isEmpty then ({ x := .zero, ident := true }, true) else
      let r := combineRow addA .zero v.pacing vals
      ({ x := r.1, exc := e ||| r.2 }, false)
  | 0x19 => if xs.isEmpty then ({ x := .one, ident := true }, true) else
      let r := combineRow mulA .one v.pacing vals
      ({ x := r.1, exc := e ||| r.2 }, false)
  | 0x1A => match rowMax vals with
      | none => ({ x := negInf, ident := true }, true)
      | some m => ({ x := m.2, exc := e }, false)
  | 0x1B => match rowMin vals with
      | none => ({ x := posInf, ident := true }, true)
      | some m => ({ x := m.2, exc := e }, false)
  | 0x1C => (ofIdx (idx (rowMax vals)), xs.isEmpty)
  | 0x1D => (ofIdx (idx (rowMin vals)), xs.isEmpty)
  | _ =>
    -- RLSE: an unmasked −∞ is treated as masked (R141)
    let xs := xs.filter fun x => x.2.1 != negInf
    let vals := xs.map fun x => (x.1, x.2.1)
    match m with
    | none => ({ x := negInf, ident := true }, true)
    | some m =>
      if m = posInf then ({ x := posInf, exc := Exc.infIn ||| rowExc xs }, false)
      else
        let t := expSum false m vals
        let l := logA t.1
        let z := addA m l.1
        ({ x := z.1, exc := rowExc xs ||| t.2 ||| l.2 ||| z.2 }, false)

/-- Enters an EMPTY row into the record (R143). -/
def Run.emptyRow (x : Run) (empty : Bool) : Run :=
  if empty then { x with record := { (x.record.bitsOnly Exc.emptyRow) with emptyRows := x.record.emptyRows + 1 } } else x

/-- The groups of a row operation, by the rows that run together: a row alone in groups of 64, or in pacing mode up to 32 rows side by
side, one element of each to a group (R139, R151). -/
def Vec.batches (v : Vec) : List (List Nat × List (List (Nat × Nat))) :=
  if v.pacing then
    (chunksOf 32 (v.rows + 1) (List.range v.rows)).map fun rs => (rs, (List.range v.len).map fun n => rs.map fun r => (r, n))
  else (List.range v.rows).map fun r => ([r], groupsOf 64 ((List.range v.len).map fun n => (r, n)))

/-- Reads a batch's groups; the last group stays open for what is written behind it (R146). -/
def Vec.readBatch (v : Vec) (x : Run) (srcs : List Stream) (gs : List (List (Nat × Nat))) : Run :=
  gs.zipIdx.foldl (fun x g =>
    let x := v.touch x srcs g.1
    if x.stopped then x else
    let x := { x with done := x.done + g.1.length }
    if g.2 + 1 = gs.length then x else x.groupRead v.a) x

/-- Ends the writes behind a batch: with its last group, or alone when its rows hold no element. -/
def Vec.closeBatch (v : Vec) (x : Run) : Run := if v.len = 0 then x.flushAlone v.a else x.flush v.a

/-- A pass that only reads, before the next pass (R471). -/
def Vec.passOver (v : Vec) (x : Run) (srcs : List Stream) : Run :=
  let x := v.batches.foldl (fun x b =>
    let x := v.readBatch x srcs b.2
    if x.stopped ∨ v.len = 0 then x else x.groupRead v.a) x
  if x.stopped then x else { x with done := 0, pass := x.pass + 1 }

/-- The reducing operations: each batch of rows is read and its results are written behind it (R139, R141). -/
def Vec.runReduce (v : Vec) (x : Run) : Run :=
  let x := if v.c.vop = vRlse then v.passOver x [v.src 0] else x
  let maxima := (List.range v.rows).map fun r =>
    (rowMax (((v.rowVals x.s (v.src 0) r).filter fun y => y.2.1 != negInf).map fun y => (y.1, y.2.1))).map (·.2)
  v.batches.foldl (fun x b =>
    let x := v.readBatch x [v.src 0] b.2
    if x.stopped then x else
    let s := x.s
    v.closeBatch (b.1.foldl (fun x r =>
      let (w, empty) := v.reduceRow (maxima.getD r none) (v.rowVals s (v.src 0) r)
      v.flagRow ((x.emptyRow empty).put v.a v.dst false 0 r w) r empty) x)) x

/-- What the passes before the last find of a row: the statistics its elements need. -/
structure RowStat where
  m : Num := .zero
  total : Num := .zero
  dot : Num := .zero
  exc : Exc := Exc.none
  empty : Bool := true
  deriving DecidableEq, Repr

/-- Softmax of one value under a row's maximum and total. -/
def softmaxOf (st : RowStat) (x : Num) : Num × Exc :=
  let d := subA x st.m
  let e := expA d.1
  let q := divA e.1 st.total
  (q.1, d.2 ||| e.2 ||| q.2)

/-- The values of a row that take part in SOFTMAX or SMAX_BWD: −∞ in the (saved) input is treated as masked (R141). -/
def Vec.partakes (v : Vec) (s : State) (t : Stream) (r n : Nat) : Bool :=
  v.active s r n && (s.elem v.a t r n).1 != negInf

/-- The statistics of a row (R141, R142). -/
def Vec.rowStat (v : Vec) (s : State) (r : Nat) : RowStat :=
  if v.c.vop = vNorm then
    let xs := v.rowVals s (v.src 0) r
    if xs.isEmpty then {} else
    let sq := xs.map fun x => (x.1, mulA x.2.1 x.2.1)
    let t := combineRow addA .zero v.pacing (sq.map fun x => (x.1, x.2.1))
    let d := divA t.1 (.fin false xs.length 0)
    let p := addA d.1 (a32 v.c.imm)
    let q := rsqrtA p.1
    { m := q.1, exc := sq.foldl (fun e x => e ||| x.2.2) (t.2 ||| d.2 ||| p.2 ||| q.2 ||| consumed (a32 v.c.imm :: xs.map (·.2.1)))
      empty := false }
  else
    let t := if v.c.vop = vSmaxBwd then v.src 1 else v.src 0
    let xs := (v.rowVals s t r).filter fun x => x.2.1 != negInf
    match rowMax (xs.map fun x => (x.1, x.2.1)) with
    | none => {}
    | some m =>
      let es := xs.map fun x =>
        let d := subA x.2.1 m.2
        (x.1, (expA d.1).1)
      let total := combineRow addA .zero v.pacing es
      let st : RowStat := { m := m.2, total := total.1, exc := total.2, empty := false }
      if v.c.vop = vSmaxBwd then
        let ps := xs.map fun x =>
          let y := softmaxOf st x.2.1
          let p := mulA (s.elem v.a (v.src 0) r x.1).1 y.1
          (x.1, p.1, p.2)
        let dot := combineRow addA .zero v.pacing (ps.map fun p => (p.1, p.2.1))
        { st with dot := dot.1, exc := ps.foldl (fun e p => e ||| p.2.2) (st.exc ||| dot.2) }
      else st

/-- One element of SOFTMAX, SMAX_BWD or NORM in the last pass. The events of the row's statistics count for every element written from
them (R73; DESIGN CHOICE, log 46). -/
def Vec.rowElement (v : Vec) (s : State) (st : RowStat) (r n : Nat) : Val :=
  if st.empty then { x := .zero } else
  if v.c.vop = vSoftmax then
    if !(v.partakes s (v.src 0) r n) then { x := .zero } else
    let x := s.elem v.a (v.src 0) r n
    let q := softmaxOf st x.1
    { x := q.1, exc := x.2 ||| q.2 ||| st.exc ||| consumed [x.1] }
  else if v.c.vop = vSmaxBwd then
    if !(v.partakes s (v.src 1) r n) then { x := .zero } else
    let dy := s.elem v.a (v.src 0) r n
    let x := s.elem v.a (v.src 1) r n
    let y := softmaxOf st x.1
    let d := subA dy.1 st.dot
    let q := mulA y.1 d.1
    { x := q.1, exc := dy.2 ||| x.2 ||| y.2 ||| d.2 ||| q.2 ||| st.exc ||| consumed [dy.1, x.1] }
  else
    if !(v.active s r n) then { x := .zero } else
    let x := s.elem v.a (v.src 0) r n
    let w := s.elem v.a (v.src 1) r n
    let p := mulA x.1 st.m
    let q := mulA p.1 w.1
    { x := q.1, exc := x.2 ||| w.2 ||| p.2 ||| q.2 ||| st.exc ||| consumed [x.1, w.1] }

/-- SOFTMAX, SMAX_BWD and NORM: passes that read, then the pass that writes (R141, R471). -/
def Vec.runRowFull (v : Vec) (x : Run) : Run :=
  let x := if v.c.vop = vNorm then v.passOver x [v.src 0]
    else if v.c.vop = vSoftmax then v.passOver (v.passOver x [v.src 0]) [v.src 0]
    else v.passOver (v.passOver (v.passOver x [v.src 1]) [v.src 1]) v.srcs
  if x.stopped then x else
  let stats := (List.range v.rows).map fun r => v.rowStat x.s r
  v.batches.foldl (fun x b =>
    let st := stats.getD (b.1.headD 0) {}
    let ended := fun (x : Run) => (b.1.foldl (fun x r => v.flagRow x r st.empty) (x.emptyRow st.empty))
    if x.stopped then x
    else if v.len = 0 then (ended x).flushAlone v.a
    else b.2.foldl (fun x g =>
      let x := v.touch x v.srcs g
      if x.stopped then x else
      let s := x.s
      let x := g.foldl (fun x p => x.put v.a v.dst false p.1 p.2 (v.rowElement s st p.1 p.2)) x
      let x := if g.any fun p => p.2 + 1 == v.len then ended x else x
      { (x.flush v.a) with done := x.done + g.length }) x) x

/-- Whether one candidate of TOPK ranks above another (R144): a NaN above all, then the greater value; the order of equals
is the index, which a stable sort keeps. -/
def ranksAbove (x y : Nat × Num) : Bool :=
  if x.2.isNan then true else if y.2.isNan then false else !(x.2.lt y.2)

/-- TOPK (R144): a batch is one row, since pacing does not admit it. Each element written carries its own source's events; those of the
elements that are not among the k count with the first one (R73, R467; DESIGN CHOICE, log 46). -/
def Vec.runTopk (v : Vec) (x : Run) : Run :=
  let k := v.c.param
  v.batches.foldl (fun x b =>
    let x := v.readBatch x [v.src 0] b.2
    if x.stopped then x else
    let s := x.s
    v.closeBatch (b.1.foldl (fun x r =>
      let xs := v.rowVals s (v.src 0) r
      let best := ((xs.map fun y => (y.1, y.2.1)).mergeSort ranksAbove).take k
      let own := fun (n : Nat) => rowExc (xs.filter fun y => y.1 == n)
      let rest := rowExc (xs.filter fun y => !(best.any fun b => b.1 == y.1))
      let x := x.emptyRow xs.isEmpty
      let x := (List.range k).foldl (fun x i =>
        match best[i]? with
        | some b => (x.put v.a v.dst false r i { x := b.2, exc := own b.1 ||| (if i = 0 then rest else Exc.none) }).put v.a v.dst2 true r i
            { x := .fin false b.1 0, index := some b.1 }
        | none => (x.put v.a v.dst false r i { x := negInf, ident := true }).put v.a v.dst2 true r i
            { x := .zero, index := some 0xFFFFFFFF }) x
      v.flagRow x r xs.isEmpty) x)) x

/-! ### PASSFORM and PACK (R145, R469) -/

/-- The codes and scale of each term plane of a block (R59, R61). -/
def passTerms (vals : List Num) : Nat → List (Nat × List (Nat × Exc) × Exc)
  | 0 => []
  | p + 1 =>
    let (e8, clamp) := dynamicE8 .l8 vals
    let codes := vals.map fun x => toLog .l8 x e8
    let rest := (vals.zip codes).map fun xc =>
      match xc.1 with
      | .fin _ _ _ => (xc.1.add (LogFmt.l8.num xc.2.1 e8).neg).1
      | _ => .zero
    (e8, codes, clamp) :: passTerms rest p

/-- PASSFORM of a finished block whose first element is (r, n0): every plane's codes and scale. -/
def Vec.passBlock (v : Vec) (x : Run) (r n0 : Nat) (vals : List Val) : Run :=
  let codeSpan := if v.rows = 1 then ceil32 v.len else v.rows * v.dst.d.pitch
  (passTerms (vals.map (·.x)) v.c.param).zipIdx.foldl (fun x pl =>
    let (e8, codes, clamp) := pl.1
    let bytes := (codes.map fun c => BitVec.ofNat 8 c.1) ++ List.replicate (32 - codes.length) 0#8
    let base := v.dst.bitOff r n0 / 8 + pl.2 * codeSpan
    let x := x.poke ((List.range 32).map fun i => x.s.streamKey v.a v.dst (base + i)) bytes
    let x := x.poke [sramKey v.a (v.dst.scaleOff r n0 + pl.2 * (codeSpan / 32))] [BitVec.ofNat 8 e8]
    let src := if pl.2 = 0 then vals.map (·.exc) else vals.map fun _ => Exc.none
    { x with record := ((codes.zip src).foldl (fun q c => q.element (c.1.2 ||| c.2)) x.record).bitsOnly clamp }) x

def Vec.runPassform (v : Vec) (x : Run) : Run :=
  (groupsOf 64 v.positions).foldl (fun x g =>
    let x := v.touch x [v.src 0] g
    if x.stopped then x else
    let s := x.s
    let x := g.foldl (fun x p =>
      let w : Val := if v.active s p.1 p.2 then
          let e := s.elem v.a (v.src 0) p.1 p.2
          { x := e.1, exc := e.2 ||| consumed [e.1] }
        else { x := .zero }
      let pend := x.pend0 ++ [w]
      if p.2 % 32 = 31 ∨ p.2 + 1 = v.len then v.passBlock { x with pend0 := [] } p.1 (p.2 / 32 * 32) pend
      else { x with pend0 := pend }) x
    { ((v.flagEnds x g).flush v.a) with done := x.done + g.length }) (v.flagBare x)

/-- A list of codes packed as R45 and R117 lay down. -/
def packCodes (fmt : Nat) (cs : List Nat) : List Byte :=
  if fmt = 0 then (List.range (ceilDiv cs.length 2)).map fun i => BitVec.ofNat 8 (cs.getD (2 * i) 0 + 16 * cs.getD (2 * i + 1) 0)
  else cs.map (BitVec.ofNat 8)

/-- A ctile's stored bytes, padded to 32; none for an empty one (R116, R117, R119). -/
def encodeCtile (fmt : Nat) (codes e8s : List Nat) : Option (List Byte) :=
  let nz := codes.zipIdx.filter fun c => c.1 != 0
  let nnz := nz.length
  if nnz = 0 then none else
  let size := fun n => ceilDiv (n * halfBytes fmt) 2
  let dense := size 1024
  let bitmap := 128 + size nnz
  let index := 2 * nnz + size nnz
  let enc := if dense ≤ bitmap ∧ dense ≤ index then 0 else if bitmap ≤ index then 1 else 2
  let payload := if enc = 0 then packCodes fmt codes
    else if enc = 1 then
      ((List.range 128).map fun b => BitVec.ofNat 8 (((List.range 8).map fun i => b2n (codes.getD (8 * b + i) 0 != 0) * 2 ^ i).sum)) ++
        packCodes fmt (nz.map (·.1))
    else (nz.flatMap fun c => leBytes 2 c.2) ++ packCodes fmt (nz.map (·.1))
  let body := [BitVec.ofNat 8 enc, BitVec.ofNat 8 fmt] ++ leBytes 2 nnz ++ leBytes 4 0 ++ e8s.map (BitVec.ofNat 8) ++ payload
  some (body ++ List.replicate (ceil32 body.length - body.length) 0)

/-- PACK: one ctile after another, and their directory values (R145). In a window a ctile's offset is the scratchpad offset at which it
begins (DEDUCED, log 57). -/
def Vec.runPack (v : Vec) (x : Run) : Run :=
  let src := v.src 0
  ((List.range (v.rows / 32)).foldl (fun (acc : Run × Nat) t =>
    let (x, cur) := acc
    let ps := (List.range 1024).map fun i => (32 * t + i / 32, i % 32)
    let x := v.readBatch x [src] (groupsOf 64 ps)
    if x.stopped then (x, cur) else
    let s := x.s
    let codes := ps.map fun p => if v.active s p.1 p.2 then s.elemRaw v.a src p.1 p.2 else 0
    let e8s := (List.range 32).map fun r => s.elemScale v.a src (32 * t + r) 0
    let seen := consumed (ps.filterMap fun p => if v.active s p.1 p.2 then some (s.elemExact v.a src p.1 p.2).1 else none)
    let x := { x with record := x.record.bitsOnly seen }
    let entry := if v.dst.d.isWin then s.winOffset v.a (v.dst.d.addr % 8) v.dst.pos cur else v.dst.d.addr + cur
    let (x, cur, dir) := match encodeCtile src.d.fmt codes e8s with
      | none => (x, cur, 0xFFFFFFFF)
      | some bs => (x.poke ((List.range bs.length).map fun i => x.s.streamKey v.a v.dst (cur + i)) bs, cur + bs.length,
          (entry + 2 ^ 32 - v.c.imm) % 2 ^ 32)
    let x := x.put v.a v.dst2 true 0 t { x := .zero, index := some dir }
    let x := (List.range 32).foldl (fun x r => v.flagRow x (32 * t + r) false) x
    ({ x.flush v.a with packed := cur }, cur)) (x, 0)).1

/-- The command's work (R141). -/
def Vec.run (v : Vec) (s : State) : Run :=
  let x : Run := { s := s }
  if v.c.vop = vPassform then v.runPassform x
  else if v.c.vop = vPack then v.runPack x
  else if v.c.vop = vTopk then v.runTopk x
  else if isReduce v.c.vop then v.runReduce x
  else if isRowFull v.c.vop then v.runRowFull x
  else v.runElementwise x

end Sys2Proof.Machine
end

