-- ==== Sys2Proof/Machine/TemperTable.lean ====
section
/-! DEFINITION. The temper units' images (R251, R252), binary64 (R260), the working copy (R263), READY records
(R267) and telemetry (R274). -/

namespace Sys2Proof.Machine

/-! ### Binary64 (R53, R69; log 18) -/

/-- Binary64 with subnormals; results beyond its range saturate, as every result of the device does. -/
def Lin.b64 : Lin := ⟨52, 11, 1023, true⟩

def b64 (bits : Nat) : Num := Lin.b64.decode bits

def toB64 (x : Num) : Nat := (Lin.b64.encode x).1

/-- An exact result rounded once to binary64, with the events of both steps. -/
def rounded64 (p : Num × Exc) : Num × Exc :=
  let r := Lin.b64.encode p.1
  (Lin.b64.decode r.1, p.2 ||| r.2)

/-- An operation on values that carry their events. -/
def op64 (f : Num → Num → Num × Exc) (a b : Num × Exc) : Num × Exc :=
  let r := rounded64 (f a.1 b.1)
  (r.1, r.2 ||| a.2 ||| b.2)

def add64 : Num × Exc → Num × Exc → Num × Exc := op64 Num.add
def sub64 : Num × Exc → Num × Exc → Num × Exc := op64 fun a b => a.add b.neg
def mul64 : Num × Exc → Num × Exc → Num × Exc := op64 Num.mul

/-- Division under R69. -/
def Num.div64 (a b : Num) : Num × Exc :=
  match a, b with
  | .nan, _ => (.nan, Exc.none)
  | _, .nan => (.nan, Exc.none)
  | .inf _, .inf _ => (.nan, Exc.invalid)
  | .inf s, .fin u m _ => (.inf (s != (u && m != 0)), Exc.none)
  | .fin _ _ _, .inf _ => (.zero, Exc.none)
  | .fin s ma ea, .fin u mb eb =>
    if ma = 0 ∧ mb = 0 then (.nan, Exc.invalid)
    else if mb = 0 then (Lin.b64.decode (Lin.b64.maxFinite s), Exc.overflow)
    else if ma = 0 then (.zero, Exc.none)
    else (quotient (s != u) ma ea mb eb, Exc.none)

def div64 : Num × Exc → Num × Exc → Num × Exc := op64 Num.div64

/-- Square root, correctly rounded. -/
def sqrt64 (a : Num × Exc) : Num × Exc :=
  match a.1 with
  | .nan => a
  | .inf s => if s then (.nan, a.2 ||| Exc.invalid) else a
  | .fin s m e =>
    if m = 0 then (.zero, a.2) else if s then (.nan, a.2 ||| Exc.invalid) else
    let (m, e) := evenExp m e
    let n := m <<< 128
    let r := isqrt n
    let q := rounded64 (.fin false (2 * r + (if r * r = n then 0 else 1)) (e / 2 - 65), Exc.none)
    (q.1, q.2 ||| a.2)

/-! ### Memory as a unit reaches it (R247, R291) -/

/-- The compute die of a unit (R247). -/
def unitDie (u : Nat) : Nat := u % 4 / 2

/-- A unit's read: the bytes, and whether one of them cannot be used, being poisoned or not there. -/
def State.unitRead (s : State) (u addr len : Nat) : State × List Byte × Bool :=
  let r := s.memRead addr len ownExt (unitDie u)
  (r.1, r.2.2.map (·.1), decide (r.2.2.length < len) || r.2.2.any (·.2))

/-! ### Images (R249, R251) -/

def pageUp (n : Nat) : Nat := (n + 4095) / 4096 * 4096

def ShardEntry.n (e : ShardEntry) : Nat := (e.parts.map fun p => p.1 * p.2).sum

def ShardEntry.nCt (e : ShardEntry) : Nat := e.n / 1024

def offMaster : Nat := 0x1000
def ShardEntry.offDir (e : ShardEntry) : Nat := offMaster + pageUp (2 * e.n)
def ShardEntry.offPlane (e : ShardEntry) : Nat := e.offDir + pageUp (4 * e.nCt)

def ShardEntry.image (e : ShardEntry) (cur : Nat) : Nat := if cur = 0 then e.image0 else e.image1
def ShardEntry.moment (e : ShardEntry) (cur : Nat) : Nat := if cur = 0 then e.moment0 else e.moment1

/-- Bytes of a landing slot (R253). -/
def ShardEntry.slotBytes (e : ShardEntry) : Nat := pageUp (32 + 4 * e.n)

/-- The image header (R251). -/
def imageHeader (e : ShardEntry) (version step planeBytes : Nat) : List Byte :=
  [0x54#8, BitVec.ofNat 8 e.opt, 0#8, 0#8] ++ leBytes 4 e.id ++ leBytes 4 version ++ leBytes 4 step ++ leBytes 4 e.n ++ leBytes 4 e.nCt ++
    leBytes 4 planeBytes ++ List.replicate 36 0#8

/-- The digest of an image as its unit reads it (R275); none where a byte of it cannot be used (log 49). -/
def State.imageDigest (s : State) (e : ShardEntry) (base : Nat) : State × Option (List Byte) :=
  let h := s.unitRead e.unit base 64
  let plane := num h.2.1 24 4
  let m := h.1.unitRead e.unit (base + offMaster) (2 * e.n)
  let d := m.1.unitRead e.unit (base + e.offDir) (4 * e.nCt)
  let p := d.1.unitRead e.unit (base + e.offPlane) plane
  (p.1, if h.2.2 || m.2.2 || d.2.2 || p.2.2 then none else some (shake256 (h.2.1 ++ m.2.1 ++ d.2.1 ++ p.2.1)))

/-! ### The working copy (R263) -/

/-- The working copy of a master given as W16 encodings in element order: directory values, plane, and the events of its
conversion. -/
def ShardEntry.derive (e : ShardEntry) (master : Array Nat) : List Byte × List Byte × Record :=
  let starts := e.parts.foldl (fun (acc : List Nat × Nat) p => (acc.1 ++ [acc.2], acc.2 + p.1 * p.2)) ([], 0)
  let tiles := (e.parts.zip starts.1).flatMap fun x =>
    (List.range (x.1.2 / 32)).flatMap fun c => (List.range (x.1.1 / 32)).map fun a => (x.2, x.1.2, a, c)
  let r := tiles.foldl (fun (acc : List Byte × List Byte × Record) t =>
    let rows := (List.range 32).map fun ro =>
      let vals := (List.range 32).map fun ri => Lin.w16.decode (master.getD (t.1 + (32 * t.2.2.1 + ri) * t.2.1 + (32 * t.2.2.2 + ro)) 0)
      let e8 := dynamicE8 .l8 vals
      (vals.map fun v =>
        let c := toLog .l8 v e8.1
        (c.1, c.2 ||| consumed [v]), e8)
    let codes := rows.flatMap fun r => r.1.map (·.1)
    let record := rows.foldl (fun (q : Record) r => (r.1.foldl (fun (q : Record) c => q.element c.2) q).bitsOnly r.2.2) acc.2.2
    match encodeCtile 1 codes (rows.map fun r => r.2.1) with
    | none => (acc.1 ++ leBytes 4 0xFFFFFFFF, acc.2.1, record)
    | some bs => (acc.1 ++ leBytes 4 acc.2.1.length, acc.2.1 ++ bs, record)) ([], [], {})
  r

/-- A temper unit's events (R247). -/
def State.recordUnit (s : State) (u : Nat) (r : Record) : State :=
  let w := s.rd .TMP_STATUS u
  let s := s.wr .TMP_STATUS u 0 (w ||| r.bits.setWidth 64)
  let s := s.sat TMP_EXC_CNT.invalid u 0 r.invalid
  let s := s.sat TMP_EXC_CNT.overflow u 0 r.overflow
  let s := s.sat TMP_EXC_CNT.underflow u 0 r.underflow
  s.mapWindow fun v => { v with exc := v.exc ||| r.bits, invalid := v.invalid + r.invalid, overflow := v.overflow + r.overflow
                                underflow := v.underflow + r.underflow }

/-! ### The states of `STG_STEP_STATUS` (R245) -/

def stIdle : Nat := 0
def stArmed : Nat := 1
def stDone : Nat := 2
def stAborted : Nat := 3
def stClearing : Nat := 4

/-! ### Shards as kept -/

def State.curImage (s : State) (x : Nat) (e : ShardEntry) : Nat := e.image (s.fld TMP_SHARD_STATE.cur x)
def State.otherImage (s : State) (x : Nat) (e : ShardEntry) : Nat := e.image (1 - s.fld TMP_SHARD_STATE.cur x)

/-- The step a shard works on: the oldest that was committed DONE before the shard was decided, else the armed one. -/
def State.workStep (s : State) (x : Nat) : Nat := ((s.tshard x).late.head?).getD (s.fld STG_STEP_STATUS.step)

/-- Whether work on a shard's step goes on: the step is armed, or COMMIT(DONE) of it came before the shard was decided. -/
def State.shardWorks (s : State) (x : Nat) : Bool :=
  !(s.tshard x).late.isEmpty || s.fld STG_STEP_STATUS.state == stArmed

/-- Whether a shard's image is being fetched again for the assay (R277). -/
def State.refetching (s : State) (x : Nat) : Bool := (s.tshard x).fetch.any fun f => f.digest.isSome

/-- `TMP_SHARD_STATE.present` shows the armed step's segments. -/
def State.syncPresent (s : State) (x : Nat) : State :=
  s.setFld TMP_SHARD_STATE.present x 0 (((s.tshard x).segs.filter fun g => g.step == s.fld STG_STEP_STATUS.step).length)

/-- The present segments of a step, in ascending replica ordinal. -/
def Shard.segsOf (sh : Shard) (step : Nat) (nRep : Nat) : List Seg :=
  (List.range nRep).filterMap fun r => sh.segs.find? fun g => g.step == step && g.replica == r

/-- Whether an owned shard's segments are all there and it waits for its reduction (R256). -/
def State.reducible (s : State) (x : Nat) (e : ShardEntry) : Bool :=
  e.owner && s.phase x == phCollect && s.shardWorks x && ((s.tshard x).segsOf (s.workStep x) e.nRep).length == e.nRep

/-- `TMP_UNIT_STATUS` shows a unit at work on a shard. -/
def State.showJob (s : State) (u state index : Nat) : State :=
  (s.setFld TMP_UNIT_STATUS.state u 0 state).setFld TMP_UNIT_STATUS.index u 0 index

/-- `TMP_UNIT_STATUS` shows a unit's parked shards and the shard in work (R280). -/
def State.syncUnit (s : State) (u : Nat) : State :=
  let mine := s.shardList.filter fun x => x.2.unit == u
  let s := s.setFld TMP_UNIT_STATUS.parked u 0 ((mine.filter fun x => s.phase x.1 == phParked).length)
  match mine.find? (fun x => s.phase x.1 == phApply), mine.find? (fun x => s.phase x.1 == phFetching),
      mine.find? fun x => s.reducible x.1 x.2 with
  | some x, _, _ => s.showJob u 2 x.1
  | none, some x, _ => s.showJob u 4 x.1
  | none, none, some x => s.showJob u 1 x.1
  | none, none, none => s.setFld TMP_UNIT_STATUS.state u 0 0

/-- A derivation and a digest, which their commands carry out whole, show until the next hub cycle (log 49). -/
def State.unitsRest (s : State) : State :=
  (List.range 4).foldl (fun s u => if s.fld TMP_UNIT_STATUS.state u = 3 ∨ s.fld TMP_UNIT_STATUS.state u = 5 then s.syncUnit u else s) s

/-- The version a shard shows is its current image's (R272, R280). -/
def State.showVersion (s : State) (x : Nat) (e : ShardEntry) : State :=
  s.setFld TMP_SHARD_STATE.version x 0 (leNat (s.getMem (s.curImage x e + 8) 4))

/-- An image of a resting expert that lies in its pool has changed since its fetch (R210). -/
def State.markChanged (s : State) (e : ShardEntry) : State :=
  if e.kind ≠ 2 then s else
  let id := (s.tlayer e.layer).layerId
  let slots := (List.range 256).filter fun slot => match s.layer slot with
    | some l => l.layerId == id && e.expert < l.experts && (s.expert l e.expert).rests
    | none => false
  { s with qm := { s.qm with changed := slots.foldl (fun c slot => insertKey (resKey slot e.expert) c) s.qm.changed } }

/-- The current buffer changes; the version shown is the new image's (R252, R272). -/
def State.flip (s : State) (x : Nat) (e : ShardEntry) : State :=
  ((s.setFld TMP_SHARD_STATE.cur x 0 (1 - s.fld TMP_SHARD_STATE.cur x)).showVersion x e).markChanged e

/-- After a pour every shard shows the version of its image in buffer 0 (R252, R280). -/
def State.pourShards (s : State) : State := s.shardList.foldl (fun s x => s.showVersion x.1 x.2) s

/-! ### Records held for window space (R223, R267) -/

/-- Writes the records of a list whose windows have room, in order; a record that cannot be written holds the later ones of its
window. Answers what is left and what was written. -/
def State.flushRecords (s : State) : List StgRec → List (Nat × Nat) → State × List StgRec × List StgRec
  | [], _ => (s, [], [])
  | r :: rs, blocked =>
    let wait := fun (_ : Unit) =>
      let q := s.flushRecords rs ((r.array, r.window) :: blocked)
      (q.1, r :: q.2.1, q.2.2)
    if blocked.contains (r.array, r.window) ∨ !(s.recordRoom r.array r.window) then wait ()
    else
      match s.windowRecord r.array r.window r.bytes with
      | (s, .refused _) => s.flushRecords rs blocked
      | (s, _) =>
        -- a record whose bank is still to become EXT's stands in the window's own order from here on
        let q := s.flushRecords rs blocked
        (q.1, q.2.1, r :: q.2.2)

/-- READY records whose windows have room are written. -/
def State.flushReady (s : State) : State :=
  let r := s.flushRecords s.tmp.ready []
  { r.1 with tmp := { r.1.tmp with ready := r.2.1 } }

/-- A shard's READY record for a COMMIT (R267). -/
def State.ready (s : State) (x : Nat) (e : ShardEntry) (flags step : Nat) : State :=
  let sh := s.tshard x
  let s := s.setTshard x { sh with repaired := false }
  let flags := flags + 32 * b2n sh.repaired
  let bs := [0x51#8, BitVec.ofNat 8 flags] ++ leBytes 2 (s.tlayer e.layer).layerId ++ leBytes 4 e.id ++
    leBytes 4 (s.fld TMP_SHARD_STATE.version x) ++ leBytes 4 step ++ leBytes 8 (s.curImage x e) ++ List.replicate 8 0#8
  let r : StgRec := { array := e.readyArray, window := e.readyWindow, bytes := bs }
  ({ s with tmp := { s.tmp with ready := s.tmp.ready ++ [r] } }).flushReady

/-- The READY flag of a reason of R279. -/
def reasonFlag (reason : Nat) : Nat := if reason = 1 then 2 else if reason = 2 then 4 else 8

/-- A shard's work of a step is over: its landing bank is free again (R253). A refetch for the assay goes on. -/
def State.shardRests (s : State) (x step : Nat) : State :=
  let sh := s.tshard x
  let ph := if s.phase x = phDamaged then phDamaged else if s.refetching x then phFetching else phIdle
  let s := s.setTshard x { sh with segs := sh.segs.filter fun g => g.step != step
                                   late := sh.late.erase step, reason := 0, k := 0, applied := none }
  (s.setPhase x ph).syncPresent x

/-- What COMMIT(DONE) of a step makes of a decided shard; none while the shard is not decided (R266, R267, R271). A DAMAGED shard of this
owner whose segments are incomplete is decided once they are complete, or missing (R268). -/
def State.shardSettle (s : State) (x : Nat) (e : ShardEntry) (step : Nat) : Option State :=
  let ph := s.phase x
  let reason := (s.tshard x).reason
  if ph = phStaged ∨ ph = phFetched then some (((s.flip x e).ready x e 1 step).shardRests x step)
  else if ph = phDamaged then
    (if e.owner ∧ reason = 0 ∧ ((s.tshard x).segsOf step e.nRep).length < e.nRep then none
     else some ((s.ready x e (16 + if reason = 0 then 0 else reasonFlag reason) step).shardRests x step))
  else if ph = phUnchanged ∨ (s.refetching x ∧ reason ≠ 0) then some ((s.ready x e (reasonFlag reason) step).shardRests x step)
  else none

/-! ### Messages (R279; log 17 for the port) -/

def temperPort (u : Nat) : Nat := 0x0F0000600000 + u % 4 * 0x80

def temperCode (u : Nat) : Nat := 0xF04 + u % 4

def State.temperSend (s : State) (unit dst toUnit : Nat) (bs : List Byte) : State :=
  s.send { op := 0x11, dst := dst, requester := temperCode unit, addr := temperPort toUnit, payload := bs }

/-! ### Replicas (R270, R271) -/

/-- A shard that this package holds as a replica, by identity. -/
def State.replicaOf (s : State) (id : Nat) : Option (Nat × ShardEntry) :=
  s.shardList.find? fun x => x.2.id == id && !x.2.owner

/-- Lines of a fetch, from one offset to another. -/
def Fetch.lines (f : Fetch) (e : ShardEntry) (first last : Nat) : List Request :=
  (List.range ((last - first + 127) / 128)).map fun i =>
    { op := 1, dst := f.pkg, requester := temperCode e.unit, addr := f.addr + first + 128 * i }

/-- Starts the reads of an owner's image, one 128-byte line each. -/
def State.startImageFetch (s : State) (x : Nat) (e : ShardEntry) (gaddr bytes version : Nat) (digest : Option (List Byte)) : State :=
  let f : Fetch := { pkg := gaddr / 2 ^ 48, addr := gaddr % 2 ^ 48, bytes := bytes, version := version, left := (bytes + 127) / 128, digest := digest }
  let s := s.setTshard x { (s.tshard x) with fetch := some f }
  let s := s.sendAll (f.lines e 0 bytes)
  (s.setPhase x phFetching).syncUnit e.unit

/-- STAGED or UNCHANGED of a step enters a replica's work: a staged fetch replaces a refetch, and a refetch goes on behind UNCHANGED
(R270, R271, R277). -/
def State.replicaTake (s : State) (x : Nat) (e : ShardEntry) (bs : List Byte) : State :=
  let refetch := s.refetching x
  let s := s.setTshard x { (s.tshard x) with step := num bs 4 4 }
  if byteAt bs 0 = 0x62 then
    let s := if refetch then s.bump TMP_PERF_ASSAY_ABANDON.count 0 0 1 else s
    let s := s.setFld TMP_SHARD_STATE.repair x 0 0
    s.startImageFetch x e (num bs 16 8) (num bs 24 8) (num bs 12 4) none
  else
    let s := s.setTshard x { (s.tshard x) with reason := byteAt bs 1 }
    if refetch then s else s.setPhase x phUnchanged

/-- Whether a replica is at work on the message of a step. -/
def State.replicaBusy (s : State) (x : Nat) : Bool :=
  let ph := s.phase x
  (ph == phFetching && !(s.refetching x)) || ph == phFetched || ph == phUnchanged || (s.tshard x).reason != 0

/-- A shard has been decided, or has come to rest: steps already committed DONE settle, and waiting messages of later steps enter its
work, as far as that goes. -/
def State.shardLate : Nat → State → Nat → ShardEntry → State
  | 0, s, _, _ => s
  | n + 1, s, x, e =>
    let sh := s.tshard x
    match sh.late.head?.bind fun step => s.shardSettle x e step with
    | some t => State.shardLate n t x e
    | none =>
      match sh.waiting with
      | [] => s
      | bs :: rest =>
        if s.replicaBusy x ∨ s.phase x = phDamaged then s
        else State.shardLate n ((s.setTshard x { sh with waiting := rest }).replicaTake x e bs) x e

/-- What follows a decision of a shard. -/
def State.shardDecided (s : State) (x : Nat) (e : ShardEntry) : State :=
  let sh := s.tshard x
  (State.shardLate (sh.late.length + 2 * sh.waiting.length) s x e).syncUnit e.unit

/-- COMMIT(DONE) of a step reaches a shard: it settles at once, or once it is decided and the steps before it have settled. -/
def State.shardFinish (s : State) (x : Nat) (e : ShardEntry) (step : Nat) : State :=
  let sh := s.tshard x
  let wait := s.setTshard x { sh with late := sh.late ++ [step] }
  match sh.late, s.shardSettle x e step with
  | [], some t => t.shardDecided x e
  | _, _ => wait.syncUnit e.unit

/-- COMMIT(DONE) at one shard; a repaired image becomes current first (R277). -/
def State.shardCommit (s : State) (x : Nat) (e : ShardEntry) (step : Nat) : State :=
  let s := if s.fld TMP_SHARD_STATE.repair x = 1 then
      let s := (s.flip x e).setFld TMP_SHARD_STATE.repair x 0 0
      s.setTshard x { (s.tshard x) with repaired := true }
    else s
  s.shardFinish x e step

/-- STAGED or UNCHANGED arrives at a replica; one of a later step waits for the step in work. -/
def State.replicaMessage (s : State) (bs : List Byte) : State :=
  match s.replicaOf (num bs 8 4) with
  | none => s
  | some (x, e) =>
    if s.phase x = phDamaged then s else
    if s.replicaBusy x ∧ (s.tshard x).step ≠ num bs 4 4 then
      s.setTshard x { (s.tshard x) with waiting := (s.tshard x).waiting ++ [bs] }
    else (s.replicaTake x e bs).shardDecided x e

/-- COMMIT(ABORTED) of a step at one shard (R266, R271). Work on an earlier step, committed DONE, goes on. -/
def State.shardAbort (s : State) (x : Nat) (e : ShardEntry) (step : Nat) : State :=
  let sh := s.tshard x
  let s := s.setTshard x { sh with waiting := sh.waiting.filter fun bs => num bs 4 4 != step }
  let s := s.ready x e (64 + 16 * b2n (s.phase x == phDamaged)) step
  if sh.late.isEmpty then
    let s := s.setTshard x { (s.tshard x) with fetch := if s.refetching x then sh.fetch else none }
    (s.shardRests x step).shardDecided x e
  else (s.setTshard x { (s.tshard x) with segs := sh.segs.filter fun g => g.step != step }).syncPresent x

/-- The temper units act on a COMMIT (R266). -/
def State.temperCommit (s : State) (done : Bool) (step : Nat) : State :=
  if done then s.shardList.foldl (fun s x => s.shardCommit x.1 x.2 step) s
  else
    let s : State := s.shardList.foldl (fun (s : State) (x : Nat × ShardEntry) => s.shardAbort x.1 x.2 step) s
    let s := { s with stg := { s.stg with attempts := (s.stg.attempts + 1) % 65536 } }
    { s with tmp := { s.tmp with partials := s.tmp.partials.filter fun p => p.step != step
                                 ratios := s.tmp.ratios.filter fun p => p.step != step
                                 stopped := s.tmp.stopped.filter fun (p : Nat × Nat) => p.2 != step
                                 norms := s.tmp.norms.filter fun (p : Nat × Nat × Nat) => p.2.1 != step } }

/-! ### Telemetry (R274) -/

/-- A telemetry record, written by a unit of a die; a record that finds the ring full is lost. -/
def State.telemetry (s : State) (die kind flags layerId step norm ratio shards version : Nat) : State :=
  if !(s.flag TMP_TELE_CFG.enable) then s else
  let n := 2 ^ s.fld TMP_TELE_CFG.size_log
  let h := s.fld TMP_TELE_PTR.head
  let full := h == s.fld TMP_TELE_PTR.tail && s.fld TMP_TELE_PTR.head_lap != s.fld TMP_TELE_PTR.tail_lap
  if full then s.bump TMP_PERF_TELE_LOST.count 0 0 1
  else
    let bs := [BitVec.ofNat 8 kind, BitVec.ofNat 8 flags] ++ leBytes 2 layerId ++ leBytes 4 step ++ leBytes 8 norm ++ leBytes 4 ratio ++
      leBytes 4 shards ++ leBytes 4 version ++ List.replicate 4 0#8
    let s := s.putMem (s.fld TMP_TELE_CFG.base + 32 * (h % n)) bs ownExt die
    if h + 1 ≥ n then (s.setFld TMP_TELE_PTR.head 0 0 0).setFld TMP_TELE_PTR.head_lap 0 0 (1 - s.fld TMP_TELE_PTR.head_lap)
    else s.setFld TMP_TELE_PTR.head 0 0 (h + 1)

end Sys2Proof.Machine
end

