-- ==== Sys2Proof/Machine/StepOps.lean ====
section
/-! DEFINITION. The step's commit point: local completion, aborts, COMMIT at the root and at a package, the step summary
record (R238 to R244, R438, R446, R447). -/

namespace Sys2Proof.Machine

/-! ### Who is in the step -/

/-- Physical IDs of the slice map, rising (R341). -/
def State.sliceIds (s : State) : List Nat :=
  let k0 := regKey .FAB_SLICE_MAP 0 0
  let words := s.regs.filter fun r => k0 ≤ r.1 && r.1 < k0 + 1024 * 65536
  words.flatMap fun r => (List.range 64).filterMap fun b => if bit r.2 b then some ((r.1 - k0) / 65536 * 64 + b) else none

/-- The physical ID that answers for a logical one, at the source (R344). -/
def State.physical (s : State) (logical : Nat) : Nat :=
  match (List.range 64).find? fun n => s.flag FAB_REMAP.valid n && s.fld FAB_REMAP.logical n == logical with
  | some n => s.fld FAB_REMAP.physical n
  | none => logical

/-- The logical ID that a physical one answers for. -/
def State.logicalOf (s : State) (phys : Nat) : Nat :=
  match (List.range 64).find? fun n => s.flag FAB_REMAP.valid n && s.fld FAB_REMAP.physical n == phys with
  | some n => s.fld FAB_REMAP.logical n
  | none => phys

def State.myId (s : State) : Nat := s.fld FAB_ID.logical_id

/-- The other packages of the step: those of the slice (log 16). -/
def State.otherPackages (s : State) : List Nat :=
  (s.sliceIds.map s.logicalOf).filter (· != s.myId)

/-- Whether this package is the step root. -/
def State.isRoot (s : State) : Bool := s.fld STG_ROOT.root == s.myId

/-! ### Messages of the stage controller (log 16) -/

def stageCode : Nat := 0xF08
def stagePort : Nat := 0x0F00007E0000

def msgLocalDone : Nat := 0x41
def msgAbort : Nat := 0x42
def msgCommit : Nat := 0x43
def msgCleared : Nat := 0x44
def msgReady : Nat := 0x45
def msgCredit : Nat := 0x46

/-- Kind, outcome or slot, cause or direction, user code, step or sequence number, origin package and, in LOCAL_DONE and ABORT, the
attempt of R266. -/
def stageMessage (kind a b c step pkg : Nat) (attempt : Nat := 0) : List Byte :=
  leBytes 1 kind ++ leBytes 1 a ++ leBytes 1 b ++ leBytes 1 c ++ leBytes 4 step ++ leBytes 2 pkg ++ leBytes 2 attempt ++ List.replicate 20 0#8

def State.stageSend (s : State) (dst : Nat) (bs : List Byte) : State :=
  s.send { op := 0x11, dst := dst, requester := stageCode, addr := stagePort, payload := bs }

/-! ### Stage slots -/


structure StageEntry where
  pipe : Nat
  valid : Bool
  recompute : Bool
  train : Bool
  first : Bool
  last : Bool
  lead : Nat
  stkWindow : Nat
  ctlWindow : Nat
  maxInflight : Nat
  spanTokens : Nat
  admitChunks : Nat
  stkBase : Nat
  stkChunks : Nat
  bresChunks : Nat
  spillBase : Nat
  spillChunks : Nat
  bresBase : Nat
  deriving DecidableEq, Repr

def StageEntry.parse (bs : List Byte) : StageEntry :=
  let f := byteAt bs 1
  { pipe := byteAt bs 0, valid := f % 2 == 1, recompute := f / 2 % 2 == 1, train := f / 4 % 2 == 1, first := f / 8 % 2 == 1
    last := f / 16 % 2 == 1, lead := num bs 2 2 % 4096, stkWindow := byteAt bs 4 % 8, ctlWindow := byteAt bs 4 / 8 % 8
    maxInflight := byteAt bs 5 % 64, spanTokens := num bs 8 4 % 2 ^ 21, admitChunks := num bs 12 4 % 2 ^ 23
    stkBase := num bs 16 8 % 2 ^ 48, stkChunks := num bs 24 4 % 2 ^ 23, bresChunks := num bs 28 4 % 2 ^ 23
    spillBase := num bs 32 8 % 2 ^ 48, spillChunks := num bs 40 4 % 2 ^ 23, bresBase := num bs 48 8 % 2 ^ 48 }

structure QueueEntry where
  peerPkg : Nat
  peerSlot : Nat
  valid : Bool
  depth : Nat
  array : Nat
  window : Nat
  slotUnits : Nat
  base : Nat
  deriving DecidableEq, Repr

def QueueEntry.parse (bs : List Byte) : QueueEntry :=
  { peerPkg := num bs 0 2, peerSlot := byteAt bs 2 % 64, valid := byteAt bs 2 / 64 % 2 == 1, depth := byteAt bs 3 % 32
    array := num bs 4 2 % 4096, window := byteAt bs 6 % 8, slotUnits := num bs 8 4 % 2 ^ 24, base := num bs 16 8 % 2 ^ 48 }

def State.stageEntry (s : State) (slot : Nat) : StageEntry := StageEntry.parse (s.tableBytes .STG_ENTRY slot 8)

/-- Queue entries in the order IN_FWD, OUT_FWD, IN_BWD, OUT_BWD (R245). -/
def State.queueEntry (s : State) (slot role : Nat) : QueueEntry :=
  QueueEntry.parse ((List.range 4).flatMap fun j => leBytes 8 (s.rd .STG_QUEUE slot (4 * role + j)).toNat)

def State.validStages (s : State) : List Nat := (List.range 64).filter fun n => (s.stageEntry n).valid

def State.stage (s : State) (slot : Nat) : Stage := Sparse.get {} s.stg.slots slot

def State.setStage (s : State) (slot : Nat) (x : Stage) : State :=
  { s with stg := { s.stg with slots := Sparse.put {} s.stg.slots slot x } }

/-- Writes the held records of a slot that have room; an ARRIVE record written counts for its queue (R222, R223). -/
def State.flushStage (s : State) (slot : Nat) : State :=
  let r := s.flushRecords (s.stage slot).records []
  let x := r.1.stage slot
  let count := fun (role : Nat) => (r.2.2.filter fun (y : StgRec) => y.role == some role).length
  let given := fun (q : StgQueue) (role : Nat) => { q with given := (q.given + count role) % 2 ^ 24 }
  let s := r.1.setStage slot { x with records := r.2.1, inFwd := given x.inFwd 0, inBwd := given x.inBwd 1 }
  s.bump STG_PERF_SPANS.count slot 0 (count 0)

/-- A record goes to a window of the stage, behind those that wait for it (R223). -/
def State.stageRecord (s : State) (slot array window : Nat) (role : Option Nat) (bs : List Byte) : State :=
  let x := s.stage slot
  (s.setStage slot { x with records := x.records ++ [{ array := array, window := window, bytes := bs, role := role }] }).flushStage slot

/-- A record of the stage controller. -/
def stageBytes (kind slot flags n mb tag seq tokens addr : Nat) : List Byte :=
  leBytes 1 kind ++ leBytes 1 slot ++ leBytes 1 flags ++ leBytes 1 n ++ leBytes 2 mb ++ leBytes 2 tag ++ leBytes 4 seq ++
    leBytes 4 tokens ++ leBytes 8 addr ++ List.replicate 8 0#8

/-! ### Tracking epochs (R339) -/

def State.endTracking (s : State) : State :=
  ({ s with fab := { s.fab with tracks := [], lost := [] } }).wr .FAB_TRACK_STATUS 0 0 0

/-! ### The step summary record (R438, R446, R447) -/

def State.summaryBytes (s : State) (done : Bool) (cause step origin : Nat) (now : Word) : List Byte :=
  let w := s.obs.window
  let d0 := s.fld NDC_COUNT.count 0 - w.ndcStart0.toNat
  let d1 := s.fld NDC_COUNT.count 1 - w.ndcStart1.toNat
  let clean := w.poisoned == 0 && w.crcFail == 0 && !w.sramUe
  let flags := b2n clean + 2 * b2n (d0 == 0 && d1 == 0) + 4 * b2n w.anyWithheld
  let body := [0x70#8, if done then 1#8 else 2#8, if done then 0#8 else BitVec.ofNat 8 cause, BitVec.ofNat 8 flags] ++ leBytes 4 step ++ leBytes 2 s.myId ++
    leBytes 2 (if done then 0 else origin) ++ leBytes 2 (min w.withheld 0xFFFF) ++ leBytes 2 w.firstWithheld ++ leBytes 8 d0 ++ leBytes 8 d1 ++
    leBytes 8 w.invalid ++ leBytes 8 w.overflow ++ leBytes 8 w.underflow ++ leBytes 8 w.emptyRows ++ [w.exc.setWidth 8] ++
    List.replicate 3 0#8 ++ leBytes 4 w.zeroVisit ++ leBytes 8 w.dropped ++ leBytes 8 w.cancelRows ++ leBytes 8 w.corrected ++
    leBytes 4 w.poisoned ++ leBytes 4 w.crcFail ++ leBytes 8 w.start.toNat ++ leBytes 8 now.toNat
  body ++ leBytes 4 (crc32c body) ++ List.replicate 4 0#8

/-- A new summary window begins (R438). -/
def State.startWindow (s : State) (now : Word) : State :=
  { s with obs := { s.obs with window := { start := now, ndcStart0 := s.rd .NDC_COUNT 0, ndcStart1 := s.rd .NDC_COUNT 1 } } }

/-- The summary of a COMMIT is written and its event raised; the next window begins. -/
def State.summarise (s : State) (done : Bool) (cause step origin : Nat) : State :=
  let now := s.nanos
  let bs := s.summaryBytes done cause step origin now
  if s.flag OBS_SUM_CFG.enable then
    let n := 2 ^ s.fld OBS_SUM_CFG.size_log
    let e := s.fld OBS_SUM_STATUS.next
    let at' := s.fld OBS_SUM_CFG.base + 128 * e
    let s := (s.putMem at' bs ownExt dieHub).startWindow now
    let s := s.bump OBS_SUM_STATUS.written 0 0 1
    let s := s.setFld OBS_SUM_STATUS.next 0 0 ((e + 1) % n)
    s.raise 0x0C 1 0xFFFF (BitVec.ofNat 64 at')
  else (s.startWindow now).raise 0x0C 1 0xFFFF 0

/-! ### COMMIT at a package (R240, R241, R266, R339, R446) -/

def State.commitAt (s : State) (done : Bool) (cause user step origin : Nat) : State :=
  let s := s.setFld STG_STEP_STATUS.state 0 0 (if done then stDone else stAborted)
  let s := s.setFld STG_STEP_STATUS.cause 0 0 cause
  let s := s.setFld STG_STEP_STATUS.user_code 0 0 user
  let s := s.setFld STG_STEP_STATUS.step 0 0 step
  -- after COMMIT(ABORTED) no ARRIVE or GRANT record is written any more (R241)
  let s := if done then s else s.validStages.foldl (fun s n =>
    let x := s.stage n
    s.setStage n { x with records := x.records.filter fun r => byteAt r.bytes 0 != 0x33 && byteAt r.bytes 0 != 0x30 }) s
  let s := s.validStages.foldl (fun s n =>
    let e := s.stageEntry n
    s.stageRecord n e.lead e.ctlWindow none
      (if done then stageBytes 0x35 n 0 0 0 0 step 0 0 else stageBytes 0x36 n 0 cause origin 0 step 0 0)) s
  let s := if done then s else s.raise 7 4 0xFFFF 0
  let s := s.temperCommit done step
  let s := { s with qm := { s.qm with updates := [] } }
  (s.summarise done cause step origin).endTracking

/-- A COMMIT message arrives. -/
def State.commitMessage (s : State) (bs : List Byte) : State :=
  if byteAt bs 0 ≠ msgCommit then s
  else s.commitAt (byteAt bs 1 == 1) (byteAt bs 2) (byteAt bs 3) (num bs 4 4) (num bs 8 2)

/-! ### The root (R239, R242) -/

/-- Whether the commit point of a step's attempt has passed at the root (R239). -/
def State.stepDecided (s : State) (step attempt : Nat) : Bool := s.stg.decided.contains (step, attempt)

/-- The commit point: COMMIT goes to every package of the step, this one included. -/
def State.decide (s : State) (done : Bool) (cause user step origin attempt : Nat) : State :=
  let s := { s with stg := { s.stg with decided := s.stg.decided ++ [(step, attempt)], decidedAt := s.cycle
                                        doneFrom := s.stg.doneFrom.filter fun d => d.1 != step
                                        aborts := s.stg.aborts.filter fun a => a.1 != step } }
  let s := s.otherPackages.foldl (fun s p => s.stageSend p (stageMessage msgCommit (if done then 1 else 2) cause user step origin)) s
  s.commitAt done cause user step origin

/-- LOCAL_DONE of a package reaches the root. -/
def State.rootDone (s : State) (step pkg attempt : Nat) : State :=
  if s.stepDecided step attempt then s else
  let d := if s.stg.doneFrom.contains (step, pkg) then s.stg.doneFrom else s.stg.doneFrom ++ [(step, pkg)]
  let s := { s with stg := { s.stg with doneFrom := d } }
  if (d.filter fun x => x.1 == step).length ≥ s.fld STG_ROOT.packages then s.decide true 0 0 step 0 attempt else s

/-- An ABORT reaches the root. It is judged at the end of the hub cycle, so that completion in the same cycle wins; one that comes after the
commit point is late, and one of the commit point's own cycle is neither (R239). -/
def State.rootAbort (s : State) (step pkg cause user attempt : Nat) : State :=
  if s.stepDecided step attempt then
    (if s.stg.decidedAt = s.cycle ∧ s.stg.decided.getLast? = some (step, attempt) then s else s.bump STG_PERF_LATE_ABORT.count 0 0 1)
  else if s.stg.aborts.any fun a => a.1 == step then s
  else { s with stg := { s.stg with aborts := s.stg.aborts ++ [(step, pkg, cause, user, attempt)] } }

/-- The end of the hub cycle at the root: an ABORT of the cycle is the commit point of a step that has none yet (R239). -/
def State.settleAborts (s : State) : State :=
  s.stg.aborts.foldl (fun s a =>
    if s.stepDecided a.1 a.2.2.2.2 then s else s.decide false a.2.2.1 a.2.2.2.1 a.1 a.2.1 a.2.2.2.2)
    { s with stg := { s.stg with aborts := [] } }

/-- CLEARED of a package reaches the root; READY follows when all have come (R242). -/
def State.rootCleared (s : State) (pkg : Nat) : State :=
  let c := if s.stg.clearedFrom.contains pkg then s.stg.clearedFrom else s.stg.clearedFrom ++ [pkg]
  let s := { s with stg := { s.stg with clearedFrom := c } }
  if c.length ≥ s.fld STG_ROOT.packages then
    let s := { s with stg := { s.stg with clearedFrom := [] } }
    let s := s.otherPackages.foldl (fun s p => s.stageSend p (stageMessage msgReady 0 0 0 (s.fld STG_STEP_STATUS.step) 0)) s
    if s.fld STG_STEP_STATUS.state = stClearing then s.setFld STG_STEP_STATUS.state 0 0 stIdle else s
  else s

/-! ### A package's own end of step (R238, R244) -/

/-- An abort arises at this package; after COMMIT, or with no step armed, it changes nothing and is late (R239; log 16). -/
def State.abortStep (s : State) (cause user : Nat) : State :=
  if s.fld STG_STEP_STATUS.state ≠ stArmed then s.bump STG_PERF_LATE_ABORT.count 0 0 1
  else
    let step := s.fld STG_STEP_STATUS.step
    if s.isRoot then s.rootAbort step s.myId cause user s.stg.attempts
    else s.stageSend (s.fld STG_ROOT.root) (stageMessage msgAbort 0 cause user step s.myId s.stg.attempts)

/-- LOCAL_DONE goes to the root once every valid stage has freed all M micro-batches. -/
def State.checkLocalDone (s : State) : State :=
  if s.fld STG_STEP_STATUS.state ≠ stArmed then s
  else if s.validStages.all fun n => (s.stage n).freed == s.stg.mbs then
    let step := s.fld STG_STEP_STATUS.step
    if s.isRoot then s.rootDone step s.myId s.stg.attempts
    else s.stageSend (s.fld STG_ROOT.root) (stageMessage msgLocalDone 0 0 0 step s.myId s.stg.attempts)
  else s

def causeSoftware : Nat := 1
def causeExhausted : Nat := 2
def causeProtocol : Nat := 3

/-- A write of `STG_ABORT`, or what acts exactly as one (R254, R269). -/
def State.softAbort (s : State) (user : Nat) : State := s.abortStep causeSoftware user

/-- LOCAL_DONE, ABORT, CLEARED and READY as messages. -/
def State.localDoneMessage (s : State) (bs : List Byte) : State :=
  if byteAt bs 0 ≠ msgLocalDone ∨ !s.isRoot then s else s.rootDone (num bs 4 4) (num bs 8 2) (num bs 10 2)

def State.abortMessage (s : State) (bs : List Byte) : State :=
  if byteAt bs 0 ≠ msgAbort ∨ !s.isRoot then s else s.rootAbort (num bs 4 4) (num bs 8 2) (byteAt bs 2) (byteAt bs 3) (num bs 10 2)

def State.clearedMessage (s : State) (bs : List Byte) : State :=
  if byteAt bs 0 ≠ msgCleared ∨ !s.isRoot then s else s.rootCleared (num bs 8 2)

def State.readyMessage (s : State) (bs : List Byte) : State :=
  if byteAt bs 0 ≠ msgReady ∨ s.fld STG_STEP_STATUS.state ≠ stClearing then s
  else s.setFld STG_STEP_STATUS.state 0 0 stIdle

end Sys2Proof.Machine
end

