-- ==== Sys2Proof/Machine/StageOps.lean ====
section
/-! DEFINITION. The stage controller: boundary queues, admission, the stockpile, and a step's arming and clearing (R219 to R235,
R241 to R244). -/

namespace Sys2Proof.Machine

/-! ### Rings of chunks (R231) -/

def Ring.used (r : Ring) : Nat := (r.charges.map fun c => if c.1.isSome then c.2 else 0).sum

/-- The place of n chunks in a ring of N: the first chunk and the chunks skipped before it. -/
def Ring.place (r : Ring) (N n : Nat) : Option (Nat × Nat) :=
  let wrapped := r.charges.length != 0 && r.head ≤ r.tail
  if wrapped then (if r.head + n ≤ r.tail then some (r.head, 0) else none)
  else if r.head + n ≤ N then some (r.head, 0)
  else if n ≤ r.tail then some (0, N - r.head)
  else none

/-- Allocates at a place; skipped chunks are charged to the same micro-batch. -/
def Ring.take (r : Ring) (at' skip n mb : Nat) : Ring :=
  { r with head := at' + n, charges := r.charges ++ [(some mb, skip + n)] }

/-- Drops the freed allocations at the tail. -/
def Ring.advance (N : Nat) : Nat → List (Option Nat × Nat) → Nat × List (Option Nat × Nat)
  | tail, [] => (tail, [])
  | tail, (some m, n) :: cs => (tail, (some m, n) :: cs)
  | tail, (none, n) :: cs => Ring.advance N (if tail + n ≥ N then tail + n - N else tail + n) cs

/-- Frees every chunk charged to a micro-batch; an empty ring starts again at 0. -/
def Ring.free (r : Ring) (N mb : Nat) : Ring :=
  let cs := r.charges.map fun c => if c.1 == some mb then (none, c.2) else c
  let p := Ring.advance N r.tail cs
  if p.2.isEmpty then {} else { r with tail := p.1, charges := p.2 }

/-- Whether every chunk in use is charged to one micro-batch (R234). -/
def Ring.onlyOf (r : Ring) (mb : Nat) : Bool := r.charges.all fun c => c.1.isNone || c.1 == some mb

/-! ### Registers that show a stage (R235, R245) -/

def State.syncStage (s : State) (slot : Nat) : State :=
  let x := s.stage slot
  let u := x.stk.used
  let v := x.spill.used
  let s := s.setFld STK_USED.stk_used slot 0 u
  let s := s.setFld STK_USED.spill_used slot 0 v
  let s := s.setFld STK_BRES.bres_used slot 0 x.bres.used
  let s := s.setFld STK_HWM.stk_hwm slot 0 (max u (s.fld STK_HWM.stk_hwm slot))
  let s := s.setFld STK_HWM.spill_hwm slot 0 (max v (s.fld STK_HWM.spill_hwm slot))
  let s := s.setFld STG_STATE.inflight slot 0 x.inflight.length
  let s := s.setFld STG_STATE.held_req slot 0 (b2n (!x.fwdReqs.isEmpty))
  let s := s.setFld STG_STATE.held_admit slot 0 (match x.arrivals with
    | a :: _ => b2n (a.span == 0)
    | [] => 0)
  match x.inflight.head?, x.inflight.getLast? with
  | some o, some n =>
    let s := s.setFld STG_STATE.oldest slot 0 o.mb
    let s := s.setFld STG_STATE.newest slot 0 n.mb
    s.setFld STG_STATE.tripped slot 0 (b2n n.tripped)
  | _, _ => s.setFld STG_STATE.tripped slot 0 0

/-- A write of rearm (R235). -/
def State.rearmHwm (s : State) (slot : Nat) : State :=
  if slot > 63 then s else
  let s := s.setFld STK_HWM.stk_hwm slot 0 (s.fld STK_USED.stk_used slot)
  s.setFld STK_HWM.spill_hwm slot 0 (s.fld STK_USED.spill_used slot)

/-! ### Protocol errors (R244) -/

def State.protocolError (s : State) (code slot : Nat) (backward : Bool) (mb seq : Nat) : State :=
  let s := s.wr .STG_ERR_INFO 0 0
    (BitVec.ofNat 64 (code * 2 ^ 56 + slot % 64 * 2 ^ 50 + b2n backward * 2 ^ 49 + mb % 65536 * 2 ^ 24 + seq % 2 ^ 24))
  let s := s.raise 7 2 slot (s.rd .STG_ERR_INFO)
  s.abortStep causeProtocol 0

/-- Whether the controller acts on stage writes: after COMMIT(ABORTED) and until READY it ignores them (R241). -/
def State.stageHears (s : State) : Bool :=
  s.fld STG_STEP_STATUS.state != stAborted && s.fld STG_STEP_STATUS.state != stClearing

/-! ### Stockpile requests (R230 to R234) -/

/-- Answers a request with a GRANT record. -/
def State.grant (s : State) (slot : Nat) (e : StageEntry) (q : StkReq) (spill : Bool) (addr : Nat) : State :=
  s.stageRecord slot e.lead e.stkWindow none (stageBytes 0x30 slot (b2n q.backward + 2 * b2n spill) q.n q.mb q.tag 0 0 addr)

def State.refuseReq (s : State) (slot : Nat) (e : StageEntry) (q : StkReq) (kind : Nat) : State :=
  s.stageRecord slot e.lead e.stkWindow none (stageBytes kind slot (b2n q.backward) 0 q.mb q.tag 0 0 0)

/-- Tries the rings a request may use; the state after its GRANT, if one has room. -/
def State.serve (s : State) (slot : Nat) (e : StageEntry) (q : StkReq) : Option State :=
  let x := s.stage slot
  if q.backward then
    match x.bres.place e.bresChunks q.n with
    | some (p, k) =>
      let s := s.setStage slot { x with bres := x.bres.take p k q.n q.mb }
      some ((s.bump STK_PERF_SKIP.count slot 0 k).grant slot e q false (e.bresBase + p * 0x10000))
    | none => none
  else
    match x.stk.place e.stkChunks q.n with
    | some (p, k) =>
      let s := s.setStage slot { x with stk := x.stk.take p k q.n q.mb }
      some ((s.bump STK_PERF_SKIP.count slot 0 k).grant slot e q false (e.stkBase + p * 0x10000))
    | none =>
      if e.recompute then none else
      match x.spill.place e.spillChunks q.n with
      | some (p, k) =>
        let s := s.setStage slot { x with spill := x.spill.take p k q.n q.mb }
        let s := s.bump STK_PERF_SPILL.count slot 0 q.n
        some ((s.bump STK_PERF_SKIP.count slot 0 k).grant slot e q true (e.spillBase + p * 0x10000))
      | none => none

/-- DISCARD answers a request (R233). -/
def State.discard (s : State) (slot : Nat) (e : StageEntry) (q : StkReq) : State :=
  (s.refuseReq slot e q 0x31).bump STK_PERF_DISCARD.count slot 0 1

def Stage.trippedMb (x : Stage) (mb : Nat) : Bool := x.inflight.any fun i => i.mb == mb && i.tripped

/-- The oldest forward request could not be served: under RECOMPUTE its micro-batch trips, and every RECOMPUTABLE request of
it is discarded (R233). -/
def State.trip (s : State) (slot : Nat) (e : StageEntry) (mb : Nat) : State :=
  let x := s.stage slot
  let gone := x.fwdReqs.filter fun q => q.mb == mb && q.recomputable
  let s := s.setStage slot { x with
    inflight := x.inflight.map fun i => if i.mb = mb then { i with tripped := true } else i
    fwdReqs := x.fwdReqs.filter fun q => !(q.mb == mb && q.recomputable) }
  gone.foldl (fun s q => s.discard slot e q) s

/-- Serves the held requests of one pool in order, as far as they go. -/
def State.servePool (s : State) (slot : Nat) (e : StageEntry) (backward : Bool) : Nat → State
  | 0 => s
  | fuel + 1 =>
    let x := s.stage slot
    match (if backward then x.bwdReqs else x.fwdReqs) with
    | [] => s
    | q :: rest =>
      match s.serve slot e q with
      | some t =>
        let y := t.stage slot
        servePool (t.setStage slot (if backward then { y with bwdReqs := rest } else { y with fwdReqs := rest })) slot e backward fuel
      | none =>
        if !backward && e.recompute && !(x.trippedMb q.mb) then
          let t := s.trip slot e q.mb
          if q.recomputable then servePool t slot e backward fuel else t
        else s

/-- A held request that no free can make room for (R234). -/
def State.impossible (s : State) (slot : Nat) (e : StageEntry) : Option StkReq :=
  let x := s.stage slot
  match x.fwdReqs.find? fun q => x.stk.onlyOf q.mb && (e.recompute || x.spill.onlyOf q.mb) with
  | some q => some q
  | none => x.bwdReqs.find? fun q => x.bres.onlyOf q.mb

/-- EXHAUSTED ends an impossible request and aborts the step. -/
def State.exhaust (s : State) (slot : Nat) (e : StageEntry) : State :=
  match s.impossible slot e with
  | none => s
  | some q =>
    let x := s.stage slot
    let s := s.setStage slot { x with fwdReqs := x.fwdReqs.erase q, bwdReqs := x.bwdReqs.erase q }
    let s := s.refuseReq slot e q 0x32
    let s := s.setFld STG_STEP_STATUS.cause 0 0 causeExhausted
    (s.raise 7 1 slot 0).abortStep causeExhausted 0

/-! ### Admission (R228, R229) -/

/-- Whether a waiting span-0 entry may be admitted. -/
def State.mayAdmit (s : State) (slot : Nat) (e : StageEntry) : Bool :=
  let x := s.stage slot
  let free := (e.stkChunks - x.stk.used) + (if e.recompute then 0 else e.spillChunks - x.spill.used)
  x.inflight.length < e.maxInflight && x.fwdReqs.isEmpty && free ≥ e.admitChunks

def arriveBytes (slot : Nat) (backward : Bool) (a : Arrival) (addr : Nat) : List Byte :=
  stageBytes 0x33 slot (b2n backward) 0 a.mb a.span a.q a.tokens addr

def QueueEntry.slotAddr (q : QueueEntry) (seq : Nat) : Nat := q.base + seq % (max 1 q.depth) * q.slotUnits * 0x1000

/-- Gives waiting forward entries their ARRIVE records, in order, as far as admission goes. A micro-batch is admitted when its
record is written: while records wait for the window it waits too (R223, R228). -/
def State.admitAll (s : State) (slot : Nat) (e : StageEntry) : Nat → State
  | 0 => s
  | fuel + 1 =>
    let x := s.stage slot
    match x.arrivals with
    | [] => s
    | a :: rest =>
      let q := s.queueEntry slot 0
      let give := fun (s : State) (x : Stage) =>
        (s.setStage slot x).stageRecord slot q.array q.window (some 0) (arriveBytes slot false a (q.slotAddr a.q))
      if a.span = 0 then
        let room := !(x.records.any fun r => r.array == q.array && r.window == q.window) && s.winMay q.array q.window false 32
        if s.mayAdmit slot e && room then
          let i : InFlight := { mb := a.mb, spans := a.spans, tokens := if a.spans = 1 then a.tokens else 0 }
          let s := s.bump STG_PERF_ADMIT.count slot 0 1
          (give s { x with arrivals := rest, inflight := x.inflight ++ [i] }).admitAll slot e fuel
        else s
      else
        let inflight := x.inflight.map fun i => if i.mb = a.mb ∧ a.span + 1 = i.spans then { i with tokens := a.tokens } else i
        (give s { x with arrivals := rest, inflight := inflight }).admitAll slot e fuel

/-- The conditions are looked at again: held forward requests first, then a held admission (R229). -/
def State.evaluate (s : State) (slot : Nat) : State :=
  let e := s.stageEntry slot
  if slot > 63 ∨ !e.valid then s
  else if s.fld STG_STEP_STATUS.state ≠ stArmed then (s.flushStage slot).syncStage slot
  else
    let s := s.flushStage slot
    let s := s.servePool slot e false 17
    let s := s.servePool slot e true 17
    let s := s.exhaust slot e
    let s := if s.fld STG_STEP_STATUS.state = stArmed then s.admitAll slot e 64 else s
    s.syncStage slot

/-! ### Arrivals (R221, R225, R226) -/

/-- Whether (mb, span) is the next of R226 and the tokens agree with R225. -/
def spanOk (q : StgQueue) (backward : Bool) (C mbs mb span spans first tokens : Nat) (known : Option InFlight) : Bool :=
  let starts := q.spans == 0
  let order := mb == q.mb && mb < mbs && 1 ≤ spans && spans ≤ 4096 && span < spans &&
    (if starts then span == (if backward then spans - 1 else 0) else spans == q.spans && span == q.span)
  let last := span + 1 == spans
  let shape := first == span * C && (if last then 1 ≤ tokens && tokens ≤ C else tokens == C)
  let agrees := match known with
    | some i => !backward || (spans == i.spans && (!last || i.tokens == 0 || tokens == i.tokens))
    | none => true
  order && shape && agrees

/-- The queue after an accepted entry. -/
def StgQueue.step (q : StgQueue) (backward : Bool) (span spans : Nat) : StgQueue :=
  let ended := if backward then span == 0 else span + 1 == spans
  { q with next := (q.next + 1) % 2 ^ 24, mb := if ended then q.mb + 1 else q.mb, spans := if ended then 0 else spans
           span := if ended then 0 else if backward then span - 1 else span + 1 }

/-- A write of `STG_ARRIVE` (R221). Bits above a field of the header and its zero bytes are not looked at: R221 and R244 name no refusal
for them (DESIGN CHOICE, log 47). -/
def State.stgArrive (s : State) (v : Word) : State :=
  if !s.stageHears then s else
  let slot := bits v 63 58
  let backward := bit v 57
  let seq := bits v 23 0
  let role := 2 * b2n backward
  let e := s.stageEntry slot
  let q := s.queueEntry slot role
  let x := s.stage slot
  let k := if backward then x.inBwd else x.inFwd
  if !e.valid ∨ !q.valid ∨ seq ≠ k.next then s.protocolError 1 slot backward 0 seq else
  let r := s.memRead (q.slotAddr seq) 64 ownExt dieHub
  let s := r.1
  let h := r.2.2.map (·.1)
  let mb := num h 8 2
  let span := num h 10 2 % 4096
  let spans := num h 12 2 % 8192
  let tokens := num h 20 4 % 2 ^ 21
  let step := num h 4 4
  if r.2.1 ≠ .opened ∨ r.2.2.any (·.2) ∨ byteAt h 0 ≠ 0x40 ∨ byteAt h 1 % 2 ≠ b2n backward ∨
      s.fld STG_STEP_STATUS.state ≠ stArmed ∨ step ≠ s.fld STG_STEP_STATUS.step then
    s.protocolError 2 slot backward mb seq
  else if !(spanOk k backward e.spanTokens s.stg.mbs mb span spans (num h 16 4 % 2 ^ 21) tokens (x.inflight.find? fun i => i.mb == mb)) then
    s.protocolError 3 slot backward mb seq
  else
    let k' := k.step backward span spans
    let a : Arrival := { q := seq, mb := mb, span := span, spans := spans, tokens := tokens }
    if backward then
      let s := s.setStage slot { x with inBwd := k' }
      (s.stageRecord slot q.array q.window (some 1) (arriveBytes slot true a (q.slotAddr seq))).syncStage slot
    else (s.setStage slot { x with inFwd := k', arrivals := x.arrivals ++ [a] }).evaluate slot

/-- A write of `STG_RELEASE` (R222): the credit goes to the sending controller. -/
def State.stgRelease (s : State) (v : Word) : State :=
  if !s.stageHears then s else
  let slot := bits v 63 58
  let backward := bit v 57
  let seq := bits v 23 0
  let q := s.queueEntry slot (2 * b2n backward)
  let x := s.stage slot
  let k := if backward then x.inBwd else x.inFwd
  if !(s.stageEntry slot).valid ∨ !q.valid ∨ seq ≠ k.released ∨ k.released = k.given then s.protocolError 4 slot backward 0 seq
  else
    let k' := { k with released := (k.released + 1) % 2 ^ 24 }
    let s := s.setStage slot (if backward then { x with inBwd := k' } else { x with inFwd := k' })
    s.stageSend q.peerPkg (stageMessage msgCredit q.peerSlot (b2n backward) 0 ((seq + q.depth) % 2 ^ 24) s.myId)

/-- Writes a CREDIT record into an OUT queue's window. -/
def State.credit (s : State) (slot : Nat) (backward : Bool) (seq : Nat) : State :=
  let q := s.queueEntry slot (if backward then 3 else 1)
  let x := s.stage slot
  let n := (seq + 1) % 2 ^ 24
  let s := s.setStage slot (if backward then { x with creditBwd := n } else { x with creditFwd := n })
  s.stageRecord slot q.array q.window none (stageBytes 0x34 slot (b2n backward) 0 0 0 seq 0 0)

/-- A credit message arrives at the sending controller (R222, R244). -/
def State.creditMessage (s : State) (bs : List Byte) : State :=
  if byteAt bs 0 ≠ msgCredit then s else
  let slot := byteAt bs 1 % 64
  let backward := byteAt bs 2 % 2 == 1
  let seq := num bs 4 4 % 2 ^ 24
  let q := s.queueEntry slot (if backward then 3 else 1)
  let x := s.stage slot
  if !(s.stageEntry slot).valid ∨ !q.valid ∨ seq ≠ (if backward then x.creditBwd else x.creditFwd) then s.protocolError 5 slot backward 0 seq
  else s.credit slot backward seq

/-! ### Requests and frees (R230, R232) -/

/-- A write of `STK_REQ`. -/
def State.stkReq (s : State) (v : Word) : State :=
  if !s.stageHears then s else
  let slot := bits v 63 58
  let q : StkReq := { backward := bit v 57, recomputable := bit v 56, mb := bits v 55 40, n := bits v 39 34, tag := bits v 15 0 }
  let e := s.stageEntry slot
  let x := s.stage slot
  let held := if q.backward then x.bwdReqs else x.fwdReqs
  let discards := !q.backward && e.recompute && q.recomputable && x.trippedMb q.mb
  if !e.valid ∨ !(x.inflight.any fun i => i.mb == q.mb) ∨ q.n = 0 ∨ q.n > 32 ∨ (held.length ≥ 16 ∧ !discards) then
    s.protocolError 6 slot q.backward q.mb 0
  else if discards then s.discard slot e q
  else
    (s.setStage slot (if q.backward then { x with bwdReqs := x.bwdReqs ++ [q] } else { x with fwdReqs := x.fwdReqs ++ [q] })).evaluate slot

/-- A write of `STK_FREE`. -/
def State.stkFree (s : State) (v : Word) : State :=
  if !s.stageHears then s else
  let slot := bits v 63 58
  let mb := bits v 15 0
  let e := s.stageEntry slot
  let x := s.stage slot
  match x.inflight with
  | i :: rest =>
    if i.mb ≠ mb ∨ !e.valid then s.protocolError 7 slot false mb 0
    else
      let s := s.setStage slot { x with inflight := rest, freed := x.freed + 1, stk := x.stk.free e.stkChunks mb
                                        spill := x.spill.free e.spillChunks mb, bres := x.bres.free e.bresChunks mb }
      (s.evaluate slot).checkLocalDone
  | [] => s.protocolError 7 slot false mb 0

/-! ### Arming and clearing (R220, R224, R241 to R243) -/

/-- A write of `STG_STEP_ARM`; accepted in IDLE or DONE (R242). -/
def State.stepArm (s : State) (v : Word) : State :=
  let st := s.fld STG_STEP_STATUS.state
  let mbs := bits v 31 16
  if (st ≠ stIdle ∧ st ≠ stDone) ∨ mbs = 0 then s else
  let s := s.setFld STG_STEP_STATUS.state 0 0 stArmed
  let s := s.setFld STG_STEP_STATUS.step 0 0 (bits v 63 32)
  let s := s.setFld STG_STEP_STATUS.cause 0 0 0
  let s := s.setFld STG_STEP_STATUS.user_code 0 0 0
  let s := { s with stg := { s.stg with mbs := mbs, decided := s.stg.decided.erase (bits v 63 32, s.stg.attempts) } }
  -- what was decided of layers in an earlier use of the step's number is over (R224, R258)
  let s := { s with tmp := { s.tmp with norms := s.tmp.norms.filter fun (y : Nat × Nat × Nat) => y.2.1 != bits v 63 32,
                                        stopped := s.tmp.stopped.filter fun (y : Nat × Nat) => y.2 != bits v 63 32 } }
  let s := s.validStages.foldl (fun s n =>
    let x := s.stage n
    s.setStage n { x with freed := 0, inFwd := { x.inFwd with mb := 0, span := 0, spans := 0 }, inBwd := { x.inBwd with mb := 0, span := 0, spans := 0 } }) s
  let s := s.shardList.foldl (fun s x => s.syncPresent x.1) s
  s.checkLocalDone

/-- Every ring, list and sequence number of every stage at its start, and the D first CREDIT records of each valid OUT queue
(R220, R241). Step records that wait for a control window stay. -/
def State.stageStart (s : State) : State :=
  (List.range 64).foldl (fun s n =>
    let keep := (s.stage n).records.filter fun r => byteAt r.bytes 0 == 0x35 || byteAt r.bytes 0 == 0x36
    let s := s.setStage n { records := keep }
    let e := s.stageEntry n
    if !e.valid then s else
    let s := [false, true].foldl (fun s b =>
      let q := s.queueEntry n (if b then 3 else 1)
      if q.valid then (List.range q.depth).foldl (fun s i => s.credit n b i) s else s) s
    s.syncStage n) s

/-- The arrays of a stage that its entry and its valid queue entries name. -/
def State.stageArrays (s : State) (n : Nat) : List Nat :=
  ((s.stageEntry n).lead :: (((List.range 4).map fun r => s.queueEntry n r).filter (·.valid)).map (·.array)).eraseDups

/-- The pour enables the two streams of a train stage's arrays with the shares, reserve and window that their `FBI_CFG` holds, where
R170 takes the write (R218; log 47). -/
def State.pourTrain (s : State) (n : Nat) : State :=
  if !(s.stageEntry n).train then s else
  (s.stageArrays n).foldl (fun s a =>
    let v := setBits (s.rd .FBI_CFG a) 63 63 1
    let b := bits v 58 56
    if fbiEmpty v || b == s.fld ARR_SEQ_CFG.cmd_window a || b == s.fld ARR_SEQ_CFG.trailer_window a then s else s.wr .FBI_CFG a 0 v) s

/-- What the pour makes of the stage tables it has loaded: interleaving and the first CREDIT records (R218, R220). -/
def State.pourStages (s : State) : State := (s.validStages.foldl State.pourTrain s).stageStart

/-- A write of `STG_CLEAR` (R241). -/
def State.stageClear (s : State) (v : Word) : State :=
  if s.fld STG_STEP_STATUS.state ≠ stAborted ∨ !(bit v 0) then s else
  let s := s.stageStart
  let s := s.setFld STG_STEP_STATUS.state 0 0 stClearing
  if s.isRoot then s.rootCleared s.myId
  else s.stageSend (s.fld STG_ROOT.root) (stageMessage msgCleared 0 0 0 (s.fld STG_STEP_STATUS.step) s.myId)

end Sys2Proof.Machine
end

