-- ==== Sys2Proof/Machine/TemperOps.lean ====
section
/-! DEFINITION. The temper units: segments, reduction, the layer norm, the update, staging, replicas, the update ratio and the
assay (R253 to R279). -/

namespace Sys2Proof.Machine

/-! ### Messages (R279) -/

def normBytes (skip missing : Bool) (attempt step layerId ordinal value : Nat) : List Byte :=
  [0x60#8, BitVec.ofNat 8 (b2n skip + 2 * b2n missing)] ++ leBytes 2 attempt ++ leBytes 4 step ++ leBytes 4 (layerId + ordinal * 65536) ++
    leBytes 4 0 ++ leBytes 8 value ++ List.replicate 40 0#8

def ratioBytes (skip : Bool) (attempt step layerId ordinal u w : Nat) : List Byte :=
  [0x61#8, BitVec.ofNat 8 (b2n skip)] ++ leBytes 2 attempt ++ leBytes 4 step ++ leBytes 4 (layerId + ordinal * 65536) ++ leBytes 4 0 ++
    leBytes 8 u ++ leBytes 8 w ++ List.replicate 32 0#8

def stagedBytes (attempt step id version addr bytes : Nat) : List Byte :=
  [0x62#8, 0#8] ++ leBytes 2 attempt ++ leBytes 4 step ++ leBytes 4 id ++ leBytes 4 version ++ leBytes 8 addr ++ leBytes 8 bytes ++
    List.replicate 32 0#8

def unchangedBytes (reason attempt step id version : Nat) : List Byte :=
  [0x63#8, BitVec.ofNat 8 reason] ++ leBytes 2 attempt ++ leBytes 4 step ++ leBytes 4 id ++ leBytes 4 version ++ List.replicate 48 0#8

def assayBytes (id version addr bytes : Nat) (digest : List Byte) : List Byte :=
  [0x64#8, 0#8, 0#8, 0#8, 0#8, 0#8, 0#8, 0#8] ++ leBytes 4 id ++ leBytes 4 version ++ leBytes 8 addr ++ leBytes 8 bytes ++ digest

/-- A message of another attempt is ignored (R266). -/
def State.thisAttempt (s : State) (bs : List Byte) : Bool := num bs 2 2 == s.stg.attempts

/-- A fault of a shard: `TMP_ERR_INFO` and an event of class 0x08. -/
def State.temperFault (s : State) (code replica check index unit : Nat) : State :=
  let s := s.wr .TMP_ERR_INFO 0 0 (BitVec.ofNat 64 (code * 2 ^ 56 + replica % 4096 * 2 ^ 44 + check * 2 ^ 40 + index % 2 ^ 15))
  s.raise 8 code unit (s.rd .TMP_ERR_INFO)

/-! ### Segments (R253, R254) -/

/-- The owner shard, bank and replica ordinal of a landing address. -/
def State.landingSlot (s : State) (addr : Nat) : Option (Nat × ShardEntry × Nat × Nat) :=
  s.shardList.findSome? fun x =>
    let e := x.2
    if !e.owner ∨ addr < e.landing then none else
    let off := addr - e.landing
    let j := off / max 1 e.slotBytes
    if off % max 1 e.slotBytes = 0 ∧ j < 2 * e.nRep then some (x.1, e, j / max 1 e.nRep, j % max 1 e.nRep) else none

/-- The first check of R254 that a segment fails. Bits of the header above expert or ordinal and its reserved bytes are not looked at: R254
names no check of them (DESIGN CHOICE, log 58). -/
def State.segmentCheck (s : State) (x : Nat) (e : ShardEntry) (bank r : Nat) (h payload : List Byte) (bad : Bool) : Option Nat :=
  let armed := s.fld STG_STEP_STATUS.step
  let step := num h 8 4
  let len := num h 16 4
  let empty := byteAt h 1 / 2 % 2 == 1
  let id := num h 4 2
  firstFailure [
    (1, byteAt h 0 != (if e.kind = 2 then 0x20 else 0x21)),
    (2, num h 2 2 != (s.tlayer e.layer).layerId),
    (3, if e.kind = 2 then id % 4096 != e.expert else id % 8192 != e.ordinal),
    (4, num h 6 2 != ((s.replicaList e).getD r (0, 0)).2),
    (5, (step != armed && step != (armed + 1) % 2 ^ 32) || step % 2 != bank),
    (6, !(if empty then len == 0 && e.kind == 2 else len == 4 * e.n)),
    (7, num h 20 4 != (if empty then 0 else crc32c payload)),
    (8, bad),
    (9, (s.tshard x).segs.any fun g => g.step == step && g.replica == r)]

/-- A corrupted segment: the check it fails, its replica, and its shard and unit (R254). -/
def State.corruptSegment (s : State) (check r x unit : Nat) : State :=
  ((s.bump TMP_PERF_BAD_SEGMENT.count 0 0 1).temperFault 4 r check x unit).softAbort 0xE1

/-- A store to `TMP_SEG_ARRIVE`. -/
def State.segArrive (s : State) (v : Word) : State :=
  let addr := bits v 47 0
  if !s.stageHears then s else
  match s.landingSlot addr with
  | none => s.corruptSegment 0xA 0 0 0xFFFF
  | some (x, e, bank, r) =>
    let hd := s.unitRead e.unit addr 32
    let h := hd.2.1
    let len := num h 16 4
    let bd := hd.1.unitRead e.unit (addr + 32) (if len = 4 * e.n then len else 0)
    let s := bd.1
    let fail := if hd.2.2 then some 8 else s.segmentCheck x e bank r h bd.2.1 bd.2.2
    match fail with
    | some c => s.corruptSegment c r x e.unit
    | none =>
      let sh := s.tshard x
      let g : Seg := { step := num h 8 4, replica := r, count := num h 12 4, empty := byteAt h 1 / 2 % 2 == 1 }
      let s := s.setTshard x { sh with segs := sh.segs ++ [g] }
      let s := s.bump TMP_PERF_SEGMENTS.count 0 0 1
      let s := if s.phase x = phIdle then s.setPhase x phCollect else s
      (s.syncPresent x).syncUnit e.unit

/-! ### Reduction (R255, R256) -/

/-- The payload word that holds each element, in element order (R255). -/
def ShardEntry.words (e : ShardEntry) : List Nat :=
  (e.parts.foldl (fun (acc : List Nat × Nat) p =>
    let (nin, nout) := p
    let w := fun (i o : Nat) =>
      if e.tiled then
        let tile := (i / e.h / 32 * e.h + i % e.h) * (nout / 64) + o / 2 / 32
        1024 * (2 * tile + o % 2) + 32 * (i / e.h % 32) + o / 2 % 32
      else i * nout + o
    (acc.1 ++ (List.range (nin * nout)).map fun k => acc.2 + w (k / nout) (k % nout), acc.2 + nin * nout)) ([], 0)).1

/-- The landing address of a step's segment from a replica (R253). -/
def ShardEntry.slotAddr (e : ShardEntry) (step r : Nat) : Nat := e.landing + (step % 2 * e.nRep + r) * e.slotBytes

/-- The payloads of the non-empty segments of a step as the unit reads them; the replica of one that cannot be used. -/
def State.payloads (s : State) (e : ShardEntry) (step : Nat) (segs : List Seg) : State × Option Nat × List (Array Byte) :=
  (segs.filter fun g => !g.empty).foldl (fun acc g =>
    let r := acc.1.unitRead e.unit (e.slotAddr step g.replica + 32) (4 * e.n)
    (r.1, acc.2.1.or (if r.2.2 then some g.replica else none), acc.2.2 ++ [r.2.1.toArray])) (s, none, [])

/-- The gradient sums of a shard as binary64, with each element's events (R57, R256). -/
def ShardEntry.gradients (e : ShardEntry) (segs : List Seg) (payloads : List (Array Byte)) : List (Num × Exc) :=
  let word := fun (p : Array Byte) (w : Nat) => a32 ((List.range 4).map fun i => (p.getD (4 * w + i) 0).toNat * 256 ^ i).sum
  let c := (segs.map (·.count)).sum
  let fv := div64 (.one, Exc.none) (.fin false c 0, Exc.none)
  e.words.map fun w =>
    let sum := payloads.foldl (fun (acc : Num × Exc) p =>
      let r := accumulateRec acc.1 (word p w)
      (r.1, acc.2 ||| r.2)) (.zero, Exc.none)
    if e.visitNorm && c > 0 then mul64 sum (fv.1, Exc.none) else sum

/-- The sum of squares, in ascending index from +0, with its events (R256). -/
def sumSquares (g : List Num) : Num × Exc :=
  g.foldl (fun (acc : Num × Exc) x => add64 acc (mul64 (x, Exc.none) (x, Exc.none))) (.zero, Exc.none)

/-- A sum of binary64 terms in their order from +0, with its events (R258, R273). -/
def sumTerms (xs : List Nat) : Num × Exc :=
  xs.foldl (fun (acc : Num × Exc) b => add64 acc (b64 b, consumed [b64 b])) (.zero, Exc.none)

/-- NORM_PARTIAL to every distinct unit of the layer's owner list (R257). -/
def State.sendNorm (s : State) (e : ShardEntry) (step value : Nat) (skip missing : Bool) : State :=
  let l := s.tlayer e.layer
  let bs := normBytes skip missing s.stg.attempts step l.layerId e.ordinal value
  (s.ownerList l).eraseDups.foldl (fun s o => s.temperSend e.unit o.1 o.2 bs) s

/-- UNCHANGED to each replica package other than this (R265). -/
def State.sendUnchanged (s : State) (x : Nat) (e : ShardEntry) (reason step : Nat) : State :=
  let bs := unchangedBytes reason s.stg.attempts step e.id (s.fld TMP_SHARD_STATE.version x)
  (s.replicaList e).foldl (fun s r => if r.1 = s.myId then s else s.temperSend e.unit r.1 e.unit bs) s

def State.sendRatio (s : State) (e : ShardEntry) (step u w : Nat) (skip : Bool) : State :=
  let l := s.tlayer e.layer
  s.temperSend e.unit l.leadPkg l.leadUnit (ratioBytes skip s.stg.attempts step l.layerId e.ordinal u w)

/-- An owned shard is decided unchanged; after COMMIT(DONE) its READY record follows at once (R265, R267). -/
def State.decideUnchanged (s : State) (x : Nat) (e : ShardEntry) (reason step : Nat) : State :=
  let s := s.sendUnchanged x e reason step
  let s := s.setTshard x { (s.tshard x) with reason := reason }
  let s := if s.phase x = phDamaged then s else s.setPhase x phUnchanged
  s.shardDecided x e

/-- A shard whose segments are all present is reduced (R256, R257). -/
def State.shardReduce (s : State) (x : Nat) : State :=
  match s.shardEntry x with
  | none => s
  | some e =>
    let sh := s.tshard x
    let step := s.workStep x
    let segs := sh.segsOf step e.nRep
    if !e.owner ∨ !(s.shardWorks x) ∨ e.nRep = 0 ∨ segs.length < e.nRep then s
    else if s.phase x = phDamaged then (s.softAbort 0xE2).shardDecided x e
    else if (s.phase x ≠ phIdle ∧ s.phase x ≠ phCollect) ∨ s.pathState ⟨.UST_TEMPER, e.unit⟩ = tsDraining then s
    else
      let c : Nat := (segs.map (·.count)).sum
      if e.kind = 2 ∧ c = 0 then
        let s := s.bump TMP_PERF_ZERO_VISIT.count 0 0 1
        let s := s.mapWindow fun w => { w with zeroVisit := w.zeroVisit + 1 }
        let s := s.sendNorm e step 0 true false
        let s := s.sendRatio e step 0 0 true
        s.decideUnchanged x e 2 step
      else
        let p := s.payloads e step segs
        match p.2.1 with
        | some r => p.1.corruptSegment 8 r x e.unit
        | none =>
          let g := e.gradients segs p.2.2
          let S := sumSquares (g.map (·.1))
          let s := p.1.recordUnit e.unit ((g.foldl (fun (r : Record) y => r.element y.2) {}).element S.2)
          let s := s.sendNorm e step (toB64 S.1) false false
          (s.setPhase x phParked).syncUnit e.unit

/-- A shard whose segments stay incomplete after COMMIT(DONE) becomes missing, a DAMAGED one too (R268). -/
def State.segmentTimeout (s : State) (x : Nat) : State :=
  match s.shardEntry x, (s.tshard x).late with
  | some e, step :: _ =>
    if !e.owner ∨ (s.phase x ≠ phIdle ∧ s.phase x ≠ phCollect ∧ s.phase x ≠ phDamaged) ∨ ((s.tshard x).segsOf step e.nRep).length ≥ e.nRep then s else
    let s := s.sendNorm e step 0 false true
    let s := s.bump TMP_PERF_MISSING.count 0 0 1
    let s := s.temperFault 7 0 0 x e.unit
    s.decideUnchanged x e 3 step
  | _, _ => s

/-! ### The layer norm (R258) -/

/-- N of a layer with the events of S and N, and what is decided on it: none for an update, else the flags of the WITHHELD record. -/
def State.judgeNorm (s : State) (l : TLayer) (ps : List Partial) : (Num × Exc) × Option Nat :=
  let N := sqrt64 (sumTerms (ps.map (·.value)))
  let C := a32 (if l.ceil = 0 then s.fld TEMPER_NORM_CEIL.ceil else l.ceil)
  let odd := N.1.isNan || N.1.isInf
  let missing := ps.any (·.missing)
  (N, if odd || missing || C.lt N.1 then some (2 * b2n odd + 4 * b2n missing) else none)

/-- The clip factor of a layer whose norm is N (R258): no division takes place where N is not above clip. -/
def clipFactor (l : TLayer) (N : Num) : Num × Exc :=
  let clip := a32 l.clip
  if Num.zero.lt clip && clip.lt N then div64 (clip, Exc.none) (N, Exc.none) else (.one, Exc.none)

/-- The units of this package that a layer's owner list names. -/
def State.ownUnits (s : State) (l : TLayer) : List Nat :=
  (((s.ownerList l).filter fun o => o.1 == s.myId).map (·.2)).eraseDups

/-- The layer's update is withheld. -/
def State.withhold (s : State) (li : Nat) (l : TLayer) (step flags norm : Nat) : State :=
  let mine := s.shardList.filter fun x => x.2.owner && x.2.layer == li
  let s := mine.foldl (fun s x =>
    let s := s.bump TMP_PERF_WITHHELD.count 0 0 1
    if s.phase x.1 = phParked then s.decideUnchanged x.1 x.2 1 step else s) s
  let s := s.mapWindow fun w => { w with anyWithheld := true }
  if l.leadPkg ≠ s.myId then s else
  let s := { s with tmp := { s.tmp with ratios := s.tmp.ratios.filter fun y => !(y.layer == li && y.step == step)
                                        stopped := s.tmp.stopped ++ [(li, step)] } }
  let s := s.telemetry (unitDie l.leadUnit) 2 flags l.layerId step norm 0 0 0
  let s := s.mapWindow fun w => { w with withheld := w.withheld + 1, firstWithheld := if w.withheld = 0 then l.layerId else w.firstWithheld }
  s.raise 8 1 l.leadUnit 0

/-- NORM_PARTIAL arrives: it is stored, and with the last one the layer is decided (R257, R258). -/
def State.normPartial (s : State) (bs : List Byte) : State :=
  if byteAt bs 0 ≠ 0x60 ∨ !(s.thisAttempt bs) then s else
  match s.tlayerIndex (num bs 8 2) with
  | none => s
  | some li =>
    let l := s.tlayer li
    let step := num bs 4 4
    let p : Partial := { layer := li, step := step, ordinal := num bs 10 2 % 8192, skip := byteAt bs 1 % 2 == 1
                         missing := byteAt bs 1 / 2 % 2 == 1, value := num bs 16 8 }
    if (s.tmp.partials.any fun y => y.layer == li && y.step == step && y.ordinal == p.ordinal) ∨
        (s.tmp.norms.any fun y => y.1 == li && y.2.1 == step) then s
    else
    let s := s.putMem (l.partials + 8 * p.ordinal) (leBytes 8 p.value) ownExt (unitDie ((s.ownUnits l).headD 0))
    let ps := s.tmp.partials ++ [p]
    let s := { s with tmp := { s.tmp with partials := ps } }
    let mine := (List.range l.nShards).filterMap fun o => ps.find? fun y => y.layer == li && y.step == step && y.ordinal == o
    if mine.length < l.nShards then s else
    let j := s.judgeNorm l mine
    let norm := toB64 j.1.1
    let k := clipFactor l j.1.1
    let s := (s.ownUnits l).foldl (fun (s : State) u =>
      s.recordUnit u ((({} : Record).element j.1.2).element (if j.2.isNone then k.2 else Exc.none))) s
    let s := { s with tmp := { s.tmp with partials := ps.filter fun y => !(y.layer == li && y.step == step)
                                          norms := (s.tmp.norms.filter fun (y : Nat × Nat × Nat) => !(y.1 == li && y.2.1 + 1 < step)) ++ [(li, step, norm)] } }
    match j.2 with
    | some flags => s.withhold li l step flags norm
    | none =>
      s.shardList.foldl (fun (s : State) (x : Nat × ShardEntry) =>
        if x.2.owner ∧ x.2.layer = li ∧ s.phase x.1 = phParked then
          ((s.setTshard x.1 { (s.tshard x.1) with k := toB64 k.1 }).setPhase x.1 phApply).syncUnit x.2.unit
        else s) s

/-! ### The update (R259 to R263) -/

def mix64 (x : BitVec 64) : BitVec 64 :=
  let x := x ^^^ (x >>> 31)
  let x := x * 0x8F3A51C72D96E4B1#64
  let x := x ^^^ (x >>> 29)
  let x := x * 0x5B1D92E6A37C0F85#64
  x ^^^ (x >>> 32)

/-- The draw of R262. -/
def srBits (seed : Word) (step id e : Nat) : Nat :=
  let x := mix64 (seed ^^^ BitVec.ofNat 64 (step % 2 ^ 32 * 2 ^ 32 + id))
  (mix64 (x ^^^ BitVec.ofNat 64 e) >>> 50).toNat

/-- pow of R260, over the bits of n from the most significant down. -/
def pow64 (b : Num × Exc) (n : Nat) : Num × Exc :=
  (List.range (Nat.log2 n + 1)).foldl (fun (r : Num × Exc) i =>
    let r := mul64 r r
    if n / 2 ^ (Nat.log2 n - i) % 2 = 1 then mul64 r b else r) (.one, Exc.none)

/-- The values of a hyperparameter set (R259). -/
structure Hset where
  lr : Num
  b1 : Num
  b2 : Num
  eps : Num
  wd : Num
  deriving DecidableEq, Repr

/-- A hyperparameter set as a unit reads it; none where it cannot be used. -/
def State.hset (s : State) (u i : Nat) : State × Option Hset :=
  let r := s.unitRead u (s.fld TMP_HSET_BASE.base + 32 * i) 32
  let f := fun j => a32 (num r.2.1 (4 * j) 4)
  (r.1, if r.2.2 then none else some { lr := f 0, b1 := f 1, b2 := f 2, eps := f 3, wd := f 4 })

/-- One element of the update: w1, m1 and, for ADAMW, v1, with the events of each (R260). The gradient comes with the events of its
clipping. -/
def updateElement (opt : Nat) (h : Hset) (t : Nat) (g : Num × Exc) (w m v : Num) : (Num × Exc) × (Num × Exc) × (Num × Exc) :=
  let c := fun (x : Num) => ((x, consumed [x]) : Num × Exc)
  let one : Num × Exc := (.one, Exc.none)
  let w := c w
  let m := c m
  if opt = 0 then
    let m1 := add64 (mul64 (c h.b1) m) g
    let u := mul64 (c h.lr) (add64 m1 (mul64 (c h.wd) w))
    (sub64 w u, m1, (.zero, Exc.none))
  else if opt = 1 then
    let c1 := sub64 one (c h.b1)
    let c2 := sub64 one (c h.b2)
    let m1 := add64 (mul64 (c h.b1) m) (mul64 c1 g)
    let v1 := add64 (mul64 (c h.b2) (c v)) (mul64 c2 (mul64 g g))
    let h1 := sub64 one (pow64 (c h.b1) (t + 1))
    let h2 := sub64 one (pow64 (c h.b2) (t + 1))
    let dn := add64 (sqrt64 (div64 v1 h2)) (c h.eps)
    let u := div64 (div64 m1 h1) dn
    let u := mul64 (c h.lr) (add64 u (mul64 (c h.wd) w))
    (sub64 w u, m1, v1)
  else
    let a := add64 (mul64 (c h.b1) m) (mul64 (sub64 one (c h.b1)) g)
    let sign := match a.1 with
      | .nan => (.nan, a.2)
      | .inf n => (.fin n 1 0, a.2)
      | .fin n k _ => (if k = 0 then .zero else .fin n 1 0, a.2)
    let u := mul64 (c h.lr) (add64 sign (mul64 (c h.wd) w))
    let m1 := add64 (mul64 (c h.b2) m) (mul64 (sub64 one (c h.b2)) g)
    (sub64 w u, m1, (.zero, Exc.none))

/-- A binary64 result at A32 width, rounded to odd; beyond the range it takes the largest finite value (R261). The width is an
intermediate one: whether a value falls below the destination's range is judged after the last rounding (R50, R67). -/
def narrowA32 (x : Num) : Num × Exc :=
  match roundOdd32 x with
  | .fin s m e =>
    if m ≠ 0 ∧ (Nat.log2 m : Int) + e > 127 then (maxA32 s, Exc.overflow) else (.fin s m e, Exc.none)
  | y => (y, Exc.none)

def narrowTo (enc : Num → Nat × Exc) (x : Num × Exc) : Nat × Exc :=
  let a := narrowA32 x.1
  let r := enc a.1
  (r.1, r.2 ||| a.2 ||| x.2)

/-- The 2-byte words of a span that was read. -/
def halfWords (bs : List Byte) : Nat → Nat :=
  let a := bs.toArray
  fun i => (a.getD (2 * i) 0).toNat + 256 * (a.getD (2 * i + 1) 0).toNat

/-- The new master, first moment and second moment of each element as encodings, with their events: the clip factor, the update and the
draws of R262 (R258 to R262). The sums' own events were recorded at the reduction (R256). -/
def updateAll (e : ShardEntry) (h : Hset) (k : Nat) (seed : Word) (step t : Nat) (g : List Num) (w0 m0 v0 : Nat → Nat) :
    List ((Nat × Exc) × (Nat × Exc) × (Nat × Exc)) :=
  g.zipIdx.map fun y =>
    let i := y.2
    let g := if k = toB64 .one then (y.1, Exc.none) else mul64 (y.1, Exc.none) (b64 k, Exc.none)
    let r := updateElement e.opt h t g (Lin.w16.decode (w0 i)) (Lin.m16.decode (m0 i)) (if e.opt = 1 then Lin.m16.decode (v0 i) else .zero)
    (narrowTo (Lin.w16.encodeWith (shiftStochastic (srBits seed step e.id i))) r.1, narrowTo Lin.m16.encode r.2.1, narrowTo Lin.m16.encode r.2.2)

/-- What the apply phase reads, beside the segments and the hyperparameters: header, master, first and, for ADAMW, second moment. -/
structure ApplyInput where
  header : List Byte
  master : List Byte
  m : List Byte
  v : List Byte
  deriving DecidableEq, Repr

/-- The reads of the apply phase (R260); none where a byte of them cannot be used (R269). -/
def State.applyReads (s : State) (x : Nat) (e : ShardEntry) : State × Option ApplyInput :=
  let src := e.image (s.fld TMP_SHARD_STATE.cur x)
  let mom := e.moment (s.fld TMP_SHARD_STATE.cur x)
  let hd := s.unitRead e.unit src 64
  let wr := hd.1.unitRead e.unit (src + offMaster) (2 * e.n)
  let mr := wr.1.unitRead e.unit mom (2 * e.n)
  let vr := if e.opt = 1 then mr.1.unitRead e.unit (mom + pageUp (2 * e.n)) (2 * e.n) else (mr.1, [], false)
  (vr.1, if hd.2.2 || wr.2.2 || mr.2.2 || vr.2.2 then none else some ⟨hd.2.1, wr.2.1, mr.2.1, vr.2.1⟩)

/-- What the update of a shard makes of what it reads: its events and elements; none where a byte it reads cannot be used (R256, R259,
R269; log 49 for the segments and the hyperparameters). -/
def State.applyCompute (s : State) (x : Nat) (e : ShardEntry) :
    State × Option (Nat × (Nat → Nat) × List ((Nat × Exc) × (Nat × Exc) × (Nat × Exc))) :=
  let sh := s.tshard x
  let step := s.workStep x
  let segs := sh.segsOf step e.nRep
  let r := s.applyReads x e
  let h := r.1.hset e.unit e.hset
  let p := h.1.payloads e step segs
  (p.1, match r.2, h.2, p.2.1 with
    | some a, some h, none =>
      let t := num a.header 8 4
      let w0 := halfWords a.master
      some (t, w0, updateAll e h sh.k (s.rd .TMP_SEED) step t ((e.gradients segs p.2.2).map (·.1)) w0 (halfWords a.m) (halfWords a.v))
    | _, _, _ => none)

/-- A buffer that is to be written is not digested any further (R276). -/
def State.abandonDigests (s : State) (x base : Nat) : State :=
  let hit := fun (d : Digest) => d.shard == x && d.base == base
  ({ s with tmp := { s.tmp with digests := s.tmp.digests.filter fun d => !(hit d) } }).bump TMP_PERF_ASSAY_ABANDON.count 0 0
    (s.tmp.digests.filter hit).length

/-- The buffers not selected by cur take the new master, moments, working copy and header page (R251, R263, R265). -/
def State.applyWrites (s : State) (x : Nat) (e : ShardEntry) (t : Nat) (w0 : Nat → Nat)
    (out : List ((Nat × Exc) × (Nat × Exc) × (Nat × Exc))) : State :=
  let step := s.workStep x
  let cur := s.fld TMP_SHARD_STATE.cur x
  let ws := out.map fun o => o.1.1
  let d := e.derive ws.toArray
  let pairs := ws.zipIdx.map fun y => (Lin.w16.decode y.1, Lin.w16.decode (w0 y.2))
  let diffs := pairs.map fun p => sub64 (p.1, Exc.none) (p.2, Exc.none)
  let u := sumSquares (diffs.map (·.1))
  let w2 := sumSquares (pairs.map (·.2))
  let rec' := out.foldl (fun (q : Record) o => ((q.element o.1.2).element o.2.1.2).element o.2.2.2) d.2.2
  let s := s.recordUnit e.unit ((rec'.element (diffs.foldl (fun x d => x ||| d.2) u.2)).element w2.2)
  let dst := e.image (1 - cur)
  let dmom := e.moment (1 - cur)
  let s := s.abandonDigests x dst
  let put := fun (s : State) (at' : Nat) (bs : List Byte) => s.putMem at' bs ownExt (unitDie e.unit)
  let s := put s (dst + offMaster) (ws.flatMap (leBytes 2))
  let s := put s dmom (out.flatMap fun o => leBytes 2 o.2.1.1)
  let s := if e.opt = 1 then put s (dmom + pageUp (2 * e.n)) (out.flatMap fun o => leBytes 2 o.2.2.1) else s
  let s := put s (dst + e.offDir) d.1
  let s := put s (dst + e.offPlane) d.2.1
  let s := put s dst (imageHeader e ((t + 1) % 2 ^ 32) step d.2.1.length ++ List.replicate (offMaster - 64) 0)
  s.setTshard x { (s.tshard x) with applied := some ((t + 1) % 2 ^ 32, d.2.1.length, toB64 u.1, toB64 w2.1) }

/-- Poisoned owner state: the shard becomes DAMAGED, and steps already committed DONE have its READY records (R267, R269). -/
def State.ownerDamaged (s : State) (x : Nat) (e : ShardEntry) : State :=
  ((s.setPhase x phDamaged).shardDecided x e).temperFault 6 0 0 x e.unit

/-- The released shard's apply phase (R260 to R263, R265). A poisoned word in what it reads ends the job (R269). -/
def State.applyPhase (s : State) (x : Nat) : State :=
  match s.shardEntry x with
  | none => s
  | some e =>
    if s.phase x ≠ phApply ∨ (s.tshard x).applied.isSome then s else
    let r := s.applyCompute x e
    match r.2 with
    | none => (r.1.ownerDamaged x e).softAbort 0xE2
    | some (t, w0, out) => r.1.applyWrites x e t w0 out

/-- The applied shard is staged: STAGED and RATIO_PARTIAL go out; after COMMIT(DONE) it flips at once (R265, R266, R273). -/
def State.shardStaged (s : State) (x : Nat) : State :=
  match s.shardEntry x, (s.tshard x).applied with
  | some e, some (version, plane, u, w) =>
    let step := s.workStep x
    if s.phase x ≠ phApply then s else
    let s := s.bump TMP_PERF_UPDATES.count 0 0 1
    let addr := s.myId * 2 ^ 48 + s.otherImage x e
    let bs := stagedBytes s.stg.attempts step e.id version addr (e.offPlane + plane)
    let s := (s.replicaList e).foldl (fun s r => if r.1 = s.myId then s else s.temperSend e.unit r.1 e.unit bs) s
    let s := s.sendRatio e step u w false
    let s := s.setPhase x phStaged
    s.shardDecided x e
  | _, _ => s

/-- A write of `TMP_DERIVE` re-derives a working copy in place (R264); from a master that cannot be read nothing is derived (log 49). -/
def State.deriveShard (s : State) (v : Word) : State :=
  let x := bits v 14 0
  match s.shardEntry x with
  | none => s
  | some e =>
    let base := s.curImage x e
    let r := s.unitRead e.unit (base + offMaster) (2 * e.n)
    let s := r.1
    if r.2.2 then (s.ownerDamaged x e).showJob e.unit 3 x else
    let w := halfWords r.2.1
    let d := e.derive ((List.range e.n).map w).toArray
    let s := s.recordUnit e.unit d.2.2
    let put := fun (s : State) (at' : Nat) (bs : List Byte) => s.putMem at' bs ownExt (unitDie e.unit)
    let s := put s (base + e.offDir) d.1
    let s := put s (base + e.offPlane) d.2.1
    let s := put s (base + 24) (leBytes 4 d.2.1.length)
    ((s.showVersion x e).markChanged e).showJob e.unit 3 x

/-! ### Replicas (R270, R271) -/

/-- STAGED arrives at a replica (R270). -/
def State.stagedMessage (s : State) (bs : List Byte) : State :=
  if byteAt bs 0 ≠ 0x62 ∨ !(s.thisAttempt bs) then s else s.replicaMessage bs

/-- UNCHANGED arrives at a replica (R271). -/
def State.unchangedMessage (s : State) (bs : List Byte) : State :=
  if byteAt bs 0 ≠ 0x63 ∨ !(s.thisAttempt bs) then s else s.replicaMessage bs

/-- A fetch takes in a line of its block k; a block with a bad line, once its lines are all there, is read again, up to three times
(R270). Answers the fetch, the requests, and the blocks read again. -/
def Fetch.line (f : Fetch) (e : ShardEntry) (k : Nat) (bad : Bool) : Fetch × List Request × Nat :=
  let last := min f.bytes (1024 * k + 1024)
  let b := Sparse.get {} f.blocks k
  let b : FetchBlock := { b with got := b.got + 1, bad := b.bad || bad }
  let f := { f with left := f.left - 1 }
  if b.got < (last - 1024 * k + 127) / 128 then ({ f with blocks := Sparse.put {} f.blocks k b }, [], 0)
  else if !b.bad then ({ f with blocks := Sparse.put {} f.blocks k { fails := b.fails } }, [], 0)
  else if b.fails ≥ 3 then ({ f with blocks := Sparse.put {} f.blocks k {}, failed := true }, [], 0)
  else
    let qs := f.lines e (1024 * k) last
    ({ f with left := f.left + qs.length, blocks := Sparse.put {} f.blocks k { fails := b.fails + 1 } }, qs, 1)

/-- A line of an image comes back for a fetch of this package. -/
def State.fetchLine (s : State) (unit pkg addr : Nat) (data : List (Byte × Bool)) : State :=
  let hit := s.shardList.find? fun x => x.2.unit == unit && match (s.tshard x.1).fetch with
    | some f => f.pkg == pkg && f.addr ≤ addr && addr < f.addr + f.bytes && f.left != 0
    | none => false
  match hit with
  | none => s
  | some (x, e) =>
    match (s.tshard x).fetch with
    | none => s
    | some f =>
      let off := addr - f.addr
      let d := data.take (f.bytes - off)
      let s := s.abandonDigests x (s.otherImage x e)
      let s := s.putCopy (s.otherImage x e + off) d ownExt (unitDie e.unit)
      let r := f.line e (off / 1024) (data.isEmpty || d.any (·.2))
      let s := s.bump TMP_PERF_FETCH_RETRY.count 0 0 r.2.2
      (s.setTshard x { (s.tshard x) with fetch := some r.1 }).sendAll r.2.1

/-- The whole 1 KiB blocks of a fetched image whose CRC-32C is not the owner's entry: each is read again, up to three times (R270). Answers
the fetch, the requests, and the blocks read again. -/
def State.checkBlocks (s : State) (x : Nat) (e : ShardEntry) (f : Fetch) (entries : List (Nat × Nat)) : Fetch × List Request × Nat :=
  entries.foldl (fun acc y =>
    let f := acc.1
    if 1024 * y.1 + 1024 > f.bytes ∨ crc32c (s.getMem (s.otherImage x e + 1024 * y.1) 1024) = y.2 then acc else
    let b := Sparse.get {} f.blocks y.1
    if b.fails ≥ 3 then ({ f with failed := true }, acc.2)
    else
      let qs := f.lines e (1024 * y.1) (1024 * y.1 + 1024)
      ({ f with left := f.left + qs.length, blocks := Sparse.put {} f.blocks y.1 { fails := b.fails + 1 } }, acc.2.1 ++ qs, acc.2.2 + 1))
    (f, [], 0)

/-- The lines of a fetch have all come, with the entries of the owner's side table that its controller gave with them, by block (R270, R297;
log 49): the fetch ends, or blocks are read again. -/
def State.endFetch (s : State) (x : Nat) (e : ShardEntry) (f : Fetch) (entries : List (Nat × Nat)) : State × Option Bool :=
  let r := s.checkBlocks x e f entries
  let s := s.bump TMP_PERF_FETCH_RETRY.count 0 0 r.2.2
  if r.2.1.isEmpty then (s.setTshard x { (s.tshard x) with fetch := none }, some !r.1.failed)
  else ((s.setTshard x { (s.tshard x) with fetch := some r.1 }).sendAll r.2.1, none)

/-- A fetch for which the owner's side table has come or, with `ok` false, cannot be had: no block of it can be checked, and it fails (R270;
log 49). -/
def Fetch.heard (f : Fetch) (ok : Bool) : Fetch := if ok then f else { f with failed := true }

/-- A replica's fetch has ended (R270, R271). -/
def State.replicaFetched (s : State) (x : Nat) (ok : Bool) (entries : List (Nat × Nat)) : State :=
  match s.shardEntry x, (s.tshard x).fetch with
  | some e, some f =>
    if f.digest.isSome ∨ f.left ≠ 0 then s else
    match s.endFetch x e (f.heard ok) entries with
    | (s, none) => s
    | (s, some good) =>
    let s := if good then (s.bump TMP_PERF_FETCH.count 0 0 1).setPhase x phFetched
      else (s.setPhase x phDamaged).temperFault 5 0 0 x e.unit
    s.shardDecided x e
  | _, _ => s

/-! ### The update ratio (R273) -/

/-- RATIO_PARTIAL arrives at a layer's lead. The largest finite ratio of W = 0 is a stated value and no division, and records no overflow
(DESIGN CHOICE, log 49). Of a layer whose update was withheld there is no ratio. -/
def State.ratioPartial (s : State) (bs : List Byte) : State :=
  if byteAt bs 0 ≠ 0x61 ∨ !(s.thisAttempt bs) then s else
  match s.tlayerIndex (num bs 8 2) with
  | none => s
  | some li =>
    let l := s.tlayer li
    let step := num bs 4 4
    if l.leadPkg ≠ s.myId then s else
    let p : RatioPart := { layer := li, step := step, ordinal := num bs 10 2 % 8192, skip := byteAt bs 1 % 2 == 1, u := num bs 16 8, w := num bs 24 8 }
    if (s.tmp.ratios.any fun y => y.layer == li && y.step == step && y.ordinal == p.ordinal) ∨ s.tmp.stopped.contains (li, step) then s else
    let ps := s.tmp.ratios ++ [p]
    let mine := (List.range l.nShards).filterMap fun o => ps.find? fun y => y.layer == li && y.step == step && y.ordinal == o
    if mine.length < l.nShards then { s with tmp := { s.tmp with ratios := ps } } else
    let s := { s with tmp := { s.tmp with ratios := ps.filter fun y => !(y.layer == li && y.step == step) } }
    let used := mine.filter fun y => !y.skip
    let U := sumTerms (used.map (·.u))
    let W := sumTerms (used.map (·.w))
    let q := if W.1.isZero then (if U.1.isZero then 0 else Lin.a32.maxFinite false, U.2 ||| W.2)
      else
        let d := div64 (sqrt64 U) (sqrt64 W)
        let r := Lin.a32.encode d.1
        (r.1, d.2 ||| r.2)
    let ratio := q.1
    let s := s.recordUnit l.leadUnit (({} : Record).element q.2)
    let alert := l.ratioAlert != 0 && (a32 l.ratioAlert).lt (a32 ratio)
    let norm := ((s.tmp.norms.find? fun y => y.1 == li && y.2.1 == step).map fun y => y.2.2).getD 0
    let s := s.telemetry (unitDie l.leadUnit) 1 (b2n alert) l.layerId step norm ratio used.length 0
    if alert then (s.bump TMP_PERF_RATIO_ALERT.count 0 0 1).raise 8 2 l.leadUnit 0 else s

/-! ### The assay (R275 to R277) -/

/-- A unit begins a digest, which is complete at the end of the hub cycle unless its buffer is written before (log 49). -/
def State.startDigest (s : State) (d : Digest) (e : ShardEntry) : State :=
  ({ s with tmp := { s.tmp with digests := s.tmp.digests ++ [d] } }).showJob e.unit 5 d.shard

/-- A unit's assay visits the next shard it owns that has replicas and begins its digest (R276). -/
def State.assayVisit (s : State) (u : Nat) : State :=
  if u > 3 ∨ !(s.flag TMP_ASSAY_CFG.enable) ∨ s.fld TMP_ASSAY_CFG.budget = 0 then s else
  let mine := s.shardList.filter fun x => x.2.owner && x.2.unit == u && x.2.nRep > 1
  let next := Sparse.get 0 s.tmp.visit u
  match (mine.find? fun x => x.1 ≥ next).orElse fun _ => mine.head? with
  | none => s
  | some (x, e) =>
    let s := { s with tmp := { s.tmp with visit := Sparse.put 0 s.tmp.visit u (x + 1) } }
    s.startDigest { shard := x, base := s.curImage x e, ask := none } e

/-- An owner's digest is complete: ASSAY goes to the replicas (R276). -/
def State.assaySend (s : State) (e : ShardEntry) (base : Nat) : State :=
  let plane := leNat (s.getMem (base + 24) 4)
  let version := leNat (s.getMem (base + 8) 4)
  let g := s.imageDigest e base
  let s := g.1
  match g.2 with
  | none => s.bump TMP_PERF_ASSAY_ABANDON.count 0 0 1
  | some digest =>
    let bs := assayBytes e.id version (s.myId * 2 ^ 48 + base) (e.offPlane + plane) digest
    (s.replicaList e).foldl (fun s r => if r.1 = s.myId then s else s.temperSend e.unit r.1 e.unit bs) s

/-- The Hallmark's count of assay mismatches is kept elsewhere; this is the mismatch itself (R277). -/
def State.assayMismatch (s : State) (x : Nat) (e : ShardEntry) (version : Nat) : State :=
  let s := s.bump TMP_PERF_ASSAY_MISMATCH.count 0 0 1
  let s := s.bump HMK_LIFE_ASSAY_MISMATCH.count 0 0 1
  let s := s.temperFault 3 0 0 x e.unit
  s.telemetry (unitDie e.unit) 3 0 (s.tlayer e.layer).layerId (s.fld STG_STEP_STATUS.step) 0 0 e.id version

/-- What a replica makes of an ASSAY: on any difference it fetches the owner's image again, unless the buffer not selected by cur is in use
by a staged fetch; then the comparison is repeated at a later visit (R277). -/
def State.assayJudge (s : State) (x : Nat) (e : ShardEntry) (bs : List Byte) (same : Bool) : State :=
  if same then s.bump TMP_PERF_ASSAY.count 0 0 1
  else
    let version := num bs 12 4
    let s := s.assayMismatch x e version
    if (s.phase x = phFetching ∧ !(s.refetching x)) ∨ s.phase x = phFetched then s.bump TMP_PERF_ASSAY_ABANDON.count 0 0 1
    else if s.refetching x then s
    else (s.setFld TMP_SHARD_STATE.repair x 0 0).startImageFetch x e (num bs 16 8) (num bs 24 8) version (some ((bs.drop 32).take 32))

/-- The digests of the hub cycle are complete (R276, R277). -/
def State.endDigests (s : State) : State :=
  s.tmp.digests.foldl (fun s d =>
    match s.shardEntry d.shard, d.ask with
    | none, _ => s
    | some e, none => s.assaySend e d.base
    | some e, some bs =>
      let g := s.imageDigest e d.base
      g.1.assayJudge d.shard e bs (g.2 == some ((bs.drop 32).take 32)))
    { s with tmp := { s.tmp with digests := [] } }

/-- ASSAY arrives at a replica, which digests its current image. -/
def State.assayMessage (s : State) (bs : List Byte) : State :=
  if byteAt bs 0 ≠ 0x64 then s else
  match s.replicaOf (num bs 8 4) with
  | none => s
  | some (x, e) =>
    let version := num bs 12 4
    if s.fld TMP_SHARD_STATE.version x ≠ version ∨ s.phase x = phDamaged then s.bump TMP_PERF_ASSAY_STALE.count 0 0 1
    else
      let base := s.curImage x e
      if e.offPlane + leNat (s.getMem (base + 24) 4) = num bs 24 8 then s.startDigest { shard := x, base := base, ask := some bs } e
      -- another count of image bytes is a mismatch in itself
      else s.assayJudge x e bs false

/-- A refetch ends: the image is kept when its version and digest are the message's (R277). -/
def State.refetched (s : State) (x : Nat) (ok : Bool) (entries : List (Nat × Nat)) : State :=
  match s.shardEntry x, (s.tshard x).fetch with
  | some e, some f =>
    match f.digest with
    | none => s
    | some digest =>
      if f.left ≠ 0 then s else
      match s.endFetch x e (f.heard ok) entries with
      | (s, none) => s
      | (s, some good) =>
      let base := s.otherImage x e
      if !good then ((s.setPhase x phDamaged).temperFault 5 0 0 x e.unit).shardDecided x e
      else
        let s := s.setPhase x (if (s.tshard x).reason ≠ 0 then phUnchanged else phIdle)
        let g := s.imageDigest e base
        let s := g.1
        let s := if leNat (s.getMem (base + 8) 4) = f.version ∧ g.2 = some digest then
            (s.bump TMP_PERF_FETCH.count 0 0 1).setFld TMP_SHARD_STATE.repair x 0 1
          else s.bump TMP_PERF_ASSAY_ABANDON.count 0 0 1
        s.syncUnit e.unit
  | _, _ => s

end Sys2Proof.Machine
end

