-- ==== Sys2Proof/Machine/RouteOps.lean ====
section
/-! DEFINITION. The wiring of groups and fields (R314 to R316), routes (R325 to R330), the links (R311 to R313), forwarding and
transit (R342), gateways' gathering (R346 to R348). -/

namespace Sys2Proof.Machine

/-! ### Package IDs and wiring -/

def pkgField (x : Nat) : Nat := x / 1024
def pkgGroup (x : Nat) : Nat := x / 16 % 64
def pkgPos (x : Nat) : Nat := x % 16
def pkgId (f g p : Nat) : Nat := f * 1024 + g * 16 + p

def State.physId (s : State) : Nat := s.fld FAB_PHYS_ID.id

/-- The in-group link of position p toward position q (R315). -/
def meshLink (p q : Nat) : Nat := (q + 12 - p) % 13

/-- The ports that join a group to another: the group's own and the one it meets (R316). -/
def globalPorts (groups g gd : Nat) : List (Nat × Nat) :=
  if groups < 2 ∨ g = gd ∨ g ≥ groups ∨ gd ≥ groups then [] else
  let j := (gd + groups - g - 1) % groups
  (List.range 52).filterMap fun c =>
    let k := c * (groups - 1) + j
    let m := c * (groups - 1) + groups - 2 - j
    if k < 52 ∧ m < 52 then some (k, m) else none

/-- The package and link that a link of a package meets (R315, R316); none for a link that is not cabled. -/
def wiredPeer (groups x l : Nat) : Option (Nat × Nat) :=
  let f := pkgField x; let g := pkgGroup x; let p := pkgPos x
  if p > 12 ∨ l > 15 then none
  else if l < 12 then some (pkgId f g ((p + l + 1) % 13), 11 - l)
  else
    let k := 4 * p + (l - 12)
    if groups < 2 ∨ g ≥ groups then none else
    let c := k / (groups - 1)
    let j := k % (groups - 1)
    let m := c * (groups - 1) + groups - 2 - j
    if k < 52 ∧ m < 52 then some (pkgId f ((g + j + 1) % groups) (m / 4), 12 + m % 4) else none

def State.groups (s : State) : Nat := s.fld FAB_CFG.groups

/-! ### Service -/

/-- Link states (R351). -/
def lnkDown : Nat := 0
def lnkTraining : Nat := 1
def lnkUp : Nat := 2
def lnkDegraded : Nat := 3
def lnkMiswired : Nat := 4
def lnkFenced : Nat := 5

def State.linkUp (s : State) (l : Nat) : Bool :=
  s.fld FAB_LINK_STATUS.state l == lnkUp || s.fld FAB_LINK_STATUS.state l == lnkDegraded

/-- Whether a hop is in service as this package knows it (R330); of its own links it uses those that are up, not isolated, and
not draining (R371, R372). -/
def State.hopOk (s : State) (h : Nat × Nat) : Bool :=
  !(s.fab.down.contains h) &&
    (h.1 != s.physId || (s.linkUp h.2 && !(s.isolated ⟨.UST_LINK, h.2⟩) && s.pathState ⟨.UST_LINK, h.2⟩ != tsDraining))

/-- Occupancy of a global link in flits, as last reported (R326). -/
def State.occupancyOf (s : State) (h : Nat × Nat) : Nat :=
  match s.fab.occupancy.find? fun o => o.1 == h.1 && o.2.1 == h.2 with
  | some o => o.2.2
  | none => 0

/-! ### Routes (R325, R326) -/

/-- A path: its links as package and link in order, its cost, its first global port, and its intermediate group. -/
structure Route where
  path : List (Nat × Nat)
  cost : Nat
  port : Nat := 0
  via : Nat := 0x3F
  deriving DecidableEq, Repr

/-- The in-group hop between two packages of a group, if they differ. -/
def meshHop (x y : Nat) : List (Nat × Nat) := if x = y then [] else [(x, meshLink (pkgPos x) (pkgPos y))]

/-- A path through the global port k of a group to the package that holds port m of the other, and on to a target there. -/
def globalPath (x gd k m target : Nat) : List (Nat × Nat) :=
  let holder := pkgId (pkgField x) (pkgGroup x) (k / 4)
  meshHop x holder ++ [(holder, 12 + k % 4)] ++ meshHop (pkgId (pkgField x) gd (m / 4)) target

/-- The minimal paths from a package to another of its field that are in service. -/
def State.minimalRoutes (s : State) (x dst : Nat) : List Route :=
  let w := s.fld FAB_CFG.hop_weight
  if x = dst then []
  else if pkgGroup x = pkgGroup dst then
    let p := meshHop x dst
    if p.all s.hopOk then [{ path := p, cost := w }] else []
  else (globalPorts s.groups (pkgGroup x) (pkgGroup dst)).filterMap fun (k, m) =>
    let p := globalPath x (pkgGroup dst) k m dst
    let first := (pkgId (pkgField x) (pkgGroup x) (k / 4), 12 + k % 4)
    if p.all s.hopOk then some { path := p, cost := s.occupancyOf first + w * p.length, port := k } else none

/-- The lowest cost, among equals the lowest port, among those the first. -/
def bestRoute : List Route → Option Route
  | [] => none
  | r :: rs =>
    match bestRoute rs with
    | none => some r
    | some q => if q.cost < r.cost ∨ (q.cost = r.cost ∧ q.port < r.port) then some q else some r

/-- The best paths through each intermediate group that `FAB_NM_MASK` names, in ascending group. -/
def State.viaRoutes (s : State) (x dst : Nat) : List Route :=
  let w := s.fld FAB_CFG.hop_weight
  let mask := (s.rd .FAB_NM_MASK).toNat
  if pkgGroup x = pkgGroup dst then [] else
  (List.range (min s.groups 53)).filterMap fun g =>
    if mask / 2 ^ g % 2 = 0 ∨ g = pkgGroup x ∨ g = pkgGroup dst then none else
    let rs := (globalPorts s.groups (pkgGroup x) g).filterMap fun (k, m) =>
      let land' := pkgId (pkgField x) g (m / 4)
      match bestRoute (s.minimalRoutes land' dst) with
      | none => none
      | some second =>
        let p := globalPath x g k m land' ++ second.path
        let first := (pkgId (pkgField x) (pkgGroup x) (k / 4), 12 + k % 4)
        if p.all s.hopOk ∧ p.length ≤ 5 then some { path := p, cost := s.occupancyOf first + w * p.length, port := k, via := g } else none
    bestRoute rs

/-- Paths of two hops through another package of the group, in ascending first link. -/
def State.detours (s : State) (x dst : Nat) : List Route :=
  if pkgGroup x ≠ pkgGroup dst ∨ x = dst then [] else
  (List.range 12).filterMap fun l =>
    match wiredPeer s.groups x l with
    | some (y, _) =>
      let p := (x, l) :: meshHop y dst
      if y ≠ dst ∧ p.all s.hopOk then some { path := p, cost := 2 * s.fld FAB_CFG.hop_weight } else none
    | none => none

/-- The first route of the lowest cost. -/
def firstBest : List Route → Option Route
  | [] => none
  | r :: rs =>
    match firstBest rs with
    | none => some r
    | some q => if q.cost < r.cost then some q else some r

/-- The path chosen at injection toward a package of this field (R326): minimal, unless adaptive routing finds a non-minimal
one cheaper by more than nm_bias; where no minimal path is in service, the best that remains (R330). -/
def State.chooseRoute (s : State) (dst : Nat) : Option Route :=
  let x := s.physId
  match bestRoute (s.minimalRoutes x dst) with
  | some r =>
    if s.flag FAB_CFG.adaptive then
      match firstBest (s.viaRoutes x dst) with
      | some q => if r.cost > q.cost + s.fld FAB_CFG.nm_bias then some q else some r
      | none => some r
    else some r
  | none => firstBest (s.viaRoutes x dst ++ s.detours x dst)

/-- The gateway of this field toward another, as a physical ID (R346). -/
def State.gatewayFor (s : State) (dst : Nat) : Option Nat :=
  let f := pkgField dst
  let v0 := s.flag FAB_GW.gw0_valid f
  let v1 := s.flag FAB_GW.gw1_valid f
  if v0 && v1 then some (s.physical (s.fld (if dst % 2 = 0 then FAB_GW.gw0 else FAB_GW.gw1) f))
  else if v0 then some (s.physical (s.fld FAB_GW.gw0 f))
  else if v1 then some (s.physical (s.fld FAB_GW.gw1 f))
  else none

/-- Where a packet heads inside this field: its destination, or the gateway toward its field. -/
def State.heading (s : State) (dst : Nat) : Option Nat :=
  if pkgField dst = pkgField s.physId then some dst else s.gatewayFor dst

/-! ### Events -/

/-- A fabric event: `FAB_ERR_INFO`, then the record (R350, R365). A link above 15 stands for none. -/
def State.fabEvent (s : State) (code status link peer seq : Nat) : State :=
  let v := code % 256 * 2 ^ 56 + status % 16 * 2 ^ 52 + (if link < 16 then link else 0) * 2 ^ 48 + peer % 65536 * 2 ^ 32 + seq % 2 ^ 32
  let s := s.wr .FAB_ERR_INFO 0 0 (BitVec.ofNat 64 v)
  s.raise 0x0A code (if link < 16 then link else 0xFFFF) (BitVec.ofNat 64 v)

/-! ### Packets on the wire -/

/-- Bytes of a packet (R318). -/
def packetSize (p : Packet) : Nat := 32 + p.payload.length + (if p.op = 2 ∧ !p.full then 16 else 0)

/-- Payload bytes of an operation. -/
def payloadSizes (op : Nat) : List Nat :=
  if op = 0x02 ∨ op = 0x03 ∨ op = 0x08 then [128]
  else if op = 0x04 ∨ op = 0x05 ∨ op = 0x09 then [16]
  else if op = 0x11 then [32, 64]
  else if op = 0x12 ∨ op = 0x13 then [32]
  else if op = 0x01 ∨ op = 0x0A ∨ op = 0x10 then [0]
  else []

def isRegister (a : Nat) : Bool := 0x0F0000000000 ≤ a

/-- The IDs of packages: 64 fields of 53 groups of 13 positions (R314). -/
def isPackageId (n : Nat) : Bool := n / 1024 < 64 && n / 16 % 64 < 53 && n % 16 < 13

/-- The requester codes of R318. -/
def isRequesterCode (n : Nat) : Bool :=
  n < 0x8C0 || (0xE00 ≤ n && n < 0xF02) || (0xF04 ≤ n && n ≤ 0xF08) || n == 0xF10 || n == 0xF20

/-- Whether a packet's address is aligned as R318 asks: 128 bytes, except for SWAP and CAS with their answers, and register accesses with
theirs. -/
def addrAligned (op addr : Nat) : Bool :=
  addr % 128 == 0 || op == 0x04 || op == 0x05 || op == 0x09 || (isRegister addr && (op == 0x01 || op == 0x02 || op == 0x08 || op == 0x0A))

/-- Whether a header and its payload keep the layout of R318. -/
def packetGood (p : Packet) : Bool :=
  p.reserved == 0 && (payloadSizes p.op).contains p.payload.length && p.hops ≤ 5 &&
  isPackageId p.dst && isPackageId p.src && p.slice < 4096 && p.gen < 16 && p.seq < 2 ^ 32 && isRequesterCode p.requester &&
  p.addr < 2 ^ 48 && addrAligned p.op p.addr &&
  (p.via == 0x3F || p.via < 53) && (p.op == 2 || !p.full) && (p.op != 2 || p.mask < 2 ^ 128) &&
  (p.func == 0 || p.op == 0x03 || p.op == 0x08 || p.op == 0x0A || p.op == 0x10) && p.func < 256 &&
  (p.mask == 0 || p.op == 0x02 || p.op == 0x03 || p.op == 0x08) && (p.op != 0x08 || p.mask < 16) &&
  (p.op != 0x03 || (p.func % 16 ≤ 2 && p.func / 16 ≤ 2 && p.mask < 2 ^ (if p.func / 16 = 1 then 16 else 32))) &&
  (p.op != 0x10 || p.func ≤ 2) && (!(p.op == 0x08 || p.op == 0x0A) || p.func ≤ 5) && (p.op != 0x04 || (p.payload.drop 8).all (· == 0))

/-- Queues a packet at a link. -/
def State.queueAt (s : State) (l : Nat) (p : Packet) : State := { s with fab := { s.fab with tx := s.fab.tx ++ [(l, p)] } }

/-! ### Gateways (R346 to R348) -/

def State.flushGateway (s : State) (f : Nat) : State :=
  let mine := s.fab.gathered.filter fun g => g.1 == f
  if mine.isEmpty then s else
  ({ s with fab := { s.fab with gathered := s.fab.gathered.filter fun g => g.1 != f
                                transfers := s.fab.transfers ++ [(f, mine.map fun (g : Nat × Packet) => g.2)] } }).bump FAB_PERF_GW_BULK.count 0 0 1

/-- A packet for another field reaches this gateway: gathered, or sent at once behind what is gathered; dropped while the far
gateway cannot be reached, or where the package has not the gateway's role (R346, R348). -/
def State.gatewayTake (s : State) (p : Packet) : State :=
  let f := pkgField p.dst
  if !(s.flag FAB_CFG.gateway) ∨ s.fld HP_STATUS.link ≠ 1 ∨ !(bit (s.rd .HP_GW_PEER f 0) 63) then s.fabEvent 9 0 16 p.dst p.seq
  else if p.op = 1 ∨ p.op = 2 ∨ p.op = 8 then
    let have' : Nat := ((s.fab.gathered.filter fun g => g.1 == f).map fun g => packetSize g.2).sum
    let s := if have' + packetSize p > 8192 then s.flushGateway f else s
    let s := { s with fab := { s.fab with gathered := s.fab.gathered ++ [(f, p)] } }
    let now : Nat := ((s.fab.gathered.filter fun g => g.1 == f).map fun g => packetSize g.2).sum
    if now = 8192 then s.flushGateway f else s
  else
    let s := s.flushGateway f
    ({ s with fab := { s.fab with transfers := s.fab.transfers ++ [(f, [p])] } }).bump FAB_PERF_GW_BULK.count 0 0 1

/-! ### Sending and forwarding -/

/-- Puts a packet on its way along a chosen path; with no path it is lost until it is sent again. -/
def State.emit (s : State) (p : Packet) (path : List (Nat × Nat)) : State :=
  if pkgField p.dst ≠ pkgField s.physId ∧ s.gatewayFor p.dst = some s.physId then s.gatewayTake p
  else match path with
    | (_, l) :: _ => s.queueAt l p
    | [] => s

/-- The shortest way on from a neighbour, in hops. -/
def State.hopsFrom (s : State) (x dst : Nat) : Option Nat :=
  if x = dst then some 0 else
  (s.minimalRoutes x dst).foldl (fun acc r =>
    match acc with
    | some n => some (min n r.path.length)
    | none => some r.path.length) none

/-- The first link in ascending order from which a packet still arrives within 5 hops (R329). -/
def State.anyLink (s : State) (p : Packet) (target : Nat) : Option Nat :=
  (List.range 16).find? fun l =>
    s.hopOk (s.physId, l) &&
    match wiredPeer s.groups s.physId l with
    | some (y, _) =>
      match s.hopsFrom y target with
      | some n => p.hops + 1 + n ≤ 5
      | none => false
    | none => false

/-- The routes on which a router may send a packet on: toward its intermediate group until it is there, then minimal. A packet that came over
an in-group link to a holder of a port goes on by a port of its own, so that no hop is taken twice (R325, R326). -/
def State.routesOn (s : State) (p : Packet) (target : Nat) : List Route :=
  let x := s.physId
  let toVia := p.via != 0x3F && p.via != pkgGroup x && pkgGroup target != pkgGroup x
  let rs := if toVia then
      (globalPorts s.groups (pkgGroup x) p.via).filterMap fun (k, m) =>
        let path := globalPath x p.via k m (pkgId (pkgField x) p.via (m / 4))
        let first := (pkgId (pkgField x) (pkgGroup x) (k / 4), 12 + k % 4)
        if path.all s.hopOk then some { path := path, cost := s.occupancyOf first + s.fld FAB_CFG.hop_weight * path.length, port := k } else none
    else s.minimalRoutes x target
  let own := rs.filter fun r => r.path.head?.any fun h => h.2 ≥ 12
  if p.hops > 0 ∧ p.link < 12 ∧ !own.isEmpty then own else rs

/-- The link on which a router sends a packet on, with the packet and the links it keeps: a flow's packets all take the link that its first
took, as long as it is in service (R327; log 62). With no such route any link serves from which the packet still arrives within 5 hops;
it then goes minimally (R329). -/
def State.forwardLink (s : State) (p : Packet) (target : Nat) : Option (Nat × Packet × List ((Nat × Nat × Nat × Nat) × Nat)) :=
  let key := (p.src, p.dst, opClass p.op, p.via)
  let rs := s.routesOn p target
  let link := fun (r : Route) => ((r.path.head?.map (·.2)).getD 16)
  let kept := match s.fab.picks.lookup key with
    | some l => if rs.any fun r => link r == l then some l else none
    | none => none
  match kept, bestRoute rs with
  | some l, _ => some (l, p, s.fab.picks)
  | none, some r => some (link r, p, (s.fab.picks.filter fun k => k.1 != key) ++ [(key, link r)])
  | none, none => (s.anyLink p target).map fun l => (l, { p with via := 0x3F }, s.fab.picks)

/-- Queues a packet that passes the package at a link; a transit packet that needs a link whose cap is 0 is dropped (R342). -/
def State.queueOn (s : State) (l : Nat) (p : Packet) : State :=
  if p.transit && s.flag CST_STATE.configured && s.fld FAB_LINK_CFG.transit_cap l == 0 then
    (s.bump FAB_PERF_TRANSIT_REFUSED.count 0 0 1).fabEvent 8 0 l p.src p.seq
  else s.queueAt l p

/-- A packet for another package passes the router (R318, R342): on the transit channel for another slice, within the cap. -/
def State.forward (s : State) (p : Packet) : State :=
  let transit := p.slice != s.fld FAB_ID.slice
  match s.heading p.dst with
  | none => s
  | some target =>
    if target = s.physId then (if transit then s else s.gatewayTake p)
    else if p.hops ≥ 5 then s
    else match s.forwardLink p target with
      | none => s
      | some (l, q, picks) => ({ s with fab := { s.fab with picks := picks } }).queueOn l { q with transit := transit }

/-- A packet's class, transit bit and hops: the channel and the buffer level it waits at (R317). -/
def channelOf (p : Packet) : Nat × Bool × Nat := (opClass p.op, p.transit, p.hops)

/-- Whether a transit packet keeps within its link's cap, in sixteenths of 150 GB/s over a microsecond; an unconfigured package's links
have none (R342). -/
def State.withinCap (s : State) (l : Nat) (p : Packet) : Bool :=
  !p.transit || !(s.flag CST_STATE.configured) ||
    16 * (Sparse.get 0 s.fab.transitUse l + packetSize p) ≤ s.fld FAB_LINK_CFG.transit_cap l * 150000

/-- A link sends a packet: the router that sends it counts the hop (R317, R318, R352). -/
def State.sendOn (s : State) (l : Nat) (p : Packet) : State :=
  let n := packetSize p
  let s := { s with fab := { s.fab with tx := s.fab.tx.erase (l, p), wire := s.fab.wire ++ [(l, { p with hops := p.hops + 1 })] } }
  let s := s.bump FAB_LINK_PERF_TX_BYTES.count l 0 n
  if p.transit then
    ({ s with fab := { s.fab with transitUse := Sparse.put 0 s.fab.transitUse l (Sparse.get 0 s.fab.transitUse l + n) } }).bump
      FAB_LINK_PERF_TRANSIT.count l 0 n
  else s

/-- One hub cycle of a link in service: the oldest packet of each channel and level leaves, so that none waits for another's (R317). -/
def State.drainLink (s : State) (l : Nat) : State :=
  if !(s.linkUp l) then s else
  let mine := (s.fab.tx.filter fun t => t.1 == l).map (·.2)
  let heads := (mine.map channelOf).eraseDups.filterMap fun c => mine.find? fun p => channelOf p == c
  (heads.filter (s.withinCap l ·)).foldl (fun s p => s.sendOn l p) s

/-- Hub cycles in a microsecond (R16). -/
def cyclesPerUs : Nat := 1500

/-- One hub cycle of the links. -/
def State.drainLinks (s : State) : State :=
  let s := { s with fab := { s.fab with wire := [], transitUse := if s.cycle % cyclesPerUs = 0 then [] else s.fab.transitUse } }
  (List.range 16).foldl State.drainLink s

end Sys2Proof.Machine
end

