-- ==== Sys2Proof/Machine/FlowOps.lean ====
section
/-! DEFINITION. Flows of this package (R320 to R328, R330): numbering, the retransmit store, acknowledgements, fences' ends
(R331, R332), answers to requests, link failures (R311 to R313, R329, R330), the hot-line window (R337). -/

namespace Sys2Proof.Machine

/-! ### Sequence numbers modulo 2^32 -/

def seqNext (n : Nat) : Nat := (n + 1) % 2 ^ 32

/-- How far one number lies ahead of another. -/
def seqAhead (a b : Nat) : Nat := (a + 2 ^ 32 - b % 2 ^ 32) % 2 ^ 32

/-- At or before. -/
def seqLe (a b : Nat) : Bool := seqAhead b a < 2 ^ 31

/-! ### Flows -/

def State.flow (s : State) (dst cls : Nat) : Flow :=
  match s.fab.flows.find? fun f => f.dst == dst && f.cls == cls with
  | some f => f
  | none => { dst := dst, cls := cls }

def State.setFlow (s : State) (f : Flow) : State :=
  let fs := s.fab.flows
  let fs := if fs.any fun g => g.dst == f.dst && g.cls == f.cls then fs.map fun g => if g.dst = f.dst ∧ g.cls = f.cls then f else g
    else fs ++ [f]
  { s with fab := { s.fab with flows := fs } }

/-- Packets in the retransmit store (R322). -/
def State.storeUse (s : State) : Nat := (s.fab.flows.map fun f => f.unacked.length).sum

/-- Room for one more packet of a flow. -/
def State.hasRoom (s : State) (dst cls : Nat) : Bool := s.storeUse < 32768 && (s.flow dst cls).unacked.length < 1024

/-- The path toward a destination, in this field or to the gateway toward its field. -/
def State.pathTo (s : State) (dst : Nat) : Option Route :=
  match s.heading dst with
  | some h => s.chooseRoute h
  | none => none

/-- A flow takes its path at a flowlet boundary, or, where its path was out of service with no other left, as a forced move; a change is
counted (R327, R330). -/
def State.settlePath (s : State) (f : Flow) : Flow × State :=
  match s.pathTo f.dst with
  | none => ({ f with cut := true }, s)
  | some r =>
    let moved := f.opened && !f.path.isEmpty && (f.path != r.path || f.via != r.via)
    let forced := moved && !f.unacked.isEmpty
    ({ f with path := r.path, via := r.via, cut := false }, (s.bump FAB_PERF_MOVES.count 0 0 (b2n moved)).bump FAB_PERF_FORCED.count 0 0 (b2n forced))

/-- Whether a flow has a path in service. -/
def Flow.routed (f : Flow) : Bool := !f.cut && !f.path.isEmpty

/-- The links a flow's packets take: none while its path is out of service. -/
def Flow.links (f : Flow) : List (Nat × Nat) := if f.cut then [] else f.path

/-- The minimal path in service toward a destination. -/
def State.minimalTo (s : State) (dst : Nat) : Option Route :=
  match s.heading dst with
  | some h => bestRoute (s.minimalRoutes s.physId h)
  | none => none

/-- A flow's packet leaves on the flow's path; the copy of a broadcast on a minimal one (R349). -/
def State.emitFlow (s : State) (f : Flow) (p : Packet) : State :=
  match if p.op = 0x12 then s.minimalTo p.dst else none with
  | some r => s.emit { p with via := 0x3F } r.path
  | none => s.emit p f.links

/-- Sends a sequenced packet: it takes the flow's next number, enters the retransmit store and leaves on the flow's path (R320, R322). -/
def State.launch (s : State) (p : Packet) (backward : Bool) (stream : Nat) : State :=
  let f := s.flow p.dst (opClass p.op)
  let (f, s) := if f.unacked.isEmpty || !f.routed then s.settlePath f else (f, s)
  let q := { p with src := s.physId, slice := s.fld FAB_ID.slice, gen := f.gen, seq := f.next, opening := !f.opened, via := f.via, hops := 0 }
  let f := { f with opened := true, next := seqNext f.next
                    unacked := f.unacked ++ [{ packet := q, again := 0, backward := backward, stream := stream }] }
  let s := s.setFlow f
  let s := if p.op = 1 ∨ p.op = 4 ∨ p.op = 5 then { s with fab := { s.fab with awaiting := s.fab.awaiting ++ [(q, stream)] } } else s
  s.emitFlow f q

/-- Sends a packet that no flow numbers: an ACK, or a STATUS, whose number is its request's (R318, R321; log 21). -/
def State.sendLoose (s : State) (p : Packet) : State :=
  let r := s.pathTo p.dst
  s.emit { p with src := s.physId, slice := s.fld FAB_ID.slice
                  via := match r with
                    | some r => r.via
                    | none => 0x3F } (match r with
    | some r => r.path
    | none => [])

/-- A cumulative ACK, which is not sequenced (R321). -/
def State.sendAck (s : State) (dst cls seq : Nat) : State := s.sendLoose { op := 0x10, dst := dst, src := 0, seq := seq, func := cls }

/-! ### Completions -/

/-- A remote store of the rake was refused (R202); `tag` is the request's stream, slot, direction and g. -/
def State.rakeRemote (s : State) (tag : Nat) (c : Completion) : State :=
  s.streamFailed (tag % 64) (tag / 64 % 256) (tag / 2 ^ 15) (tag / 2 ^ 14 % 2 == 1) c

/-- Completion status codes (R319). -/
def statusCode : Completion → Nat
  | .ok => 0
  | .addrErr => 1
  | .ownErr => 2
  | .poison => 3
  | .sliceErr => 4
  | .unreachable => 5

def completionOf : Nat → Completion
  | 0 => .ok
  | 1 => .addrErr
  | 2 => .ownErr
  | 3 => .poison
  | 4 => .sliceErr
  | _ => .unreachable

/-- A line of data, or a refusal, comes back for a LOAD_REQ of one of the package's requesters. -/
def State.answer (s : State) (q : Packet) (stream : Nat) (status : Nat) (data : List (Byte × Bool)) : State :=
  let s := if data.any (·.2) then s.notePoisoned ((List.range 4).filter fun u => (data.drop (32 * u)).headD (0, false) |>.2).length else s
  if 0xF04 ≤ q.requester ∧ q.requester ≤ 0xF07 then s.fetchLine (q.requester - 0xF04) (s.logicalOf q.dst) q.addr data
  else if q.requester = 0xF10 then
    { s with host := { s.host with reads := s.host.reads.map fun r =>
        if r.id = stream then { r with lines := r.lines ++ [(q.addr / 128 * 128, status, data)] } else r } }
  else { s with compl := (completionOf status, data.map (·.1)) }

/-- A fence is reached by an acknowledgement of a destination's REQ flow, or by the flow's end. -/
def Fence.reach (f : Fence) (dst : Nat) (upTo : Option Nat) : Fence :=
  { f with recorded := f.recorded.filter fun r => !(r.1 == dst && match upTo with
      | some n => seqLe r.2 n
      | none => true) }

/-- A fence ends (R331): it is counted, and an array's hold ends with it. -/
def State.endFence (s : State) (f : Fence) (e : FenceEnd) : State :=
  let s := { s with fab := { s.fab with fences := s.fab.fences.filter fun g => g.id != f.id } }
  let s := s.bump FAB_PERF_FENCES.count 0 0 1
  if f.requester < 0x8C0 then s.arrayFenceEnded f.requester f.backward f.id e else s

/-- Arrays whose FENCE or SIGNAL waits to be issued look again. -/
def State.pollFences (s : State) : State :=
  (s.arr.map (·.1)).foldl (fun s a =>
    let x := s.array a
    let waits : Option Hold → Bool := fun h => match h with
      | some h => h.fenceId.isNone && match h.kind with
        | .fence => true
        | .signal _ _ => true
        | _ => false
      | none => false
    if waits x.fwdHold ∨ waits x.bwdHold then s.pollHolds a else s) s

/-- Ends the fences that wait for nothing more. -/
def State.settleFences (s : State) : State :=
  ((s.fab.fences.filter fun f => f.recorded.isEmpty).foldl
    (fun s f => s.endFence f (if f.failed then .failed else .done)) s).pollFences

/-- A write of a requester's stream failed and no fence has reported it yet (R332). -/
def State.noteUnreported (s : State) (requester : Nat) (backward : Bool) : State :=
  if s.fab.unreported.contains (requester, backward) then s
  else { s with fab := { s.fab with unreported := s.fab.unreported ++ [(requester, backward)] } }

/-- A sent packet completes with a status (R321, R322). A failed write marks the fences that cover it, or the requester's next
fence (R332). -/
def State.completeSent (s : State) (u : Unacked) (status : Nat) : State :=
  let p := u.packet
  let s := if p.op = 2 ∨ p.op = 3 ∨ status ≠ 0 then s.threadAnswered p.requester else s
  if status = 0 ∨ opClass p.op ≠ clsReq then s else
  let covers := fun (f : Fence) => f.requester == p.requester && f.backward == u.backward &&
    f.recorded.any fun r => r.1 == p.dst && seqLe p.seq r.2
  let s := if !(isWriteOp p.op) then s
    else if s.fab.fences.any covers then
      { s with fab := { s.fab with fences := s.fab.fences.map fun f => if covers f then { f with failed := true } else f } }
    else s.noteUnreported p.requester u.backward
  let s := if p.requester = 0xF10 ∧ isWriteOp p.op ∧ !(s.host.failed.any fun f => f.1 == u.stream) then
      { s with host := { s.host with failed := s.host.failed ++ [(u.stream, status)] } } else s
  -- a refusal of a rake store is a stream error (R202)
  if p.requester = 0xF00 ∧ (status = 1 ∨ status = 2) then s.rakeRemote u.stream (completionOf status) else s

/-- An ACK arrives (R321). -/
def State.ackArrival (s : State) (src cls seq : Nat) : State :=
  let f := s.flow src cls
  let covered := f.unacked.filter fun u => seqLe u.packet.seq seq
  if covered.isEmpty then s else
  let failed := f.failed
  let s := s.setFlow { f with unacked := f.unacked.filter fun u => !(seqLe u.packet.seq seq)
                              failed := failed.filter fun x => !(seqLe x.1 seq) }
  let s := covered.foldl (fun s u => s.completeSent u ((failed.lookup u.packet.seq).getD 0)) s
  let s := if cls = clsReq then { s with fab := { s.fab with fences := s.fab.fences.map fun g => g.reach src (some seq) } } else s
  s.settleFences

/-- LOAD_DATA or OLD_VALUE is handed to its requester: it answers the oldest request of that requester to that place that waits (R320;
log 21). -/
def State.takeResponse (s : State) (p : Packet) : State :=
  let asks := fun (a : Packet × Nat) =>
    a.1.dst == p.src && a.1.requester == p.requester && a.1.addr == p.addr && (a.1.op == 1) == (p.op == 8)
  match s.fab.awaiting.find? asks with
  | none => s
  | some (q, stream) =>
    let s := ({ s with fab := { s.fab with awaiting := s.fab.awaiting.erase (q, stream) } }).threadAnswered q.requester
    if p.op = 8 then
      let bad := fun (i : Nat) => p.mask / 2 ^ (i / 32) % 2 == 1
      s.answer q stream (if p.mask % 16 ≠ 0 then 3 else p.func % 16) (p.payload.zip ((List.range 128).map bad))
    else { s with compl := (.ok, p.payload.take 8) }

/-- A STATUS names a failed request of this package (R318, R319); one that names none, or one already named, is a duplicate. -/
def State.statusArrival (s : State) (p : Packet) : State :=
  let f := s.flow p.src clsReq
  if !(f.unacked.any fun u => u.packet.seq == p.seq) || (f.failed.any fun x => x.1 == p.seq) then s.bump FAB_PERF_DUP.count 0 0 1
  else
    let s := s.setFlow { f with failed := f.failed ++ [(p.seq, p.func % 16)] }
    match s.fab.awaiting.find? fun a => a.1.dst == p.src && a.1.seq == p.seq with
    | none => s
    | some (q, stream) =>
      ({ s with fab := { s.fab with awaiting := s.fab.awaiting.erase (q, stream) } }).answer q stream (p.func % 16) []

/-! ### Retransmission and unreachable flows (R322) -/

/-- Sends every unacknowledged packet of a flow again, in sequence order. -/
def State.resend (s : State) (f : Flow) : State :=
  let us := f.unacked.map fun u => { u with again := u.again + 1, packet := { u.packet with via := f.via } }
  let s := s.setFlow { f with unacked := us }
  let s := s.bump FAB_PERF_RETX.count 0 0 us.length
  us.foldl (fun s u => s.emitFlow f u.packet) s

/-- A flow is unreachable: its packets complete so, and it starts a new generation (R322, R323). -/
def State.unreachable (s : State) (f : Flow) : State :=
  let s := s.setFlow { dst := f.dst, cls := f.cls, gen := (f.gen + 1) % 16 }
  let lost := f.unacked.map fun u => u.packet.seq
  let calls := s.fab.awaiting.filter fun a => f.cls == clsReq && a.1.dst == f.dst && lost.contains a.1.seq
  let s := { s with fab := { s.fab with awaiting := s.fab.awaiting.filter fun a => !(calls.contains a) } }
  let s := f.unacked.foldl (fun s u => s.completeSent u 5) s
  let s := calls.foldl (fun s a => s.answer a.1 a.2 5 []) s
  let s := if f.cls = clsReq then { s with fab := { s.fab with fences := s.fab.fences.map fun g => g.reach f.dst none } } else s
  let s := s.fabEvent 6 5 (match f.path with
    | (x, l) :: _ => if x = s.physId then l else 16
    | [] => 16) f.dst (lost.headD 0)
  s.settleFences

/-- A packet has not been acknowledged within the timeout. -/
def State.retransmit (s : State) (dst cls : Nat) : State :=
  let f := s.flow dst cls
  match f.unacked with
  | [] => s
  | u :: _ =>
    if u.again ≥ s.fld FAB_RETX_CFG.retries then s.unreachable f
    else
      let (f, s) := if f.routed then (f, s) else s.settlePath f
      s.resend f

/-- A fence has waited past `FENCE_TIMEOUT` (R332). -/
def State.fenceTimeout (s : State) (id : Nat) : State :=
  match s.fab.fences.find? fun f => f.id == id with
  | none => s
  | some f => ((s.endFence f .timeout).fabEvent 3 0 16 0 0).pollFences

/-! ### Links in and out of service (R311 to R313, R329, R330) -/

/-- Flows whose path uses a link that went down move to the best path left and send again (R330). -/
def State.moveFlows (s : State) (h : Nat × Nat) : State :=
  (s.fab.flows.filter fun f => f.links.contains h).foldl (fun s f =>
    let r := s.pathTo f.dst
    let g := match r with
      | some r => { f with path := r.path, via := r.via, cut := false }
      | none => { f with cut := true }
    let n := b2n r.isSome
    let s := (s.bump FAB_PERF_MOVES.count 0 0 n).bump FAB_PERF_FORCED.count 0 0 n
    if g.unacked.isEmpty then s.setFlow g else s.resend g) s

/-- `FAB_EPOCH.staged` shows whether changes are staged (R345). -/
def State.showStaged (s : State) : State :=
  s.setFld FAB_EPOCH.staged 0 0 (b2n (!s.fab.staged.isEmpty || !s.fab.backUp.isEmpty))

/-- A link is treated as out of service; one whose return was staged stays so. -/
def State.linkOut (s : State) (h : Nat × Nat) : State :=
  let s := ({ s with fab := { s.fab with backUp := s.fab.backUp.filter (· != h) } }).showStaged
  if s.fab.down.contains h then s else ({ s with fab := { s.fab with down := s.fab.down ++ [h] } }).moveFlows h

/-- A link's return to service is staged until the next epoch advance (R330, R345). -/
def State.stageReturn (s : State) (h : Nat × Nat) : State :=
  let put := fun (l : List (Nat × Nat)) => if l.contains h then l else l ++ [h]
  ({ s with fab := { s.fab with down := put s.fab.down, backUp := put s.fab.backUp } }).showStaged

/-- A link notice's payload (log 21): byte 0 is 1 for a link back in service, bytes 2 and 3 the package, byte 4 the link. -/
def noticePayload (back : Bool) (h : Nat × Nat) : List Byte :=
  leBytes 1 (b2n back) ++ [0#8] ++ leBytes 2 h.1 ++ leBytes 1 h.2 ++ List.replicate 27 0#8

/-- Members of a group other than one package. -/
def groupMembers (f g not : Nat) : List Nat := ((List.range 13).map (pkgId f g ·)).filter (· != not)

/-- In every other group of the field, the package that a global port of this group meets first. -/
def State.landings (s : State) : List Nat :=
  let x := s.physId
  (List.range s.groups).filterMap fun g =>
    match globalPorts s.groups (pkgGroup x) g with
    | (_, m) :: _ => some (pkgId (pkgField x) g (m / 4))
    | [] => none

/-- Sends a notice: to this group, and for a global link once to every other group (R330). -/
def State.sendNotice (s : State) (back : Bool) (h : Nat × Nat) : State :=
  let x := s.physId
  let ids := groupMembers (pkgField x) (pkgGroup x) x ++ (if h.2 ≥ 12 then s.landings else [])
  ids.foldl (fun s d => s.send { op := 0x13, dst := d, requester := 0, addr := 0, payload := noticePayload back h, phys := true }) s

/-- A notice takes effect; from another group's package it is passed on inside this group. A link back in service waits for
the next epoch advance. -/
def State.takeNotice (s : State) (src : Nat) (payload : List Byte) : State :=
  let h := (num payload 2 2, byteAt payload 4)
  let s := if byteAt payload 0 = 1 then
      (if s.fab.down.contains h then s.stageReturn h else s)
    else s.linkOut h
  let x := s.physId
  if src = h.1 ∧ pkgGroup src ≠ pkgGroup x then
    (groupMembers (pkgField x) (pkgGroup x) x).foldl (fun s d =>
      s.send { op := 0x13, dst := d, requester := 0, addr := 0, payload := payload.take 32, phys := true }) s
  else s

/-- A link goes down (R313, R329, R330): its queued packets go on by other links, notices go out, its entry is fenced. -/
def State.takeLinkDown (s : State) (l : Nat) : State :=
  if l > 15 ∨ s.fld FAB_LINK_STATUS.state l = lnkDown then s else
  let x := s.physId
  let peer := s.fld FAB_LINK_PEER.peer_id l
  let s := (s.setFld FAB_LINK_STATUS.state l 0 lnkDown).setFld FAB_LINK_STATUS.lanes l 0 0
  let s := s.bump FAB_LINK_PERF_DOWN.count l 0 1
  let s := s.fabEvent 1 0 l peer 0
  let s := s.deviceFence ⟨.UST_LINK, l⟩
  let queued := s.fab.tx.filter fun t => t.1 == l
  let s := { s with fab := { s.fab with tx := s.fab.tx.filter (fun t => t.1 != l), replays := Sparse.put 0 s.fab.replays l 0 } }
  let s := s.linkOut (x, l)
  let s := queued.foldl (fun s t =>
    match s.heading t.2.dst with
    | none => s
    | some target => match s.anyLink t.2 target with
      | some m => s.queueOn m { t.2 with via := 0x3F }
      | none => s) s
  s.sendNotice false (x, l)

/-- The peer that the wiring rules give for a link (R311). -/
def State.showExpected (s : State) (l : Nat) : State :=
  let e := (wiredPeer s.groups s.physId l).getD (0, 0)
  (s.setFld FAB_LINK_PEER.expect_id l 0 e.1).setFld FAB_LINK_PEER.expect_link l 0 e.2

/-- Lanes of a link that have not failed. -/
def State.goodLanes (s : State) (l : Nat) : List Nat := (List.range 8).filter fun n => !(s.fab.badLanes.contains (8 * l + n))

def laneMask (ns : List Nat) : Nat := (ns.map (2 ^ ·)).sum

/-- A link trains (R311, R313): `peer` is the physical ID its peer sends, 0xFFFF for none, `lanes` the lanes that work. -/
def State.trainLink (s : State) (l peer peerLink lanes : Nat) : State :=
  if l > 15 then s else
  let good := (List.range 8).filter fun n => lanes / 2 ^ n % 2 == 1
  let s := { s with fab := { s.fab with badLanes := (s.fab.badLanes.filter fun b => b / 8 != l) ++
      (((List.range 8).filter fun n => !(good.contains n)).map (8 * l + ·)) } }
  let s := s.showExpected l
  let wasUp := s.linkUp l
  let served := good.length ≥ 4 && peer != 0xFFFF && s.flag FAB_PHYS_ID.set && wiredPeer s.groups s.physId l == some (peer, peerLink)
  -- a link in service that cannot go on goes down first (R313)
  let s := if s.linkUp l && !served then s.takeLinkDown l else s
  let s := (s.setFld FAB_LINK_PEER.peer_id l 0 (if peer = 0xFFFF then 0 else peer)).setFld FAB_LINK_PEER.peer_link l 0 peerLink
  if good.length < 4 then (s.setFld FAB_LINK_STATUS.state l 0 lnkDown).setFld FAB_LINK_STATUS.lanes l 0 0
  else if peer = 0xFFFF ∨ !(s.flag FAB_PHYS_ID.set) then (s.setFld FAB_LINK_STATUS.state l 0 lnkTraining).setFld FAB_LINK_STATUS.lanes l 0 0
  else if wiredPeer s.groups s.physId l ≠ some (peer, peerLink) then
    ((s.setFld FAB_LINK_STATUS.state l 0 lnkMiswired).setFld FAB_LINK_STATUS.lanes l 0 0).fabEvent 7 0 l peer 0
  else
    let use := if good.length = 8 then good else good.take 4
    let s := (s.setFld FAB_LINK_STATUS.state l 0 (if good.length = 8 then lnkUp else lnkDegraded)).setFld FAB_LINK_STATUS.lanes l 0 (laneMask use)
    let s := if good.length = 8 then s else s.fabEvent 2 0 l peer 0
    let h := (s.physId, l)
    -- a link that was not in service enters it at the next epoch advance; while no casting is poured there is none to wait for (log 63)
    if s.fab.down.contains h ∨ (s.flag CST_STATE.configured ∧ !wasUp) then (s.stageReturn h).sendNotice true h else s

/-- A flit that failed its CRC is replayed; the eighth failed replay in a row takes the link down (R312). -/
def State.replayFlit (s : State) (l : Nat) (ok : Bool) : State :=
  if l > 15 ∨ !(s.linkUp l) then s else
  let s := s.bump FAB_LINK_PERF_RETRY.count l 0 1
  let n := if ok then 0 else Sparse.get 0 s.fab.replays l + 1
  let s := { s with fab := { s.fab with replays := Sparse.put 0 s.fab.replays l n } }
  if n ≥ 8 then s.takeLinkDown l else s

/-- A lane fails (R313). -/
def State.loseLane (s : State) (l lane : Nat) : State :=
  if l > 15 ∨ lane > 7 ∨ !(s.linkUp l) ∨ s.fab.badLanes.contains (8 * l + lane) then s else
  let used := s.fld FAB_LINK_STATUS.lanes l / 2 ^ lane % 2 == 1
  let s := { s with fab := { s.fab with badLanes := s.fab.badLanes ++ [8 * l + lane] } }
  let good := s.goodLanes l
  if good.length < 4 then s.takeLinkDown l
  else if used then
    ((s.setFld FAB_LINK_STATUS.state l 0 lnkDegraded).setFld FAB_LINK_STATUS.lanes l 0 (laneMask (good.take 4))).fabEvent 2 0 l
      (s.fld FAB_LINK_PEER.peer_id l) 0
  else s

/-- REQ occupancy of a link of this package, in flits of 300 bytes of packet stream (R310, R326). -/
def State.linkOccupancy (s : State) (l : Nat) : Nat :=
  let n := ((s.fab.tx.filter fun t => t.1 == l && opClass t.2.op == clsReq).map fun t => packetSize t.2).sum
  (n + 299) / 300

/-- The port of a router, and its report: kind 0x70, its package, the occupancy of links 12 to 15 (DESIGN CHOICE, log 21). -/
def routerPort : Nat := 0x0F0000300000

def occupancyPayload (pkg : Nat) (levels : List Nat) : List Byte :=
  leBytes 2 0x70 ++ leBytes 2 pkg ++ levels.flatMap (leBytes 2 ·) ++ List.replicate 20 0#8

/-- The occupancy of four global links of a router of the group becomes known. -/
def State.noteOccupancy (s : State) (pkg : Nat) (levels : List Nat) : State :=
  let new := (List.range (min levels.length 4)).map fun j => (pkg, 12 + j, levels.getD j 0)
  { s with fab := { s.fab with occupancy := (s.fab.occupancy.filter fun o => o.1 != pkg) ++ new } }

/-- This package's own report, of what its queues hold: shown, and sent to its group (R326). -/
def State.ownOccupancy (s : State) : State :=
  let x := s.physId
  let levels := (List.range 4).map fun j => min (s.linkOccupancy (12 + j)) 0xFFFF
  let s := (List.range 4).foldl (fun s j => s.setFld FAB_LINK_STATUS.level_occ (12 + j) 0 (levels.getD j 0)) (s.noteOccupancy x levels)
  (groupMembers (pkgField x) (pkgGroup x) x).foldl (fun s d =>
    s.send { op := 0x11, dst := d, requester := 0, addr := routerPort, payload := occupancyPayload x levels, phys := true }) s

/-- A router of the group reports the occupancy of its global links (R326); of this package's own router the report tells what its queues
hold. -/
def State.reportOccupancy (s : State) (pkg : Nat) (levels : List Nat) : State :=
  if pkg = s.physId then s.ownOccupancy else s.noteOccupancy pkg levels

/-! ### The hot-line detector (R337) -/

/-- Inserts by descending count, among equals by ascending address. -/
def insertHot (x : Nat × Nat) : List (Nat × Nat) → List (Nat × Nat)
  | [] => [x]
  | y :: l => if x.2 > y.2 ∨ (x.2 = y.2 ∧ x.1 < y.1) then x :: y :: l else y :: insertHot x l

/-- A window ends: the lines that reached the threshold are recorded. -/
def State.hotWindow (s : State) : State :=
  let t := s.fld FAB_HOT_CFG.threshold
  let hot := if t = 0 then [] else ((s.fab.merges.filter fun m => m.2 ≥ t).foldl (fun l m => insertHot m l) []).take 16
  let s := { s with fab := { s.fab with merges := [] } }
  if t = 0 then s else
  let s := (List.range 16).foldl (fun s n =>
    match hot[n]? with
    | some (line, c) => s.wr .FAB_HOT_LINE n 0 (BitVec.ofNat 64 (2 ^ 63 + min c 0x7FFF * 2 ^ 48 + line))
    | none => s.wr .FAB_HOT_LINE n 0 0) s
  if hot.isEmpty then s else s.fabEvent 5 0 16 0 0

end Sys2Proof.Machine
end

