-- ==== Sys2Proof/Machine/TableOps.lean ====
section
/-! DEFINITION. The combining table (R333 to R336), its tracking records and the determinism count (R338, R339). -/

namespace Sys2Proof.Machine

/-! ### Words -/

/-- Bits `i` of a mask. -/
def maskBit (m i : Nat) : Bool := m / 2 ^ i % 2 == 1

/-- Width in bytes of an atomic's words (R318). -/
def atomicSize (func : Nat) : Nat := if func / 16 = 1 then 8 else 4

/-- The larger or smaller of two A32 encodings by R76: a NaN is above every value, and a minimum ignores it. -/
def a32Pick (max : Bool) (a b : Nat) : Nat :=
  let x := a32 a
  let y := a32 b
  let enc := fun (v : Num) => (Lin.a32.encode v).1
  if x.isNan || y.isNan then
    if max || (x.isNan && y.isNan) then Lin.a32.canonicalNan else enc (if x.isNan then y else x)
  else if max then enc (if x.lt y then y else x)
  else enc (if y.lt x then y else x)

/-- Two words combine: the earlier, or memory's, first (R334). -/
def atomicOp (func a b : Nat) : Nat × Exc :=
  let f := func % 16
  let ty := func / 16
  if ty = 2 then
    if f = 0 then
      let r := accumulate (a32 a) (a32 b)
      ((Lin.a32.encode r.1).1, r.2)
    else (a32Pick (f == 1) a b, Exc.none)
  else
    let n := if ty = 1 then 2 ^ 64 else 2 ^ 32
    if f = 0 then ((a + b) % n, Exc.none) else if f = 1 then (Nat.max a b, Exc.none) else (Nat.min a b, Exc.none)

/-- Word `j` of a line's bytes. -/
def wordAt (bs : List Byte) (size j : Nat) : Nat := leNat ((bs.drop (j * size)).take size)

/-- Replaces word `j`. -/
def putWord (bs : List Byte) (size j v : Nat) : List Byte := bs.take (j * size) ++ leBytes size v ++ bs.drop ((j + 1) * size)

/-- The byte mask of a STORE. -/
def storeMask (p : Packet) : Nat := if p.full then 2 ^ 128 - 1 else p.mask

/-- The 4-byte words of the line that a request writes, as a mask (R338). -/
def writtenWords (p : Packet) : Nat :=
  if p.op = 2 then ((List.range 32).map fun w => if storeMask p / 2 ^ (4 * w) % 16 = 0 then 0 else 2 ^ w).sum
  else if p.op = 3 then
    if atomicSize p.func = 8 then ((List.range 16).map fun j => if maskBit p.mask j then 3 * 2 ^ (2 * j) else 0).sum else p.mask
  else if p.op = 4 ∨ p.op = 5 then 3 * 2 ^ (p.addr % 128 / 4)
  else 0

/-! ### Tracking (R338) -/

/-- The compute die that holds a line: the HBM stack's, the array's, or die 0. -/
def State.lineDie (s : State) (addr : Nat) : Nat :=
  match sramPlace addr with
  | some (a, _) => s.part.dieOf a
  | none => match s.dplace addr with
    | some d => if d.bittern then 0 else s.part.positions.getD d.stack 0 / 6
    | none => 0

/-- `FAB_TRACK_STATUS` follows the records. -/
def State.showTracks (s : State) : State :=
  (s.setFld FAB_TRACK_STATUS.records 0 0 s.fab.tracks.length).setFld FAB_TRACK_STATUS.lost_bits 0 0 s.fab.lost.length

/-- An arrival that writes is tracked: whether a word it writes has been written by another source, or the line counts as lost. -/
def State.track (s : State) (line package requester words : Nat) : Bool × State :=
  let n := line / 128 % 65536
  if s.fab.lost.contains n then (true, s) else
  match s.fab.tracks.find? fun t => t.line == line with
  | some t =>
    let mine := fun (x : Nat × Nat × Nat) => x.1 == package && x.2.1 == requester
    let hit := t.sources.any fun x => !(mine x) && words &&& x.2.2 != 0
    let new := if t.sources.any mine then t.sources.map fun x => if mine x then (x.1, x.2.1, x.2.2 ||| words) else x
      else t.sources ++ [(package, requester, words)]
    (hit, { s with fab := { s.fab with tracks := s.fab.tracks.map fun u => if u.line = line then { u with sources := new } else u } })
  | none =>
    let new : Track := { line := line, sources := [(package, requester, words)] }
    let s := match s.fab.tracks with
      | t :: ts => if s.fab.tracks.length ≥ 16384 then
          { s with fab := { s.fab with tracks := ts ++ [new], lost := insertKey (t.line / 128 % 65536) s.fab.lost } }
        else { s with fab := { s.fab with tracks := s.fab.tracks ++ [new] } }
      | [] => { s with fab := { s.fab with tracks := [new] } }
    (false, s)

/-- Counts an arrival's timing-dependent choice, once at most (R338). -/
def State.countNdc (s : State) (p : Packet) (package line : Nat) (hit : Bool) : State :=
  if p.op = 1 then s else
  let (seen, s) := s.track line package p.requester (writtenWords p)
  let s := s.showTracks
  let counted := p.op != 3 || p.func == 0x20
  if counted && (hit || seen) then (s.ndc (s.lineDie line) 3 1).bump FAB_PERF_NDC.count 0 0 1 else s

/-! ### Entering the table (R333, R334) -/

def lineOf (addr : Nat) : Nat := addr / 128 * 128

/-- A new entry for a request. -/
def newEntry (p : Packet) (src : Source) (applying : Bool) : Entry :=
  { line := lineOf p.addr, op := p.op, func := p.func, mask := if p.op = 2 then storeMask p else p.mask, data := p.payload
    sources := [src], off := p.addr % 128, applying := applying }

def mergeable (e : Entry) (p : Packet) : Bool :=
  !e.applying && e.op == p.op && (p.op == 2 || (p.op == 3 && e.func == p.func))

/-- Merges a request into an entry; also whether an A32 ADD met one of the same word. -/
def mergeInto (e : Entry) (p : Packet) (src : Source) : Entry × Bool :=
  if p.op = 2 then
    let m := storeMask p
    ({ e with mask := e.mask ||| m, sources := e.sources ++ [src]
              data := (List.range 128).map fun i => if maskBit m i then p.payload.getD i 0 else e.data.getD i 0 }, false)
  else
    let sz := atomicSize p.func
    let js := (List.range (128 / sz)).filter fun j => maskBit p.mask j
    let r := js.foldl (fun (acc : List Byte × List (Nat × Exc)) j =>
      let v := wordAt p.payload sz j
      if maskBit e.mask j then
        let c := atomicOp p.func (wordAt acc.1 sz j) v
        (putWord acc.1 sz j c.1, acc.2.map (fun x => if x.1 = j then (j, x.2 ||| c.2) else x) ++
          (if acc.2.any (fun x => x.1 == j) then [] else [(j, c.2)]))
      else (putWord acc.1 sz j v, acc.2)) (e.data, e.excs)
    ({ e with mask := e.mask ||| p.mask, sources := e.sources ++ [src], data := r.1, excs := r.2 },
      p.func == 0x20 && e.mask &&& p.mask != 0)

/-- The last entry of a line's queue. -/
def State.lastEntry (s : State) (line : Nat) : Option Entry := (s.fab.table.filter fun e => e.line == line).getLast?

/-- Replaces the last entry of a line. -/
def replaceLast (new : Entry) : List Entry → List Entry
  | [] => []
  | e :: l => if e.line = new.line ∧ !(l.any fun x => x.line == new.line) then new :: l else e :: replaceLast new l

/-- Entries that stand in the table behind the last entry of a line. -/
def entriesBehind (line : Nat) (es : List Entry) : List Entry := (es.reverse.takeWhile fun e => e.line != line).reverse

/-- Whether an earlier request of a source's flow stands behind a line's last entry: merged there, the source would be applied before it
(R320; log 50). -/
def State.overtakes (s : State) (line : Nat) (src : Source) : Bool :=
  src.package != s.physId &&
    (entriesBehind line s.fab.table).any fun e => e.sources.any fun x => x.package == src.package && x.gen == src.gen

/-- The entry that a request merges into (R333): its line's last, of its kind, not yet being applied, and in its flow's order. -/
def State.mergeTarget (s : State) (p : Packet) (src : Source) : Option Entry :=
  (s.lastEntry (lineOf p.addr)).filter fun e => mergeable e p && !(s.overtakes (lineOf p.addr) src)

/-- The source of a packet's request. -/
def sourceOf (p : Packet) : Source := { package := p.src, requester := p.requester, seq := p.seq, gen := p.gen }

/-- Whether a request finds its place: it merges, or an entry is free (R336). -/
def State.tableTakes (s : State) (p : Packet) (src : Source) : Bool :=
  s.fab.table.length < 4096 || (s.mergeTarget p src).isSome

/-- A request enters the table (R333); a line with no entry goes to memory at once. -/
def State.enterTable (s : State) (p : Packet) (src : Source) : State :=
  let line := lineOf p.addr
  match s.mergeTarget p src with
  | some e =>
    let r := mergeInto e p src
    let s := { s with fab := { s.fab with table := replaceLast r.1 s.fab.table
                                          merges := Sparse.put 0 s.fab.merges line (Sparse.get 0 s.fab.merges line + 1) } }
    (s.bump FAB_PERF_MERGES.count 0 0 1).countNdc p src.package line r.2
  | none =>
    let e := newEntry p src (s.lastEntry line).isNone
    ({ s with fab := { s.fab with table := s.fab.table ++ [e] } }).countNdc p src.package line false

/-! ### Answers -/

/-- A response to a request of another package joins the RSP flow to it; without room in the retransmit store it waits as a request does
(R320, R322). -/
def State.respond (s : State) (src : Source) (op addr func mask : Nat) (payload : List Byte) : State :=
  let queued := s.fab.reqQ.any fun r => r.phys && r.dst == src.package && opClass r.op == clsRsp
  if s.hasRoom src.package clsRsp && !queued then
    s.launch { op := op, dst := src.package, src := 0, requester := src.requester, addr := addr, func := func, mask := mask, payload := payload } false 0
  else
    s.send { op := op, dst := src.package, requester := src.requester, addr := addr, func := func, mask := mask, payload := payload, phys := true }

/-- The STATUS of a failed request carries the request's number and the line it named, or its register (R318). -/
def State.refuse (s : State) (src : Source) (addr status : Nat) : State :=
  s.sendLoose { op := 0x0A, dst := src.package, src := 0, requester := src.requester, addr := if isRegister addr then addr else lineOf addr, func := status
                seq := src.seq }

/-- An inbound flow. -/
def State.inflow (s : State) (src cls : Nat) : Option InFlow := s.fab.inflows.find? fun f => f.src == src && f.cls == cls

def State.setInflow (s : State) (f : InFlow) : State :=
  let fs := s.fab.inflows
  let fs := if fs.any fun g => g.src == f.src && g.cls == f.cls then fs.map fun g => if g.src = f.src ∧ g.cls = f.cls then f else g
    else fs ++ [f]
  { s with fab := { s.fab with inflows := fs } }

/-- The number up to which a flow's packets are committed in order (R320, R321). -/
def InFlow.committed (f : InFlow) : Nat :=
  match f.inTable, f.queue with
  | n :: _, _ => seqAhead n 1
  | [], p :: _ => seqAhead p.seq 1
  | [], [] => seqAhead f.expected 1

/-- A request is committed: its answer leaves before the ACK that covers it (R321). The answer to a requester of this package is
handed over. -/
def State.commitRequest (s : State) (src : Source) (op addr status : Nat) (data : List (Byte × Bool)) (old : List Byte) : State :=
  if src.package = s.physId then
    let s := s.threadAnswered src.requester
    -- a write that failed is covered by its requester's next fence (R331, R332)
    let s := if status = 0 ∨ (op = 2 ∧ status = 3) ∨ !(isWriteOp op) then s else s.noteUnreported src.requester src.backward
    let p : Packet := { op := op, dst := src.package, src := src.package, requester := src.requester, seq := src.seq, addr := addr }
    if op = 1 then s.answer p src.seq status data
    else if op = 4 ∨ op = 5 then { s with compl := (completionOf status, old) }
    -- a partial write over poison completes normally (R290)
    else if status = 0 ∨ (op = 2 ∧ status = 3) then s
    else if src.requester = 0xF00 then (if status = 1 ∨ status = 2 then s.rakeRemote src.seq (completionOf status) else s)
    else if src.requester = 0xF10 then
      (if s.host.failed.any fun f => f.1 == src.seq then s
       else { s with host := { s.host with failed := s.host.failed ++ [(src.seq, status)] } })
    else s
  else if !((s.inflow src.package clsReq).any fun f => f.gen == src.gen) then s
  else
    let s := if op = 1 ∧ (status = 0 ∨ status = 3) then
        let mask := ((List.range 4).map fun u => if (data.drop (32 * u)).headD (0, false) |>.2 then 2 ^ u else 0).sum
        s.respond src 8 addr status mask (((data ++ List.replicate 128 (0, false)).take 128).map fun (c : Byte × Bool) => c.1)
      else if (op = 4 ∨ op = 5) ∧ status = 0 then s.respond src 9 addr 0 0 (old ++ List.replicate 8 0#8)
      else if status ≠ 0 then s.refuse src addr status
      else s
    match s.inflow src.package clsReq with
    | none => s
    | some f =>
      let before := f.committed
      let g := { f with inTable := f.inTable.filter (· != src.seq)
                        failed := if status = 0 ∨ (op = 1 ∧ status = 3) then f.failed
                          else f.failed.drop (f.failed.length - 1023) ++ [(src.seq, src.requester, addr, status)] }
      let s := s.setInflow g
      if g.committed ≠ before then s.sendAck src.package clsReq g.committed else s

/-! ### Applying an entry (R334, R335) -/

/-- The owner code under which an entry reaches a scratchpad (R89; log 12). -/
def ownerOf (requester : Nat) : Nat := if requester = 0xF00 then ownRake else ownExt

/-- The 4 poison marks of a line, by 32-byte unit. -/
def linePoison (cells : List (Byte × Bool)) (u : Nat) : Bool := ((cells.drop (32 * u)).take 32).any (·.2)

/-- What an entry makes of a line: the bytes it writes, its status, the old value, and its arithmetic events. -/
def applyEntry (e : Entry) (cells : List (Byte × Bool)) : List (Option Byte) × Nat × List Byte × List Exc :=
  let old := cells.map (·.1)
  let none' : List (Option Byte) := List.replicate 128 none
  if e.op = 1 then (none', if cells.any (·.2) then 3 else 0, [], [])
  else if e.op = 2 then
    let part := (List.range 4).any fun u => linePoison cells u &&
      (List.range 32).any (fun i => maskBit e.mask (32 * u + i)) && !((List.range 32).all fun i => maskBit e.mask (32 * u + i))
    ((List.range 128).map fun i => if maskBit e.mask i then some (e.data.getD i 0) else none, if part then 3 else 0, [], [])
  else if e.op = 3 then
    let sz := atomicSize e.func
    let js := (List.range (128 / sz)).filter fun j => maskBit e.mask j
    if js.any fun j => linePoison cells (j * sz / 32) then (none', 3, [], []) else
    let r := js.foldl (fun (acc : List Byte × List Exc) j =>
      let c := atomicOp e.func (wordAt acc.1 sz j) (wordAt e.data sz j)
      (putWord acc.1 sz j c.1, acc.2 ++ [c.2 ||| (e.excs.lookup j).getD Exc.none])) (old, [])
    ((List.range 128).map fun i => if maskBit e.mask (i / sz) then some (r.1.getD i 0) else none, 0, [], r.2)
  else
    if linePoison cells (e.off / 32) then (none', 3, [], []) else
    let word := (old.drop e.off).take 8
    let new := if e.op = 4 then e.data.take 8 else (e.data.drop 8).take 8
    let writes := e.op == 4 || word == e.data.take 8
    ((List.range 128).map fun i => if writes && e.off ≤ i && i < e.off + 8 then some (new.getD (i - e.off) 0) else none, 0, word, [])

/-- Records the arithmetic events of applied words, each word once (R73, R334, R447). -/
def State.recordAtomic (s : State) (xs : List Exc) : State :=
  let n := fun (x : Exc) => (xs.filter fun e => e.has x).length
  let i := n Exc.invalid
  let o := n Exc.overflow
  let u := n Exc.underflow
  let s := ((s.sat FAB_EXC_CNT.invalid 0 0 i).sat FAB_EXC_CNT.overflow 0 0 o).sat FAB_EXC_CNT.underflow 0 0 u
  s.mapWindow fun w => { w with invalid := w.invalid + i, overflow := w.overflow + o, underflow := w.underflow + u }

/-- An entry waits for the earlier requests of each of its sources' flows that stand in other entries (R320). -/
def State.entryTurn (s : State) (e : Entry) : Bool :=
  e.sources.all fun src =>
    src.package == s.physId || match s.inflow src.package clsReq with
      | none => true
      | some f => f.gen != src.gen || f.inTable.all fun n =>
          !(seqLe n src.seq) || e.sources.any fun x => x.package == src.package && x.gen == src.gen && x.seq == n

/-- A line's next entry goes to memory. -/
def startNext (line : Nat) : List Entry → List Entry
  | [] => []
  | e :: l => if e.line = line then { e with applying := true } :: l else e :: startNext line l

/-- A line as it stands, with the poison of each byte, without a requester's read. -/
def State.peekLine (s : State) (line : Nat) : List (Byte × Bool) :=
  match sramPlace line with
  | some (a, off) => s.sramTake a off 128
  | none => (s.dbytes line 128).zip ((List.range 128).map fun i => s.dbad (line + i))

/-- The spans of its line that an atomic reads and writes: offset and length of each. -/
def Entry.spans (e : Entry) : List (Nat × Nat) :=
  if e.op ≤ 2 then [] else
  let sz := if e.op = 3 then atomicSize e.func else 8
  let js := if e.op = 3 then (List.range (128 / sz)).filter fun j => maskBit e.mask j else [e.off / 8]
  js.map fun j => (j * sz, sz)

/-- The words with check bits that an atomic reads, by local address. -/
def Entry.words (e : Entry) : List Nat :=
  (e.spans.flatMap fun sp => match sramPlace e.line with
    | some _ => unitsOf 8 (e.line + sp.1) sp.2
    | none => eccWords (e.line + sp.1) sp.2).eraseDups

/-- The read of an atomic's read-modify-write meets the errors of the words it names (R78, R289, R333). -/
def State.meetAtomic (s : State) (e : Entry) : State :=
  match sramPlace e.line with
  | some (a, off) => s.sramMeet a (e.spans.map fun sp => (off + sp.1, sp.2))
  | none => s.meetErrors e.words

/-- The words that an atomic has read are written whole: a corrected error is gone, and is met no second time. -/
def State.mendAtomic (s : State) (e : Entry) : State :=
  match sramPlace e.line with
  | some _ => e.words.foldl State.mend s
  | none => s.mendAll e.words

/-- An atomic in a protected range that changes no byte, having met a poisoned unit or lost its comparison, is a line write all the same: of
the line's value after the atomic (R295). -/
def State.idleAtomic (s : State) (e : Entry) : State :=
  if e.op < 3 ∨ (sramPlace e.line).isSome then s else
  match s.crcRange e.line with
  | some r => (s.mendAtomic e).lineWrite r e.line (List.replicate 128 none)
  | none => s

/-- The die on which an entry's first requester stands (R309). -/
def State.entryDie (s : State) (e : Entry) : Nat :=
  match e.sources with
  | src :: _ => if src.package = s.physId then s.requesterDie src.requester else dieHub
  | [] => dieHub

/-- The head entry of a line is applied to memory and its requests are committed (R333 to R335); a bank that holds the access
lets it wait (R92). -/
def State.applyHead (s : State) (line : Nat) : State :=
  match s.fab.table.find? fun e => e.line == line with
  | none => s
  | some e =>
    if !(s.entryTurn e) then s else
    let code := ownerOf (match e.sources with
      | src :: _ => src.requester
      | [] => 0)
    match s.memGate line 128 code with
    | .held => s
    | g =>
      let s := { s with fab := { s.fab with table := startNext line (s.fab.table.erase e) } }
      let addr := if e.op = 4 ∨ e.op = 5 then line + e.off else line
      match g with
      | .refused c =>
        let s := s.memRefused line 128 code c
        e.sources.foldl (fun s src => s.commitRequest src e.op addr (statusCode c) [] []) s
      | _ =>
        let poisoned := s.obs.window.poisoned
        let s := s.meetAtomic e
        let (s, cells) := if e.op = 1 then
            let r := s.memRead line 128 code (s.entryDie e)
            (r.1, r.2.2)
          else (s, s.peekLine line)
        let s := s.mapWindow fun w => { w with poisoned := poisoned }
        let out := applyEntry e cells
        let s := if out.1.any (·.isSome) then ((s.mendAtomic e).memWrite line out.1 code (s.entryDie e)).1 else s.idleAtomic e
        let s := s.recordAtomic out.2.2.2
        e.sources.foldl (fun s src => s.commitRequest src e.op addr out.2.1 cells out.2.2.1) s

end Sys2Proof.Machine
end

