-- ==== Sys2Proof/Machine/EpochOps.lean ====
section
/-! DEFINITION. The unit state table's requests (R370 to R372), fence epochs (R345, R371) and the physical ID (R314). -/

namespace Sys2Proof.Machine

/-! ### Retirement is recorded before the entry shows it (R370, R402) -/

/-- The bit of a unit in the UNITS_RETIRED record; arrays have none. HBM stacks stand by position. -/
def Part.retiredBit (p : Part) (u : UnitId) : Option Nat :=
  match u.kind with
  | .UST_LINK => some u.i
  | .UST_HBM => some (16 + p.positions.getD u.i 0)
  | .UST_BITTERN => some (28 + u.i)
  | .UST_TEMPER => some (32 + u.i)
  | _ => none

/-- A unit's retirement enters SPARE_MAP or UNITS_RETIRED; a retired word or bit never changes (R398). -/
def State.recordRetired (s : State) (u : UnitId) : State :=
  match s.part.retiredBit u with
  | some b => ({ s with hmk := { s.hmk with unitsRetired := s.hmk.unitsRetired ||| 2 ^ b } }).newVersion recUnits
  | none =>
    match (s.binding u.i).1 with
    | none => s
    | some ph =>
      let r := s.hmk.spare
      let x := (s.part.dieOf u.i, ph)
      if r.retired.contains x then s
      else ({ s with hmk := { s.hmk with spare := { r with retired := r.retired ++ [x] } } }).newVersion recSpareMap

/-! ### Requests (R370) -/

def State.rejectRequest (s : State) (u : UnitId) : State := (s.setFld UST_STATUS.rejected 0 0 1).raise 2 1 u.i 0

/-- Whether a FENCED unit may be made ACTIVE. -/
def State.mayReturn (s : State) (u : UnitId) : Bool :=
  match u.kind with
  | .UST_LINK => s.fld FAB_LINK_STATUS.state u.i == lnkUp
  | .UST_HBM => s.fld HBM_STK_INFO.state u.i == 2
  | _ => true

/-- A request of a table state. -/
def State.unitRequest (s : State) (u : UnitId) (want : Nat) : State :=
  if !(s.present u) then s else
  let from' := s.tableState u
  if (from' = tsActive ∧ want = tsDraining) ∨ (from' = tsDraining ∧ want = tsActive) then s.setTable u want 1
  else if from' = tsFenced ∧ want = tsActive ∧ s.mayReturn u then s.setTable u tsActive 1
  else if from' = tsFenced ∧ want = tsRetired then (s.recordRetired u).setTable u tsRetired 1
  else s.rejectRequest u

/-- The unit of a table entry's register. -/
def Reg.unit (r : Reg) : Option UnitId :=
  match r.kind with
  | .UST_ARRAY | .UST_LINK | .UST_HBM | .UST_BITTERN | .UST_TEMPER => some ⟨r.kind, r.i⟩
  | _ => none

/-- A write of a unit state entry, by its address. -/
def State.unitWrite (s : State) (addr : Nat) (v : Word) : State :=
  match Reg.ofAddr addr with
  | none => s
  | some r => match r.unit with
    | none => s
    | some u => s.unitRequest u (bits v 55 52)

/-! ### Draining (R370, R371) -/

/-- Whether a unit has work in flight. -/
def State.workInFlight (s : State) (u : UnitId) : Bool :=
  match u.kind with
  | .UST_ARRAY => (s.array u.i).executing || (s.array u.i).holding || (s.array u.i).march.isSome
  | .UST_LINK => s.fab.tx.any fun t => t.1 == u.i
  | .UST_HBM => s.dram.testing.any fun t => t.1 == u.i
  | .UST_TEMPER => s.shardList.any fun x => x.2.unit == u.i &&
      (s.phase x.1 == phParked || s.phase x.1 == phApply || (s.tshard x.1).fetch.isSome)
  | _ => false

/-- A unit that drains with no work left is fenced by the device; no fault caused it, so no event names it. -/
def State.unitDrained (s : State) (addr : Nat) : State :=
  match Reg.ofAddr addr with
  | none => s
  | some r => match r.unit with
    | none => s
    | some u =>
      if s.present u && s.tableState u == tsDraining && s.pathState u == tsDraining && !(s.workInFlight u) then s.setTable u tsFenced 4
      else s

/-! ### Fence epochs (R345, R371, R372) -/

/-- Whether an outbound REQ flow holds an unacknowledged packet. -/
def State.outstanding (s : State) : Bool := s.fab.flows.any fun f => f.cls == clsReq && !f.unacked.isEmpty

/-- `FAB_EPOCH.advance` is written. -/
def State.requestAdvance (s : State) : State := s.setFld FAB_EPOCH.pending 0 0 1

/-- A write is staged: it takes effect at the next advance. -/
def State.stage' (s : State) (addr : Nat) (v : Word) : State :=
  ({ s with fab := { s.fab with staged := (s.fab.staged.filter fun (w : Nat × Word) => w.1 != addr) ++ [(addr, v)] } }).showStaged

/-- The staged writes take effect. -/
def State.applyStaged (s : State) : State :=
  let s := s.fab.staged.foldl (fun s w => match Reg.ofAddr w.1 with
    | some r => s.wr r.kind r.i r.j (fieldWrite r.kind (s.rd r.kind r.i r.j) w.2)
    | none => s) s
  let s := { s with fab := { s.fab with staged := [], down := s.fab.down.filter fun h => !(s.fab.backUp.contains h), backUp := [] } }
  s.showStaged

/-- One entry at an advance: a unit that drains with work in flight keeps its path state. -/
def State.takePath (s : State) (epoch : Nat) (u : UnitId) : State :=
  if s.pathState u = tsDraining ∧ s.workInFlight u then s else
  let was := s.pathState u
  let s := (s.setUst u 59 56 (s.tableState u)).setUst u 31 0 epoch
  if u.kind = .UST_ARRAY ∧ s.pathState u = tsDraining ∧ was ≠ tsDraining then s.seqHalt u.i else s

/-- Entries whose views differ. -/
def State.differing (s : State) : List UnitId := s.part.units.filter fun u => s.present u && s.tableState u != s.pathState u

/-- The epoch advances: staged changes apply, the tracking epoch ends, the path states follow the table, and what still differs is
counted and reported. -/
def State.advanceEpoch (s : State) : State :=
  let s := (s.setFld FAB_EPOCH.pending 0 0 0).applyStaged.endTracking
  let s := s.bump FAB_EPOCH.epoch 0 0 1
  let s := (s.part.units.filter s.present).foldl (fun s u => s.takePath (s.fld FAB_EPOCH.epoch) u) s
  let left := s.differing
  let s := left.foldl (fun s u => s.countDisagreement u) s
  let s := s.setFld UST_STATUS.opened 0 0 left.length
  if left.isEmpty then s else s.raise 2 2 0xFFFF (BitVec.ofNat 64 left.length)

/-- A pending advance completes once the REQ flows have drained. -/
def State.epochComplete (s : State) : State :=
  if !(s.flag FAB_EPOCH.pending) || s.outstanding then s else s.advanceEpoch

/-- A pending advance has not completed within `FENCE_TIMEOUT`. -/
def State.epochRefuse (s : State) : State :=
  if !(s.flag FAB_EPOCH.pending) then s
  else ((s.setFld FAB_EPOCH.pending 0 0 0).setFld FAB_EPOCH.refused 0 0 1).fabEvent 3 0 16 0 0

/-- A write of `FAB_EPOCH`. -/
def State.epochWrite (s : State) (v : Word) : State :=
  let s := s.wr .FAB_EPOCH 0 0 (fieldWrite .FAB_EPOCH (s.rd .FAB_EPOCH) v)
  if bit v 63 then s.requestAdvance else s

/-! ### The physical ID (R314) -/

/-- A write of `FAB_PHYS_ID`, heeded while no casting is poured; the logical ID equals it then. -/
def State.physIdWrite (s : State) (v : Word) : State :=
  if s.flag CST_STATE.configured ∨ s.flag CST_STATE.pouring then s else
  let s := (s.setFld FAB_PHYS_ID.id 0 0 (bits v 15 0)).setFld FAB_PHYS_ID.set 0 0 1
  s.setFld FAB_ID.logical_id 0 0 (bits v 15 0)

end Sys2Proof.Machine
end

