-- ==== Sys2Proof/Machine/NandOps.lean ====
section
/-! DEFINITION. The Hallmark's NAND (R394, R395, R399, R400): partitions, the page map, wear, and the events of the store (R410). -/

namespace Sys2Proof.Machine

/-! ### Events and status -/

/-- An event of class 0x0B that `HMK_ERR_INFO` tells: its code, the section type, the pour step and the detail (R408). -/
def State.hmkFailure (s : State) (code sect step detail : Nat) : State :=
  let v := BitVec.ofNat 64 (code * 2 ^ 56 + sect % 2 ^ 16 * 2 ^ 40 + step % 256 * 2 ^ 32 + detail % 2 ^ 32)
  (s.wr .HMK_ERR_INFO 0 0 v).raise 0x0B code 0xFFFF v

/-- `HMK_STATUS`: state, operation, step, reason and progress. -/
def State.hmkStatus (s : State) (st op step reason progress : Nat) : State :=
  s.wr .HMK_STATUS 0 0 (BitVec.ofNat 64 (st * 2 ^ 60 + op % 256 * 2 ^ 52 + step % 16 * 2 ^ 48 + reason % 256 * 2 ^ 40 + progress % 2 ^ 32))

def hmkIdle : Nat := 0
def hmkBusy : Nat := 1
def hmkDone : Nat := 2
def hmkRefused : Nat := 3
def hmkFailed : Nat := 4

/-! ### Places of the partitions (R395) -/

/-- Where a partition's bytes lie in the addressed memory: above every local address. -/
def nandBase : Nat := 2 ^ 46
def nandKey (p slot off : Nat) : Nat := nandBase + p * 2 ^ 36 + slot * 2 ^ 32 + off

/-! ### Blocks and pages (R399) -/

/-- Counts one erase of a block; when the mean reaches 48,000 the event 0x0B:0x08 is raised, once (R400). -/
def State.eraseBlock (s : State) (b : Nat) : State :=
  let n := s.hmk.nand
  let n := { n with erases := Sparse.put 0 n.erases b (n.erasesOf b + 1), used := n.used.filter (· != b)
                    flaws := n.flaws.filter fun f => f.1 / 64 != b, areas := n.areas.filter fun x => x.1 / 64 != b }
  let total : Nat := (n.erases.map fun (e : Nat × Nat) => e.2).sum
  let mean := total / nandBlocks
  let first := mean ≥ 48000 && !n.worn
  let s := { s with hmk := { s.hmk with nand := { n with worn := n.worn || first } } }
  let s := s.bump HMK_LIFE_NAND_ERASES.count 0 0 1
  if first then s.raise 0x0B 8 0xFFFF 0 else s

/-- Pages that hold data already are written anew elsewhere. -/
def State.movePages (s : State) (pages : List Nat) : State :=
  { s with hmk := { s.hmk with nand := pages.foldl Nand.move s.hmk.nand } }

/-- Pages take new data. -/
def State.programPages (s : State) (pages : List Nat) : State :=
  { s with hmk := { s.hmk with nand := (s.hmk.nand.writeAll pages).1 } }

def Nand.mean (n : Nand) : Nat :=
  let total : Nat := (n.erases.map fun (e : Nat × Nat) => e.2).sum
  total / nandBlocks

def Nand.most (n : Nand) : Nat := (n.erases.map fun (e : Nat × Nat) => e.2).foldl max 0

/-- STORE_CAST and STORE_FW are refused (R400). -/
def Nand.wornOut (n : Nand) : Bool := n.mean ≥ 57000 || n.bad.length > 1024

/-- `HMK_NAND` (R408). -/
def State.nandWord (s : State) : Word :=
  let n := s.hmk.nand
  BitVec.ofNat 64 (n.bad.length % 65536 * 2 ^ 48 + min 65535 n.freeBlocks.length * 2 ^ 32 + min 65535 n.mean * 2 ^ 16 + min 65535 n.most)

/-- A piece of the background work, or what ageing does to the cells. Collecting runs with fewer than 256 blocks free, levelling when the
erase counts lie more than 1,000 apart. -/
def State.nandWork (s : State) (w : NandWork) : State :=
  let n := s.hmk.nand
  match w with
  | .collect =>
    if n.freeBlocks.length ≥ 256 then s else
    match leastBy (fun b => (n.validPages b).length) (n.used.filter fun b => b != n.openBlock && !(n.bad.contains b)) with
    | none => s
    | some b => (s.movePages (n.validPages b)).eraseBlock b
  | .level =>
    let good := (List.range nandBlocks).filter fun b => !(n.bad.contains b)
    match leastBy n.erasesOf good, mostBy n.erasesOf n.freeBlocks with
    | some b, some f =>
      if n.most ≤ n.erasesOf b + 1000 ∨ !(n.used.contains b) ∨ b = n.openBlock then s else
      let pages := n.validPages b
      let s := { s with hmk := { s.hmk with nand := pages.foldl Nand.move { n with openBlock := f, fill := 0, used := n.used ++ [f] } } }
      -- the block that was open before goes on
      let s := { s with hmk := { s.hmk with nand := { s.hmk.nand with openBlock := n.openBlock, fill := n.fill } } }
      s.eraseBlock b
    | _, _ => s
  | .retire b =>
    if b ≥ nandBlocks ∨ n.bad.contains b then s else
    let pages := n.validPages b
    let n := { n with bad := insertKey b n.bad, used := n.used.filter (· != b), fill := if n.openBlock = b then 64 else n.fill }
    let s := { s with hmk := { s.hmk with nand := n } }
    (s.movePages pages).hmkFailure 7 0 0 b
  | .refresh p => if n.map.any fun m => m.1 == p then s.movePages [p] else s
  | .decay p k => { s with hmk := { s.hmk with nand := { n with flaws := Sparse.put 0 n.flaws p k } } }
  | .weaken b => { s with hmk := { s.hmk with nand := { n with broken := insertKey b n.broken } } }

/-! ### Bytes of the partitions -/

/-- Writes bytes into a partition's slot, from its start. -/
def State.nandWrite (s : State) (p slot : Nat) (bs : List Byte) : State :=
  let k := nandKey p slot 0
  let s := (s.zeroSpan k (partSize p)).setBytes k bs
  s.programPages ((List.range ((bs.length + 16383) / 16384)).map (firstPage p slot + ·))

/-- Whether check bits correct every page that a span of a partition's slot touches (R395). -/
def State.nandReadable (s : State) (p slot off n : Nat) : Bool :=
  s.hmk.nand.flaws.isEmpty || ((unitsOf 16384 off n).all fun o => s.hmk.nand.readable (firstPage p slot + o / 16384))

/-- Bytes of a stored image. -/
def State.nandBytes (s : State) (p slot off n : Nat) : List Byte := s.bytes (nandKey p slot off) n

end Sys2Proof.Machine
end

