-- ==== Sys2Proof/Machine/CastingOps.lean ====
section
/-! DEFINITION. The casting container (R378 to R382) and the admission checks 1 to 7 (R383). -/

namespace Sys2Proof.Machine

/-! ### The container (R378) -/

/-- A directory entry. -/
structure Section where
  type : Nat
  offset : Nat
  size : Nat
  digest : List Byte
  deriving DecidableEq, Repr

def slice (bs : List Byte) (off n : Nat) : List Byte := (bs.drop off).take n

def sectionCount (c : List Byte) : Nat := num c 10 2

/-- The directory, in its order. -/
def sectionsOf (c : List Byte) : List Section :=
  (List.range (min 64 (sectionCount c))).map fun i =>
    let e := slice c (256 + 64 * i) 64
    { type := num e 0 2, offset := num e 8 8, size := num e 16 8, digest := slice e 24 32 }

def sectionBytes (c : List Byte) (x : Section) : List Byte := slice c x.offset x.size

/-- D: the digest over the header and the directory (R379). -/
def castingDigest (c : List Byte) : List Byte := shake256 (c.take (256 + 64 * sectionCount c))

/-- The signature block is the last 8 KiB: the public key and the signature. -/
def signatureBlock (c : List Byte) : List Byte := c.drop (c.length - 8192)
def blockKey (b : List Byte) : List Byte := b.take 1952
def blockSignature (b : List Byte) : List Byte := slice b 1952 3309

/-- A message with its context string, as FIPS 204 forms it (R379). -/
def withContext (ctx m : List Byte) : List Byte := [0#8, BitVec.ofNat 8 ctx.length] ++ ctx ++ m

/-- "casting", "firmware", "key" and "attest" in ASCII. -/
def ctxCasting : List Byte := [0x63#8, 0x61#8, 0x73#8, 0x74#8, 0x69#8, 0x6E#8, 0x67#8]
def ctxFirmware : List Byte := [0x66#8, 0x69#8, 0x72#8, 0x6D#8, 0x77#8, 0x61#8, 0x72#8, 0x65#8]
def ctxKey : List Byte := [0x6B#8, 0x65#8, 0x79#8]
def ctxAttest : List Byte := [0x61#8, 0x74#8, 0x74#8, 0x65#8, 0x73#8, 0x74#8]

/-- Sections lie on 4 KiB boundaries, in directory order, without overlap, between the directory and the signature block. -/
def sectionsLie (limit : Nat) : Nat → List Section → Bool
  | _, [] => true
  | from', x :: xs => x.offset % 4096 == 0 && x.offset ≥ from' && x.offset + x.size ≤ limit && sectionsLie limit (x.offset + x.size) xs

/-! ### Checks 1 to 7 (R383) -/

/-- Check 1: the layout. -/
def wellLaid (c : List Byte) (kind : Nat) : Bool :=
  num c 0 4 == 0x54434C56 && num c 4 2 == 1 && byteAt c 9 == kind && 1 ≤ sectionCount c && sectionCount c ≤ 64 &&
  num c 16 8 == c.length && c.length % 4096 == 0 && c.length ≤ (if kind = 1 then 0x40000000 else 0x8000000) && c.length ≥ 8192 + 256 + 64 * sectionCount c &&
  sectionsLie (c.length - 8192) (256 + 64 * sectionCount c) (sectionsOf c)

/-- Check 4: the signer is the digest of the key in the block and is enrolled and not revoked; for firmware, the root key. -/
def State.signerKnown (s : State) (c : List Byte) (kind : Nat) : Bool :=
  let d := shake256 (blockKey (signatureBlock c))
  d == slice c 48 32 && (if kind = 2 then d == s.part.firmwareRoot else s.hmk.keys.any fun k => k.valid && !k.revoked && k.digest == d)

/-- Check 5: the signature over D. -/
def signed (c : List Byte) (kind : Nat) : Bool :=
  let b := signatureBlock c
  Config.mlDsaVerify (blockKey b) (withContext (if kind = 1 then ctxCasting else ctxFirmware) (castingDigest c)) (blockSignature b)

/-- Checks 1 to 6 in order; the refusal reason of the first that fails, 0 for none. -/
def State.checkImage (s : State) (c : List Byte) (kind : Nat) : Nat :=
  if !(wellLaid c kind) then 1
  else if num c 6 2 ≠ s.part.partCode then 2
  else if byteAt c 8 ≠ 9 then 3
  else if !(s.signerKnown c kind) then 4
  else if !(signed c kind) then 5
  else if num c 12 4 < (if kind = 1 then s.hmk.castSvn else s.hmk.fwSvn) then 6
  else 0

/-- Check 7: every section's digest. -/
def digestsHold (c : List Byte) : Bool := (sectionsOf c).all fun x => shake256 (sectionBytes c x) == x.digest

/-- Checks 1 to 7. -/
def State.checkStore (s : State) (c : List Byte) (kind : Nat) : Nat :=
  let r := s.checkImage c kind
  if r ≠ 0 then r else if !(digestsHold c) then 7 else 0

/-! ### Items (R381) -/

/-- A register item: its address, its must-be-zero bytes and its value. -/
structure Item where
  addr : Nat
  pad : Nat
  value : Word
  deriving DecidableEq, Repr

def itemsOf (bs : List Byte) : List Item :=
  (List.range (bs.length / 16)).map fun i =>
    { addr := num bs (16 * i) 6, pad := num bs (16 * i + 6) 2, value := BitVec.ofNat 64 (num bs (16 * i + 8) 8) }

/-- Registers that items of REGISTERS may name. -/
def RegKind.nameable (k : RegKind) : Bool :=
  match k with
  | .STG_ROOT | .TMP_CFG | .TMP_SEED | .TEMPER_NORM_CEIL | .TMP_SHARD_BASE | .TMP_LAYER_BASE | .TMP_HSET_BASE | .TMP_TELE_CFG
  | .CLK_NMI_VEC | .OBS_SUM_CFG
  | .SCP_BANK_OWN | .SCP_BANK_CFG | .ARR_WIN_CFG | .ARR_SEQ_CFG | .FBI_CFG | .VEC_CFG | .SPM_CFG
  | .RX_LAYER_TABLE | .RX_EXPERT_TABLE | .STG_ENTRY | .STG_QUEUE
  | .NTC_RING_CFG | .HP_MBX_CFG | .HP_GW_CFG | .HP_GW_PEER
  | .FAB_ID | .FAB_CFG | .FAB_LINK_CFG | .FAB_NM_MASK | .FAB_GW | .FAB_SLICE_MAP | .FAB_REMAP => true
  | _ => false

/-- Registers that items of MEMORY may name. -/
def RegKind.memoryItem (k : RegKind) : Bool :=
  match k with
  | .MEM_IL_REGION | .MEM_CRC_BASE | .MEM_CRC_SIZE | .MEM_CRC_TABLE | .MEM_SCRUB_CFG => true
  | _ => false

/-- The bits of a register that are not reserved. The endpoint words of R376 have their own reserved bits. -/
def Reg.defined (r : Reg) : Nat :=
  match r.kind with
  | .HP_GW_PEER | .HP_PEER | .HP_SELF =>
    if r.j = 0 then 0xC000FFFFFFFFFFFF else if r.j = 3 then 0xFFFF000000000000 else 0xFFFFFFFFFFFFFFFF
  | k => k.fields.foldl (fun m f => m ||| (2 ^ (f.hi + 1) - 2 ^ f.lo)) 0

/-- The bits of a register that a pour writes: those of every field but WO ones. -/
def Reg.poured (r : Reg) : Nat :=
  match r.kind with
  | .HP_GW_PEER => r.defined
  | k => (k.fields.filter fun f => f.acc != .wo).foldl (fun m f => m ||| (2 ^ (f.hi + 1) - 2 ^ f.lo)) 0

/-- Whether an item may stand in its section, by register, reserved bits, the owner it names (R91) and instance; an item of an unbound ID uses it (R28). -/
def State.itemGood (s : State) (memory : Bool) (x : Item) : Bool :=
  x.pad == 0 && match Reg.ofAddr x.addr with
  | none => false
  | some r =>
    (if memory then r.kind.memoryItem else r.kind.nameable) && x.value.toNat &&& r.defined == x.value.toNat &&
    (r.kind != .SCP_BANK_OWN || x.value.toNat % 16 ≤ 5) &&
    (match r.kind with
     | .SCP_BANK_OWN | .SCP_BANK_CFG | .ARR_WIN_CFG | .ARR_SEQ_CFG | .FBI_CFG | .VEC_CFG | .SPM_CFG => r.i < s.part.arrays && s.bound r.i
     | _ => true)

/-- A pour's write of one item (R381). A bank owner goes by handover (R94): every bank stands with EXT and nothing touches it. An
`FBI_CFG` value that R170 ignores leaves the register as it was, and a swizzle changes under R99 alone: while the bank's owner is NONE or
MARCH, with a clear that ends within the step (DEDUCED, log 55). -/
def State.applyItem (s : State) (x : Item) : State :=
  match Reg.ofAddr x.addr with
  | none => s
  | some r =>
    match r.kind with
    | .SCP_BANK_OWN => (s.requestHandover r.i r.j (bits x.value 3 0)).1.completeHandover r.i r.j
    | .SCP_BANK_CFG =>
      ((s.swizzleWrite r.i r.j (bit x.value SCP_BANK_CFG.swizzle.lo)).clearDone r.i r.j).setFld SCP_BANK_CFG.clearing r.i r.j
        (bits x.value SCP_BANK_CFG.clearing.hi SCP_BANK_CFG.clearing.lo)
    | _ =>
      if r.kind == .FBI_CFG && fbiEmpty x.value then s else
      let keep := (s.rd r.kind r.i r.j).toNat
      let m := r.poured
      s.wr r.kind r.i r.j (BitVec.ofNat 64 ((keep - (keep &&& m)) + (x.value.toNat &&& m)))

/-! ### Sections (R380, R382) -/

def secRegisters : Nat := 1
def secMemory : Nat := 2
def secUnits : Nat := 3
def secProgram : Nat := 4
def secPreload : Nat := 5
def secTensors : Nat := 6

def findSection (c : List Byte) (t : Nat) : Option Section := (sectionsOf c).find? fun x => x.type == t

/-- The images of a PROGRAM or PRELOAD section from an offset: address and bytes; each is padded to 64 bytes. -/
def imagesFrom (bs : List Byte) : Nat → Nat → List (Nat × List Byte)
  | 0, _ => []
  | fuel + 1, off =>
    if off + 16 > bs.length then [] else
    let n := num bs (off + 8) 8
    (num bs off 8, slice bs (off + 16) n) :: imagesFrom bs fuel (off + 16 + (n + 63) / 64 * 64)

def sectionImages (x : Section) (bs : List Byte) : List (Nat × List Byte) :=
  imagesFrom bs (bs.length / 16 + 1) (if x.type = secProgram then 2048 else 0)

/-- Bit `i` of a section's bytes. -/
def bitOf (bs : List Byte) (i : Nat) : Bool := (byteAt bs (i / 8)) / 2 ^ (i % 8) % 2 == 1

/-- The units a UNITS section marks as used. -/
def unitsUsed (bs : List Byte) : List UnitId :=
  ((List.range 2240).filter (bitOf bs ·)).map (⟨.UST_ARRAY, ·⟩) ++
  ((List.range 16).filter fun i => bitOf bs (2240 + i)).map (⟨.UST_LINK, ·⟩) ++
  ((List.range 16).filter fun i => bitOf bs (2256 + i)).map (⟨.UST_HBM, ·⟩) ++
  ((List.range 4).filter fun i => bitOf bs (2272 + i)).map (⟨.UST_BITTERN, ·⟩) ++
  ((List.range 4).filter fun i => bitOf bs (2276 + i)).map (⟨.UST_TEMPER, ·⟩)

end Sys2Proof.Machine
end

