-- ==== Sys2Proof/Machine/PowerOps.lean ====
section
/-! DEFINITION. Power, temperature and throttling (R31 to R34, R299), the die-to-die links' retries (R23) and the refresh rates
(R298, R300, R419). -/

namespace Sys2Proof.Machine

/-! ### Readings in a row, kept as pairs of a reading and its count -/

/-- A reading is put in front. -/
def runPush (v : Nat) : List (Nat × Nat) → List (Nat × Nat)
  | [] => [(v, 1)]
  | (a, c) :: l => if a = v then (a, c + 1) :: l else (v, 1) :: (a, c) :: l

/-- The newest `n` readings. -/
def runTake : Nat → List (Nat × Nat) → List (Nat × Nat)
  | _, [] => []
  | n, (a, c) :: l => if n = 0 then [] else if n ≤ c then [(a, n)] else (a, c) :: runTake (n - c) l

def runSum (l : List (Nat × Nat)) : Nat := (l.map fun p => p.1 * p.2).sum
def runLen (l : List (Nat × Nat)) : Nat := (l.map (·.2)).sum

/-! ### Power (R31, R32) -/

/-- Samples in the windows of 10 ms and of 1 s. -/
def shortWindow : Nat := 1000
def longWindow : Nat := 100000

/-- Energy of a window, in mW samples; samples before the first count as 0 (log 19). -/
def Pwr.energy (p : Pwr) (n : Nat) : Nat := runSum (runTake n p.samples)

/-- Either window mean passes its limit (R31). -/
def Pwr.over (p : Pwr) : Bool :=
  p.energy shortWindow > 2100000 * shortWindow || p.energy longWindow > 1800000 * longWindow

/-- Both means are at least 5 % below their limits. -/
def Pwr.under (p : Pwr) : Bool :=
  100 * p.energy shortWindow ≤ 95 * 2100000 * shortWindow && 100 * p.energy longWindow ≤ 95 * 1800000 * longWindow

/-- Mean package power over the last second, in W (R375). -/
def Pwr.meanWatts (p : Pwr) : Nat := p.energy longWindow / (1000 * longWindow)

/-- One sample's step: down at once, up after ten samples (R32); at most 15 steps, the range of `throttle`. -/
def throttleStep (lower restore : Bool) (steps rest : Nat) : Nat × Nat :=
  if lower then (min (steps + 1) 15, 0)
  else if restore then (if rest + 1 ≥ 10 then (steps - 1, 0) else (steps, rest + 1))
  else (steps, rest)

/-- Every last temperature reading: the dies and the stacks. -/
def State.temperatures (s : State) : List Nat :=
  s.pwr.dies.map (·.2) ++ (List.range s.part.stacks).map (fun i => s.fld HBM_STK_TEMP.temp i) ++
    (List.range 4).map fun b => s.fld BIT_STK_TEMP.temp b

def State.hottest (s : State) : Nat := s.temperatures.foldl max 0

/-- The lower of the two issue rates applies (R32). -/
def Pwr.throttle (p : Pwr) : Nat := max p.power p.thermal

/-- The throttle of both dies changes: each die's step is counted (R32, R454), and the beginning is an event (R367). -/
def State.applyThrottle (s : State) (old : Nat) : State :=
  let new := s.pwr.throttle
  let s := s.setFld DIE_PWR_STATUS.throttle 0 0 new
  let s := s.setFld DIE_PWR_STATUS.throttle 1 0 new
  let s := s.bump OBS_PERF_THROTTLE_DOWN.count 0 0 (2 * (new - old))
  let s := s.bump OBS_PERF_THROTTLE_UP.count 0 0 (2 * (old - new))
  if old = 0 ∧ new > 0 then s.raise 4 1 0xFFFF 0 else s

/-- The monitor's sample of package power, every 10 µs (R32). The dies' own power is not told by it: free values. Thermal throttling
goes "in the same way": a step down while a sensor is at 100 °C or above, and back while the hottest is at 95 °C or below, 5 % under
the limit as for power (DESIGN CHOICE, log 41). -/
def State.powerSample (s : State) (mw : Nat) : State :=
  let p := { s.pwr with samples := runTake longWindow (runPush mw s.pwr.samples) }
  let (a, b) := throttleStep p.over p.under p.power p.restPower
  let hot := s.hottest
  let (c, d) := throttleStep (hot ≥ 100) (hot ≤ 95) p.thermal p.restThermal
  let old := p.throttle
  let s := { s with pwr := { p with power := a, restPower := b, thermal := c, restThermal := d } }
  let (w0, s) := s.fresh
  let s := s.setFld DIE_PWR_STATUS.power 0 0 w0.toNat
  let (w1, s) := s.fresh
  let s := s.setFld DIE_PWR_STATUS.power 1 0 w1.toNat
  s.applyThrottle old

/-! ### Temperature (R34, R299) -/

/-- SB_THERM_N follows the readings at 105 °C or above; its assertion is an event (R34, R299, R367). -/
def State.syncTherm (s : State) : State :=
  let hot := s.hottest ≥ 105
  let was := !s.pins.thermN
  let s := { s with pins := { s.pins with thermN := !hot } }
  if hot ∧ !was then (s.alarm 2).raise 4 2 0xFFFF 0 else s

/-- The halt at 115 °C: every array holds its state, a quench latches it, SB_FAULT_N is asserted (R34, R441). -/
def State.thermalHalt (s : State) : State :=
  if s.pwr.halted then s else
  let s := ({ s with pwr := { s.pwr with halted := true } }).assertFault
  let s := s.bump HMK_LIFE_THERMAL_HALTS.count 0 0 1
  (s.raise 4 3 0xFFFF 0).quench srcThermal 0

/-- A reading of a die's hottest sensor; die 2 is the hub (R34). -/
def State.dieReading (s : State) (die celsius : Nat) : State :=
  if die > 2 then s else
  let s := { s with pwr := { s.pwr with dies := Sparse.put 0 s.pwr.dies die celsius } }
  let s := if die < 2 then s.setFld DIE_PWR_STATUS.temp_max die 0 (min celsius 255) else s
  let s := s.syncTherm
  if celsius ≥ 115 then s.thermalHalt else s

/-- A UCIe retry of a compute die's links changes only timing and is counted (R23, R40). -/
def State.ucieRetry (s : State) (die : Nat) : State := s.sat DIE_D2D_STATUS.retry_count die 0 1

/-! ### Stack temperature and refresh (R298 to R300) -/

/-- The level a reading calls for, rising at once and falling one level at 3 °C below the threshold it passed (R298). -/
def refreshLevel (old celsius : Nat) : Nat :=
  let want := if celsius > 95 then 2 else if celsius > 85 then 1 else 0
  if want > old then want
  else if old = 2 ∧ celsius ≤ 92 then 1
  else if old = 1 ∧ celsius ≤ 82 then 0
  else old

/-- The refresh field shows the level, raised by one while the holdover has expired (R419). -/
def State.showRefresh (s : State) (i : Nat) : State :=
  let n := Sparse.get 0 s.dram.levels i + b2n (s.flag CLK_STATUS.holdover_expired)
  s.setFld HBM_STK_TEMP.refresh i 0 (min n 2)

/-- The same of a bittern stack, whose refresh doubles with a level (R300, R419). -/
def State.showBittern (s : State) (b : Nat) : State :=
  let n := Sparse.get 0 s.dram.levels (0x100 + b) + b2n (s.flag CLK_STATUS.holdover_expired)
  s.setFld BIT_STK_TEMP.refresh b 0 (min n 2)

/-- The crossing of 100 °C by a stack is an event, once per crossing (R299). -/
def State.noteHot (s : State) (stack celsius : Nat) : State :=
  if celsius ≥ 100 then
    if s.dram.hot.contains stack then s
    else ({ s with dram := { s.dram with hot := insertKey stack s.dram.hot } }).raise 9 4 stack 0
  else { s with dram := { s.dram with hot := removeKey stack s.dram.hot } }

/-- A stack's temperature is read (R282, R298, R299). -/
def State.hbmTemp (s : State) (i celsius : Nat) : State :=
  if i ≥ s.part.stacks then s else
  let c := min celsius 255
  let s := s.setFld HBM_STK_TEMP.temp i 0 c
  let s := s.setFld HBM_STK_TEMP.temp_max i 0 (max (s.fld HBM_STK_TEMP.temp_max i) c)
  let s := { s with dram := { s.dram with levels := Sparse.put 0 s.dram.levels i (refreshLevel (Sparse.get 0 s.dram.levels i) c) } }
  ((s.showRefresh i).noteHot i c).syncTherm

/-- A bittern controller reads its dies' reports, as codes of the refresh field, and takes the hottest die's (R299, R300, R308). -/
def State.bitternReport (s : State) (b : Nat) (rates : List Nat) (celsius : Nat) : State :=
  if b > 3 then s else
  let c := min celsius 255
  let s := s.setFld BIT_STK_TEMP.temp b 0 c
  let s := s.setFld BIT_STK_TEMP.temp_max b 0 (max (s.fld BIT_STK_TEMP.temp_max b) c)
  let s := { s with dram := { s.dram with levels := Sparse.put 0 s.dram.levels (0x100 + b) (min (rates.foldl max 0) 2) } }
  ((s.showBittern b).noteHot (0x100 + b) c).syncTherm

/-- A refresh command is issued (R298, R300, R309); a bittern stack is 0x100 + b. -/
def State.refresh (s : State) (stack : Nat) : State :=
  if stack ≥ 0x100 then s.bump BIT_PERF_REFRESH.count (stack - 0x100) 0 1
  else if stack < s.part.stacks then s.bump HBM_PERF_REFRESH.count stack 0 1 else s

/-- A retraining or calibration is taken, and counted when late (R448, R454). -/
def State.calibrated (s : State) (late : Bool) : State := s.bump OBS_PERF_CAL_LATE.count 0 0 (b2n late)

end Sys2Proof.Machine
end

