-- ==== Sys2Proof/Machine/DramOps.lean ====
section
/-! DEFINITION. Commands of the memory controllers: accesses of whole blocks and lines (R294 to R297), the patrol scrub (R301,
R302), the scratchpad scrub (R449), and repair and test access (R303 to R305). -/

namespace Sys2Proof.Machine

/-! ### Accesses -/

/-- A DRAM read by a requester: its completion and bytes (R289 to R291, R297). -/
def State.memoryRead (s : State) (addr len die garbled : Nat) (errors : List MemError) : State :=
  let r := s.dramRead addr len die garbled errors
  { r.1 with compl := (r.2.status, r.2.bytes) }

/-- A DRAM write by a requester (R289, R290, R294, R295). -/
def State.memoryWrite (s : State) (addr : Nat) (data : List Byte) (die : Nat) (errors : List MemError) : State :=
  let r := s.dramWrite addr (data.map some) die errors
  { r.1 with compl := (r.2, []) }

/-- Whether an address starts a block of a protected range. -/
def State.isBlock (s : State) (addr : Nat) : Bool := addr % 1024 == 0 && (s.crcRange addr).isSome

/-- Whether a span lies in one protected range and covers no whole block. -/
def State.isLineWrite (s : State) (addr len : Nat) : Bool :=
  len != 0 && (s.crcRange addr).isSome && s.crcRange addr == s.crcRange (addr + len - 1) && (pieces addr len).all fun p => p.2 != 1024

/-! ### The patrol scrub (R301, R302) -/

/-- The local address of a stack byte (the inverse of R285). -/
def unplaceIn (stack off : Nat) : List Region → Nat → Option Nat
  | [], _ => none
  | r :: rs, base =>
    let n := r.members.length
    match r.members.findIdx? (· == stack) with
    | some k =>
      if r.offset ≤ off ∧ off < r.offset + r.extent then
        let g := (off - r.offset) / r.granule * n + k
        some (base + g * r.granule + (off - r.offset) % r.granule)
      else unplaceIn stack off rs (base + n * r.extent)
    | none => unplaceIn stack off rs (base + n * r.extent)

def State.unplace (s : State) (d : Dplace) : Option Nat :=
  if d.bittern then some (bitBase + d.off / 0x1000 * 0x4000 + (d.stack - 0x100) * 0x1000 + d.off % 0x1000)
  else unplaceIn d.stack d.off s.regions 0

/-- A whole block of a protected range is checked as it passes; a mismatch alters nothing (R302). -/
def State.scrubBlock (s : State) (d : Dplace) : State :=
  match s.unplace d with
  | none => s
  | some a =>
    match s.crcRange a with
    | none => s
    | some r =>
      if (List.range 32).any fun i => s.dbad (a + 32 * i) then s
      else
        let e := s.readEntry (r.entry a)
        if e.2 = some (crc32c (e.1.dbytes a 1024)) then e.1 else e.1.crcFailed a 2 7

/-- Whether the scrub of a stack runs. -/
def State.scrubOn (s : State) (stack : Nat) : Bool :=
  if stack ≥ 0x100 then stack < 0x104 && s.flag MEM_SCRUB_CFG.bit_en && s.flag MEM_SCRUB_CFG.bit_budget
  else stack < s.part.stacks && s.flag MEM_SCRUB_CFG.hbm_en && s.flag MEM_SCRUB_CFG.hbm_budget

/-- The next 4 KiB run of a stack is read; `errors` name words with check bits of the run, and `late` tells that a pass which ends here
ends after its period. -/
def State.patrolScrub (s : State) (stack : Nat) (errors : List MemError) (late : Bool) : State :=
  if !(s.scrubOn stack) then s else
  let pos := Sparse.get 0 s.dram.scrub stack
  let d : Dplace := ⟨stack, pos⟩
  let s := s.bumpStack d HBM_PERF_SCRUB_BYTES.count BIT_PERF_SCRUB_BYTES.count 4096
  let n := if d.bittern then 8 else 32
  let s := errors.foldl (fun s e => if e.unit < 4096 / n then s.strikePlace ⟨stack, pos + n * e.unit⟩ e.uncorrectable else s) s
  let s := if s.upsets.isEmpty then s else (List.range (4096 / n)).foldl (fun s k => s.meetWordOf true ⟨stack, pos + n * k⟩) s
  let s := if s.flag MEM_SCRUB_CFG.crc_scrub then
      (List.range 4).foldl (fun s k => s.scrubBlock ⟨stack, pos + 1024 * k⟩) s else s
  let size := if d.bittern then 2 ^ 37 else 0x900000000
  let ended := pos + 4096 ≥ size
  let next := if ended then 0 else pos + 4096
  let s := { s with dram := { s.dram with
    scrub := Sparse.put 0 s.dram.scrub stack next
    corrected := if ended then s.dram.corrected.filter fun p => p.1 / 2 ^ 28 != stack else s.dram.corrected } }
  let s := if d.bittern then s.setFld BIT_SCRUB_STATUS.position (stack - 0x100) 0 (next / 0x200000)
           else s.setFld HBM_SCRUB_STATUS.position stack 0 (next / 0x100000)
  if ended then (s.bumpStack d HBM_SCRUB_STATUS.passes BIT_SCRUB_STATUS.passes 1).bump MEM_PERF_SCRUB_LATE.count 0 0 (b2n late) else s

/-- The scrub of an array's SRAM meets the error of a word: corrected and written back, or poisoned in place and reported (R449). -/
def State.scrubWord (s : State) (a w : Nat) : State :=
  match s.upsets.lookup (sramKey a w) with
  | none => s
  | some true => ((s.mend (sramKey a w)).setPoison (sramKey a w)).raise 0x0C 5 a (BitVec.ofNat 64 (a * 2 ^ 48 + w))
  | some false => ((s.mend (sramKey a w)).bump OBS_PERF_SCP_CORRECTED.count 0 0 1).noteCorrectedWord

/-- One line of an array's SRAM is read in an idle bank cycle (R449); `errors` name 64-bit words of the line: 64 bytes in the
scratchpad, 128 in the accumulator buffer. -/
def State.sramScrub (s : State) (a off : Nat) (errors : List MemError) (late : Bool) : State :=
  let scp := off < 0x50000
  let acc := accBase ≤ off && off < 0x90000
  let bank := off / 0x8000
  let skip := scp && (s.fld SCP_BANK_OWN.cur_owner a bank == ownMarch || s.flag SCP_BANK_CFG.clearing a bank)
  if !(s.flag OBS_BG_CFG.scp_scrub) ∨ !(s.arrayAnswers a true) ∨ !(scp || acc) ∨ skip then s else
  let n := if scp then 64 else 128
  let line := off / n * n
  let s := s.bump OBS_PERF_SCP_SCRUB.count 0 0 1
  let s := s.bump OBS_PERF_SCP_LATE.count 0 0 (b2n late)
  let s := errors.foldl (fun s e => if 8 * e.unit < n then s.strike (sramKey a (line + 8 * e.unit)) e.uncorrectable else s) s
  if s.upsets.isEmpty then s else (List.range (n / 8)).foldl (fun s i => s.scrubWord a (line + 8 * i)) s

/-! ### Observability -/

/-- A write of `NDC_ADD` (R436). -/
def State.ndcAdd (s : State) (v : Word) : State :=
  let n := bits v 31 0
  (s.ndc (bits v 63 63) 4 n).bump OBS_PERF_NDC_SW.count 0 0 n

/-- A write of `OBS_QUENCH_CTRL`: a release acts before a quench (R442). -/
def State.quenchControl (s : State) (v : Word) : State :=
  let s := if bit v 62 then s.releaseQuench else s
  if bit v 63 then s.quench srcFire 0 else s

/-! ### The HBM repair record (R303, R304, R397) -/

/-- Counts of `HBM_REPAIR_STATUS` follow the record. -/
def State.showRepairs (s : State) (i : Nat) : State :=
  let pos := s.part.positions.getD i 16
  let n := fun (k : Nat) => min 255 (s.hmk.hbmRepair.filter fun e => e % 16 == pos && repairState e == k).length
  let s := s.setFld HBM_REPAIR_STATUS.pending i 0 (n repPending)
  let s := s.setFld HBM_REPAIR_STATUS.soft i 0 (n repSoft)
  let s := s.setFld HBM_REPAIR_STATUS.hard i 0 (n repHard)
  s.setFld HBM_REPAIR_STATUS.unrepairable i 0 (n repUnrepairable)

/-- Writes a row's state into the record: an entry that holds it moves, else an entry is appended while there is room. A move that R398
does not allow is refused, with the event 0x0B:0x06. -/
def State.recordRepair (s : State) (row st : Nat) : State :=
  let l := s.hmk.hbmRepair
  let held := l.find? fun e => repairRow e == row
  if held.any fun e => !(entryMoves e (row + st * 2 ^ 32)) then s.refuseVersion recHbmRepair
  else
    let l := if held.isSome then l.map fun e => if repairRow e = row then row + st * 2 ^ 32 else e
      else if l.length < 4096 then l ++ [row + st * 2 ^ 32] else l
    ({ s with hmk := { s.hmk with hbmRepair := l } }).newVersion recHbmRepair

/-- Whether a row's bank has a resource of the kind left. -/
def State.repairLeft (s : State) (hard : Bool) (row : Nat) : Bool :=
  let used := (s.hmk.hbmRepair.filter fun e => repairPlace e == row % 2 ^ 15 && repairState e == (if hard then repHard else repSoft)).length
  Config.pprLeft hard (row % 2 ^ 15) used

/-- The repairs of start-up, in the order of R304: soft rows again, then pending rows hard, then soft, then unrepairable. -/
def State.startRepairs (s : State) : State :=
  let pending := s.hmk.hbmRepair.filter fun e => repairState e == repPending
  let s := pending.foldl (fun s e => if s.repairLeft true (repairRow e) then s.recordRepair (repairRow e) repHard else s) s
  let rest := s.hmk.hbmRepair.filter fun e => repairState e == repPending
  let s := rest.foldl (fun s e =>
    s.recordRepair (repairRow e) (if s.repairLeft false (repairRow e) then repSoft else repUnrepairable)) s
  (List.range s.part.stacks).foldl (fun s i => s.showRepairs i) s

/-! ### Test access (R305) -/

def State.testStatus (s : State) (i st reason : Nat) : State :=
  (s.setFld HBM_TEST_STATUS.state i 0 st).setFld HBM_TEST_STATUS.reason i 0 reason

/-- The row `HBM_TEST_ADDR` names, as the record names rows. -/
def State.testRow (s : State) (i : Nat) : Nat :=
  s.part.positions.getD i 0 + 16 * s.fld HBM_TEST_ADDR.pc i + 512 * s.fld HBM_TEST_ADDR.bank i + 32768 * s.fld HBM_TEST_ADDR.row i

/-- The first reason to refuse an operation, in the order of the reason codes (log 20); 0 for none. -/
def State.testRefusal (s : State) (i op : Nat) : Nat :=
  let row := s.testRow i
  if s.tableState ⟨.UST_HBM, i⟩ != tsFenced && s.flag CST_STATE.configured then 1
  else if s.dram.testing.any fun t => t.1 == i then 2
  else if op = 0 ∨ op > 4 then 3
  else if op ≥ 3 ∧ !(s.repairLeft (op == 4) row) then 4
  else if op ≥ 3 ∧ !(Config.hbmRowExists (BitVec.ofNat 28 (row / 16))) then 5
  else 0

/-- An operation is started, or refused. -/
def State.testStart (s : State) (i op : Nat) : State :=
  if i ≥ s.part.stacks then s else
  let s := s.setFld HBM_TEST_CTRL.op i 0 op
  let reason := s.testRefusal i op
  if reason ≠ 0 then s.testStatus i 3 reason
  else ({ s with dram := { s.dram with testing := s.dram.testing ++ [(i, op)] } }).testStatus i 1 0

/-- A write of `HBM_TEST_CTRL`: the fields, then the start. -/
def State.testWrite (s : State) (i : Nat) (v : Word) : State :=
  if i ≥ s.part.stacks then s else
  let s := s.wr .HBM_TEST_CTRL i 0 (fieldWrite .HBM_TEST_CTRL (s.rd .HBM_TEST_CTRL i) v)
  if bit v 63 then s.testStart i (s.fld HBM_TEST_CTRL.op i) else s

/-- The operation in progress at a stack ends: done, failed (4) or timed out (5). What the port shifts out is a free value. -/
def State.testEnd (s : State) (i st : Nat) : State :=
  match s.dram.testing.find? fun t => t.1 == i with
  | none => s
  | some (_, op) =>
    let s := { s with dram := { s.dram with testing := s.dram.testing.filter fun t => t.1 != i } }
    let s := s.testStatus i st 0
    if st ≠ 2 then s.raise 9 6 i 0
    else if op = 1 then { s with dram := { s.dram with wrapper := Sparse.put 0 s.dram.wrapper i (s.fld HBM_TEST_CTRL.instruction i) } }
    else if op = 2 then
      let (v, s) := s.fresh
      s.wr .HBM_TEST_DATA i 0 v
    else (s.recordRepair (s.testRow i) (if op = 4 then repHard else repSoft)).showRepairs i

end Sys2Proof.Machine
end

