-- ==== Sys2Proof/Machine/PourCheck.lean ====
section
/-! DEFINITION. What a pour does to the machine's state in its steps RESET, MEMCFG and LOAD (R388), and admission check 8, which looks
at the state those steps would leave (R380 to R382, R383 and the rules that the section table of R380 names). -/

namespace Sys2Proof.Machine

/-! ### Step RESET -/

/-- Registers that a pour returns to their reset values: the engines', and those that a casting may name (R381, R388). -/
def RegKind.pourResets (k : RegKind) : Bool := k.engine || k.nameable || k.memoryItem || k == .OBS_SUM_STATUS

def resetKinds : List Nat := (RegKind.all.filter RegKind.pourResets).map fun k => k.ctorIdx

/-- Registers by which the routers forward other packages' traffic: they keep their values from BEGIN on, until LOAD applies the
casting's (R389; DEDUCED, log 55). -/
def RegKind.routing (k : RegKind) : Bool :=
  match k with
  | .FAB_CFG | .FAB_LINK_CFG | .FAB_NM_MASK | .FAB_GW | .FAB_SLICE_MAP => true
  | _ => false

def routingKinds : List Nat := (RegKind.all.filter RegKind.routing).map fun k => k.ctorIdx

/-- The kind of a register file key. -/
def keyKind (key : Nat) : Nat := key / 2 ^ 32

/-- Registers of some kinds return to their reset values, but for others. -/
def State.resetRegs (s : State) (kinds but : List Nat) : State :=
  { s with regs := s.regs.filter fun r => !(kinds.contains (keyKind r.1)) || but.contains (keyKind r.1) }

/-- Without a casting the logical ID is the physical one, and the slice is 0 (R351). -/
def State.clearId (s : State) : State := (s.setFld FAB_ID.logical_id 0 0 s.physId).setFld FAB_ID.slice 0 0 0

/-- Every array and engine returns to its reset state; array SRAM is zero; flows start a new generation (R323, R388). -/
def State.pourReset (s : State) : State :=
  let s := (s.zeroSpan 0x080000000000 (2240 * 0x100000)).resetRegs resetKinds routingKinds
  let s := { s with
    arr := [], rake := {}, qm := {}, slu := [], sluWait := [], stg := {}, tmp := {}
    hmk := { s.hmk with entries := [] } }
  let s := { s with fab := { s.fab with
    reqQ := s.fab.reqQ.filter fun r => r.op ≥ 0x12 || r.requester == 0xF10
    flows := s.fab.flows.map fun (f : Flow) => ({ dst := f.dst, cls := f.cls, gen := (f.gen + 1) % 16 } : Flow)
    fences := [], unreported := [], awaiting := s.fab.awaiting.filter (fun a => a.1.requester == 0xF10), staged := [] } }
  s.showStaged.clearId

/-! ### Step MEMCFG (R293) -/

/-- The CRC-32C of 1,024 zero bytes. -/
def zeroBlockCrc : Nat := crc32c (List.replicate 1024 0#8)

/-- The local address of a DRAM byte by its memory key. -/
def State.addrOfKey (s : State) (key : Nat) : Option Nat :=
  if key < 2 ^ 40 then s.unplace ⟨key / 2 ^ 36, key % 2 ^ 36⟩
  else if key < 2 ^ 40 + 2 ^ 39 then s.unplace ⟨0x100 + (key - 2 ^ 40) / 2 ^ 37, (key - 2 ^ 40) % 2 ^ 37⟩
  else none

/-- A protected range becomes zero and its table that of zero blocks, all of them written whole with new check bits (R289, R293). -/
def State.zeroRange (s : State) (r : CrcRange) : State :=
  let within := fun (key : Nat) => match s.addrOfKey key with
    | some a => r.base ≤ a && a < r.base + r.size
    | none => false
  let mine := fun (key : Nat) => within key || match s.addrOfKey key with
    | some a => r.table ≤ a && a < r.table + r.size / 256
    | none => false
  let s := { s with mem := s.mem.filter (fun c => !(within c.1)), poison := s.poison.filter (fun u => !(mine u))
                    upsets := s.upsets.filter fun u => !(mine u.1) }
  (List.range (r.size / 1024)).foldl (fun s i => s.setEntry (r.table + 4 * i) zeroBlockCrc) s

def State.pourMemory (s : State) (c : List Byte) : State :=
  match findSection c secMemory with
  | none => s
  | some x =>
    let s := (itemsOf (sectionBytes c x)).foldl State.applyItem s
    s.crcRanges.foldl State.zeroRange s

/-! ### Step LOAD -/

/-- An image lands in memory, as the pour writes it: no bank owner stands in its way. -/
def State.loadImage (s : State) (im : Nat × List Byte) : State :=
  match sramPlace im.1 with
  | some (a, off) => s.sramPut a off (im.2.map some)
  | none => (s.dramWrite im.1 (im.2.map some) 2 []).1

/-- LOAD's first act: a register that the casting may name and does not name keeps its reset value (R381). -/
def State.resetRouting (s : State) : State := s.resetRegs routingKinds []

/-- One section is applied. -/
def State.loadSection (s : State) (c : List Byte) (x : Section) : State :=
  let bs := sectionBytes c x
  if x.type = secRegisters then (itemsOf bs).foldl State.applyItem s
  else if x.type = secProgram then
    let s := (sectionImages x bs).foldl State.loadImage s
    let es := (List.range 256).filterMap fun i => if num bs (8 * i) 8 = 0 then none else some (i, num bs (8 * i) 8)
    { s with hmk := { s.hmk with entries := es } }
  else if x.type = secPreload then (sectionImages x bs).foldl State.loadImage s
  else if x.type = secTensors then s.loadImage (num bs 0 8, slice bs 16 (32 * num bs 8 8))
  else s

/-- The scale and phase planes of one queue group: every byte is the direction's qe8 (R179). -/
def State.pourGroup (s : State) (l : Layer) (x : Expert) (backward : Bool) (rank pos : Nat) : State :=
  let n := if backward then l.d + 2 * (l.d / 2) else l.d + (if l.fmt = 0 then 4 * (l.d / 4) else 2 * (l.d / 2))
  s.loadImage (groupAddr l x backward rank pos + l.codeBytes backward, List.replicate n (BitVec.ofNat 8 (l.qe8 backward)))

/-- The queues of an expert that is at home here (R179), and its place to start with: RESTING where its image rests (R209). -/
def State.pourExpert (s : State) (l : Layer) (e : Nat) : State :=
  let x := s.expert l e
  if x.homeRank ≠ l.myRank then s else
  let s := (if l.train then [false, true] else [false]).foldl (fun s b =>
    (List.range l.ranks).foldl (fun s p => (List.range x.gq).foldl (fun s k => s.pourGroup l x b p k) s) s) s
  if x.rests then s.setRes (l.expertBase + e) resResting 0 else s

/-- What the pour makes of the tables it has loaded: the queues of R179 and the residency states of R209. -/
def State.pourExperts (s : State) : State :=
  (List.range 256).foldl (fun s slot => match s.layer slot with
    | none => s
    | some l => (List.range l.experts).foldl (fun s e => s.pourExpert l e) s) s

def State.pourLoad (s : State) (c : List Byte) : State :=
  (sectionsOf c).foldl (fun s x => if x.type = secMemory then s else s.loadSection c x) s

/-- The state that RESET, MEMCFG and LOAD would leave. -/
def State.pouredWith (s : State) (c : List Byte) : State := (s.pourReset.pourMemory c).resetRouting.pourLoad c

/-! ### Check 8: contents -/

/-- MEMORY: the regions of R286. -/
def State.regionsGood (s : State) : Bool :=
  let ws := (List.range 8).map fun r => s.rd .MEM_IL_REGION r
  let on := ws.takeWhile fun w => bit w 63
  let rs := s.regions
  ((ws.drop on.length).all fun w => !(bit w 63)) &&
  (on.all fun w => bits w 62 60 ≤ 4 && bits w 59 48 != 0 && bits w 59 48 < 2 ^ s.part.stacks) &&
  (rs.all fun r => r.extent != 0 && r.extent % r.granule == 0 && r.offset + r.extent ≤ 0x900000000) &&
  ((List.range rs.length).all fun i => (List.range i).all fun j =>
    match rs[i]?, rs[j]? with
    | some a, some b => (a.members.all fun k => !(b.members.contains k)) || a.offset + a.extent ≤ b.offset || b.offset + b.extent ≤ a.offset
    | _, _ => true) &&
  (rs.map fun r => r.members.length * r.extent).sum == hbmTop s.part

/-- Two spans of addresses overlap. -/
def spansMeet (a n b m : Nat) : Bool := a < b + m && b < a + n

/-- MEMORY: the protected ranges of R292. -/
def State.rangesGood (s : State) : Bool :=
  let rs := s.crcRanges
  (rs.all fun r => r.base % 0x100000 == 0 && r.size != 0 &&
    (r.base + r.size ≤ hbmTop s.part || (bitBase ≤ r.base && r.base + r.size ≤ bitTop)) &&
    r.table % 4096 == 0 && r.table + r.size / 256 ≤ hbmTop s.part &&
    rs.all fun q => !(spansMeet r.table (r.size / 256) q.base q.size)) &&
  (List.range rs.length).all fun i => (List.range i).all fun j =>
    match rs[i]?, rs[j]? with
    | some a, some b => !(spansMeet a.base a.size b.base b.size) && !(spansMeet a.table (a.size / 256) b.table (b.size / 256))
    | _, _ => true

def State.scrubGood (s : State) : Bool :=
  1 ≤ s.fld MEM_SCRUB_CFG.hbm_hours && s.fld MEM_SCRUB_CFG.hbm_hours ≤ 168 && 1 ≤ s.fld MEM_SCRUB_CFG.bit_hours && s.fld MEM_SCRUB_CFG.bit_hours ≤ 168

/-- REGISTERS: a window keeps R96, the sequencer's windows differ (R107), the backward window differs from both (R164), the temper tables
lie in HBM (R248, R250, R259, R274), the slice map and the group mask name what exists (R314, R341), and one logical ID has one remap entry
(R344). -/
def State.arrayGood (s : State) (r : Reg) : Bool :=
  match r.kind with
  | .ARR_WIN_CFG =>
    let B := s.fld ARR_WIN_CFG.base r.i r.j
    let N := s.fld ARR_WIN_CFG.size r.i r.j
    !(s.flag ARR_WIN_CFG.enable r.i r.j) || (B < 5120 && 1 ≤ N && N ≤ 5120 && B + N ≤ 5120)
  | .ARR_SEQ_CFG => s.fld ARR_SEQ_CFG.cmd_window r.i != s.fld ARR_SEQ_CFG.trailer_window r.i
  | .FBI_CFG =>
    !(s.flag FBI_CFG.enable r.i) || (s.fld FBI_CFG.bwd_window r.i != s.fld ARR_SEQ_CFG.cmd_window r.i &&
      s.fld FBI_CFG.bwd_window r.i != s.fld ARR_SEQ_CFG.trailer_window r.i)
  | .SPM_CFG => 8 ≤ s.fld SPM_CFG.rowsplit r.i && s.fld SPM_CFG.rowsplit r.i ≤ 256
  | .FAB_LINK_CFG => s.fld FAB_LINK_CFG.transit_cap r.i ≤ 16
  | .HP_GW_CFG => 1 ≤ s.fld HP_GW_CFG.share && s.fld HP_GW_CFG.share ≤ 16
  | .HP_MBX_CFG => s.fld HP_MBX_CFG.base % 0x1000000 == 0
  | .FAB_ID => goodId (s.fld FAB_ID.logical_id) && 1 ≤ s.fld FAB_ID.slice
  | .FAB_CFG => 1 ≤ s.fld FAB_CFG.groups && s.fld FAB_CFG.groups ≤ 53
  | .FAB_GW =>
    let f := pkgField s.physId
    (!(s.flag FAB_GW.gw0_valid r.i) || (r.i != f && goodId (s.fld FAB_GW.gw0 r.i) && pkgField (s.fld FAB_GW.gw0 r.i) == f)) &&
      (!(s.flag FAB_GW.gw1_valid r.i) || (r.i != f && goodId (s.fld FAB_GW.gw1 r.i) && pkgField (s.fld FAB_GW.gw1 r.i) == f))
  | .FAB_REMAP => !(s.flag FAB_REMAP.valid r.i) || (goodId (s.fld FAB_REMAP.logical r.i) && goodId (s.fld FAB_REMAP.physical r.i) &&
      (List.range 64).all fun j => j == r.i || !(s.flag FAB_REMAP.valid j) || s.fld FAB_REMAP.logical j != s.fld FAB_REMAP.logical r.i)
  | .FAB_SLICE_MAP => (List.range 64).all fun b => !(bit (s.rd .FAB_SLICE_MAP r.i) b) || goodId (64 * r.i + b)
  | .FAB_NM_MASK => (s.rd .FAB_NM_MASK).toNat < 2 ^ 53
  | .NTC_RING_CFG =>
    !(s.flag NTC_RING_CFG.enable r.i) || (4 ≤ s.fld NTC_RING_CFG.size_log r.i && s.fld NTC_RING_CFG.size_log r.i ≤ 16 &&
      s.fld NTC_RING_CFG.base r.i % (32 * 2 ^ s.fld NTC_RING_CFG.size_log r.i) == 0)
  | .TMP_SHARD_BASE => s.fld TMP_SHARD_BASE.count ≤ 32768 && s.fld TMP_SHARD_BASE.base + 128 * s.fld TMP_SHARD_BASE.count ≤ hbmTop s.part
  | .TMP_LAYER_BASE => s.fld TMP_LAYER_BASE.count ≤ 1024 && s.fld TMP_LAYER_BASE.base + 64 * s.fld TMP_LAYER_BASE.count ≤ hbmTop s.part
  | .TMP_HSET_BASE => s.fld TMP_HSET_BASE.count == 64 && s.fld TMP_HSET_BASE.base + 2048 ≤ hbmTop s.part
  | .TMP_TELE_CFG =>
    !(s.flag TMP_TELE_CFG.enable) || (5 ≤ s.fld TMP_TELE_CFG.size_log && s.fld TMP_TELE_CFG.size_log ≤ 16 &&
      s.fld TMP_TELE_CFG.base % (32 * 2 ^ s.fld TMP_TELE_CFG.size_log) == 0 &&
      s.fld TMP_TELE_CFG.base + 32 * 2 ^ s.fld TMP_TELE_CFG.size_log ≤ hbmTop s.part)
  | _ => true
where
  /-- A package ID that exists (R314). -/
  goodId (x : Nat) : Bool := x < 65536 && pkgGroup x < 53 && pkgPos x < 13

/-- REGISTERS: an expert entry's ranges and zero fields, whether a layer names it or not (R172, R173). An entry that the casting leaves
zero is no entry. -/
def State.expertGood (s : State) (i : Nat) : Bool :=
  let xs := s.tableBytes .RX_EXPERT_TABLE i 4
  let x := Expert.parse xs
  1 ≤ x.gq && num xs 2 2 < 0x1000 && zeros xs 5 3 && zeros xs 14 2 && zeros xs 22 2 && zeros xs 30 2 &&
    (if x.rests then bitBase ≤ x.image && x.image < bitTop && x.image % 4096 == 0 else x.image == 0)

/-- REGISTERS: every expert entry that is not zero. -/
def State.expertsGood (s : State) : Bool :=
  (List.range 16384).all fun i => (s.tableBytes .RX_EXPERT_TABLE i 4).all (· == 0) || s.expertGood i

/-- REGISTERS: a layer entry's ranges and zero fields, and its experts' (R172, R173, R180, R205). -/
def State.layerGood (s : State) (slot : Nat) : Bool :=
  let bs := s.tableBytes .RX_LAYER_TABLE slot 8
  if bs.all (· == 0) then true else
  let l := Layer.parse bs
  let zero := num bs 2 2 < 0x2000 && byteAt bs 4 < 32 && byteAt bs 5 < 64 && byteAt bs 8 < 128 && byteAt bs 9 < 64 && num bs 10 2 < 0x4000 &&
    num bs 12 4 < 0x100000 && byteAt bs 18 < 32 && num bs 24 4 < 0x200000 && num bs 28 4 < 0x1000000 && zeros bs 38 2 && zeros bs 46 2 &&
    zeros bs 54 2 && zeros bs 56 8
  let ranges := 1 ≤ l.experts && l.experts ≤ 4096 && 1 ≤ l.topK && l.topK ≤ 16 && l.topK ≤ l.experts && l.fmt ≤ 1 &&
    l.d % 32 == 0 && 32 ≤ l.d && l.d ≤ 16384 && 1 ≤ l.ranks && l.ranks ≤ 64 && l.myRank < l.ranks && l.expertBase + l.experts ≤ 16384 &&
    (if l.drop then 1 ≤ l.cap else l.cap == 0) && l.qe8Fwd ≤ 0xFE && l.qe8Bwd ≤ 0xFE && 1 ≤ l.histWindow && l.histWindow ≤ 16 &&
    1 ≤ l.tMax && l.tMax ≤ 0x100000 && l.retBase % 4096 == 0 && l.poolBase % 4096 == 0 &&
    retScales l true (l.tMax * l.topK) ≤ hbmTop s.part && l.rankTable + 2 * l.ranks ≤ hbmTop s.part &&
    l.poolBase + l.poolSlots * l.slotUnits * 4096 ≤ hbmTop s.part &&
    (l.poolSlots == 0 || (List.range l.experts).any fun e => (s.expert l e).rests)
  let expert := fun (e : Nat) =>
    let x := s.expert l e
    let dirs := if l.train then [false, true] else [false]
    s.expertGood (l.expertBase + e) && x.homeRank < l.ranks &&
    (dirs.all fun b =>
      let base := if b then x.bwdQueue else x.fwdQueue
      let total := fun (stride : Nat) => l.ranks * x.gq * stride
      if x.hbmQueue then base + total (l.groupBytes b) ≤ hbmTop s.part
      else (x.homeRank != l.myRank || (x.homeArray < s.part.arrays && s.bound x.homeArray)) && base % 0x8000 == 0 && base + total ((l.groupBytes b + 0x7FFF) / 0x8000 * 0x8000) ≤ 0x50000)
  let eager := !(l.eager && l.train) || (l.drop && (List.range l.experts).all fun e => (s.expert l e).gq ≥ (l.cap + 31) / 32)
  zero && ranges && (List.range l.experts).all expert && eager

/-- REGISTERS: a notice ring holds what its experts can have unread (R190). -/
def State.ringsGood (s : State) : Bool :=
  let need := (List.range 256).flatMap fun slot => match s.layer slot with
    | none => []
    | some l => (List.range l.experts).filterMap fun e =>
        let x := s.expert l e
        if x.homeRank = l.myRank then some (x.ring, l.ranks * (x.gq + 2) * (if l.train then 2 else 1) + 2) else none
  need.all fun r =>
    let want : Nat := ((need.filter fun q => q.1 == r.1).map fun (q : Nat × Nat) => q.2).sum
    s.flag NTC_RING_CFG.enable r.1 && want ≤ 2 ^ s.fld NTC_RING_CFG.size_log r.1

/-- REGISTERS: a stage entry and its queues (R217, R218, R245). -/
def State.stageGood (s : State) (slot : Nat) : Bool :=
  let bs := s.tableBytes .STG_ENTRY slot 8
  let e := StageEntry.parse bs
  let queueZero := fun (r : Nat) =>
    let qs := (List.range 4).flatMap fun j => leBytes 8 (s.rd .STG_QUEUE slot (4 * r + j)).toNat
    byteAt qs 2 < 128 && byteAt qs 3 < 32 && num qs 4 2 < 4096 && byteAt qs 6 < 8 && zeros qs 7 1 && zeros qs 11 5 && zeros qs 22 10
  if !((List.range 4).all queueZero) then false
  else if bs.all (· == 0) then true else
  let zero := byteAt bs 1 < 32 && num bs 2 2 < 4096 && byteAt bs 4 < 64 && byteAt bs 5 < 64 && zeros bs 6 2 && num bs 8 4 < 2 ^ 21 &&
    num bs 12 4 < 2 ^ 23 && num bs 24 4 < 2 ^ 23 && num bs 28 4 < 2 ^ 23 && num bs 40 4 < 2 ^ 23 && zeros bs 44 4 && zeros bs 56 8 &&
    zeros bs 22 2 && zeros bs 38 2 && zeros bs 54 2
  let queue := fun (r : Nat) =>
    let q := s.queueEntry slot r
    !q.valid || (1 ≤ q.depth && q.depth ≤ 16 && q.slotUnits ≥ 2 && q.base % 4096 == 0 && q.array < s.part.arrays && s.bound q.array &&
      (r % 2 == 1 || q.base + q.depth * q.slotUnits * 0x1000 ≤ hbmTop s.part) &&
      s.winSize q.array q.window ≥ 32 * q.depth)
  let others := (List.range 64).filter fun n => n != slot && (s.stageEntry n).valid
  let members := fun (n : Nat) => (s.stageEntry n).lead :: ((List.range 4).filter fun r => (s.queueEntry n r).valid).map fun r => (s.queueEntry n r).array
  zero && (!e.valid || (e.lead < s.part.arrays && s.bound e.lead && 1 ≤ e.maxInflight && e.maxInflight ≤ 32 && e.spanTokens % 32 == 0 && 32 ≤ e.spanTokens &&
    e.spanTokens ≤ 0x100000 && 1 ≤ e.admitChunks && e.admitChunks ≤ e.stkChunks + (if e.recompute then 0 else e.spillChunks) &&
    e.stkBase % 0x10000 == 0 && 32 ≤ e.stkChunks && (e.train || e.bresChunks == 0) && e.spillBase % 0x10000 == 0 &&
    (!e.recompute || e.spillChunks == 0) && e.bresBase % 0x10000 == 0 && e.stkBase + e.stkChunks * 0x10000 ≤ hbmTop s.part &&
    e.bresBase + e.bresChunks * 0x10000 ≤ hbmTop s.part &&
    (e.spillChunks == 0 || (bitBase ≤ e.spillBase && e.spillBase + e.spillChunks * 0x10000 ≤ bitTop)) && (List.range 4).all queue &&
    (e.last || (s.queueEntry slot 1).valid) && (!e.train || e.first || (s.queueEntry slot 3).valid) &&
    others.all fun n => (members slot).all fun a => !((members n).contains a)))

/-- The pairs of a list differ. -/
def distinct (xs : List (Nat × Nat)) : Bool := xs.eraseDups.length == xs.length

/-- PRELOAD: a shard entry's ranges, zero fields and rules (R248, R249, R251). -/
def State.shardGood (s : State) (x : Nat) : Bool :=
  let bs := s.getMem (s.fld TMP_SHARD_BASE.base + 128 * x) 128
  let e := ShardEntry.parse bs
  let l := s.tlayer e.layer
  let top := hbmTop s.part
  let words := (List.range 4).map fun p => (num bs (24 + 4 * p) 2, num bs (26 + 4 * p) 2)
  let zero := byteAt bs 1 < 4 && num bs 2 2 < 1024 && num bs 4 2 < 8192 && byteAt bs 6 < 64 && byteAt bs 7 < 8 && num bs 12 2 < 4096 &&
    num bs 14 2 < 8192 && num bs 16 2 < 8192 && num bs 20 2 < 4096 && zeros bs 22 2 && zeros bs 40 8 && zeros bs 96 32 &&
    [54, 62, 70, 78, 86, 94].all fun o => zeros bs o 2
  let parts := (words.takeWhile fun p => p.1 != 0 || p.2 != 0).length == e.parts.length && !e.parts.isEmpty &&
    ((words.drop e.parts.length).all fun p => p.1 == 0 && p.2 == 0) &&
    e.parts.all fun p => p.1 % 32 == 0 && p.2 % 32 == 0 && p.1 ≤ 65504 && p.2 ≤ 65504 &&
      (!e.tiled || (p.1 % (32 * e.h) == 0 && p.2 % 64 == 0))
  let rake := (List.range 256).all fun slot => match s.layer slot with
    | some y => y.layerId != l.layerId || y.visitNorm == e.visitNorm
    | none => true
  let kind := if e.kind = 2 then rake else e.kind == 1 && e.expert == 0 && !e.visitNorm
  let reps := s.replicaList e
  let copies := 1 ≤ e.nRep && e.nRep ≤ 4096 && e.myRep < e.nRep && e.replicas + 4 * e.nRep ≤ top && (reps[e.myRep]?.map (·.1)) == some s.myId &&
    (reps.any fun r => r.1 == e.ownerPkg) &&
    (List.range (e.nRep - 1)).all fun r => match reps[r]?, reps[r + 1]? with
      | some a, some b => a.2 < b.2
      | _, _ => false
  let owner := e.owner == (e.ownerPkg == s.myId) && match (s.ownerList l)[e.ordinal]? with
    | some o => o.1 == e.ownerPkg && (!e.owner || o.2 == e.unit)
    | none => false
  let imageEnd := e.offPlane + 1088 * e.nCt
  let momentEnd := if e.opt = 1 then 2 * pageUp (2 * e.n) else pageUp (2 * e.n)
  let places := e.n ≤ 2 ^ 28 && ([e.image0, e.image1].all fun b => b % 4096 == 0 && b + imageEnd ≤ top) &&
    (if e.owner then ([e.moment0, e.moment1].all fun b => b % 4096 == 0 && b + momentEnd ≤ top) && e.landing % 4096 == 0 &&
        e.landing + 2 * e.nRep * e.slotBytes ≤ top
      else e.moment0 == 0 && e.moment1 == 0 && e.landing == 0)
  zero && e.opt ≤ 2 && (e.tiled || e.h == 2) && parts && kind && e.layer < s.layerCount && e.ordinal < l.nShards && e.readyArray < s.part.arrays && s.bound e.readyArray &&
    copies && owner && places

/-- PRELOAD: a temper layer entry's ranges and zero fields (R250). -/
def State.tlayerGood (s : State) (i : Nat) : Bool :=
  let bs := s.getMem (s.fld TMP_LAYER_BASE.base + 64 * i) 64
  let l := TLayer.parse bs
  num bs 2 2 < 8192 && byteAt bs 18 < 4 && zeros bs 19 5 && zeros bs 30 2 && zeros bs 38 2 && zeros bs 40 24 && 1 ≤ l.nShards &&
    l.owners + 4 * l.nShards ≤ hbmTop s.part && l.partials + 8 * l.nShards ≤ hbmTop s.part &&
    (List.range l.nShards).all fun o => num (s.getMem (l.owners + 4 * o) 4) 0 4 < 2 ^ 18

/-- PRELOAD: the temper tables (R248 to R250). -/
def State.temperGood (s : State) : Bool :=
  ((List.range s.layerCount).all s.tlayerGood) && ((List.range s.shardCount).all s.shardGood) &&
  distinct (s.shardList.map fun x => (x.2.layer, x.2.ordinal)) && distinct (s.shardList.map fun x => (x.2.id, 0)) &&
  distinct ((s.shardList.filter fun x => x.2.kind == 2).map fun x => (x.2.layer, x.2.expert))

/-- UNITS: a used unit is there, bound and not RETIRED (R28, R382). -/
def State.unitsGood (s : State) (bs : List Byte) : Bool :=
  bs.length == 286 && byteAt bs 285 == 0 && !((List.range 4).any fun i => bitOf bs (2268 + i)) &&
  (unitsUsed bs).all fun u => s.present u && s.tableState u != tsRetired && (u.kind != .UST_ARRAY || s.bound u.i)

/-- PROGRAM and PRELOAD: an image lies in one memory range, PROGRAM's in HBM (R382). -/
def State.imageGood (s : State) (preload : Bool) (im : Nat × List Byte) : Bool :=
  im.1 + im.2.length ≤ hbmTop s.part ||
  (preload && bitBase ≤ im.1 && im.1 + im.2.length ≤ bitTop) ||
  (preload && match sramPlace im.1 with
    | some (a, off) => a < s.part.arrays && s.bound a && windowSpan off im.2.length
    | none => false)

/-- PROGRAM and PRELOAD: no image's data runs past the section's end (R382). -/
def imagesFit (bs : List Byte) : Nat → Nat → Bool
  | 0, _ => true
  | fuel + 1, off =>
    if off + 16 > bs.length then true else
    let n := num bs (off + 8) 8
    off + 16 + n ≤ bs.length && imagesFit bs fuel (off + 16 + (n + 63) / 64 * 64)

/-- PROGRAM or PRELOAD as a whole: its images, and the HBM addresses at which PROGRAM's threads start (R382). -/
def State.imagesGood (s : State) (x : Section) (bs : List Byte) : Bool :=
  let preload := x.type != secProgram
  (preload || 2048 ≤ bs.length) && imagesFit bs (bs.length / 16 + 1) (if preload then 0 else 2048) &&
    (sectionImages x bs).all (s.imageGood preload) &&
    (preload || (List.range 256).all fun i => num bs (8 * i) 8 < hbmTop s.part)

/-- TENSORS: formats and pass modes (R54, R59, R382): 0 to 5, P of 1 to 3, and L8 (code 1) above 1. -/
def tensorsGood (p : Part) (bs : List Byte) : Bool :=
  let n := num bs 8 8
  16 + 32 * n ≤ bs.length && num bs 0 8 + 32 * n ≤ hbmTop p &&
  (List.range n).all fun i =>
    let e := slice bs (16 + 32 * i) 32
    let P := byteAt e 5 / 2 % 4
    byteAt e 4 ≤ 5 && byteAt e 5 < 8 && 1 ≤ P && (P == 1 || byteAt e 4 == 1) && zeros e 7 1 && zeros e 28 4

/-- The first fault of a casting's contents: the section type and the item's index (R381, R383). -/
def State.contentFault (s : State) (c : List Byte) : Option (Nat × Nat) :=
  let xs := sectionsOf c
  let types := xs.map (·.type)
  let part := fun (t : Nat) => match findSection c t with
    | some x => sectionBytes c x
    | none => []
  let badItem := fun (t : Nat) (memory : Bool) =>
    match (itemsOf (part t)).findIdx? (fun (i : Item) => !(s.itemGood memory i)) with
    | some i => some (t, i)
    | none => if (part t).length % 16 ≠ 0 then some (t, (part t).length / 16) else none
  match types.find? fun t => t = 0 ∨ t > 6 ∨ (types.filter (· == t)).length > 1 with
  | some t => some (t, 0)
  | none =>
    match [secRegisters, secUnits, secMemory].find? fun t => !(types.contains t) with
    | some t => some (t, 0)
    | none =>
      match (badItem secRegisters false).orElse fun _ => badItem secMemory true with
      | some f => some f
      | none =>
        if !(s.unitsGood (part secUnits)) then some (secUnits, 0) else
        let images := fun (t : Nat) => match findSection c t with
          | some x => s.imagesGood x (sectionBytes c x)
          | none => true
        if !(images secProgram) then some (secProgram, 0)
        else if !(images secPreload) then some (secPreload, 0)
        else if types.contains secTensors ∧ !(tensorsGood s.part (part secTensors)) then some (secTensors, 0)
        else
          let m := s.pourReset
          let m := (itemsOf (part secMemory)).foldl State.applyItem m
          if !(m.regionsGood && m.rangesGood && m.scrubGood) then some (secMemory, 0) else
          let t := s.pouredWith c
          match (itemsOf (part secRegisters)).findIdx? (fun (i : Item) => match Reg.ofAddr i.addr with
              | some r => !(t.arrayGood r)
              | none => true) with
          | some i => some (secRegisters, i)
          | none =>
            if !((List.range 256).all t.layerGood) || !t.expertsGood || !t.ringsGood || !((List.range 64).all t.stageGood) then some (secRegisters, 0)
            else if !t.temperGood then some (secPreload, 0)
            else none

/-- Check 9: no stack FENCED or RETIRED, no die-to-die link down (R23, R306). -/
def State.configurable (s : State) : Bool :=
  ((List.range s.part.stacks).all fun i => !(s.isolated ⟨.UST_HBM, i⟩)) &&
  !((List.range 2).any fun d => s.flag DIE_D2D_STATUS.link_down d || s.flag DIE_D2D_STATUS.link_down_peer d)

/-- The admission of a pour: the reason of the first check that fails (0: none), with the section and item of a content fault. -/
def State.admitPour (s : State) (c : List Byte) : Nat × Nat × Nat :=
  let r := s.checkStore c 1
  if r ≠ 0 then (r, 0, 0) else
  match s.contentFault c with
  | some (t, i) => (8, t, i)
  | none => if s.configurable then (0, 0, 0) else (9, 0, 0)

end Sys2Proof.Machine
end

