-- ==== Sys2Proof/Machine/PourOps.lean ====
section
/-! DEFINITION. The pour (R388 to R391), its journal and what a start recovers from it (R392, R393), retirements and the binding of
spares (R401, R402). -/

namespace Sys2Proof.Machine

/-! ### The registers that show Hallmark (R408) -/

def Hmk.cast (h : Hmk) (slot : Nat) : SlotRec := if slot = 0 then h.cast0 else h.cast1
def Hmk.fw (h : Hmk) (slot : Nat) : SlotRec := if slot = 0 then h.fw0 else h.fw1
def Hmk.setCast (h : Hmk) (slot : Nat) (r : SlotRec) : Hmk := if slot = 0 then { h with cast0 := r } else { h with cast1 := r }
def Hmk.setFw (h : Hmk) (slot : Nat) (r : SlotRec) : Hmk := if slot = 0 then { h with fw0 := r } else { h with fw1 := r }

/-- Journal entry kinds (R392). -/
def jBegin : Nat := 1
def jStepDone : Nat := 2
def jCommit : Nat := 3
def jDone : Nat := 4
def jAbandon : Nat := 5

/-- The 64 bytes of an entry. -/
def journalBytes (e : JEntry) : List Byte :=
  let b := leBytes 1 e.kind ++ leBytes 1 e.step ++ leBytes 1 e.slot ++ leBytes 1 e.flags ++ leBytes 4 e.svn ++ leBytes 8 e.pour ++
    leBytes 8 e.seq ++ (e.digest ++ List.replicate 32 0#8).take 32
  b ++ leBytes 4 (crc32c b) ++ leBytes 4 0

/-- An entry as a half holds it, if its CRC is good. -/
def readEntry (bs : List Byte) : Option JEntry :=
  if num bs 56 4 ≠ crc32c (bs.take 56) then none
  else some { kind := byteAt bs 0, step := byteAt bs 1, slot := byteAt bs 2, flags := byteAt bs 3, svn := num bs 4 4, pour := num bs 8 8
              seq := num bs 16 8, digest := slice bs 24 32 }

/-- The entries, oldest first: half A's, or half B's where A's copy is not good (R392). -/
def Hmk.journal (h : Hmk) : List JEntry :=
  (List.range (max h.half0.length h.half1.length)).filterMap fun i =>
    ((h.half0[i]?).bind readEntry).orElse fun _ => (h.half1[i]?).bind readEntry

/-- The active slot: that of the newest COMMIT entry, else the control block's (R392). -/
def Hmk.activeSlot (h : Hmk) : Option Nat :=
  match (h.journal.filter fun e => e.kind == jCommit).getLast? with
  | some e => some e.slot
  | none => h.active

def slotWord (r : SlotRec) (running : Bool) : Word :=
  if r.valid then BitVec.ofNat 64 (2 ^ 63 + b2n running * 2 ^ 62 + b2n r.confirmed * 2 ^ 61 + r.part % 65536 * 2 ^ 32 + r.svn % 2 ^ 32)
  else BitVec.ofNat 64 (b2n running * 2 ^ 62)

/-- Bits of the key slots that meet a test. -/
def keyMask (ks : List KeySlot) (f : KeySlot → Bool) : Nat :=
  ((List.range 4).map fun k => if (ks[k]?.map f).getD false then 2 ^ k else 0).sum

/-- The registers of R408 follow Hallmark's contents. -/
def State.showHallmark (s : State) : State :=
  let h := s.hmk
  let s := s.setFld CST_STATE.active_valid 0 0 (b2n h.activeSlot.isSome)
  let s := s.setFld CST_STATE.active_slot 0 0 (h.activeSlot.getD 0)
  let s := s.setFld CST_STATE.start_failures 0 0 h.startFailures
  let s := s.setFld CST_STATE.pour 0 0 h.pour
  let s := [0, 1].foldl (fun s n =>
    (s.wr .CST_SLOT n 0 (slotWord { h.cast n with confirmed := false } false)).wr .FW_SLOT n 0 (slotWord (h.fw n) (h.running == some n))) s
  let s := s.wr .HMK_SVN 0 0 (BitVec.ofNat 64 (h.castSvn * 2 ^ 32 + h.fwSvn % 2 ^ 32))
  let s := s.wr .TS_STATUS 0 0 (BitVec.ofNat 64 (h.keyEpoch * 2 ^ 32 + keyMask h.keys (·.valid) * 2 ^ 28 + keyMask h.keys (·.revoked) * 2 ^ 24))
  (List.range 16).foldl (fun s n => s.wr .TS_KEY_DIGEST (n / 4) (n % 4)
    (BitVec.ofNat 64 (num ((h.keys.getD (n / 4) {}).digest ++ List.replicate 32 0#8) (8 * (n % 4)) 8))) s

/-- A change of Hallmark's contents is shown at once. -/
def State.mapHmk (s : State) (f : Hmk → Hmk) : State := ({ s with hmk := f s.hmk }).showHallmark

/-! ### Retirement and spares (R401, R402) -/

/-- An entry shows a state in both views, with the reason of its last change. -/
def State.showUnit (s : State) (u : UnitId) (st reason : Nat) : State :=
  let before := s.tableState u != s.pathState u
  (((s.setUst u 63 60 st).setUst u 59 56 st).setUst u 50 48 reason).noteOpen before false

/-- An array with an unrepairable bank is retired by the device. -/
def State.retireUnrepairable (s : State) (reason : Nat) : State :=
  (List.range s.part.arrays).foldl (fun s a =>
    if s.bound a && (List.range 10).any (fun b => bit (s.repairWord a b) 59) then
      (s.recordRetired ⟨.UST_ARRAY, a⟩).showUnit ⟨.UST_ARRAY, a⟩ tsRetired reason
    else s) s

/-- Enters a binding, by logical ID, rising. -/
def insertBind (id : Nat) (b : Option Nat × Nat) : List (Nat × Option Nat × Nat) → List (Nat × Option Nat × Nat)
  | [] => [(id, b)]
  | x :: l => if id < x.1 then (id, b) :: x :: l else if id = x.1 then (id, b) :: l else x :: insertBind id b l

/-- One logical ID whose array is retired takes the next free spare of its die (R27), or stays unbound (R28). -/
def State.bindSpare (s : State) (reason id : Nat) : State :=
  match s.freeSpares (s.part.dieOf id) with
  | ph :: _ =>
    let s := { s with spare := { s.spare with binds := insertBind id (some ph, 2) s.spare.binds } }
    (s.showUnit ⟨.UST_ARRAY, id⟩ tsSpare reason).raise 0x0B 9 id 0
  | [] =>
    let s := { s with spare := { s.spare with binds := insertBind id (none, 2) s.spare.binds } }
    (s.showUnit ⟨.UST_ARRAY, id⟩ tsRetired reason).raise 0x0B 0x0A id 0

/-- Logical IDs whose bound array the record holds as retired, ascending. -/
def State.lostIds (s : State) : List Nat :=
  (List.range s.part.arrays).filter fun id => match (s.binding id).1 with
    | some ph => s.hmk.spare.retired.contains (s.part.dieOf id, ph)
    | none => false

/-- Step 3 of R402: the record takes the new bindings before the map in force shows them. -/
def State.bindRetired (s : State) (reason : Nat) : State :=
  let s := s.retireUnrepairable reason
  let lost := s.lostIds
  let s := { s with spare := { s.hmk.spare with binds := s.spare.binds } }
  if lost.isEmpty then s else
  let s := lost.foldl (fun s id => s.bindSpare reason id) s
  ({ s with hmk := { s.hmk with spare := s.spare } }).newVersion recSpareMap

/-! ### The journal (R392) -/

def pourFlags (j : HmkJob) : Nat := b2n j.start + 2 * b2n j.fallback

/-- Writes an entry for the pour in progress: half A at once, half B after it (R392); each is a ring of 8,192. -/
def State.journalWrite (s : State) (kind step slot flags : Nat) : State :=
  let h := s.hmk
  let r := h.cast slot
  let e : JEntry := { kind := kind, step := step, slot := slot, flags := flags, svn := r.svn, pour := h.pour, seq := h.journalSeq, digest := r.digest }
  let l := h.half0 ++ [journalBytes e]
  s.mapHmk fun h => { h with half0 := l.drop (l.length - 8192), journalSeq := h.journalSeq + 1 }

/-! ### Steps of the pour (R388) -/

def opStoreCast : Nat := 1
def opPour : Nat := 2
def opStoreFw : Nat := 3
def opConfirm : Nat := 4
def opRead : Nat := 5
def opKey : Nat := 6
def opAttest : Nat := 7

/-- An operation is refused: the status, and for a pour or a store the event 0x0B:0x01 with the reason in info (R383, R410). -/
def State.hmkRefuse (s : State) (op reason sect item : Nat) : State :=
  let s := ({ s with hmk := { s.hmk with job := none } }).hmkStatus hmkRefused op 0 reason 0
  if op = opStoreCast ∨ op = opPour ∨ op = opStoreFw then
    (s.wr .HMK_ERR_INFO 0 0 (BitVec.ofNat 64 (2 ^ 56 + sect % 2 ^ 16 * 2 ^ 40 + item % 2 ^ 32))).raise 0x0B 1 0xFFFF (BitVec.ofNat 64 reason)
  else s

/-- The copy of a casting that NAND holds in a slot. -/
def State.castImage (s : State) (slot : Nat) : List Byte := s.nandBytes partCasting slot 0 (s.hmk.cast slot).length

def State.setJob (s : State) (j : Option HmkJob) : State := { s with hmk := { s.hmk with job := j } }

/-- Three start pours have failed: unconfigured, with a fault (R391). -/
def State.startsFailed (s : State) : State :=
  s.faultUnconfigured.hmkFailure 0x0E 0 0 0

/-- What an abandoned pour has set returns to its reset value, the interleave among it (R287), but for what the routers forward by (R389,
R432). -/
def State.unpour (s : State) : State := (s.resetRegs resetKinds routingKinds).clearId

/-- A failure before the commit point abandons the pour; the active slot is poured in its place, once (R390, R391). -/
def State.abandonPour (s : State) (j : HmkJob) (sect step detail : Nat) : State :=
  let s := s.journalWrite jAbandon 0 j.slot (pourFlags j)
  let s := s.bump HMK_LIFE_ABANDONED.count 0 0 1
  let s := (s.hmkStatus hmkFailed opPour step 0 0).setFld CST_STATE.pouring 0 0 0
  let s := s.mapHmk fun h => { h with job := none, quiet := false, startFailures := if j.start then min 255 (h.startFailures + 1) else h.startFailures }
  let s := s.unpour.hmkFailure 2 sect step detail
  if j.start ∧ s.hmk.startFailures ≥ 3 then s.startsFailed
  else match s.hmk.activeSlot with
    | some a => if j.fallback then s.faultUnconfigured
                else s.setJob (some { op := opPour, slot := a, fallback := true })
    | none => s.faultUnconfigured

/-- The engines stop taking work (step QUIESCE). -/
def State.quiesce (s : State) : State :=
  let s := (List.range s.part.arrays).foldl (fun s a => s.seqHalt a) s
  let s := (List.range 32).foldl (fun s c => s.saltHalt c 255) s
  { s with hmk := { s.hmk with quiet := true } }

/-- What is still unacknowledged after 200 ms is discarded; its requesters see it fail. -/
def State.discardFlow (s : State) (f : Flow) : State :=
  let s := s.setFlow { f with unacked := [], failed := [] }
  let lost := f.unacked.map fun u => u.packet.seq
  let calls := s.fab.awaiting.filter fun a => a.1.dst == f.dst && lost.contains a.1.seq
  let s := { s with fab := { s.fab with awaiting := s.fab.awaiting.filter fun a => !(calls.contains a) } }
  let s := f.unacked.foldl (fun s u => s.completeSent u 5) s
  calls.foldl (fun s a => s.answer a.1 a.2 5 []) s

/-- Hub cycles in the 200 ms of QUIESCE (R413). -/
def quiesceLimit : Nat := 300000000

/-- Step LOAD: every section but MEMORY is read again, its digest is checked, and it is applied; the first that mismatches, or
that NAND cannot read, if any (R390). -/
def State.loadSections (s : State) (slot : Nat) (c : List Byte) : List Section → State × Option Nat
  | [] => (s, none)
  | x :: xs =>
    if x.type = secMemory then s.loadSections slot c xs
    else if !(s.nandReadable partCasting slot x.offset x.size) ∨ shake256 (sectionBytes c x) ≠ x.digest then (s, some x.type)
    else (s.loadSection c x).loadSections slot c xs

/-- Whether memory that the pour wrote met an uncorrectable error: a unit became poisoned (R290, R390). -/
def State.poisonGained (before after : State) : Bool := after.poison.any fun u => !(before.poison.contains u)

/-- Unit states from UNITS: ACTIVE for units the casting uses, SPARE for those it leaves idle (R370). -/
def State.settleUnits (s : State) (c : List Byte) : State :=
  let used := match findSection c secUnits with
    | some x => unitsUsed (sectionBytes c x)
    | none => []
  s.part.units.foldl (fun s u =>
    let want := if used.contains u then tsActive else tsSpare
    let t := s.tableState u
    if s.present u && (t == tsActive || t == tsSpare) && t != want then s.setTable u want 3 else s) s

/-- Salter threads with an entry start there (R382, R388). -/
def State.startThreads (s : State) : State :=
  let s := s.hmk.entries.foldl (fun s e => s.setThread e.1 { pc := BitVec.ofNat 64 e.2 }) s
  (List.range 32).foldl (fun s c =>
    let m : Nat := ((s.hmk.entries.filter fun e => e.1 / 8 == c).map fun (e : Nat × Nat) => 2 ^ (e.1 % 8)).sum
    if m = 0 then s else s.saltRun c m) s

/-- A change of Hallmark's contents that one record holds, written as its new version. -/
def State.recordHmk (s : State) (kind : Nat) (f : Hmk → Hmk) : State := ((s.mapHmk f).newVersion kind).showHallmark

/-- Whether a kind's version was written between two states. -/
def State.wroteRecord (before after : State) (kind : Nat) : Bool := after.hmk.seqOf kind != before.hmk.seqOf kind

/-- Step SETTLE's writes to Hallmark: the counter, CAST_SLOTS and the control block. -/
def State.settleHallmark (s : State) (slot : Nat) (start : Bool) : State :=
  s.recordHmk recCastings fun h => { h with castSvn := if start then h.castSvn else max h.castSvn (h.cast slot).svn, active := some slot }

/-- A Hallmark write of SETTLE has failed: unconfigured, with SB_FAULT_N; the next start replays the step (R390). -/
def State.settleFailed (s : State) : State :=
  let s := ((s.setJob none).mapHmk fun h => { h with quiet := false }).hmkStatus hmkFailed opPour 6 0 0
  ((s.setFld CST_STATE.configured 0 0 0).setFld CST_STATE.pouring 0 0 0).unpour.faultUnconfigured

/-- The entry DONE, which ends a pour. -/
def State.pourDone (s : State) (slot flags : Nat) : State :=
  let s := s.journalWrite jDone 0 slot flags
  if flags % 2 = 1 then s.bump HMK_LIFE_START_POURS.count 0 0 1 else s.bump HMK_LIFE_POURS.count 0 0 1

/-- The next step of a pour in progress. A pour would change arrays that heat has halted, whose state is held until reset, so it waits
(R34, DEDUCED, log 55). -/
def State.pourStep (s : State) (j : HmkJob) : State :=
  if s.pwr.halted then s else
  let goOn := fun (s : State) (n : Nat) =>
    ((s.journalWrite jStepDone n j.slot (pourFlags j)).hmkStatus hmkBusy opPour (n + 1) 0 0).setJob (some { j with stage := n + 1 })
  let c := s.castImage j.slot
  match j.stage with
  | 0 =>
    let (r, t, i) := s.admitPour c
    -- a page beyond correction fails the digests, check 7 (DEDUCED, log 65)
    let (r, t, i) := if (r = 0 ∨ r > 7) ∧ !(s.nandReadable partCasting j.slot 0 (s.hmk.cast j.slot).length) then (7, 0, 0) else (r, t, i)
    if r ≠ 0 then s.hmkRefuse opPour r t i else
    let reset := !j.start && !j.fallback && s.hmk.activeSlot == some j.slot
    let s := s.mapHmk fun h => { h with pour := h.pour + 1, startFailures := if reset then 0 else h.startFailures, job := some { j with stage := 1 } }
    let s := s.setFld CST_STATE.pouring 0 0 1
    (s.journalWrite jBegin 0 j.slot (pourFlags j)).hmkStatus hmkBusy opPour 1 0 0
  | 1 =>
    let s := if s.hmk.quiet then s else s.quiesce
    if s.outstanding ∧ j.waited < quiesceLimit then s.setJob (some { j with waited := j.waited + 1 })
    else goOn ((s.fab.flows.filter fun f => f.cls == clsReq && !f.unacked.isEmpty).foldl State.discardFlow s) 1
  | 2 => goOn ((s.setFld CST_STATE.configured 0 0 0).pourReset.bindRetired 2) 2
  | 3 =>
    let t := s.pourMemory c
    if s.poisonGained t then t.abandonPour j 0 3 0 else goOn t 3
  | 4 =>
    let (t, bad) := s.resetRouting.loadSections j.slot c (sectionsOf c)
    match bad with
    | some x => t.abandonPour j x 4 0
    | none => if s.poisonGained t then t.abandonPour j 0 4 0 else goOn (t.pourExperts.pourStages.pourShards) 4
  | 5 => ((s.journalWrite jCommit 0 j.slot (pourFlags j)).hmkStatus hmkBusy opPour 6 0 0).setJob (some { j with stage := 6 })
  | 6 =>
    let t := s.settleHallmark j.slot j.start
    if s.wroteRecord t recCastings then t.setJob (some { j with stage := 7 }) else t.settleFailed
  | _ =>
    if s.hmk.copying.contains recCastings then s
    else if !(s.hmk.whole recCastings) then s.settleFailed else
    let s := (s.settleUnits c).advanceEpoch
    let s := s.startThreads
    let s := s.pourDone j.slot (pourFlags j)
    let s := s.mapHmk fun h => { h with startFailures := 0, job := none, quiet := false }
    let s := (s.setFld CST_STATE.configured 0 0 1).setFld CST_STATE.pouring 0 0 0
    -- the first step's summary window runs from here (R438)
    ((s.startWindow s.nanos).hmkStatus hmkDone opPour 6 0 0).raise 0x0B 3 0xFFFF 0

/-! ### Recovery at a start (R391, R393) -/

/-- What the journal leaves to be done: the entries of its newest pour tell where a reset fell. -/
def State.recoverPour (s : State) : State :=
  match (s.hmk.journal.filter fun e => e.kind == jBegin).getLast? with
  | none => s
  | some b =>
    let es := s.hmk.journal.filter fun e => e.pour == b.pour
    let has := fun (k : Nat) => es.any fun e => e.kind == k
    if has jDone || has jAbandon then s else
    let start := b.flags % 2 == 1
    let s := if start then s.mapHmk fun h => { h with startFailures := min 255 (h.startFailures + 1) } else s
    if has jCommit then
      let t := s.settleHallmark b.slot start
      if s.wroteRecord t recCastings then (t.pourDone b.slot b.flags).raise 0x0B 4 0xFFFF 0
      else { t with start := { t.start with fault := true, lost := true } }
    else
      let s := (s.journalWrite jAbandon 0 b.slot b.flags).bump HMK_LIFE_ABANDONED.count 0 0 1
      s.hmkFailure 2 0 0 0

end Sys2Proof.Machine
end

