-- ==== Sys2Proof/Machine/HallmarkOps.lean ====
section
/-! DEFINITION. Hallmark's operations (R384 to R387, R407), lasers (R403) and the lifetime counters (R404). -/

namespace Sys2Proof.Machine

/-! ### Payloads -/

/-- The 32 bytes of an event record (R365). -/
def eventBytes (r : EventRec) : List Byte :=
  leBytes 1 r.cls ++ leBytes 1 r.code ++ leBytes 2 r.package ++ leBytes 2 r.unit ++ leBytes 2 (min r.lost 65535) ++ leBytes 4 r.record ++
    leBytes 8 r.time.toNat ++ leBytes 4 r.step ++ leBytes 8 r.info.toNat

/-- A word of SPARE_MAP for a physical array of a die (R397). -/
def Part.spareWord (p : Part) (m : Spare) (die ph : Nat) : Nat :=
  if m.retired.contains (die, ph) then 0xFFFF + 2 * 2 ^ 16
  else
    match m.binds.find? fun b => p.dieOf b.1 == die && b.2.1 == some ph with
    | some b => b.1 + 2 ^ 16 + b.2.2 * 2 ^ 18
    | none =>
      let id := die * p.perDie + ph
      if ph < p.perDie ∧ !(m.binds.any fun b => b.1 == id) then id + 2 ^ 16 else 0xFFFF

/-- The payload of SPARE_MAP. -/
def Part.sparePayload (p : Part) (m : Spare) : List Byte :=
  (List.range 2).flatMap fun d => (List.range 1152).flatMap fun ph => leBytes 4 (p.spareWord m d ph)

/-- The payload of KEYS (R397). -/
def RecData.keysPayload (d : RecData) : List Byte :=
  leBytes 4 d.keyEpoch ++ d.keys.flatMap fun k =>
    (k.digest ++ List.replicate 32 0#8).take 32 ++ leBytes 1 (b2n k.valid + 2 * b2n k.revoked) ++ List.replicate 7 0#8

/-- A lane as manufactured (log 4). -/
def madeLane (n : Nat) : Lane := { bias := (Config.laserBias n).toNat, maxCode := (Config.laserMax n).toNat, hours := 0, drift := 0, calHours := 0 }

def Lane.bytes (x : Lane) : List Byte :=
  leBytes 4 (x.bias % 4096 + x.maxCode % 4096 * 4096) ++ leBytes 4 x.hours ++ leBytes 4 x.drift ++ leBytes 4 x.calHours

/-- A record's payload, where R397 lays it out: not that of FW_STATE and CAST_SLOTS. -/
def Part.payload (p : Part) (kind : Nat) (d : RecData) : Option (List Byte) :=
  if kind = recSpareMap then some (p.sparePayload d.spare)
  else if kind = recUnits then some (leBytes 8 d.unitsRetired)
  else if kind = recHbmRepair then some (d.hbmRepair.flatMap (leBytes 8 ·))
  else if kind = recScpRepair then
    some ((List.range (2 * 1152)).flatMap fun x => (List.range 10).flatMap fun b => leBytes 8 (Sparse.get 0 d.scpRepair (x * 16 + b)).toNat)
  else if kind = recLaser then some ((List.range 136).flatMap fun n => ((d.laser.lookup n).getD (madeLane n)).bytes)
  else if kind = recKeys then some d.keysPayload
  else none

/-- A record's header and payload (R396). -/
def recordBytes (v : RecVersion) (copy : Nat) (payload : List Byte) : List Byte :=
  let b := fun (crc : Nat) => leBytes 2 0x4D48 ++ leBytes 2 v.kind ++ leBytes 4 payload.length ++ leBytes 8 v.seq ++ leBytes 4 crc ++ leBytes 4 copy ++
    List.replicate 8 0#8 ++ payload
  b (crc32c (b 0))

/-! ### Memory in HBM -/

/-- A span of HBM that an operation names. -/
def State.inHbm (s : State) (addr n : Nat) : Bool := addr + n ≤ hbmTop s.part

/-- The controller's read of a span of HBM: the bytes, and whether one of them cannot be used (R285, R297, R309). -/
def State.hbmRead (s : State) (addr n : Nat) : State × List Byte × Bool :=
  let r := s.dramRead addr n dieHub 0 []
  (r.1, r.2.bytes, r.2.status != .ok)

def State.hbmWrite (s : State) (addr : Nat) (bs : List Byte) : State := (s.dramWrite addr (bs.map some) 2 []).1

/-! ### Stores (R387) -/

def partOf (op : Nat) : Nat := if op = opStoreCast then partCasting else partFirmware
def kindOf (op : Nat) : Nat := if op = opStoreCast then 1 else 2

def Hmk.setSlot (h : Hmk) (op slot : Nat) (r : SlotRec) : Hmk := if op = opStoreCast then h.setCast slot r else h.setFw slot r

/-- The slot a store writes: the one not active, or not running; slot 0 when there is neither. -/
def Hmk.target (h : Hmk) (op : Nat) : Nat :=
  match if op = opStoreCast then h.activeSlot else h.running with
  | some 0 => 1
  | _ => 0

/-- The record of an operation's slots. -/
def recOf (op : Nat) : Nat := if op = opStoreCast then recCastings else recFirmware

/-- An operation whose record is written ends once both copies have read back (R396). -/
def State.finishRecord (s : State) (j : HmkJob) (kind : Nat) (done : State → State) : State :=
  if s.hmk.copying.contains kind then s
  else if s.hmk.whole kind then done (s.setJob none)
  else (s.setJob none).hmkStatus hmkFailed j.op 0 0 0

/-- The next step of a store in progress. -/
def State.storeStep (s : State) (j : HmkJob) : State :=
  let busy := fun (s : State) (j : HmkJob) => (s.hmkStatus hmkBusy j.op 0 0 0).setJob (some j)
  match j.stage with
  | 0 =>
    if !(s.inHbm j.addr j.length) then s.hmkRefuse j.op 1 0 0 else
    let c := s.hbmRead j.addr j.length
    let s := c.1
    let r := if c.2.2 then 7 else s.checkStore c.2.1 (kindOf j.op)
    if r ≠ 0 then s.hmkRefuse j.op r 0 0
    else busy s { j with stage := 1, digest := castingDigest c.2.1 }
  | 1 =>
    let t := s.recordHmk (recOf j.op) fun h => h.setSlot j.op j.slot {}
    if s.wroteRecord t (recOf j.op) then busy t { j with stage := 2 } else (t.setJob none).hmkStatus hmkFailed j.op 0 0 0
  | 2 =>
    let c := s.hbmRead j.addr j.length
    -- the image read again is poisoned: the operation fails (R291, R450)
    if c.2.2 then (c.1.setJob none).hmkStatus hmkFailed j.op 0 7 0 else
    let s := c.1.nandWrite (partOf j.op) j.slot c.2.1
    let back := s.nandBytes (partOf j.op) j.slot 0 j.length
    if s.nandReadable (partOf j.op) j.slot 0 j.length ∧ castingDigest back = j.digest ∧ digestsHold back then busy s { j with stage := 3 }
    else (s.setJob none).hmkStatus hmkFailed j.op 0 7 0
  | 3 =>
    let back := s.nandBytes (partOf j.op) j.slot 0 j.length
    let r : SlotRec := { valid := true, svn := num back 12 4, part := num back 6 2, length := j.length, digest := j.digest }
    let t := s.recordHmk (recOf j.op) fun h => h.setSlot j.op j.slot r
    if s.wroteRecord t (recOf j.op) then t.setJob (some { j with stage := 4 }) else (t.setJob none).hmkStatus hmkFailed j.op 0 0 0
  | _ => s.finishRecord j (recOf j.op) fun s => s.hmkStatus hmkDone j.op 0 0 ((j.length + 4095) / 4096)

/-! ### READ -/

/-- A byte of RECORDS. Which of the controller's record pages a page of the partition is, and what no record holds, is free (log 8,
log 65). -/
def State.recordsByte (s : State) (off : Nat) : Byte × State :=
  let q := (Config.recordsPage (off / 16384)).toNat
  let kind := recSpareMap + q / 64
  let copy := q / 16 % 2
  let held := s.hmk.versions.find? fun v => v.kind == kind && v.seq % 2 == q / 32 % 2 && (if copy = 0 then v.a else v.b)
  let found := held.bind fun v => (s.part.payload kind v.data).bind fun bs => (recordBytes v copy bs)[q % 16 * 16384 + off % 16384]?
  match found with
  | some b => (b, s)
  | none =>
    let (w, s) := s.fresh
    (w.setWidth 8, s)

/-- The bytes of a partition. -/
def State.partitionBytes (s : State) (p slot off n : Nat) : List Byte × State :=
  if p = partCasting ∨ p = partFirmware then (s.nandBytes p slot off n, s)
  else if p = partRecords then
    (List.range n).foldl (fun (x : List Byte × State) i =>
      let r := x.2.recordsByte (off + i)
      (x.1 ++ [r.1], r.2)) ([], s)
  else if p = partLog then
    let pages := s.hmk.log.take (s.hmk.log.length / 512 * 512)
    let rs := (pages.drop (off / 32)).take ((n + 31) / 32 + 1)
    (((rs.flatMap eventBytes).drop (off % 32) ++ List.replicate n 0#8).take n, s)
  else ((List.range n).map fun i => Config.identityByte (off + i), s)

/-- Whether the pages that a READ takes can be corrected; the log's follow the order of writing (R405). -/
def State.partitionReadable (s : State) (p slot off n : Nat) : Bool :=
  if p = partCasting ∨ p = partFirmware then s.nandReadable p slot off n
  else if p = partLog then
    (unitsOf 16384 off n).all fun o => s.hmk.nand.readable (logPage (s.hmk.logLost / 512 + o / 16384))
  else true

def State.readPartition (s : State) : State :=
  let p := s.fld HMK_ARG0.partition
  let addr := s.fld HMK_ARG0.addr
  let n := s.fld HMK_ARG1.length
  let off := s.fld HMK_ARG1.offset * 4096
  if p = 0 ∨ p > partIdentity ∨ n = 0 ∨ off + n > partSize p ∨ addr % 4096 ≠ 0 ∨ !(s.inHbm addr n) then s.hmkRefuse opRead 1 0 0
  -- a page beyond correction gives no data: the operation fails (DEDUCED, log 65)
  else if !(s.partitionReadable p (s.fld HMK_ARG0.slot) off n) then s.hmkStatus hmkFailed opRead 0 0 0
  else
    let (bs, s) := s.partitionBytes p (s.fld HMK_ARG0.slot) off n
    (s.hbmWrite addr bs).hmkStatus hmkDone opRead 0 0 ((n + 4095) / 4096)

/-! ### KEY (R384) -/

/-- A refusal for which the spec names no reason: its reason is a free value (log 8). -/
def State.hmkRefuseFree (s : State) (op : Nat) : State :=
  let (v, s) := s.fresh
  s.hmkRefuse op (v.toNat % 256) 0 0

/-- An operation whose one act is a record's new version: it ends when the copies have read back (R396). -/
def State.recordOperation (s : State) (op kind : Nat) (f : Hmk → Hmk) : State :=
  let t := s.recordHmk kind f
  if s.wroteRecord t kind then (t.hmkStatus hmkBusy op 0 0 0).setJob (some { op := op, slot := 0 })
  else t.hmkStatus hmkFailed op 0 0 0

/-- A key record is accepted: the slot and key_epoch change together, in one version. -/
def State.keyAccept (s : State) (slot : Nat) (k : KeySlot) : State :=
  s.recordOperation opKey recKeys fun h => { h with keys := h.keys.set slot k, keyEpoch := h.keyEpoch + 1 }

def State.keyOperation (s : State) : State :=
  let addr := s.fld HMK_ARG0.addr
  if addr % 4096 ≠ 0 ∨ !(s.inHbm addr 64) then s.hmkRefuse opKey 1 0 0 else
  let k := s.hbmRead addr 64
  let r := k.2.1
  let first := byteAt r 1 == 1 && k.1.hmk.keys.all (fun k => !k.valid) && num r 4 4 == 1
  let block := if first || !(s.inHbm (addr + 64) 8192) then (k.1, [], true) else k.1.hbmRead (addr + 64) 8192
  let s := block.1
  let b := block.2.1
  let op := byteAt r 1
  let slot := byteAt r 2
  let digest := slice r 8 32
  let old := s.hmk.keys.getD slot {}
  let d := shake256 (blockKey b)
  if byteAt r 0 ≠ 0x4B ∨ op = 0 ∨ op > 2 ∨ slot > 3 ∨ byteAt r 3 ≠ 0 ∨ !(zeros r 40 24) ∨ k.2.2 then s.hmkRefuse opKey 1 0 0
  else if num r 4 4 ≠ s.hmk.keyEpoch + 1 then s.hmkRefuseFree opKey
  else if !first ∧ (block.2.2 ∨ !(s.hmk.keys.any fun k => k.valid && !k.revoked && k.digest == d)) then s.hmkRefuse opKey 4 0 0
  else if !first ∧ !(Config.mlDsaVerify (blockKey b) (withContext ctxKey (shake256 r)) (blockSignature b)) then s.hmkRefuse opKey 5 0 0
  else if op = 1 then
    (if old.revoked then s.hmkRefuseFree opKey
     else s.keyAccept slot { digest := digest, valid := true })
  else if !((List.range 4).any fun k => k != slot && (s.hmk.keys.getD k {}).valid && !(s.hmk.keys.getD k {}).revoked) then
    s.hmkRefuseFree opKey
  else s.keyAccept slot { old with valid := false, revoked := true }

/-! ### ATTEST (R386) -/

/-- The report; `now` is the time since the release of reset. -/
def State.report (s : State) (nonce : List Byte) (now : Word) : List Byte :=
  let h := s.hmk
  let fw := match h.running with
    | some n => h.fw n
    | none => {}
  let on := s.flag CST_STATE.configured
  let cast := match h.activeSlot with
    | some n => if on then h.cast n else {}
    | none => {}
  let pad := fun (d : List Byte) => (d ++ List.replicate 32 0#8).take 32
  leBytes 2 1 ++ leBytes 2 s.part.partCode ++ leBytes 1 9 ++ leBytes 1 (h.running.getD 0xFF) ++ leBytes 1 (if on then h.activeSlot.getD 0xFF else 0xFF) ++
    leBytes 1 0 ++ leBytes 8 s.part.serial.toNat ++ leBytes 2 s.part.steppingHub.toNat ++ leBytes 2 s.part.stepping1.toNat ++
    leBytes 2 s.part.stepping0.toNat ++ leBytes 2 0 ++ leBytes 4 fw.svn ++ leBytes 4 cast.svn ++ leBytes 4 h.castSvn ++ leBytes 4 h.fwSvn ++
    leBytes 4 h.keyEpoch ++ leBytes 4 h.pour ++ pad fw.digest ++ pad cast.digest ++ shake256 (s.part.sparePayload h.spare) ++ shake256 h.data.keysPayload ++
    pad nonce ++ leBytes 8 now.toNat ++ List.replicate 40 0#8

def State.attest (s : State) : State :=
  let addr := s.fld HMK_ARG0.addr
  if addr % 4096 ≠ 0 ∨ !(s.inHbm addr (64 + 256 + 3309)) then s.hmkRefuse opAttest 1 0 0 else
  let n := s.hbmRead addr 32
  let nonce := n.2.1
  let s := n.1
  -- a poisoned nonce gives no report: the operation fails and writes nothing (R291, R450); the reason is a free value (log 8)
  if n.2.2 then s.hmkRefuseFree opAttest else
  let r := s.report nonce s.nanos
  let sig := (Config.mlDsaSign (withContext ctxAttest (shake256 r)) ++ List.replicate 3309 0#8).take 3309
  (s.hbmWrite (addr + 64) (r ++ sig)).hmkStatus hmkDone opAttest 0 0 0

/-! ### CONFIRM_FW (R406) -/

def State.confirmFirmware (s : State) : State :=
  match s.hmk.running with
  | none => s.hmkRefuseFree opConfirm
  | some n =>
    let r := s.hmk.fw n
    s.recordOperation opConfirm recFirmware fun h => { (h.setFw n { r with confirmed := true }) with fwSvn := max h.fwSvn r.svn }

/-! ### Starting an operation (R407) -/

/-- Whether an operation is taken: with no firmware only STORE_FW, READ and ATTEST (R406); after three failed start pours not
CONFIRM_FW (R391). -/
def State.takesOp (s : State) (op : Nat) : Bool :=
  if s.hmk.running.isNone then op == opStoreFw || op == opRead || op == opAttest
  else !(s.hmk.startFailures ≥ 3 && op == opConfirm)

/-- A write of `HMK_CMD`. -/
def State.hallmarkStart (s : State) (op : Nat) : State :=
  if s.hmk.job.isSome then
    let s := s.setFld HMK_STATUS.reason 0 0 0x0B
    (if op = opStoreCast ∨ op = opPour ∨ op = opStoreFw then
      (s.wr .HMK_ERR_INFO 0 0 (BitVec.ofNat 64 (2 ^ 56))).raise 0x0B 1 0xFFFF 0x0B else s)
  else if op = 0 ∨ op > opAttest ∨ !(s.takesOp op) then s.hmkRefuseFree op
  else if op = opStoreCast ∨ op = opStoreFw then
    if s.hmk.nand.wornOut then s.hmkRefuse op 0x0A 0 0
    else
      (s.hmkStatus hmkBusy op 0 0 0).setJob (some
        { op := op, slot := s.hmk.target op, addr := s.fld HMK_ARG0.addr, length := s.fld HMK_ARG1.length })
  else if op = opPour then
    let slot := s.fld HMK_ARG0.slot
    if !(s.hmk.cast slot).valid then s.hmkRefuse op 0x0C 0 0
    else (s.hmkStatus hmkBusy op 0 0 0).setJob (some { op := op, slot := slot })
  else if op = opConfirm then s.confirmFirmware
  else if op = opRead then s.readPartition
  else if op = opKey then s.keyOperation
  else s.attest

/-- What follows a write of MRAM or NAND: half B of the journal, the copies B of records, and the events that the writes have left (R392,
R396). -/
def State.storeFollows (s : State) : State :=
  let h := s.hmk.copying.foldl Hmk.writeCopyB s.hmk
  h.reports.foldl (fun s r => s.hmkFailure r.1 0 0 r.2) { s with hmk := { h with half1 := h.half0, reports := [] } }

/-- The operation in progress goes one step on. -/
def State.jobStep (s : State) : State :=
  match s.hmk.job with
  | none => s
  | some j =>
    if j.op = opPour then s.pourStep j
    else if j.op = opKey then s.finishRecord j recKeys fun s => (s.hmkStatus hmkDone opKey 0 0 0).raise 0x0B 0x0D 0xFFFF 0
    else if j.op = opConfirm then s.finishRecord j recFirmware fun s => s.hmkStatus hmkDone opConfirm 0 0 0
    else s.storeStep j

/-- A hub cycle of the Hallmark store. -/
def State.hallmarkStep (s : State) : State := s.storeFollows.jobStep

/-! ### Lasers and lifetime (R403, R404) -/

/-- A lane's record; one it does not list stands as manufactured. -/
def State.laser (s : State) (n : Nat) : Lane :=
  match s.hmk.laser.lookup n with
  | some l => l
  | none => madeLane n

def insertLane (n : Nat) (x : Lane) : List (Nat × Lane) → List (Nat × Lane)
  | [] => [(n, x)]
  | y :: l => if n < y.1 then (n, x) :: y :: l else if n = y.1 then (n, x) :: l else y :: insertLane n x l

/-- The host link is lost: nothing is reset (R354). -/
def State.linkLoss (s : State) : State :=
  if s.fld HP_STATUS.link = 0 then s else
  { (s.setFld HP_STATUS.link 0 0 0) with host := { s.host with linkLost := true } }

/-- A lane's port treats it as failed (R313); port 0 has no narrower width, so its link is lost with any lane (R353). -/
def State.failLane (s : State) (port lane : Nat) : State := if port = 0 then s.linkLoss else s.loseLane (port - 1) lane

/-- One code towards a wanted one: an adjustment moves a bias by one code at most (R448). -/
def towards (old want : Nat) : Nat := if old < want then old + 1 else if want < old then old - 1 else old

/-- A lane's calibration adjusts its bias code towards the one that holds its power, at a count of laser-on hours; `late` tells that it
came after its due time (R448). The drift it finds is a free value (log 8). -/
def State.calibrateLaser (s : State) (port lane bias hours : Nat) (late : Bool) : State :=
  if port > 16 ∨ lane > 7 then s else
  let s := s.bump OBS_PERF_CAL_LATE.count 0 0 (b2n late)
  let n := 8 * port + lane
  let old := s.laser n
  let code := towards old.bias (min bias old.maxCode)
  let new' := code != old.bias || hours ≥ s.hmk.laserHours + 24
  let (d, s) := s.fresh
  let s := if !new' then s else
    let x : Lane := { bias := code, maxCode := old.maxCode, hours := hours, drift := d.toNat % 2 ^ 32, calHours := hours }
    ({ s with hmk := { s.hmk with laser := insertLane n x s.hmk.laser, laserHours := hours } }).newVersion recLaser
  let high := 10 * code ≥ 9 * old.maxCode && !(s.hmk.laserHigh.contains n)
  let s := if high then ({ s with hmk := { s.hmk with laserHigh := insertKey n s.hmk.laserHigh } }).raise 0x0B 0x0B (if port = 0 then 0xFFFF else port - 1) 0 else s
  if code = old.maxCode then s.failLane port lane else s

/-- The seconds counters are written every 60 s. -/
def State.writeLifetime (s : State) (hot : Nat) : State :=
  (s.bump HMK_LIFE_POWER_S.count 0 0 60).bump HMK_LIFE_HOT_S.count 0 0 (min hot 60)

end Sys2Proof.Machine
end

