-- ==== Sys2Proof/Machine/ClockOps.lean ====
section
/-! DEFINITION. The reference and the clocks: judging (R414), coasting and locking (R415), the monitor (R416), fallback and recovery
(R417 to R420), test (R421), alignment (R424, R425). -/

namespace Sys2Proof.Machine

/-- Modes of `CLK_STATUS` (R432). -/
def clkStart : Nat := 0
def clkNormal : Nat := 1
def clkFallback : Nat := 2
def clkRecovery : Nat := 3
def clkTest : Nat := 4

def State.mode (s : State) : Nat := s.fld CLK_STATUS.mode

def State.mapClk (s : State) (f : Clk → Clk) : State := { s with clk := f s.clk }

/-- The core domains' state: coasting or not, and of each die's array loop locked, coasting, at half (R415, R417, R433). -/
def State.showCore (s : State) (coast lock half : Bool) : State :=
  let s := s.setFld CLK_STATUS.coast 0 0 (b2n coast)
  [0, 1].foldl (fun s d =>
    ((s.setFld DIE_CLK_STATUS.array_lock d 0 (b2n lock)).setFld DIE_CLK_STATUS.coast d 0 (b2n coast)).setFld DIE_CLK_STATUS.half d 0 (b2n half)) s

def State.setMode (s : State) (m : Nat) : State := s.setFld CLK_STATUS.mode 0 0 m

/-- The row of R429 reached. -/
def State.startPhase (s : State) (n : Nat) : State := s.setFld RST_STATUS.phase 0 0 (max (s.fld RST_STATUS.phase) n)

/-! ### Failures (R416 to R419) -/

/-- A thread takes the non-maskable interrupt at the handler's address; one that is inside its handler takes it when it returns, which is
an instruction of its program (R418; log 37). -/
def SalterThread.interrupted (x : SalterThread) (vec : Word) (cause : Nat) : SalterThread :=
  if x.inNmi then { x with waiting := x.waiting ++ [cause] }
  else { x with pc := vec, nmiPc := x.pc, nmiCause := cause, inNmi := true }

/-- The non-maskable interrupt goes to every running thread of every salter core; with no handler's address the thread halts with a
fault, and what it reports of the fault is a free value (R418, R432). -/
def State.raiseNmi (s : State) (cause : Nat) : State :=
  let threads := (List.range 256).filter fun n =>
    (s.fld SALT_STATUS.running (n / 8) ||| s.fld SALT_STATUS.remote (n / 8)) / 2 ^ (n % 8) % 2 == 1
  if s.fld CLK_NMI_VEC.addr = 0 then
    threads.foldl (fun s n =>
      let (v, s) := s.fresh
      s.saltFault (n / 8) (n % 8) v) s
  else threads.foldl (fun s n => s.setThread n ((s.thread n).interrupted (BitVec.ofNat 64 (s.fld CLK_NMI_VEC.addr)) cause)) s

/-- The reference has failed: the loops take the substitute (R417). Where lane 0 still reports lock, the reference is judged anew at once
(R414, R420; log 28). -/
def State.clockFailure (s : State) : State :=
  let m := s.mode
  if m ≠ clkNormal ∧ m ≠ clkTest ∧ m ≠ clkRecovery then s else
  let s := s.mapClk fun c => { c with halve := true, locked := false, moved := false, leaving := false, test := none, frames := if m = clkRecovery then c.frames else 0 }
  let s := (s.setMode clkFallback).showCore false true false
  let s := s.setFld CLK_STATUS.judging 0 0 (s.fld CLK_STATUS.lane_lock)
  let s := (s.setFld CLK_HOLD.hold_us 0 0 0).bump CLK_PERF_FALLBACKS.count 0 0 1
  (s.raiseNmi 1).raise 5 1 0xFFFF 0

/-- Lane 0 reports lock: a judging window begins (R414). -/
def State.laneLocked (s : State) : State := (s.setFld CLK_STATUS.lane_lock 0 0 1).setFld CLK_STATUS.judging 0 0 1

/-- Lane 0 loses lock or signal: judging stops, and in service it is a failure (R414, R416). -/
def State.laneLost (s : State) : State :=
  let s := (s.setFld CLK_STATUS.lane_lock 0 0 0).setFld CLK_STATUS.judging 0 0 0
  let s := if s.start.clock = 1 then
      { ((s.mapClk fun c => { c with locked := false }).showCore true false false) with start := { s.start with clock := 0 } } else s
  s.clockFailure

/-- Whether the monitor runs (R416). -/
def State.monitors (s : State) : Bool := s.mode == clkNormal || s.mode == clkTest || (s.mode == clkRecovery && s.clk.locked)

/-- Passing gates in 65.536 ms, of 1 µs each (R416, R417). -/
def heldGates : Nat := 65536

/-- A monitor gate ends with a count of reference cycles (R416); the array frequency that it measures is a free value. -/
def State.monitorGate (s : State) (count : Nat) : State :=
  if !s.monitors then s else
  let s := s.setFld CLK_MON.count 0 0 (min count 255)
  let s := [0, 1].foldl (fun s d =>
    let (v, s) := s.fresh
    s.setFld DIE_CLK_STATUS.mhz d 0 v.toNat) s
  if s.part.lowCount ≤ count ∧ count ≤ s.part.highCount then
    let gates := runTake heldGates (runPush count s.clk.gates)
    let s := s.mapClk fun c => { c with gates := gates }
    s.setFld CLK_HOLD.held 0 0 (runSum gates * 2 ^ 24 / (runLen gates * max 1 s.part.gate))
  else (s.bump CLK_PERF_BAD_WINDOWS.count 0 0 1).clockFailure

/-! ### Judging (R414) -/

/-- A window is stable: each of its 256 sub-windows lies within ±50 ppm of their mean, and the ring count within ±3 % of
2^20 × ro_cal / 103,759.765625 kHz. -/
def Part.stable (p : Part) (count : Nat) (durations : List Nat) : Bool :=
  let sum := durations.sum
  let near := fun (a b : Nat) => if a ≤ b then b - a else a - b
  let want := 2 ^ 20 * p.ringKHz * 1000000
  durations.length == 256 && (durations.all fun d => near (256 * d) sum * 1000000 ≤ 50 * sum) &&
    near (count * 103759765625) want * 100 ≤ 3 * want

/-- A judging window ends. A failed one is counted and the next begins; a stable one lets start-up go on, or FALLBACK pass into
RECOVERY (R420). -/
def State.judgingEnd (s : State) (count : Nat) (durations : List Nat) : State :=
  if !(s.flag CLK_STATUS.judging) then s
  else if !(s.part.stable count durations) then s.bump CLK_PERF_JUDGE_FAIL.count 0 0 1
  else
    let s := s.setFld CLK_STATUS.judging 0 0 0
    if s.mode = clkStart then
      (if s.start.running ∧ s.start.clock = 0 then { s.startPhase 3 with start := { s.start with clock := 1 } } else s)
    else if s.mode = clkFallback then
      ((s.setMode clkRecovery).showCore true false false).mapClk fun c => { c with halve := false, moved := false, locked := false, judgedAt := s.cycle }
    else s

/-! ### Locking and frames (R415, R420, R424, R425) -/

/-- The core loops lock to the reference; they step to nominal at the next frame boundary. -/
def State.coreLock (s : State) : State :=
  let m := s.mode
  if (m = clkStart ∧ s.start.clock = 1) ∨ (m = clkRecovery ∧ s.clk.moved) ∨ (m = clkTest ∧ s.clk.leaving) then
    [0, 1].foldl (fun s d => s.setFld DIE_CLK_STATUS.array_lock d 0 1) (s.mapClk fun c => { c with locked := true })
  else s

/-- The core domains step to nominal. -/
def State.stepNominal (s : State) : State :=
  let m := s.mode
  let s := s.mapClk fun c => { c with locked := false, moved := false, leaving := false, halve := false, frames := 0 }
  let s := (s.setMode clkNormal).showCore false true false
  if m = clkStart then { s.startPhase 4 with start := { s.start with clock := 2 } }
  else if m = clkRecovery then
    let s := s.setFld CLK_STATUS.holdover_expired 0 0 0
    let s := (List.range s.part.stacks).foldl (fun s i => s.showRefresh i) s
    let s := (List.range 4).foldl (fun s b => s.showBittern b) s
    s.raise 5 2 0xFFFF 0
  else s

/-- Microseconds in a number of frames of 20.48 µs (R413). -/
def frameUs (n : Nat) : Nat := n * 2048 / 100

/-- An alignment frame boundary (R417, R420, R424, R425); `mismatches` queues differ from what they sampled at the strobe. -/
def State.frame (s : State) (mismatches : Nat) : State :=
  let m := s.mode
  let strobed := m ≠ clkStart
  let s := s.mapClk fun c => { c with place := 0 }
  let s := if strobed then (s.bump CLK_STATUS.frames 0 0 1) else s
  let s := if strobed then
      (List.range mismatches).foldl (fun s _ => (s.bump CLK_PERF_ALIGN_ERR.count 0 0 1).raise 5 6 0xFFFF 0) s else s
  let s := if m = clkFallback ∨ m = clkRecovery then
      let n := s.clk.frames
      let us := frameUs (n + 1) - frameUs n
      let s := (s.mapClk fun c => { c with frames := n + 1 }).bump CLK_PERF_FALLBACK_US.count 0 0 us
      if m = clkFallback then s.sat CLK_HOLD.hold_us 0 0 us else s
    else s
  let s := if m = clkFallback ∧ s.clk.halve then (s.showCore false true true).mapClk fun c => { c with halve := false } else s
  if s.clk.locked then s.stepNominal
  else if m = clkRecovery ∧ !s.clk.moved then s.mapClk fun c => { c with moved := true }
  else s

/-! ### Holdover (R419) -/

/-- 100 ms of FALLBACK have passed: in FALLBACK, or in the hub cycle in which RECOVERY has begun, where the expiry takes effect too
(R419, R422). -/
def State.holdoverEnd (s : State) : State :=
  let now := s.mode = clkFallback ∨ (s.mode = clkRecovery ∧ s.clk.judgedAt = s.cycle)
  if !now ∨ s.flag CLK_STATUS.holdover_expired then s else
  let s := s.setFld CLK_STATUS.holdover_expired 0 0 1
  let s := s.raise 5 3 0xFFFF 0
  let s := (List.range 16).foldl (fun s l => s.takeLinkDown l) s
  let s := s.linkLoss
  let s := (List.range s.part.stacks).foldl (fun s i => s.showRefresh i) s
  let s := (List.range 4).foldl (fun s b => s.showBittern b) s
  s.raiseNmi 2

/-! ### Test (R421) -/

/-- A write of `CLK_CTRL.test` acts at the end of its hub cycle, and a failure in that cycle makes it ignored (R422). -/
def State.clockTest (s : State) (on : Bool) : State := s.mapClk fun c => { c with test := some on }

/-- The write of `CLK_CTRL.test`; only a write that enters or leaves TEST is an event (R421). -/
def State.applyTest (s : State) (on : Bool) : State :=
  let m := s.mode
  if s.flag CST_STATE.configured ∨ s.flag CST_STATE.pouring ∨ (m ≠ clkNormal ∧ m ≠ clkTest) then s else
  let s := s.setFld CLK_CTRL.test 0 0 (b2n on)
  if on then
    (if m = clkNormal then ((s.setMode clkTest).showCore true false false).raise 5 5 0xFFFF 0
     else if s.clk.leaving then (s.mapClk fun c => { c with leaving := false, locked := false }).raise 5 5 0xFFFF 0 else s)
  else if m = clkTest ∧ !s.clk.leaving then (s.mapClk fun c => { c with leaving := true }).raise 5 5 0xFFFF 0
  else s

/-- The hub cycle's test write (R422). -/
def State.settleTest (s : State) : State :=
  match s.clk.test with
  | none => s
  | some on => (s.mapClk fun c => { c with test := none }).applyTest on

/-- No judging window has passed within 2 s of release (R430). -/
def State.noReference (s : State) : State :=
  if s.start.running ∧ !s.start.ready ∧ s.start.clock = 0 then s.assertFault.raise 5 4 0xFFFF 0 else s

end Sys2Proof.Machine
end

