-- ==== Sys2Proof/Machine/ResetOps.lean ====
section
/-! DEFINITION. Reset (R427, R428), the release of SB_RESET_N, the timed start-up row by row (R429, R430, R393, R397, R406), and the
I2C target (R375). -/

namespace Sys2Proof.Machine

/-! ### Reset (R428) -/

/-- Registers that Hallmark holds and a reset leaves alone (R404, R409). -/
def RegKind.lifetime (k : RegKind) : Bool :=
  match k with
  | .HMK_LIFE_POWER_S | .HMK_LIFE_RESETS | .HMK_LIFE_POURS | .HMK_LIFE_START_POURS | .HMK_LIFE_ABANDONED | .HMK_LIFE_THERMAL_HALTS
  | .HMK_LIFE_HOT_S | .HMK_LIFE_NAND_ERASES | .HMK_LIFE_COPY_REPAIRS | .HMK_LIFE_ASSAY_MISMATCH => true
  | _ => false

def lifetimeKinds : List Nat := (RegKind.all.filter RegKind.lifetime).map fun k => k.ctorIdx

/-- Every part is reset but fused values, MRAM and NAND, and the I2C registers; the outputs are released. -/
def State.resetBy (s : State) (cause : Nat) (pins : Pins) : State :=
  let cause := if s.pwr.halted then 3 else cause
  let t : State :=
    { part := s.part, pins := pins, spare := s.spare, i2c := s.i2c, free := s.free, cycle := s.cycle, pending := s.pending
      mem := s.mem.filter fun c => c.1 ≥ nandBase
      regs := s.regs.filter fun r => lifetimeKinds.contains (keyKind r.1)
      hmk := { s.hmk with running := none, job := none, quiet := false, entries := [], copying := [], reports := [] }
      -- flows start new generations (R323)
      fab := { flows := s.fab.flows.map fun (f : Flow) => ({ dst := f.dst, cls := f.cls, gen := (f.gen + 1) % 16 } : Flow) } }
  (t.setFld RST_STATUS.cause 0 0 cause).showHallmark

/-- SB_PWR_OK falls. The board controller holds SB_RESET_N low from then through the next power-up (R426, R427; log 4). -/
def State.powerLow (s : State) : State :=
  if s.pins.pwrOk then s.resetBy 2 { pwrOk := false, resetN := false, straps := 0 } else s

/-- SB_RESET_N falls. -/
def State.resetLow (s : State) : State :=
  if s.pins.resetN then s.resetBy 1 { pwrOk := s.pins.pwrOk, resetN := false, straps := s.pins.straps } else s

/-- SB_PWR_OK rises; reset is still held. -/
def State.powerHigh (s : State) : State := { s with pins := { s.pins with pwrOk := true } }

/-! ### Release (R373, R375, R429) -/

/-- Byte `o` of the I2C registers that hold what was written. -/
def State.i2cStored (s : State) (o : Nat) : Byte := Sparse.get 0 s.i2c.bytes o

def State.i2cWord (s : State) (o : Nat) : Nat := leNat ((List.range 8).map fun i => s.i2cStored (o + i))

/-- What was written over I2C is copied into the host port's registers. -/
def State.copyI2c (s : State) : State :=
  let s := (List.range 4).foldl (fun s j =>
    let w := s.i2cWord (0x10 + 8 * j)
    let v := if j = 0 then w / 2 ^ 62 * 2 ^ 62 + s.part.mac.toNat else if j = 3 then 0 else w
    s.wr .HP_SELF j 0 (BitVec.ofNat 64 v)) s
  let s := (List.range 4).foldl (fun s j =>
    s.wr .HP_PEER 0 j (BitVec.ofNat 64 (s.i2cWord (0x30 + 8 * j) &&& Reg.defined ⟨.HP_PEER, 0, j⟩))) s
  let base := leNat [s.i2cStored 0x50, s.i2cStored 0x51]
  s.setFld HP_UDP_CFG.base 0 0 (if base ≠ 0 then base else if s.pins.straps / 4 % 2 = 1 then 52224 else 51200)

/-- SB_RESET_N rises with power good: straps are sampled and start-up begins. -/
def State.release (s : State) (straps : Nat) (facts : StartFacts) : State :=
  if !s.pins.pwrOk ∨ s.pins.resetN then s else
  let s := { s with pins := { s.pins with resetN := true, straps := straps % 16 } }
  let s := s.setFld RST_STATUS.straps 0 0 straps
  let s := s.bump HMK_LIFE_RESETS.count 0 0 1
  { s.copyI2c with start := { running := true, facts := facts } }

/-! ### Rows of the Hallmark sequence -/

/-- Whether a firmware slot holds an image that passes checks 1 to 6 (R406). -/
def State.firmwareGood (s : State) (slot : Nat) : Bool :=
  let r := s.hmk.fw slot
  r.valid && s.nandReadable partFirmware slot 0 r.length && s.checkImage (s.nandBytes partFirmware slot 0 r.length) 2 == 0

/-- The boot ROM selects a firmware slot: the valid one with the higher svn, of equals slot 0, or with SB_STRAP[3] the other. -/
def State.selectFirmware (s : State) : State :=
  let g0 := s.firmwareGood 0
  let g1 := s.firmwareGood 1
  if !g0 && !g1 then { s with start := { s.start with fault := true } } else
  let newest := if g0 && (!g1 || s.hmk.fw1.svn ≤ s.hmk.fw0.svn) then 0 else 1
  let other := 1 - newest
  let good := if other = 0 then g0 else g1
  if s.pins.straps / 8 % 2 = 0 then s.mapHmk fun h => { h with running := some newest }
  else if good && (s.hmk.fw other).svn ≥ s.hmk.fwSvn then s.mapHmk fun h => { h with running := some other }
  else (s.mapHmk fun h => { h with running := some newest }).hmkFailure 0x0C 0 0 0

def State.hallmarkRow (s : State) : State :=
  match s.start.hallmark with
  | 0 => { (s.showHallmark.startPhase 2) with start := { s.start with hallmark := 1 } }
  | 1 =>
    -- a page map whose CRC fails is rebuilt from the spare areas (R395)
    let s := if s.start.facts.mapFault then { s with hmk := { s.hmk with nand := s.hmk.nand.rebuild } } else s
    { (s.startPhase 5) with start := { s.start with hallmark := 2 } }
  | 2 =>
    let s := s.selectFirmware.startPhase 8
    { s with start := { s.start with hallmark := 3 } }
  | _ => s

/-! ### Rows of the clock and link sequence; the first two end with the commands of chapter 13 -/

/-- Die-to-die training: modules that cannot be repaired are off; a link with fewer than half of them working is down (R23). -/
def State.trainDies (s : State) : State :=
  let (a, b, c) := s.start.facts.modulesOff
  let s := [(0, a), (1, b)].foldl (fun s (d, n) =>
    let s := s.setFld DIE_D2D_STATUS.hub_modules_off d 0 (min n 16)
    let s := s.setFld DIE_D2D_STATUS.peer_modules_off d 0 (min c 8)
    let s := s.setFld DIE_D2D_STATUS.link_down d 0 (b2n (n > 8))
    s.setFld DIE_D2D_STATUS.link_down_peer d 0 (b2n (c > 4))) s
  if a > 8 ∨ b > 8 ∨ c > 4 then { s with start := { s.start with fault := true } } else s

def State.clockRow (s : State) : State :=
  match s.start.clock with
  | 2 =>
    let s := s.trainDies.startPhase 6
    { s with start := { s.start with clock := 3 } }
  | 3 =>
    let s := (s.setFld HP_STATUS.link 0 0 1).startPhase 7
    { s with start := { s.start with clock := 4 } }
  | _ => s

/-! ### Rows after both -/

/-- One record kind with fewer than two valid copies (R397). With no copy left the record is as one never written; for SPARE_MAP that
is the nominal map with no array retired (DESIGN CHOICE, log 42). -/
def State.recordLost (s : State) (kind left : Nat) : State :=
  if left = 1 then (s.bump HMK_LIFE_COPY_REPAIRS.count 0 0 1).hmkFailure 5 0 0 kind
  else if left ≥ 2 ∨ kind < recSpareMap ∨ kind > recCastings then s
  else
    let s := s.mapHmk fun h =>
      if kind = recSpareMap then { h with spare := {} }
      else if kind = recUnits then { h with unitsRetired := 0 }
      else if kind = recHbmRepair then { h with hbmRepair := [] }
      else if kind = recScpRepair then { h with scpRepair := [] }
      else if kind = recLaser then { h with laser := [], laserHours := 0 }
      else if kind = recKeys then { h with keys := [{}, {}, {}, {}] }
      else if kind = recFirmware then { h with fw0 := {}, fw1 := {} }
      else { h with cast0 := {}, cast1 := {} }
    let s := s.hmkFailure 6 0 0 kind
    if kind = recSpareMap ∨ kind = recUnits ∨ kind = recKeys then { s with start := { s.start with fault := true, lost := true } } else s

/-- Copies of a version that are valid: A and B as written, their pages within correction (R395, R397). -/
def State.copiesOf (s : State) (v : RecVersion) : Bool × Bool :=
  let good := fun (c : Nat) => (recordPages v.kind v.seq c v.data).all s.hmk.nand.readable
  (v.a && good 0, v.b && good 1)

/-- A kind's current version is chosen: the one with the highest sequence number that has a valid copy. A version with one copy gets the
other written again; with none left the record is lost (R397). -/
def State.chooseVersion (s : State) (kind : Nat) : State :=
  let f := s.start.facts
  let left := (f.copies.lookup kind).getD 2
  match s.hmk.versions.filter fun v => v.kind == kind with
  | [] => s.recordLost kind (if f.torn.contains kind then 0 else left)
  | newest :: older =>
    let usable := fun (v : RecVersion) => (s.copiesOf v).1 || (s.copiesOf v).2
    let vs := if left = 0 then [] else ((if f.torn.contains kind then [] else [newest]) ++ older).filter usable
    let others := s.hmk.versions.filter fun v => v.kind != kind
    match vs with
    | [] => ({ s with hmk := { s.hmk with versions := others } }).recordLost kind 0
    | v :: rest =>
      let (a, b) := s.copiesOf v
      let single := !(a && b) || (left == 1 && v == newest)
      let missing := if a then 1 else 0
      let h := { (s.hmk.takeData kind v.data) with versions := { v with a := true, b := true } :: (rest ++ others) }
      let h := if single then { h with nand := (h.nand.writeAll (recordPages kind v.seq missing v.data)).1 } else h
      let s := ({ s with hmk := h }).showHallmark
      if single then s.recordLost kind 1 else s

/-- Records are loaded; the spare map and the unit state entries are filled from them (R41, R397, R402). -/
def State.loadRecords (s : State) : State :=
  let s := (List.range 8).foldl (fun s k => s.chooseVersion (recSpareMap + k)) s
  let s := { s with spare := s.hmk.spare }
  let s := s.part.units.foldl (fun s u =>
    let gone := match s.part.retiredBit u with
      | some b => s.hmk.unitsRetired / 2 ^ b % 2 == 1
      | none => match (s.binding u.i).1 with
        | some ph => s.spare.retired.contains (s.part.dieOf u.i, ph)
        | none => true
    if gone then s.showUnit u tsRetired 5 else s) s
  (List.range s.part.stacks).foldl (fun s i => s.showRepairs i) s

/-- The stacks are in training from the end of the row before to the end of theirs (R308, R429). -/
def State.beginTraining (s : State) : State :=
  let s := (List.range s.part.stacks).foldl (fun s i => s.setFld HBM_STK_INFO.state i 0 1) s
  (List.range 4).foldl (fun s b => s.setFld BIT_STK_INFO.state b 0 1) s

/-- HBM repairs, then stack and bittern training (R304, R306). -/
def State.trainStacks (s : State) : State :=
  let failed := s.start.facts.failedStacks
  let s := s.startRepairs
  let s := (List.range s.part.stacks).foldl (fun s i =>
    if failed.contains i then ((s.setFld HBM_STK_INFO.state i 0 3).raise 9 5 i 0).deviceFence ⟨.UST_HBM, i⟩
    else s.setFld HBM_STK_INFO.state i 0 2) s
  let s := (List.range 4).foldl (fun s b =>
    if failed.contains (0x100 + b) then ((s.setFld BIT_STK_INFO.state b 0 3).raise 9 5 (0x100 + b) 0).deviceFence ⟨.UST_BITTERN, b⟩
    else s.setFld BIT_STK_INFO.state b 0 2) s
  if failed.any fun n => n < s.part.stacks || (0x100 ≤ n && n < 0x104) then { s with start := { s.start with fault := true } } else s

/-- The march of every bank of every array, with its repairs (R102, R104). -/
def State.startMarch (s : State) : State :=
  (List.range s.part.arrays).foldl (fun s a =>
    if !(s.bound a) then s else
    let s := s.mapArray a fun x => { x with march := some { banks := List.range 10, borrow := none, phase := 3 } }
    s.marchDone a ((s.start.facts.march.filter fun f => f.1 == a).map fun (f : Nat × LineFailure) => f.2)) s

/-- The start pour begins, unless three have failed, no firmware runs, a record is lost or no slot is active (R391, R397, R406). -/
def State.beginStartPour (s : State) : State :=
  if s.hmk.running.isNone ∨ s.start.lost then s
  else match s.hmk.activeSlot with
    | none => s
    | some a =>
      if s.hmk.startFailures ≥ 3 then s.startsFailed
      else if !(s.hmk.cast a).valid then s
      else (s.hmkStatus hmkBusy opPour 0 0 0).setJob (some { op := opPour, slot := a, start := true })

/-- Start-up ends: SB_READY is released, and SB_FAULT_N is asserted when a fault leaves the device unconfigured (R430). -/
def State.startEnd (s : State) : State :=
  let s := (s.setFld RST_STATUS.phase 0 0 15).setFld RST_STATUS.ready_ms 0 0 (s.nanos.toNat / 1000000)
  let s := { s with pins := { s.pins with ready := true }, start := { s.start with ready := true } }
  let s := if s.start.fault && !(s.flag CST_STATE.configured) then s.assertFault else if s.pwr.halted then s else { s with pins := { s.pins with faultN := true } }
  s.raise 5 7 0xFFFF (s.rd .RST_STATUS)

def State.commonRow (s : State) : State :=
  let next := fun (s : State) (n ph : Nat) =>
    let s := s.startPhase ph
    { s with start := { s.start with common := n } }
  match s.start.common with
  | 0 => next s.loadRecords.beginTraining 1 9
  | 1 => next s.trainStacks 2 10
  | 2 => next s.startMarch 3 11
  | 3 => next (s.bindRetired 5).recoverPour 4 12
  | 4 =>
    let s := s.beginStartPour
    { s with start := { s.start with common := 5 } }
  | _ => if s.hmk.job.isSome then s else (s.startPhase 13).startEnd

/-- One hub cycle of start-up: SB_READY goes low, then each sequence ends its next row, then the rows after both. -/
def State.startStep (s : State) : State :=
  if !s.start.running ∨ s.start.ready then s
  else if s.pins.ready then ({ s with pins := { s.pins with ready := false } }).startPhase 1
  else if s.start.hallmark = 3 ∧ s.start.clock = 4 then s.commonRow
  else s.hallmarkRow.clockRow

/-! ### Output pins that follow other state (R373) -/

/-- SB_ALERT_N is low while the queue holds an unsent record of class 0x02 to 0x04, or records were lost. -/
def State.alertN (s : State) : Bool :=
  !((s.evt.queue.any fun r => !r.sent && 2 ≤ r.cls && r.cls ≤ 4) || s.fld HP_EVT_STATUS.lost != 0)

/-- SB_QUENCH_N as the device drives it. -/
def State.quenchN (s : State) : Bool := !s.obs.drivingQuench

/-- A falling edge of SB_QUENCH_N driven from outside. -/
def State.quenchPin (s : State) (ns : Nat) : State :=
  if ns < 100 ∨ !(s.flag OBS_QUENCH_CFG.pin_en) ∨ s.obs.drivingQuench then s else s.quench srcPin 0

/-! ### The I2C target (R375) -/

/-- A byte of the I2C registers; an offset that is not listed reads a free value (log 8). -/
def State.i2cByte (s : State) (o : Nat) : Byte × State :=
  if o < 2 then (BitVec.ofNat 8 (s.part.partCode / 256 ^ o), s)
  else if o = 2 then
    (BitVec.ofNat 8 (b2n s.start.ready + 2 * b2n (!s.up) + 4 * b2n (!s.flag CST_STATE.configured) + 8 * b2n s.pwr.halted + 16 * s.fld RST_STATUS.cause), s)
  else if o = 3 then (BitVec.ofNat 8 s.i2c.alert, s)
  else if o = 4 then (BitVec.ofNat 8 (min s.hottest 255), s)
  else if o < 7 then (BitVec.ofNat 8 (s.pwr.meanWatts / 256 ^ (o - 5)), s)
  else if 0x10 ≤ o ∧ o ≤ 0x51 then (s.i2cStored o, s)
  else
    let (v, s) := s.fresh
    (v.setWidth 8, s)

def State.i2cRead (s : State) (o : Nat) : Nat → List Byte → List Byte × State
  | 0, acc => (acc, s)
  | n + 1, acc =>
    let (b, s) := s.i2cByte o
    s.i2cRead ((o + 1) % 256) n (acc ++ [b])

def State.i2cWrite (s : State) (o : Nat) : List Byte → State
  | [] => s
  | b :: bs =>
    let s := if o = 3 then { s with i2c := { s.i2c with alert := s.i2c.alert - (s.i2c.alert &&& b.toNat) } }
      else if 0x10 ≤ o ∧ o ≤ 0x51 then { s with i2c := { s.i2c with bytes := Sparse.put 0 s.i2c.bytes o b } }
      else s
    s.i2cWrite ((o + 1) % 256) bs

/-- The target's address: 0x58 with SB_STRAP[1:0] below (R373), as last sampled, which is 0 before the first release (DESIGN CHOICE,
log 64). -/
def State.i2cAddress (s : State) : Nat := 0x58 + s.pins.straps % 4

/-- A transfer: bytes are written at successive offsets, or, with none to write, read. The target answers its own address alone, not the
general call, while SB_PWR_OK is high. -/
def State.i2cTransfer (s : State) (address offset : Nat) (data : List Byte) (len : Nat) : State :=
  if !s.pins.pwrOk ∨ address ≠ s.i2cAddress then s
  else if data.isEmpty then
    let (bs, s) := s.i2cRead (offset % 256) len []
    { s with compl := (.ok, bs) }
  else s.i2cWrite (offset % 256) data

end Sys2Proof.Machine
end

