-- ==== Sys2Proof/Machine/Clocks.lean ====
section
/-! DEFINITION. Clocks (R414 to R425, R430). -/

namespace Sys2Proof.Machine

open Host (Outcome)

/-- LANE_LOCK: lane 0 reports lock and judging begins (R414). -/
def execLaneLock (s : State) : Outcome State Fault Refusal :=
  live s (s.laneLocked)

/-- JUDGING_WINDOW_END: a judging window ends (R414, R420). -/
def execJudgingWindowEnd (count : Nat) (durations : List Nat) (s : State) : Outcome State Fault Refusal :=
  live s (s.judgingEnd count durations)

/-- CORE_LOOP_LOCK: the core loops have locked (R415). -/
def execCoreLoopLock (s : State) : Outcome State Fault Refusal :=
  live s (s.coreLock)

/-- MONITOR_GATE_END: a monitor gate ends (R416, R417). -/
def execMonitorGateEnd (count : Nat) (s : State) : Outcome State Fault Refusal :=
  live s (s.monitorGate count)

/-- LANE_LOSS_OF_LOCK: lane 0 loses lock or signal (R414, R416). -/
def execLaneLossOfLock (s : State) : Outcome State Fault Refusal :=
  live s (s.laneLost)

/-- FRAME_BOUNDARY: alignment is checked and what waited takes effect (R415, R417, R420, R424, R425). -/
def execFrameBoundary (mismatches : Nat) (s : State) : Outcome State Fault Refusal :=
  live s (s.frame mismatches)

/-- HOLDOVER_EXPIRY: 100 ms of FALLBACK have passed (R419). -/
def execHoldoverExpiry (s : State) : Outcome State Fault Refusal :=
  live s (s.holdoverEnd)

/-- CLK_TEST_WRITE: CLK_CTRL.test is written (R421). -/
def execClkTestWrite (test : Bool) (s : State) : Outcome State Fault Refusal :=
  live s (s.written fun s => s.clockTest test)

/-- NO_REFERENCE_TIMEOUT: 2 s have passed with no stable reference (R430). -/
def execNoReferenceTimeout (s : State) : Outcome State Fault Refusal :=
  live s (s.noReference)

end Sys2Proof.Machine
end

