-- ==== Sys2Proof/Machine/Epochs.lean ====
section
/-! DEFINITION. Fence epochs, the physical ID and the gateway's hold (R314, R345, R347). -/

namespace Sys2Proof.Machine

open Host (Outcome)

/-- FAB_EPOCH_ADVANCE: an advance is requested (R345). -/
def execFabEpochAdvance (s : State) : Outcome State Fault Refusal :=
  live s (s.written fun s => s.requestAdvance)

/-- EPOCH_ADVANCE_COMPLETE: a pending advance completes once the outbound flows have drained (R345, R371, R372). -/
def execEpochAdvanceComplete (s : State) : Outcome State Fault Refusal :=
  live s (s.epochComplete)

/-- EPOCH_ADVANCE_REFUSED: a pending advance is given up; staged changes stay staged (R345). -/
def execEpochAdvanceRefused (s : State) : Outcome State Fault Refusal :=
  live s (s.epochRefuse)

/-- FAB_PHYS_ID_WRITE: the physical ID is set, while no casting is poured (R314). -/
def execFabPhysIdWrite (value : Word) (s : State) : Outcome State Fault Refusal :=
  live s (s.written fun s => s.physIdWrite value)

/-- GW_HOLD_EXPIRY: what is gathered for a field is sent (R347). -/
def execGwHoldExpiry (field : Nat) (s : State) : Outcome State Fault Refusal :=
  live s (s.flushGateway field)

end Sys2Proof.Machine
end

