-- ==== Sys2Proof/Machine/VecIssue.lean ====
section
/-! DEFINITION. Issue, waiting, end and failure of VEC commands (R138, R147 to R151, R156, R164, R168, R169). -/

namespace Sys2Proof.Machine

/-- The length of a VEC, or the scratchpad offset it stands at (R138). -/
def State.vecLength (s : State) (a : Nat) (c : VecCmd) : Nat :=
  if c.lenInd then leNat (s.sram a c.vecLen 4) else c.vecLen

/-- Rows and elements per row (R138, R148); a VEC with tq has none before its entry is there. -/
def State.vecShape (s : State) (a : Nat) (c : VecCmd) (e : Option TqEntry) : Nat × Nat :=
  match e with
  | some q => if c.tqCols then (q.cols, q.rows) else (q.rows, q.cols)
  | none =>
    if c.tq then (0, 0) else
    let n := s.vecLength a c
    if c.rowlen = 0 then (1, n) else (n / c.rowlen, c.rowlen)

/-- The oldest tile-queue entry of a class (R148). -/
def Arr.oldest (x : Arr) (backward : Bool) : Option TqEntry := x.tq.find? fun e => e.backward == backward

/-- Number of descriptors in the block: destination, sources, mask, second destination (R136). -/
def VecCmd.second (c : VecCmd) : Bool := c.vop == vTopk || c.vop == vPack || (c.vop == 0x10 && c.save)
def VecCmd.descCount (c : VecCmd) : Nat := 1 + c.nsrc + b2n c.masked + b2n c.second

def State.desc (s : State) (a : Nat) (c : VecCmd) (i : Nat) : Desc := Desc.parse (s.sram a (c.descAddr + 32 * i) 32)

/-- The bytes of the accumulator buffer that the tile buffer takes: m_rows × 128 (R148). -/
def TqEntry.span (q : TqEntry) : Nat × Nat := (accBase + q.accLine * 128, q.rows * 128)

/-- The tile buffer: the entry's region as it stands, by the rows of the command (R148). -/
def State.tileBuffer (s : State) (a : Nat) (c : VecCmd) (q : TqEntry) : List (List (BitVec 32 × Bool)) :=
  let word := fun i j =>
    let off := regionWord q.accLine i j
    (s.accWord a off, s.isPoisoned (accUnit a off))
  if c.tqCols then (List.range q.cols).map fun j => (List.range q.rows).map fun i => word i j
  else (List.range q.rows).map fun i => (List.range q.cols).map fun j => word i j

/-- The shape of the destination (R141, R144, R145). -/
def VecCmd.dstShape (c : VecCmd) (rows len : Nat) : Nat × Nat :=
  if isReduce c.vop then (1, rows) else if c.vop = vTopk then (rows, c.param) else (rows, len)

def VecCmd.dst2Shape (c : VecCmd) (rows len : Nat) : Nat × Nat :=
  if c.vop = vTopk then (rows, c.param) else if c.vop = vPack then (1, rows / 32) else (rows, len)

/-- The command with its streams resolved against the windows' positions. -/
def State.resolve (s : State) (a : Nat) (c : VecCmd) (e : Option TqEntry) (table : List Byte) : Vec :=
  let (rows, len) := s.vecShape a c e
  let stream := fun (i : Nat) (sh : Nat × Nat) (write : Bool) =>
    let d := s.desc a c i
    let w := d.addr % 8
    ({ d := d, rows := sh.1, len := sh.2
       pos := if write then s.fld ARR_WIN_HEAD.pos a w else s.fld ARR_WIN_TAIL.pos a w } : Stream)
  let srcs := (List.range c.nsrc).map fun i =>
    let v := stream (1 + i) (rows, len) false
    match i, e with
    | 0, some q => { v with d := { v.d with fmt := 5 }, tile := some (s.tileBuffer a c q) }
    | _, _ => v
  { a := a, c := c, rows := rows, len := len, dst := stream 0 (c.dstShape rows len) true
    dst2 := if c.second then stream (c.descCount - 1) (c.dst2Shape rows len) true else stream 0 (0, 0) true
    srcs := srcs, mask := if c.masked then some (stream (1 + c.nsrc) (rows, len) false) else none
    table := table, pacing := s.flag VEC_CFG.pacing a }

/-! ### Checks (R168) -/

/-- R137's rules of one stream; `dest` for a destination. -/
def Stream.bad (v : Stream) (dest : Bool) : Bool :=
  let d := v.d
  d.reserved || d.space == 3 || (d.space == 1 && d.fmt != 5 && d.fmt != 6) || (dest && d.stride == 0 && !d.isWin) ||
  (isLog d.fmt && !d.isWin && (d.stride > 1 || (v.rows > 1 && d.pitch % 32 != 0))) ||
  (d.isWin && (d.stride != 1 || d.addr ≥ 8)) ||
  (if dest then (d.writesRec && (!(isLog d.fmt) || v.len > 32 || d.recAddr % 64 != 0)) || (d.writesPhase && !(isLog d.fmt))
   else d.dyn || d.writesRec || d.writesPhase)

/-- The bytes of PACK's ctiles at their longest (R145). -/
def Vec.longest (v : Vec) : Nat := v.rows / 32 * (if (v.src 0).d.fmt = 0 then 576 else 1088)

/-- Bytes of a destination in a window: PACK's at its longest, until what it wrote is known (R137, R145, DEDUCED, log 57). -/
def Vec.winNeed (v : Vec) (t : Stream) : Nat := if v.c.vop = vPack ∧ t = v.dst then v.longest else t.winBytes

/-- Bytes of scratchpad or accumulator a stream names: a span per row, or per element where a stride leaves gaps (windows apart). -/
def Stream.rowSpans (v : Stream) (dest : Bool) : List (Nat × Nat) :=
  let n := if dest && isLog v.d.fmt then ceil32 v.len else v.len
  if n = 0 ∨ v.d.isWin then [] else
  let span := fun (r n0 n1 : Nat) =>
    let b0 := v.bitOff r n0
    (v.d.addr + b0 / 8, ceilDiv (v.bitOff r n1 + fmtBits v.d.fmt) 8 - b0 / 8)
  (List.range v.rows).flatMap fun r =>
    if v.d.stride ≤ 1 then [span r 0 (n - 1)] else (List.range n).map fun i => span r i i

/-- The scale bytes a stream names. -/
def Stream.scaleSpans (v : Stream) : List (Nat × Nat) :=
  if !(isLog v.d.fmt) ∨ v.len = 0 then [] else
  (List.range v.rows).map fun r => (v.scaleOff r 0, v.scaleOff r (v.len - 1) - v.scaleOff r 0 + 1)

/-- Record and phase planes of a destination (R158, R159). -/
def Stream.planeSpans (v : Stream) : List (Nat × Nat) :=
  (if v.d.writesRec then [(v.d.recAddr, 8 * v.rows)] else []) ++
  (if v.d.writesPhase then
    let H := if v.d.fmt = 0 then 4 else 2
    (List.range (min H v.rows)).map fun h => (v.d.phaseAddr + h * v.d.phasePitch, ceilDiv v.rows H)
   else [])

def Vec.dests (v : Vec) : List Stream := v.dst :: (if v.c.second then [v.dst2] else [])
def Vec.readers (v : Vec) : List Stream :=
  (v.srcs.filter fun t => t.tile.isNone) ++ (match v.mask with
    | none => []
    | some m => [m])

/-- Spans in the scratchpad of PASSFORM's later planes, and of PACK's output at its longest (R145, R469). -/
def Vec.extraSpans (v : Vec) : List (Nat × Nat) :=
  if v.dst.d.space ≠ 0 then []
  else if v.c.vop = vPassform then
    let span := if v.rows = 1 then ceil32 v.len else v.rows * v.dst.d.pitch
    (List.range v.c.param).flatMap fun i =>
      [(v.dst.d.addr + i * span, span), (v.dst.d.scale + i * (span / 32), span / 32)]
  else if v.c.vop = vPack then [(v.dst.d.addr, v.longest)]
  else []

/-- The bytes of the descriptor block (R136). -/
def VecCmd.descSpan (c : VecCmd) : Nat × Nat := (c.descAddr, 32 * c.descCount)

/-- The bytes the checks read before any stream: the descriptor block and the word of an indirect length. -/
def VecCmd.blockSpans (c : VecCmd) : List (Nat × Nat) := c.descSpan :: (if c.lenInd then [(c.vecLen, 4)] else [])

def VecCmd.usesTable (c : VecCmd) : Bool := c.vop == 0x10 || c.vop == 0x11

/-- What a VEC's streams, planes and flags name in the scratchpad; windows by the lines they cover. A stream that breaks R137 names
nothing (log 23). -/
def Vec.streamSpans (v : Vec) (s : State) : List (Nat × Nat) :=
  let plain := fun (t : Stream) (dest : Bool) =>
    if t.bad dest then [] else (if t.d.space = 0 then t.rowSpans dest else []) ++ t.scaleSpans
  let win := fun (t : Stream) => if t.d.isWin then s.winSpans v.a (t.d.addr % 8) t.pos (v.winNeed t) else []
  let own := if v.c.vop = vPassform ∨ v.c.vop = vPack then [] else
    plain v.dst true ++ (if v.dst.bad true then [] else v.dst.planeSpans)
  (v.readers.flatMap fun t => plain t false ++ win t) ++ own ++ v.extraSpans ++
  (if v.c.second then plain v.dst2 true ++ (if v.dst2.bad true then [] else v.dst2.planeSpans) else []) ++
  (v.dests.flatMap win) ++ v.c.blockSpans ++ (if v.c.flagsEn then [(v.c.flagAddr, v.rows)] else [])

/-- Everything a VEC touches in the scratchpad, its table with it (R168). -/
def Vec.scpSpans (v : Vec) (s : State) : List (Nat × Nat) :=
  v.streamSpans s ++ (if v.c.usesTable then [(v.c.tabAddr, v.table.length)] else [])

def Vec.accSpans (v : Vec) : List (Nat × Nat) :=
  (v.readers.flatMap fun t => if t.d.space = 1 then t.rowSpans false else []) ++
  (v.dests.flatMap fun t => if t.d.space ≠ 1 then [] else if v.c.vop = vPack ∧ t = v.dst then [(t.d.addr, v.longest)] else t.rowSpans true)

/-- The checks that rest on the command alone. -/
def VecCmd.opBad (c : VecCmd) : Bool :=
  match vopRow c.vop with
  | none => true
  | some (n, _, _) => c.nsrc != n || (c.save && c.vop != 0x10) || (c.tqCols && !c.tq)

def VecCmd.descBad (c : VecCmd) : Bool :=
  c.reserved || c.descAddr % 32 != 0 || (c.lenInd && c.vecLen % 4 != 0) ||
  (c.param != 0 && c.vop != vTopk && c.vop != vPassform) ||
  (c.imm != 0 && c.vop != 0x07 && c.vop != vNorm && c.vop != vPack) ||
  (!c.flagsEn && c.flagAddr != 0) || (c.usesTable && c.tabAddr % 32 != 0)

/-- Stream rules (VEC_DESC). -/
def Vec.streamsBad (v : Vec) : Bool :=
  v.dests.any (·.bad true) || v.readers.any (·.bad false) ||
  (match v.mask with
   | none => false
   | some m => m.d.fmt != 7) ||
  (v.c.second && v.c.vop != 0x10 && v.dst2.d.fmt != 6) || (v.c.second && v.c.vop != 0x10 && (v.dst2.d.writesRec || v.dst2.d.writesPhase)) ||
  (v.c.vop == vNorm && (v.src 1).d.pitch != 0) ||
  (v.c.vop == vPassform && (!((v.src 0).d.fmt == 5 || (v.src 0).d.fmt == 3 || (v.src 0).d.fmt == 4) || v.dst.d.fmt != 1 ||
    v.dst.d.space != 0 || v.dst.d.stride != 1 || !v.dst.d.dyn || v.dst.d.writesRec || v.dst.d.writesPhase)) ||
  (v.c.vop == vPack && !(isLog (v.src 0).d.fmt))

/-- The shape (VEC_SHAPE); a VEC whose tile is still to come has none yet. -/
def Vec.shapeBad (v : Vec) (n : Nat) : Bool :=
  let unshaped := v.c.tq && v.rows == 0
  (!v.c.lenInd && (n > 1048576 || (v.c.rowlen != 0 && n % v.c.rowlen != 0))) ||
  (v.c.tq && (v.c.vecLen != 0 || v.c.rowlen != 0)) ||
  (v.c.vop == vTopk && (v.c.param == 0 || v.c.param > 16 || (!unshaped && v.c.param > v.len))) ||
  (v.c.vop == vPassform && v.c.param != 2 && v.c.param != 3) ||
  (v.c.vop == vPack && !unshaped && (v.len != 32 || v.rows % 32 != 0))

/-- The spans among some that lie in the scratchpad whole: one that runs past its end touches no bank, and its code is VEC_RANGE (log 23). -/
def inScratchpad (spans : List (Nat × Nat)) : List (Nat × Nat) := spans.filter fun x => !(beyond 0x50000 [x])

/-- Every check that rests on the descriptor block and the streams, with codes. A table's own place is a matter of VEC_TABLE. -/
def Vec.checks (v : Vec) (s : State) (n : Nat) : List (Nat × Bool) :=
  let wins := v.dests ++ v.readers
  [(4, wins.any fun t => t.d.isWin && !(s.winOn v.a (t.d.addr % 8))),
   (5, s.refuses v.a ownVec (inScratchpad (v.scpSpans s))),
   (0x21, v.streamsBad || (v.c.tq && !(s.desc v.a v.c 1).zero)),
   (0x22, v.shapeBad n),
   (0x23, beyond 0x50000 (v.streamSpans s) || beyond 0x10000 v.accSpans ||
     wins.any fun t => t.d.isWin && v.winNeed t > s.winSize v.a (t.d.addr % 8)),
   (0x26, v.c.usesTable && (!((TabHead.parse v.table).ok) || beyond 0x50000 [(v.c.tabAddr, v.table.length)])),
   (0x27, v.c.lenInd && (n > 1048576 || (v.c.rowlen != 0 && n % v.c.rowlen != 0)))]

/-! ### Tables (R156) -/

/-- A table as it stands in the scratchpad: its header names its length. -/
def State.tableAt (s : State) (a off : Nat) : List Byte :=
  let h := TabHead.parse (s.sram a off 32)
  s.sram a off (if h.ok then h.size else 32)

/-- The table a FTAB or DTAB uses: a matching slot's contents, else the scratchpad's. -/
def State.tableFor (s : State) (a off : Nat) : List Byte × Bool :=
  let x := s.array a
  match x.tab0, x.tab1 with
  | some t, u => if t.addr = off then (t.bytes, true) else
      (match u with
       | some u => if u.addr = off then (u.bytes, true) else (s.tableAt a off, false)
       | none => (s.tableAt a off, false))
  | none, some u => if u.addr = off then (u.bytes, true) else (s.tableAt a off, false)
  | none, none => (s.tableAt a off, false)

/-- Uses a slot, or loads the table into the slot least recently used. -/
def State.useTable (s : State) (a off : Nat) (t : List Byte) : State :=
  let x := s.array a
  let in0 := match x.tab0 with
    | some u => u.addr == off
    | none => false
  let in1 := match x.tab1 with
    | some u => u.addr == off
    | none => false
  if in0 then s.mapArray a fun x => { x with tab0 := x.tab0, tabLast1 := false }
  else if in1 then s.mapArray a fun x => { x with tabLast1 := true }
  else
    let to1 := x.tab0.isSome && (x.tab1.isNone || !x.tabLast1)
    let v := BitVec.ofNat 64 (2 ^ 63 + off)
    let slot : TabSlot := { addr := off, bytes := t }
    if to1 then (s.wr .VEC_TAB_SLOT a 1 v).mapArray a fun x => { x with tab1 := some slot, tabLast1 := true }
    else (s.wr .VEC_TAB_SLOT a 0 v).mapArray a fun x => { x with tab0 := some slot, tabLast1 := false }

/-! ### Issue -/

/-- Windows of a VEC with the bytes each stream takes or gives (R137). -/
def Vec.windowUse (v : Vec) : List (Nat × Bool × Nat) :=
  (v.readers.filterMap fun t => if t.d.isWin then some (t.d.addr % 8, true, ceil32 t.winBytes) else none) ++
  (v.dests.filterMap fun t => if t.d.isWin then some (t.d.addr % 8, false, ceil32 (v.winNeed t)) else none)

/-- The advances of a VEC that has run: PACK's destination by the ctiles it wrote. -/
def Vec.advances (v : Vec) (packed : Nat) : List (Nat × Bool × Nat) :=
  if v.c.vop = vPack ∧ v.dst.d.isWin then
    v.windowUse.map fun u => if u.1 = v.dst.d.addr % 8 ∧ !u.2.1 then (u.1, u.2.1, packed) else u
  else v.windowUse

/-- Whether every window holds, or has room for, what the streams need (R168). -/
def Vec.windowsReady (v : Vec) (s : State) : Bool :=
  (v.readers.all fun t => !t.d.isWin || t.winBytes ≤ s.winOcc v.a (t.d.addr % 8)) &&
  (v.dests.all fun t => !t.d.isWin || ceil32 (v.winNeed t) ≤ s.winFree v.a (t.d.addr % 8))

/-- A VEC that waits in its stream for a tile-queue entry or for its windows (R149, R168). -/
def State.vecWait (s : State) (a : Nat) (backward : Bool) (f : Fetched) : State :=
  s.mapArray a fun x => x.setFetched backward (some { f with waiting := true })

/-- A VEC's rejection (R106, R168); one refused by a bank puts the vector engine into its own ERROR (R90). -/
def State.rejectVec (s : State) (a : Nat) (backward : Bool) (offset status : Nat) : State :=
  let s := if status = 5 then s.setFld VEC_STATUS.state a 0 4 else s
  ((s.setFld VEC_STATUS.last_err a 0 status).seqReject a backward status 0 offset).syncSeq a

/-- Carries a VEC out: the entry leaves the queue and its credit returns (R148), the table enters a slot (R156), the streams
are read and written in order (R471). It stays in execution until its end or its stop. A poisoned word anywhere in the entry's
m_rows × 128 bytes, or in a table that is loaded, stops it before its first element (R148, R169). -/
def State.vecBegin (s : State) (v : Vec) (backward : Bool) (offset : Nat) (e : Option TqEntry) (n : Nat) : State :=
  let a := v.a
  let s := s.issue a backward
  let loads := v.c.usesTable && !(s.tableFor a v.c.tabAddr).2
  let reads := (match e with
    | some q => [q.span]
    | none => []) ++ (if loads then [(v.c.tabAddr, v.table.length)] else [])
  let s := s.sramMeet a reads
  let bad := reads.any fun sp => s.sramPoison a sp.1 sp.2
  let s := match e with
    | none => s
    | some q => s.mapArray a fun x => { x with tq := x.tq.erase q }
  let s := if v.c.usesTable && !bad then s.useTable a v.c.tabAddr v.table else s
  let len := match e with
    | some q => q.rows * q.cols
    | none => n
  let s := s.setFld VEC_LEN.len a 0 len
  let s := s.setFld VEC_STATUS.vop a 0 v.c.vop
  let x := if bad then ({ s := s, stopped := true } : Run) else v.run s
  let s := x.s.record a x.record
  let s := s.bump VEC_PERF_BUSY.count a 0 x.busy
  let s := s.bump VEC_PERF_STALL_BANK.count a 0 x.slow
  -- what it waits for accumulator grants beside the tiles in the pipeline is not stated (R101, log 8)
  let acc := v.c.tq || !v.accSpans.isEmpty
  let (w, s) := s.fresh
  let s := s.bump VEC_PERF_STALL_ACC.count a 0 (if acc ∧ !(s.array a).jobs.isEmpty then w.toNat % 65536 else 0)
  let job : VecJob :=
    { backward := backward, vop := v.c.vop, offset := offset, advances := v.advances x.packed, banks := banksOf (v.scpSpans s), acc := acc, pass := x.pass
      poisonedAt := if x.stopped then some x.done else none, written := x.written }
  let s := (s.setFld VEC_STATUS.pass a 0 1).setFld VEC_STATUS.state a 0 (if reads.isEmpty then 2 else 1)
  (s.mapArray a fun y => { y with vec := some job }).syncSeq a

/-- The VEC in execution passes through LOAD and RUN, pass after pass, as `VEC_STATUS` shows them; one that met a poisoned word comes to
POISON (R170; the passage of time: log 11). -/
def State.vecProgress (s : State) (a : Nat) : State :=
  match (s.array a).vec with
  | none => s
  | some j =>
    let st := s.fld VEC_STATUS.state a
    if st = 1 ∧ (j.poisonedAt.isNone ∨ !j.written.isEmpty) then s.setFld VEC_STATUS.state a 0 2
    else if (st = 1 ∨ st = 2) ∧ s.fld VEC_STATUS.pass a < j.pass then s.setFld VEC_STATUS.pass a 0 (s.fld VEC_STATUS.pass a + 1)
    else if (st = 1 ∨ st = 2) ∧ j.poisonedAt.isSome then s.setFld VEC_STATUS.state a 0 3
    else s

/-- Whether an issued to_vec TILE of a class is still to write back (R149). -/
def Arr.tilePending (x : Arr) (backward : Bool) : Bool :=
  x.jobs.any fun j => j.toVec && j.backward == backward && j.kind != .stopped

/-- The checks of R168 that rest on the command's own bytes. -/
def State.vecEarly (s : State) (a : Nat) (backward : Bool) (c : VecCmd) : List (Nat × Bool) :=
  [(0x20, c.opBad), (0x21, c.descBad), (0x28, s.wrongClass a backward c.backward),
   (0x23, beyond 0x50000 c.blockSpans),
   (0x25, s.flag VEC_CFG.pacing a && (match vopRow c.vop with
     | some (_, _, p) => !p
     | none => false))]

/-- Whether the descriptor block, or the word that holds an indirect length, is poisoned (R78). -/
def State.vecBlockPoison (s : State) (a : Nat) (c : VecCmd) : Bool := (inScratchpad c.blockSpans).any fun sp => s.sramPoison a sp.1 sp.2

/-- The tile-queue entry a VEC takes (R148). -/
def State.vecEntry (s : State) (a : Nat) (c : VecCmd) : Option TqEntry := if c.tq then (s.array a).oldest c.backward else none

/-- Whether a VEC's length is known: its own, or a word of the scratchpad that can be read. -/
def State.vecMeasured (s : State) (a : Nat) (c : VecCmd) : Bool :=
  !c.lenInd || (!(beyond 0x50000 [(c.vecLen, 4)]) && !(s.sramPoison a c.vecLen 4))

/-- What a VEC touches whatever its descriptors say: the block, the word of its length, its table, and, where its length is known, the
plane of its row flags. -/
def State.vecFixed (s : State) (a : Nat) (c : VecCmd) : List (Nat × Nat) :=
  inScratchpad (c.blockSpans ++ (if c.usesTable then [(c.tabAddr, (s.tableFor a c.tabAddr).1.length)] else []) ++
    (if c.flagsEn && s.vecMeasured a c then [(c.flagAddr, (s.vecShape a c (s.vecEntry a c)).1)] else []))

/-- The command with its streams as they stand. -/
def State.vecAt (s : State) (a : Nat) (c : VecCmd) : Vec := s.resolve a c (s.vecEntry a c) (s.tableFor a c.tabAddr).1

/-- Whether a VEC's descriptor block and length can be read. -/
def State.vecReadable (s : State) (a : Nat) (c : VecCmd) : Bool := !(beyond 0x50000 c.blockSpans) && !(s.vecBlockPoison a c)

/-- Everything a VEC touches in the scratchpad as far as its command and descriptors tell. -/
def State.vecSpans (s : State) (a : Nat) (c : VecCmd) : List (Nat × Nat) :=
  if s.vecReadable a c then inScratchpad ((s.vecAt a c).scpSpans s) else s.vecFixed a c

/-- Every check of a VEC (R149, R168): with a poisoned block SRAM_UE stands for all that rest on its bytes. -/
def State.vecChecks (s : State) (a : Nat) (backward : Bool) (c : VecCmd) : List (Nat × Bool) :=
  s.vecEarly a backward c ++
  [(0x24, c.tq && (s.vecEntry a c).isNone && !((s.array a).tilePending c.backward))] ++
  (if s.vecReadable a c then (s.vecAt a c).checks s (s.vecLength a c)
   else [(5, s.refuses a ownVec (s.vecFixed a c)), (6, s.vecBlockPoison a c),
     (0x22, s.vecMeasured a c && (s.vecAt a c).shapeBad (s.vecLength a c))])

/-- Whether a VEC that writes the accumulator buffer waits for an issued TILE that is still to write back: accumulator writes take
effect in issue order (R80). A VEC that takes a tile from a full queue does not wait for the write-back that this queue holds, since only
it frees the queue (DEDUCED, log 45). -/
def State.accOrderHolds (s : State) (v : Vec) : Bool :=
  let x := s.array v.a
  let writes := v.dests.any fun t => t.d.space == 1 && !(t.rowSpans true).isEmpty
  let stuck := v.c.tq && x.tq.length ≥ 8 && !(s.flag FBI_CFG.enable v.a) && x.jobs.head?.any (·.toVec)
  writes && !stuck && x.jobs.any fun j => j.kind != .stopped

/-- Whether a VEC is held as the incoming owner of a bank it touches (R92). -/
def State.vecHeld (s : State) (a : Nat) (c : VecCmd) : Bool :=
  s.holdsBack a ownVec (s.vecSpans a c) &&
    (firstFailure (s.vecEarly a false c |>.filter (fun x => x.1 != 0x28))).isNone && !(s.refuses a ownVec (s.vecSpans a c))

/-- The VEC at a stream's head with an admitted operation code: rejected with the lowest code, held at the head for a handover (R92) or
for an accumulator region (R80), put to wait for a tile or its windows, or begun when the engine is free. `resume` lets only a VEC that
already waits go on. -/
def State.vecIssue (s : State) (a : Nat) (backward : Bool) (want : Nat → Bool) (resume : Bool) : State :=
  match s.head a backward 2 with
  | none => s
  | some f =>
    let c := VecCmd.parse f.bytes
    if !(want c.vop) ∨ (resume ∧ !f.waiting) ∨ s.vecHeld a c then s else
    let s := s.sramMeet a (inScratchpad c.blockSpans)
    match firstFailure (s.vecChecks a backward c) with
    | some code => (s.noteRefusal a ownVec (s.vecSpans a c) code).rejectVec a backward f.offset code
    | none =>
      let e := s.vecEntry a c
      let v := s.vecAt a c
      if c.tq ∧ e.isNone then s.vecWait a backward f
      else if !(v.windowsReady s) then s.vecWait a backward f
      else if (s.array a).vec.isSome ∨ s.accOrderHolds v then s
      else s.vecBegin v backward f.offset e (s.vecLength a c)

/-- The VEC in execution ends its last write: windows advance (R137), and a refused advance ends it with WINDOW_REFUSED
(R97). -/
def State.vecEnd (s : State) (a : Nat) : State :=
  match (s.array a).vec with
  | none => s
  | some j =>
    if j.poisonedAt.isSome then s else
    let s := s.mapArray a fun x => { x with vec := none }
    let refused := j.advances.any fun w => !(s.winMay a w.1 w.2.1 w.2.2)
    let s := s.bump VEC_PERF_CMDS.count a 0 1
    let s := s.setFld VEC_STATUS.pass a 0 j.pass
    let s := if s.fld VEC_STATUS.state a = 4 then s else s.setFld VEC_STATUS.state a 0 0
    let s := if refused then
        let s := j.advances.foldl (fun s w => if s.winMay a w.1 w.2.1 w.2.2 then s else (s.winAdvance a w.1 w.2.1 w.2.2).1) s
        (s.setFld VEC_STATUS.last_err a 0 9).seqFail a 9 0 j.offset
      else j.advances.foldl (fun s w => (s.winAdvance a w.1 w.2.1 w.2.2).1) s
    s.pollHolds a

/-- A VEC that read a poisoned word: every destination word it wrote becomes poisoned, and both engines enter ERROR (R169). -/
def State.vecPoisonStop (s : State) (a : Nat) : State :=
  match (s.array a).vec with
  | none => s
  | some j =>
    match j.poisonedAt with
    | none => s
    | some done =>
      let s := j.written.foldl State.setPoison s
      let s := s.mapArray a fun x => { x with vec := none }
      let s := s.setFld VEC_STATUS.state a 0 4
      let s := s.setFld VEC_STATUS.last_err a 0 6
      let s := s.wr .VEC_ERR_INFO a 0 (BitVec.ofNat 64 (6 * 2 ^ 56 + j.vop * 2 ^ 48 + done % 2 ^ 21))
      let s := s.raise 3 4 a (s.rd .VEC_ERR_INFO a)
      (s.seqFail a 6 0 j.offset).syncSeq a

/-- A write of 1 to tab_flush (R156). -/
def State.tabFlush (s : State) (a : Nat) : State :=
  let s := (s.setFld VEC_TAB_SLOT.valid a 0 0).setFld VEC_TAB_SLOT.valid a 1 0
  s.mapArray a fun x => { x with tab0 := none, tab1 := none }

/-- A write of `VEC_CFG` (R151). -/
def State.vecConfigure (s : State) (a : Nat) (v : Word) : State :=
  if s.fld VEC_STATUS.state a ≠ 0 ∨ (s.array a).vec.isSome ∨ !(s.array a).tq.isEmpty then s
  else s.wr .VEC_CFG a 0 (fieldWrite .VEC_CFG (s.rd .VEC_CFG a) v)

/-- A write of `FBI_CFG` (R164, R170): only while IDLE or HALTED, and not with zero weights or clashing windows. -/
def State.fbiConfigure (s : State) (a : Nat) (v : Word) : State :=
  let st := s.fld ARR_STATUS.seq_state a
  let b := bits v 58 56
  if st ≠ seqIdle ∧ st ≠ seqHalted then s
  else if fbiEmpty v || (bit v 63 && (b == s.fld ARR_SEQ_CFG.cmd_window a || b == s.fld ARR_SEQ_CFG.trailer_window a)) then s
  else s.wr .FBI_CFG a 0 (fieldWrite .FBI_CFG (s.rd .FBI_CFG a) v)

end Sys2Proof.Machine
end

