-- ==== Sys2Proof/Machine/Access.lean ====
section
/-! DEFINITION. Register accesses: which reach their register (R11, R28, R36, R37, R372, R389), what a read returns (R12, R443), and
what a write does (R12, R13 and the rule of each register's own table). -/

namespace Sys2Proof.Machine

/-! ### Whether an access is performed -/

/-- The compute dies that hold a register's unit, where they do (R37, R247): a register of the four temper units together stands on
both. -/
def State.regDies (s : State) (r : Reg) : List Nat :=
  let b := r.kind.shape.base
  if 0x0F8000000000 ≤ b then [r.i]
  else if 0x0F4000000000 ≤ b then [s.part.dieOf r.i]
  else match r.kind with
    | .HBM_STK_INFO | .HBM_STK_TEMP | .HBM_ECC_CNT | .HBM_ECC_LOG | .HBM_SCRUB_STATUS | .HBM_REPAIR_STATUS | .HBM_TEST_CTRL | .HBM_TEST_ADDR
    | .HBM_TEST_DATA | .HBM_TEST_STATUS | .HBM_PERF_RD_BYTES | .HBM_PERF_WR_BYTES | .HBM_PERF_CROSS_DIE | .HBM_PERF_RMW
    | .HBM_PERF_REFRESH | .HBM_PERF_SCRUB_BYTES => [s.part.positions.getD r.i 0 / 6]
    | .TMP_UNIT_STATUS | .TMP_STATUS | .TMP_EXC_CNT => [r.i / 2]
    | .TMP_SHARD_STATE => match s.shardEntry r.i with
      | some e => [e.unit / 2]
      | none => [0, 1]
    | _ => if b / 0x100000 = 0xF00006 then [0, 1] else []

/-- Registers of a unit that the part lacks are not defined (R2 to R4, R40). -/
def State.regThere (s : State) (r : Reg) : Bool :=
  let b := r.kind.shape.base
  if r.kind = .DIE_SPARE_MAP then r.j < s.part.perDie
  else if 0x0F8000000000 ≤ b then true
  else if 0x0F4000000000 ≤ b then r.i < s.part.arrays
  else if 0x0F0000700000 ≤ b ∧ b < 0x0F00007C0000 ∧ r.kind.shape.s1 = 0x10000 then r.i < s.part.stacks
  else true

/-- Sub-blocks that answer during a pour: identity, host port, Hallmark and Touchstone, unit state table (R389). -/
def RegKind.duringPour (k : RegKind) : Bool :=
  let b := k.shape.base / 0x100000
  b == 0xF00000 || b == 0xF00002 || b == 0xF00008 || b == 0xF0000A

/-- The unit of the state table that a register belongs to (R369): an array's, a link's, a stack's or a temper unit's own block. -/
def Reg.owner (r : Reg) : Option UnitId :=
  let x := r.kind.shape
  if 0x0F4000000000 ≤ x.base ∧ x.base < 0x0F8000000000 then some ⟨.UST_ARRAY, r.i⟩
  else if x.base / 0x100000 = 0xF00003 ∧ x.s1 = 0x10000 then some ⟨.UST_LINK, r.i⟩
  else if 0x0F0000700000 ≤ x.base ∧ x.base < 0x0F00007C0000 ∧ x.s1 = 0x10000 then some ⟨.UST_HBM, r.i⟩
  else if 0x0F00007C0000 ≤ x.base ∧ x.base < 0x0F0000800000 ∧ x.s1 = 0x1000 then some ⟨.UST_BITTERN, r.i⟩
  else match r.kind with
    | .TMP_UNIT_STATUS | .TMP_STATUS | .TMP_EXC_CNT => some ⟨.UST_TEMPER, r.i⟩
    | _ => none

/-- A unit that is FENCED or RETIRED refuses an access to its registers unless it comes from MGMT (R372). -/
def State.ownerOpen (s : State) (mgmt : Bool) (r : Reg) : Bool :=
  match r.owner with
  | some u => mgmt || !(s.isolated u)
  | none => true

/-- Whether an access reaches a register. -/
def State.regOpen (s : State) (mgmt : Bool) (r : Reg) : Bool :=
  s.regThere r &&
  s.dieOpen (s.regDies r) &&
  (!(0x0F4000000000 ≤ r.kind.shape.base && r.kind.shape.base < 0x0F8000000000) || s.arrayAnswers r.i mgmt) &&
  s.ownerOpen mgmt r &&
  (!(s.flag CST_STATE.pouring) || r.kind.duringPour)

/-- The register that an access of one aligned 64-bit word reaches (R11). -/
def State.regAt (s : State) (mgmt : Bool) (addr : Nat) : Option Reg :=
  if addr % 8 ≠ 0 then none else
  match Reg.ofAddr addr with
  | some r => if s.regOpen mgmt r then some r else none
  | none => none

/-! ### Reads -/

/-- Physical arrays of a die that are powered off: retired, their work ended and their path no longer ACTIVE (R372). -/
def State.arraysOff (s : State) (die : Nat) : Nat :=
  (s.hmk.spare.retired.filter fun x => x.1 == die &&
    match (s.part.idsOf die).find? fun id => (s.binding id).1 == some x.2 with
    | some id => s.pathState ⟨.UST_ARRAY, id⟩ != tsActive && !(s.workInFlight ⟨.UST_ARRAY, id⟩)
    | none => true).length

/-- Whether a unit is powered off: RETIRED, its work ended and its path no longer ACTIVE (R372). -/
def State.poweredOff (s : State) (u : UnitId) : Bool :=
  s.tableState u == tsRetired && s.pathState u != tsActive && !(s.workInFlight u)

/-- `FAB_LINK_STATUS` as it reads (R351): FENCED where a link that is up is fenced, and DOWN without lanes where it is powered off
(DEDUCED, log 27). -/
def State.linkWord (s : State) (l : Nat) (w : Word) : Word :=
  let u : UnitId := ⟨.UST_LINK, l⟩
  if s.poweredOff u then setBits (setBits w 63 60 lnkDown) 59 52 0
  else if s.tableState u = tsFenced ∧ s.linkUp l then setBits w 63 60 lnkFenced
  else w

/-- A register's value as it stands; some are computed from the state behind them. -/
def State.regValue (s : State) (r : Reg) : Word :=
  let w := s.rd r.kind r.i r.j
  match r.kind with
  | .ARR_WIN_OCC => BitVec.ofNat 64 (s.winOcc r.i r.j)
  | .SCP_REPAIR => s.repairWord r.i r.j
  | .ARR_ID =>
    let ph := (s.binding r.i).1.getD 0
    BitVec.ofNat 64 (r.i * 2 ^ 48 + s.part.dieOf r.i * 2 ^ 16 + ph / 32 * 2 ^ 8 + ph % 32)
  | .DIE_SPARE_MAP =>
    let id := r.i * s.part.perDie + r.j
    match s.binding id with
    | (some ph, o) => BitVec.ofNat 64 (2 ^ 63 + id * 2 ^ 32 + ph / 32 * 2 ^ 16 + ph % 32 * 2 ^ 8 + o)
    | (none, o) => BitVec.ofNat 64 (id * 2 ^ 32 + o)
  | .DIE_INFO => setBits (setBits w 23 12 (s.sparesFree r.i)) 11 1 (s.unboundCount r.i)
  | .DIE_PWR_STATUS => setBits w 35 24 (s.arraysOff r.i)
  | .HMK_NAND => s.nandWord
  | .FAB_LINK_STATUS => s.linkWord r.i w
  | .HBM_STK_INFO => if s.poweredOff ⟨.UST_HBM, r.i⟩ then setBits w 63 60 0 else w
  | .FAB_REMAP | .FAB_SLICE_MAP => match s.fab.staged.lookup r.addr with
    -- the last value written, though its effect waits for the epoch advance (R12, R345)
    | some v => fieldWrite r.kind w v
    | none => w
  | _ => w

/-- The state that a snapshot shows (R443). -/
def State.latchedView (s : State) (l : Latch) : State :=
  { s with regs := l.regs, spare := l.spare, arr := l.arr, salt := l.salt, hmk := { s.hmk with spare := l.record, scpRepair := l.repairs } }

/-- What a requester reads: the snapshot's value of a latched register where one is held and its view bit is set, else the live one; a
domain whose latch edge is still to come shows its live value (R443, R444; log 59). -/
def State.viewValue (s : State) (view : Bool) (r : Reg) : Word :=
  match s.obs.snapshot.lookup r.kind.domain with
  | some l => if view && r.kind.latched then (s.latchedView l).regValue r else s.regValue r
  | none => s.regValue r

/-- Codes of the salter threads: 0xE00 + 8c + t for thread t of core c (R320). -/
def isSalter (requester : Nat) : Bool := 0xE00 ≤ requester && requester < 0xF00

/-- Whether a requester sees the snapshot (R443). -/
def State.viewOf (s : State) (mgmt : Bool) (requester : Nat) : Bool :=
  if mgmt then s.flag OBS_QUENCH_CFG.view_mgmt else isSalter requester && s.flag OBS_QUENCH_CFG.view_salter

/-! ### Writes -/

/-- A field keeps its old value where the written one is not allowed. -/
def keepField (old new : Word) (f : Fld) (ok : Nat → Bool) : Word :=
  if ok (bits new f.hi f.lo) then new else setBits new f.hi f.lo (bits old f.hi f.lo)

/-- Whether any session is open (R376). -/
def State.sessionOpen (s : State) : Bool := !s.host.sessions.isEmpty

/-- A register write by its fields' access codes, with the values that the register's table rules out (R376, R308, R351, R453). -/
def State.plainWrite (s : State) (r : Reg) (v : Word) : State :=
  let old := s.rd r.kind r.i r.j
  let new := fieldWrite r.kind old v
  let new := match r.kind with
    | .HP_NET_CFG => keepField old new HP_NET_CFG.mtu fun n => 1500 ≤ n && n ≤ 9000
    | .HP_UDP_CFG => if s.sessionOpen then old else new
    | .HP_RETX_CFG => keepField old (keepField old new HP_RETX_CFG.timeout fun n => n ≥ 4) HP_RETX_CFG.retries fun n => n ≥ 1
    | .HP_MBX_CFG => keepField old new HP_MBX_CFG.base fun n => !s.sessionOpen && n % 0x1000000 == 0
    | .HP_PEER =>
      if s.host.sessions.any fun x => x.peer == r.i then old else BitVec.ofNat 64 (v.toNat &&& r.defined)
    | .FENCE_TIMEOUT => keepField old new FENCE_TIMEOUT.timeout fun n => n ≥ 1
    | .FAB_RETX_CFG => keepField old (keepField old new FAB_RETX_CFG.timeout fun n => n ≥ 4) FAB_RETX_CFG.retries fun n => n ≥ 1
    | .FAB_HOT_CFG => keepField old new FAB_HOT_CFG.window_log fun n => 10 ≤ n && n ≤ 30
    | .MEM_SCRUB_CFG =>
      let ok := fun (f : Fld) => 1 ≤ bits new f.hi f.lo && bits new f.hi f.lo ≤ 168
      if ok MEM_SCRUB_CFG.hbm_hours && ok MEM_SCRUB_CFG.bit_hours then new else old
    | .OBS_BG_CFG => keepField old new OBS_BG_CFG.scp_period fun n => 1 ≤ n && n ≤ 60000
    | _ => new
  s.wr r.kind r.i r.j new

/-- Whether a register lies in an array's block (R36). -/
def RegKind.ofArray (k : RegKind) : Bool := 0x0F4000000000 ≤ k.shape.base && k.shape.base < 0x0F8000000000

/-- What a write does at its register. -/
def State.regWrite (s : State) (r : Reg) (v : Word) : State :=
  let arr := fun (f : State → State) => s.onArray r.i f
  match r.kind with
  | .CLK_CTRL => s.clockTest (bit v 0)
  | .FAB_PHYS_ID => s.physIdWrite v
  | .FAB_EPOCH => s.epochWrite v
  | .FAB_REMAP | .FAB_SLICE_MAP => s.stage' r.addr v
  | .SALT_CTRL => (s.saltRun r.i (bits v 7 0)).saltHalt r.i (bits v 15 8)
  | .RAKE_HALF_ARM => s.armHalf v
  | .QM_RELEASE => s.qmRelease v
  | .RES_STEP => s.resStep
  | .SLU_SUBMIT => s.sluSubmit v
  | .SLU_CANCEL => s.cancelEpoch (bits v 15 0)
  | .SLU_ARM => s.rearmEpoch (bits v 15 0)
  | .RAKE_STREAM_CFG => s.streamConfigure r.i v
  | .RAKE_STREAM_SUBMIT => s.rakeSubmit r.i v
  | .TMP_SEG_ARRIVE => (s.segArrive v).flushReady
  | .TMP_DERIVE => (s.deriveShard v).flushReady
  | .HBM_TEST_CTRL => s.testWrite r.i v
  | .STG_STEP_ARM => s.stepArm v
  | .STG_ABORT => s.softAbort (bits v 7 0)
  | .STG_CLEAR => s.stageClear v
  | .STK_REQ => s.stkReq v
  | .STK_FREE => s.stkFree v
  | .STG_ARRIVE => s.stgArrive v
  | .STG_RELEASE => s.stgRelease v
  | .STK_HWM => if bit v 63 then s.rearmHwm r.i else s
  | .HMK_CMD => s.hallmarkStart (bits v 63 56)
  | .NDC_ADD => s.ndcAdd v
  | .OBS_QUENCH_CTRL => s.quenchControl v
  | .UST_ARRAY | .UST_LINK | .UST_HBM | .UST_BITTERN | .UST_TEMPER => s.unitRequest ⟨r.kind, r.i⟩ (bits v 55 52)
  | .ARR_SEQ_CTRL => arr fun s => s.seqControl r.i v
  | .ARR_SEQ_CFG => arr fun s => s.seqConfigure r.i v
  | .SCP_BANK_OWN => arr fun s => s.ownWrite r.i r.j v
  | .SCP_BANK_CFG => arr fun s => s.swizzleWrite r.i r.j (bit v 0)
  | .ARR_WIN_CFG => arr fun s => s.winConfigure r.i r.j v
  | .ARR_WIN_HEAD => arr fun s => s.advanceWrite r.i r.j false (bits v 50 32)
  | .ARR_WIN_TAIL => arr fun s => s.advanceWrite r.i r.j true (bits v 50 32)
  | .MARCH_CTRL => arr fun s => s.marchWrite r.i v
  | .SPM_CFG => arr fun s => s.spmConfigure r.i v
  | .VEC_CFG => arr fun s => s.vecConfigure r.i v
  | .VEC_CTRL => arr fun s => if bit v 0 then s.tabFlush r.i else s
  | .FBI_CFG => arr fun s => s.fbiConfigure r.i v
  | k => if k.ofArray then arr fun s => s.plainWrite r v else s.plainWrite r v

/-- A register write by a requester (R11, R36): the completion with no data, and the effect where it is performed. -/
def State.accessWrite (s : State) (mgmt : Bool) (addr : Nat) (v : Word) : Completion × State :=
  match s.regAt mgmt addr with
  | some r => (.ok, s.regWrite r v)
  | none => (.addrErr, s)

/-- A register read by a requester. -/
def State.accessRead (s : State) (mgmt : Bool) (requester addr : Nat) : Completion × Word :=
  match s.regAt mgmt addr with
  | some r => (.ok, s.viewValue (s.viewOf mgmt requester) r)
  | none => (.addrErr, 0)

/-- A write to a register of a width in bytes. -/
def State.registerWrite (s : State) (addr width : Nat) (v : Word) : State :=
  if width ≠ 8 then { s with compl := (.addrErr, []) } else
  let (c, s) := s.accessWrite false addr v
  { s with compl := (c, []) }

end Sys2Proof.Machine
end

