-- ==== Sys2Proof/Machine/FabricIn.lean ====
section
/-! DEFINITION. Packets that reach the package (R317 to R324, R336, R341, R342), messages and broadcasts (R349), and the injection of the
package's own requests (R322, R344). -/

namespace Sys2Proof.Machine

/-! ### Messages and broadcasts -/

/-- A message reaches the port its address names (log 14, 16, 17); one for no port is dropped. -/
def State.deliver (s : State) (port : Nat) (bs : List Byte) : State :=
  let kind := byteAt bs 0
  if port = rakePort then
    (if kind = 1 then s.groupNotice bs else if kind = 2 then s.endNotice bs else if kind = 4 then s.releaseMessage bs
     else if kind = 5 then s.rowArrival bs else s)
  else if port = stagePort then
    (if kind = msgCredit then s.creditMessage bs else if kind = msgLocalDone then s.localDoneMessage bs
     else if kind = msgAbort then s.abortMessage bs else if kind = msgCommit then s.commitMessage bs
     else if kind = msgCleared then s.clearedMessage bs else if kind = msgReady then s.readyMessage bs else s)
  else if (List.range 4).any fun u => temperPort u == port then
    (if kind = 0x60 then s.normPartial bs else if kind = 0x61 then s.ratioPartial bs else if kind = 0x62 then s.stagedMessage bs
     else if kind = 0x63 then s.unchangedMessage bs else if kind = 0x64 then s.assayMessage bs else s).flushReady
  else if port = routerPort ∧ kind = 0x70 then s.noteOccupancy (num bs 2 2) ((List.range 4).map fun j => num bs (4 + 2 * j) 2)
  else s

/-- The groups of a field that hold a member of the slice. -/
def State.sliceGroups (s : State) (f : Nat) : List Nat := ((s.sliceIds.filter fun x => pkgField x == f).map pkgGroup).eraseDups

/-- Where a package sends a broadcast on inside its group: the members that belong to the slice. -/
def State.groupCopies (s : State) : List Nat :=
  let x := s.physId
  s.sliceIds.filter fun y => y != x && pkgField y == pkgField x && pkgGroup y == pkgGroup x

/-- Where a package sends it for the other groups of its field: the package of the slice that the group's first port leads to; where a port
leads to none of the slice, the group's first package of the slice (log 21). -/
def State.fieldCopies (s : State) : List Nat :=
  let x := s.physId
  ((s.sliceGroups (pkgField x)).filter fun g => g != pkgGroup x).filterMap fun g =>
    let lands := (globalPorts s.groups (pkgGroup x) g).map fun k => pkgId (pkgField x) g (k.2 / 4)
    let mine := s.sliceIds.filter fun y => pkgField y == pkgField x && pkgGroup y == g
    ((lands.filter fun y => mine.contains y) ++ mine).head?

/-- The source's copy for each other field of the slice goes to that field's first package of the slice. -/
def State.farCopies (s : State) : List Nat :=
  let x := s.physId
  let fields := ((s.sliceIds.map pkgField).filter fun f => f != pkgField x).eraseDups
  fields.filterMap fun f => (s.sliceIds.filter fun y => pkgField y == f).head?

def State.sendCopies (s : State) (ids : List Nat) (bs : List Byte) : State :=
  ids.foldl (fun s d => s.send { op := 0x12, dst := d, requester := 0, addr := 0, payload := bs, phys := true }) s

/-- A broadcast's payload: the unit in byte 0, its source in bytes 2 and 3, its id in bytes 4 to 7 (log 21). -/
def bcastOrigin (bs : List Byte) : Nat := num bs 2 2
def bcastId (bs : List Byte) : Nat := num bs 4 4

/-- A broadcast reaches the package: once, to the unit named, and on to the packages this one passes it to (R349, R441). -/
def State.takeBroadcast (s : State) (src : Nat) (bs : List Byte) : State :=
  let key := (bcastOrigin bs, bcastId bs)
  if s.fab.seen.contains key then s else
  let s := { s with fab := { s.fab with seen := s.fab.seen ++ [key] } }
  let x := s.physId
  let s := if pkgField src ≠ pkgField x then s.sendCopies (s.groupCopies ++ s.fieldCopies) bs
    else if pkgGroup src ≠ pkgGroup x then s.sendCopies s.groupCopies bs else s
  if byteAt bs 0 = 0x51 ∧ s.flag OBS_QUENCH_CFG.bcast_en then s.quench srcBcast 0 else s

/-- The package's own broadcast takes an id and goes out (R349). -/
def State.ownBroadcast (s : State) (payload : List Byte) : State :=
  let id := s.fab.nextBcast
  let bs := payload.take 2 ++ leBytes 2 s.physId ++ leBytes 4 id ++ payload.drop 8
  let s := { s with fab := { s.fab with nextBcast := (id + 1) % 2 ^ 32, seen := s.fab.seen ++ [(s.physId, id)] } }
  s.sendCopies (s.groupCopies ++ s.fieldCopies ++ s.farCopies) bs

/-! ### Requests at their destination -/

/-- Whether a source belongs to the slice (R341). -/
def State.inSlice (s : State) (src : Nat) : Bool := bit (s.rd .FAB_SLICE_MAP (src / 64)) (src % 64)

/-- The refusal of a packet from outside the slice is counted, and an event at most once in 2^20 hub cycles. -/
def State.countRefusal (s : State) (p : Packet) : State :=
  let s := s.bump FAB_PERF_SLICE_REFUSED.count 0 0 1
  let due : Bool := match s.fab.refusedAt with
    | some t => Nat.ble (t + 2 ^ 20) s.cycle
    | none => true
  if due then ({ s with fab := { s.fab with refusedAt := some s.cycle } }).fabEvent 4 4 p.link p.src p.seq else s

/-- The byte offset of the one aligned 8-byte word that a store's mask names, if it does (R319). -/
def oneWord (p : Packet) : Option Nat := (List.range 16).find? fun k => storeMask p == 255 * 2 ^ (8 * k)

/-- What a register access answers: status and data. -/
def State.registerRequest (s : State) (p : Packet) : State × Nat × List (Byte × Bool) :=
  if p.op = 1 ∧ p.addr % 8 = 0 then
    let (c, v) := s.accessRead false p.requester p.addr
    (s, statusCode c, ((leBytes 8 v.toNat ++ List.replicate 120 0#8).map fun b => (b, false)))
  else if p.op = 2 then
    match oneWord p with
    | some k =>
      let (c, s) := s.accessWrite false (lineOf p.addr + 8 * k) (BitVec.ofNat 64 (num p.payload (8 * k) 8))
      (s, statusCode c, [])
    | none => (s, 1, [])
  else (s, 1, [])

/-- A request that does not go through the combining table: its status and data. None: it does. -/
def State.directRequest (s : State) (p : Packet) (fromSlice : Bool) : Option (State × Nat × List (Byte × Bool)) :=
  -- during a pour every REQ gets ADDR_ERR, the slice map notwithstanding (R389)
  if s.flag CST_STATE.pouring then some (s, 1, [])
  else if !fromSlice then some (s, 4, [])
  else if isRegister p.addr then some (s.registerRequest p)
  else if (p.op = 4 ∨ p.op = 5) ∧ p.addr % 8 ≠ 0 then some (s, 1, [])
  else none

/-- The first request of an inbound flow's queue is performed, if its turn has come: accesses that do not enter the table wait until
the flow's earlier requests are applied (R320). -/
def State.performHead (s : State) (f : InFlow) (p : Packet) (rest : List Packet) : Option State :=
  let src := sourceOf p
  match s.directRequest p (s.inSlice p.src) with
  | some (s, st, data) =>
    if !f.inTable.isEmpty then none else
    let s := s.setInflow { f with queue := rest, inTable := [p.seq] }
    some (s.commitRequest src p.op p.addr st data [])
  | none =>
    if !(s.tableTakes p src) then none else
    some ((s.setInflow { f with queue := rest, inTable := f.inTable ++ [p.seq] }).enterTable p src)

/-- Whether a request waits for an entry of the combining table (R336). -/
def State.waitsForEntry (s : State) (p : Packet) : Bool :=
  (s.directRequest p (s.inSlice p.src)).isNone && !(s.tableTakes p (sourceOf p))

/-- An RSP or CTL packet is handed to its requester or unit (R320). -/
def State.takeOther (s : State) (p : Packet) : State :=
  if opClass p.op = clsRsp then s.takeResponse p
  else if p.op = 0x11 then s.deliver p.addr p.payload
  else if p.op = 0x12 then s.takeBroadcast p.src p.payload
  else s.takeNotice p.src p.payload

/-- What an inbound flow has taken in order is performed as far as it can be. -/
def State.serveFlow (s : State) (src cls : Nat) : Nat → State
  | 0 => s
  | n + 1 =>
    match s.inflow src cls with
    | none => s
    | some f =>
      match f.queue with
      | [] => s
      | p :: rest =>
        if cls = clsReq then
          -- an arrival that waits for the table holds its port: what came by it for any line waits behind (R336)
          if s.fab.portWaits.any fun w => w.1 == p.link && w.2 != src then s else
          match s.performHead f p rest with
          | some s => ({ s with fab := { s.fab with portWaits := s.fab.portWaits.filter (· != (p.link, src)) } }).serveFlow src cls n
          | none =>
            if s.waitsForEntry p && !(s.fab.portWaits.contains (p.link, src)) then
              { s with fab := { s.fab with portWaits := s.fab.portWaits ++ [(p.link, src)] } } else s
        else
          let s := (s.setInflow { f with queue := rest }).takeOther p
          let s := s.sendAck src cls p.seq
          s.serveFlow src cls n

/-- Every inbound flow that holds packets is served; a second time for those that waited behind a port held until then. -/
def State.serveAll (s : State) : State :=
  let pass := fun (s : State) => (s.fab.inflows.map fun f => (f.src, f.cls, f.queue.length)).foldl (fun s x => s.serveFlow x.1 x.2.1 x.2.2) s
  pass (pass s)

/-! ### Sequencing (R323, R324) -/

/-- Packets of the window that follow the expected one, taken in order. -/
def takeHeld (f : InFlow) : Nat → InFlow
  | 0 => f
  | n + 1 =>
    match f.held.find? fun p => p.seq == f.expected with
    | some p => takeHeld { f with expected := seqNext f.expected, held := f.held.filter (fun q => q.seq != p.seq), queue := f.queue ++ [p] } n
    | none => f

/-- Packets in the reorder window. -/
def State.windowUse (s : State) : Nat := (s.fab.inflows.map fun f => f.held.length).sum

/-- Generations count modulo 16: whether one follows another, at most half the ring away (R323; log 21). -/
def genAfter (a b : Nat) : Bool := 0 < (a + 16 - b % 16) % 16 && (a + 16 - b % 16) % 16 < 8

/-- A duplicate is dropped and answered with an ACK, behind the STATUS of a request that failed (R321, R323). -/
def State.answerDuplicate (s : State) (f : InFlow) (p : Packet) : State :=
  let s := s.bump FAB_PERF_DUP.count 0 0 1
  let s := match f.failed.find? fun x => x.1 == p.seq with
    | some x => s.refuse { package := f.src, requester := x.2.1, seq := p.seq, gen := f.gen } x.2.2.1 x.2.2.2
    | none => s
  s.sendAck f.src f.cls f.committed

/-- A sequenced packet arrives. An open packet of a later generation starts its flow anew; packets of older generations are dropped. -/
def State.sequence (s : State) (p : Packet) : State :=
  let cls := opClass p.op
  let fresh : InFlow := { src := p.src, cls := cls, gen := p.gen, expected := p.seq }
  let f := match s.inflow p.src cls with
    | some f => if f.gen = p.gen then some f else if p.opening && genAfter p.gen f.gen then some fresh else none
    | none => if p.opening then some fresh else none
  match f with
  | none => s
  | some f =>
    let ahead := seqAhead p.seq f.expected
    if ahead ≥ 2 ^ 31 then s.answerDuplicate f p
    else if ahead = 0 then
      let f := takeHeld { f with expected := seqNext f.expected, queue := f.queue ++ [p] } 64
      (s.setInflow f).serveFlow p.src cls f.queue.length
    else if f.held.any fun q => q.seq == p.seq then s.answerDuplicate f p
    else if ahead < 64 ∧ s.windowUse < 64 then
      (s.setInflow { f with held := f.held ++ [p] }).bump FAB_PERF_REORDER_HELD.count 0 0 1
    else s.bump FAB_PERF_REORDER_DROP.count 0 0 1

/-- A packet for this package (R320, R321, R341). -/
def State.takePacket (s : State) (p : Packet) : State :=
  let inside := s.inSlice p.src || p.op == 0x13
  -- during a pour a REQ is answered ADDR_ERR, wherever it comes from (R389)
  let s := if inside || (s.flag CST_STATE.pouring && opClass p.op == clsReq) then s else s.countRefusal p
  if !inside ∧ opClass p.op ≠ clsReq then s
  else if p.op = 0x10 then s.ackArrival p.src p.func p.seq
  else if p.op = 0x0A then s.statusArrival p
  else s.sequence p

/-- A packet at the package's router: dropped when it breaks the header, forwarded when it is for another package (R318, R342). -/
def State.route (s : State) (p : Packet) : State :=
  if !(packetGood p) then s.bump FAB_PERF_BAD_PKT.count 0 0 1
  else if p.dst ≠ s.physId then s.forward p
  else s.takePacket p

/-- What a link counts of a packet that came by it: the bytes received and the flits its error correction corrected (R317, R352). -/
def State.countArrival (s : State) (p : Packet) : State :=
  (s.bump FAB_LINK_PERF_RX_BYTES.count p.link 0 (packetSize p)).bump FAB_LINK_PERF_FEC.count p.link 0 p.corrected

/-- A packet of an operation arrives on a link in service. -/
def State.arrive (s : State) (op : Nat) (p : Packet) : State :=
  let p := { p with op := op }
  if !(s.linkUp p.link) then s
  else (s.countArrival p).route p

/-! ### Injection (R322, R344) -/

/-- The physical package a request goes to; 0xFFFF names this one (R17, R344). -/
def State.target (s : State) (r : Request) : Nat :=
  if r.phys then r.dst else if r.dst = 0xFFFF then s.physId else s.physical r.dst

def requestPacket (r : Request) (dst : Nat) : Packet :=
  { op := r.op, dst := dst, src := 0, requester := r.requester, func := r.func, addr := r.addr, mask := r.mask, full := r.full, payload := r.payload }

/-- The completion that a gate answers with. -/
def Gate.completion : Gate → Completion
  | .refused c => c
  | _ => .ok

/-- A block write of the host port (R294, R363). -/
def State.performBlock (s : State) (r : Request) : Option State :=
  let src : Source := { package := s.physId, requester := r.requester, seq := r.stream, backward := r.backward }
  if s.flag CST_STATE.pouring then some (s.commitRequest src r.op r.addr 1 [] []) else
  let (s, g) := s.memWrite r.addr (r.payload.map some) ownExt 2
  some (s.commitRequest src r.op r.addr (statusCode g.completion) [] [])

/-- A load of a requester of this package goes to the memory at once (chapter 10, the combining table): the line, or, where fewer bytes
are asked for (their count stands in the mask), those alone. None: a bank holds the access (R92). -/
def State.performLoad (s : State) (r : Request) : Option State :=
  let src : Source := { package := s.physId, requester := r.requester, seq := r.stream, backward := r.backward }
  let line := lineOf r.addr
  let lines := fun (r : Request) => if r.mask = 1024 then (List.range 8).map (line + 128 * ·) else [line]
  let start := if r.mask = 0 then line else r.addr
  let poisoned := s.obs.window.poisoned
  match s.memRead start (if r.mask = 0 then 128 else r.mask) (ownerOf r.requester) (s.requesterDie r.requester) with
  | (_, .held, _) => none
  | (s, .refused c, _) => some ((lines r).foldl (fun s l => s.commitRequest src 1 l (statusCode c) [] []) s)
  | (s, .opened, cells) =>
    if r.mask = 1024 then
      let s := s.mapWindow fun w => { w with poisoned := poisoned }
      some ((lines r).foldl (fun s l =>
        let part := (cells.drop (l - line)).take 128
        s.commitRequest src 1 l (if part.any (·.2) then 3 else 0) part []) s)
    else
    let cells := (List.replicate (start - line) (0, false) ++ cells ++ List.replicate 128 (0, false)).take 128
    let s := s.mapWindow fun w => { w with poisoned := poisoned }
    some (s.commitRequest src 1 line (if cells.any (·.2) then 3 else 0) cells [])

/-- A store of a requester of this package goes to the memory at once (chapter 10, the combining table). None: a bank holds the access
(R92). -/
def State.performStore (s : State) (r : Request) : Option State :=
  let src : Source := { package := s.physId, requester := r.requester, seq := r.stream, backward := r.backward }
  let m := storeMask (requestPacket r s.physId)
  let cells := (List.range 128).map fun i => if maskBit m i then some (r.payload.getD i 0) else none
  match s.memWrite (lineOf r.addr) cells (ownerOf r.requester) (s.requesterDie r.requester) with
  | (_, .held) => none
  | (s, g) => some (s.commitRequest src 2 r.addr (statusCode g.completion) [] [])

/-- A request for this package itself is performed here; none: it waits for a bank, or for room in the table. -/
def State.performOwn (s : State) (r : Request) : Option State :=
  if r.op = 2 ∧ r.payload.length = 1024 then s.performBlock r
  else if opClass r.op = clsCtl then
    some (if r.op = 0x11 then s.deliver r.addr r.payload else if r.op = 0x13 then s.takeNotice s.physId r.payload else s)
  else
    let p := { requestPacket r s.physId with src := s.physId, seq := r.stream }
    let src : Source := { package := s.physId, requester := r.requester, seq := r.stream, backward := r.backward }
    match s.directRequest p true with
    | some (s, st, data) => some (s.commitRequest src r.op r.addr st data [])
    | none =>
      if r.op = 1 then s.performLoad r
      else if r.op = 2 then s.performStore r
      else if s.tableTakes p src then some (s.enterTable p src) else none

/-- Writes of a requester of this package to a package that are not complete: sent and not acknowledged, or, to this package itself, in the
combining table. -/
def State.writesOpen (s : State) (requester dst : Nat) : Bool :=
  if dst = s.physId then
    s.fab.table.any fun e => isWriteOp e.op && e.sources.any fun x => x.package == s.physId && x.requester == requester
  else (s.flow dst clsReq).unacked.any fun u => u.packet.requester == requester && isWriteOp u.packet.op

/-- Whether a request may go: none before it to the same place waits, and one that goes behind its requester's writes finds them
complete (R185, R253). -/
def State.mayGo (s : State) (before : List Request) (r : Request) : Bool :=
  let d := s.target r
  !(before.any fun q => (s.target q == d && opClass q.op == opClass r.op) || (r.behind && q.requester == r.requester && s.target q == d)) &&
  (!r.behind || !(s.writesOpen r.requester d))

/-- A running salter thread makes an access that leaves its local memory, and waits for it (R213, R214). -/
def State.salterAccess (s : State) : Option Packet → State
  | none => s
  | some p =>
    let n := p.requester - 0xE00
    if !(isSalter p.requester) ∨ opClass p.op ≠ clsReq ∨ s.fld SALT_STATUS.running (n / 8) / 2 ^ (n % 8) % 2 = 0 then s else
    (s.threadWaits n).send { op := p.op, dst := p.dst, requester := p.requester, addr := p.addr, func := p.func, mask := p.mask, full := p.full
                             payload := p.payload }

/-- One request is injected, if it can be. -/
def State.injectOne (s : State) (r : Request) : Option State :=
  if r.op = 0x12 ∧ r.dst = 0xFFFF then some (s.ownBroadcast r.payload) else
  let d := s.target r
  if d = s.physId then s.performOwn r
  else if s.hasRoom d (opClass r.op) then some (s.launch (requestPacket r d) r.backward r.stream)
  else none

/-- The oldest request that can go is injected. -/
def State.injectFrom (s : State) : List Request → List Request → State
  | _, [] => s
  | before, r :: rest =>
    if s.mayGo before r then
      match ({ s with fab := { s.fab with reqQ := before ++ rest } }).injectOne r with
      | some s => s
      | none => s.injectFrom (before ++ [r]) rest
    else s.injectFrom (before ++ [r]) rest

def State.inject (s : State) : State := (s.injectFrom [] s.fab.reqQ).pollFences

end Sys2Proof.Machine
end

