-- ==== Sys2Proof/Machine/Fabric.lean ====
section
/-! DEFINITION. The fabric (R317 to R342, R349). -/

namespace Sys2Proof.Machine

open Host (Outcome)

/-- REQUEST_INJECT: the oldest request that can go is injected (R322, R326, R344). `access` is one that a salter program makes just now
(R213). -/
def execRequestInject (s : State) (access : Option Packet := none) : Outcome State Fault Refusal :=
  live s (s.salterAccess access).inject

/-- PACKET_FORWARD: a packet for another package passes on (R318, R325 to R329, R342). -/
def execPacketForward (packet : Packet) (s : State) : Outcome State Fault Refusal :=
  live s (s.arrive packet.op packet)

/-- LOAD_REQ: a load arrives (R319, R320). -/
def execLoadReq (packet : Packet) (s : State) : Outcome State Fault Refusal :=
  live s (s.arrive 0x01 packet)

/-- STORE: a store arrives (R319, R320, R333). -/
def execStore (packet : Packet) (s : State) : Outcome State Fault Refusal :=
  live s (s.arrive 0x02 packet)

/-- ATOMIC: an atomic arrives (R333, R334). -/
def execAtomic (packet : Packet) (s : State) : Outcome State Fault Refusal :=
  live s (s.arrive 0x03 packet)

/-- SWAP: a swap arrives (R334). -/
def execSwap (packet : Packet) (s : State) : Outcome State Fault Refusal :=
  live s (s.arrive 0x04 packet)

/-- CAS: a compare-and-swap arrives (R334). -/
def execCas (packet : Packet) (s : State) : Outcome State Fault Refusal :=
  live s (s.arrive 0x05 packet)

/-- LOAD_DATA: data comes back for a load (R320, R321). -/
def execLoadData (packet : Packet) (s : State) : Outcome State Fault Refusal :=
  live s (s.arrive 0x08 packet)

/-- OLD_VALUE: the old value comes back (R334). -/
def execOldValue (packet : Packet) (s : State) : Outcome State Fault Refusal :=
  live s (s.arrive 0x09 packet)

/-- STATUS: a request is reported as failed (R319, R321). -/
def execStatus (packet : Packet) (s : State) : Outcome State Fault Refusal :=
  live s (s.arrive 0x0A packet)

/-- ACK: a flow is acknowledged (R321, R331). -/
def execAck (packet : Packet) (s : State) : Outcome State Fault Refusal :=
  live s (s.arrive 0x10 packet)

/-- MSG: a message arrives at a unit's port (R318). -/
def execMsg (packet : Packet) (s : State) : Outcome State Fault Refusal :=
  live s (s.arrive 0x11 packet)

/-- BCAST: a broadcast arrives (R349). -/
def execBcast (packet : Packet) (s : State) : Outcome State Fault Refusal :=
  live s (s.arrive 0x12 packet)

/-- RETRANSMIT_TIMEOUT: an unacknowledged packet is sent again, or the flow is unreachable (R322). -/
def execRetransmitTimeout (peer : Nat) (cls : Nat) (s : State) : Outcome State Fault Refusal :=
  live s (s.retransmit peer cls)

/-- TABLE_ENTRY_APPLY: the head entry of a line is applied (R333 to R336); what waited for it is served. -/
def execTableEntryApply (line : Nat) (s : State) : Outcome State Fault Refusal :=
  live s ((s.applyHead line).serveAll)

/-- HOT_LINE_WINDOW_END: a window of the hot-line detector ends (R337). -/
def execHotLineWindowEnd (s : State) : Outcome State Fault Refusal :=
  live s (s.hotWindow)

/-- FENCE_TIMEOUT_EXPIRY: a fence ends by its limit (R332). -/
def execFenceTimeoutExpiry (fence : Nat) (s : State) : Outcome State Fault Refusal :=
  live s (s.fenceTimeout fence)

/-- OCCUPANCY_REPORT: a router reports its global links (R326). -/
def execOccupancyReport (pkg : Nat) (levels : List Nat) (s : State) : Outcome State Fault Refusal :=
  live s (s.reportOccupancy pkg levels)

end Sys2Proof.Machine
end

