-- ==== Sys2Proof/Machine/Hallmark.lean ====
section
/-! DEFINITION. Hallmark's operations and its background work (chapter 12). A store or a pour goes one step on with each hub cycle. -/

namespace Sys2Proof.Machine

open Host (Outcome)

/-- STORE_CAST: HMK_CMD is written with op 0x01 (R387, R407). -/
def execStoreCast (s : State) : Outcome State Fault Refusal :=
  live s (s.hallmarkStart opStoreCast)

/-- POUR: HMK_CMD is written with op 0x02 (R388, R407). -/
def execPour (s : State) : Outcome State Fault Refusal :=
  live s (s.hallmarkStart opPour)

/-- STORE_FW: HMK_CMD is written with op 0x03 (R387, R407). -/
def execStoreFw (s : State) : Outcome State Fault Refusal :=
  live s (s.hallmarkStart opStoreFw)

/-- CONFIRM_FW: the running slot is confirmed and fw_svn raised (R406). -/
def execConfirmFw (s : State) : Outcome State Fault Refusal :=
  live s (s.hallmarkStart opConfirm)

/-- READ: bytes of a partition go to HBM (R407). -/
def execHallmarkRead (s : State) : Outcome State Fault Refusal :=
  live s (s.hallmarkStart opRead)

/-- KEY: an owner key is enrolled or revoked (R384). -/
def execKey (s : State) : Outcome State Fault Refusal :=
  live s (s.hallmarkStart opKey)

/-- ATTEST: a signed report goes to HBM (R386). -/
def execAttest (s : State) : Outcome State Fault Refusal :=
  live s (s.hallmarkStart opAttest)

/-- NAND_WEAR_LEVEL: a piece of the NAND's background work (R399, R400). -/
def execNandWearLevel (work : NandWork) (s : State) : Outcome State Fault Refusal :=
  live s (s.nandWork work)

/-- LASER_CALIBRATION: a lane's bias is set (R403); `late` where it came after its due time (R448). -/
def execLaserCalibration (port : Nat) (lane : Nat) (bias : Nat) (hours : Nat) (s : State) (late : Bool := false) : Outcome State Fault Refusal :=
  live s (s.calibrateLaser port lane bias hours late)

/-- LIFETIME_COUNTER_WRITE: the seconds counters take 60 s (R404, R409). -/
def execLifetimeCounterWrite (hot : Nat) (s : State) : Outcome State Fault Refusal :=
  live s (s.writeLifetime hot)

end Sys2Proof.Machine
end

