-- ==== Sys2Proof/Machine/HbmTest.lean ====
section
/-! DEFINITION. Repair and test access to a stack (R305). -/

namespace Sys2Proof.Machine

open Host (Outcome)

/-- WRITE_WRAPPER_INSTRUCTION: operation 0x1 is started (R305). -/
def execWriteWrapperInstruction (stack : Nat) (s : State) : Outcome State Fault Refusal :=
  live s (s.stackWritten stack fun s => s.testStart stack 1)

/-- SHIFT_DATA_REGISTER: operation 0x2 is started (R305). -/
def execShiftDataRegister (stack : Nat) (s : State) : Outcome State Fault Refusal :=
  live s (s.stackWritten stack fun s => s.testStart stack 2)

/-- SPPR: operation 0x3 is started (R304, R305). -/
def execSppr (stack : Nat) (s : State) : Outcome State Fault Refusal :=
  live s (s.stackWritten stack fun s => s.testStart stack 3)

/-- HPPR: operation 0x4 is started (R304, R305). -/
def execHppr (stack : Nat) (s : State) : Outcome State Fault Refusal :=
  live s (s.stackWritten stack fun s => s.testStart stack 4)

/-- HBM_TEST_DONE: the operation completes or fails (R304, R305). -/
def execHbmTestDone (stack : Nat) (ok : Bool) (s : State) : Outcome State Fault Refusal :=
  live s (s.testEnd stack (if ok then 2 else 4))

/-- HBM_TEST_TIMEOUT: the operation has not completed within 2 s (R305). -/
def execHbmTestTimeout (stack : Nat) (s : State) : Outcome State Fault Refusal :=
  live s (s.testEnd stack 5)

end Sys2Proof.Machine
end

