-- ==== Sys2Proof/Machine/NetOps.lean ====
section
/-! DEFINITION. Frames of the host port (R353, R355) and the transport header (R356). The formats of Ethernet, 802.1Q, ARP, IP, UDP,
ICMP and neighbour discovery are those of the standards the manual names (log 22). -/

namespace Sys2Proof.Machine

/-! ### Numbers on the wire, which standards write highest byte first -/

def beBytes (n v : Nat) : List Byte := (leBytes n v).reverse

def beNum (bs : List Byte) (off n : Nat) : Nat := leNat ((bs.drop off).take n).reverse

/-- Sum of a byte sequence's 16-bit words. -/
def wordSum : List Byte → Nat
  | [] => 0
  | [a] => a.toNat * 256
  | a :: b :: l => a.toNat * 256 + b.toNat + wordSum l

/-- A sum folded to 16 bits in one's complement. -/
def foldSum (n : Nat) : Nat := if n = 0 then 0 else (n - 1) % 65535 + 1

/-- The internet checksum of a byte sequence in which the checksum stands as 0. -/
def inetSum (bs : List Byte) : Nat := 65535 - foldSum (wordSum bs)

/-- Whether a byte sequence with its checksum in place is good. -/
def inetGood (bs : List Byte) : Bool := foldSum (wordSum bs) == 65535

/-! ### Endpoints (R376) -/

structure Endpoint where
  valid : Bool
  ipv6 : Bool
  mac : Nat
  ip : Nat
  port : Nat
  deriving DecidableEq, Repr

def endpointOf (w : Nat → Word) : Endpoint :=
  let v6 := bit (w 0) 62
  { valid := bit (w 0) 63, ipv6 := v6, mac := bits (w 0) 47 0, ip := if v6 then (w 1).toNat * 2 ^ 64 + (w 2).toNat else bits (w 2) 31 0
    port := bits (w 3) 63 48 }

def State.self (s : State) : Endpoint := endpointOf fun n => s.rd .HP_SELF n
def State.peer (s : State) (n : Nat) : Endpoint := endpointOf fun j => s.rd .HP_PEER n j
def State.farGateway (s : State) (f : Nat) : Endpoint := endpointOf fun j => s.rd .HP_GW_PEER f j

/-- An IP address as a neighbour's key. -/
def ipKey (ipv6 : Bool) (ip : Nat) : Nat := if ipv6 then 2 ^ 128 + ip else ip

/-! ### Sending -/

def ipBytes (ipv6 : Bool) (ip : Nat) : List Byte := beBytes (if ipv6 then 16 else 4) ip

/-- The bytes that an upper layer's checksum covers before the payload. -/
def pseudo (ipv6 : Bool) (src dst proto len : Nat) : List Byte :=
  ipBytes ipv6 src ++ ipBytes ipv6 dst ++ (if ipv6 then beBytes 4 len ++ beBytes 4 proto else beBytes 2 proto ++ beBytes 2 len)

/-- An IP packet without options; the manual states no identification and no hop limit. -/
def ipPacket (ipv6 : Bool) (src dst proto hop ident : Nat) (pay : List Byte) : List Byte :=
  if ipv6 then beBytes 4 0x60000000 ++ beBytes 2 pay.length ++ beBytes 1 proto ++ beBytes 1 hop ++ ipBytes true src ++ ipBytes true dst ++ pay
  else
    let h := fun (c : Nat) => beBytes 2 0x4500 ++ beBytes 2 (20 + pay.length) ++ beBytes 2 ident ++ beBytes 2 0 ++ beBytes 1 hop ++ beBytes 1 proto ++
      beBytes 2 c ++ ipBytes false src ++ ipBytes false dst
    h (inetSum (h 0)) ++ pay

/-- An Ethernet frame waits to be sent, with the 802.1Q tag where it is in use; short ones are filled with zeros. -/
def State.sendFrame (s : State) (mac type pri : Nat) (pay : List Byte) : State :=
  let tag := if s.flag HP_NET_CFG.vlan_en then beBytes 2 0x8100 ++ beBytes 2 (pri % 8 * 2 ^ 13 + s.fld HP_NET_CFG.vid) else []
  let bs := beBytes 6 mac ++ beBytes 6 s.self.mac ++ tag ++ beBytes 2 type ++ pay
  let f : Frame := { bytes := bs ++ List.replicate (60 - bs.length) 0#8 }
  { s with host := { s.host with out := s.host.out ++ [f] } }

def ipType (ipv6 : Bool) : Nat := if ipv6 then 0x86DD else 0x0800

/-- A neighbour discovery message, whose hop limit is 255. -/
def State.ndPacket (s : State) (dst type flags target : Nat) (option : Nat) : List Byte :=
  let m := fun (c : Nat) => beBytes 1 type ++ [0#8] ++ beBytes 2 c ++ beBytes 4 flags ++ ipBytes true target ++ beBytes 1 option ++ [1#8] ++
    beBytes 6 s.self.mac
  let c := inetSum (pseudo true s.self.ip dst 58 32 ++ m 0)
  ipPacket true s.self.ip dst 58 255 0 (m c)

/-- The solicited-node address of an IPv6 address, and its Ethernet address. -/
def solicitedNode (ip : Nat) : Nat := 0xFF02 * 2 ^ 112 + 0x1FF * 2 ^ 24 + ip % 2 ^ 24
def solicitedMac (ip : Nat) : Nat := 0x3333 * 2 ^ 32 + 0xFF * 2 ^ 24 + ip % 2 ^ 24

/-- Asks for the MAC of an IP address. -/
def State.askNeighbour (s : State) (ipv6 : Bool) (ip pri : Nat) : State :=
  if ipv6 then s.sendFrame (solicitedMac ip) 0x86DD pri (s.ndPacket (solicitedNode ip) 135 0 ip 1)
  else s.sendFrame (2 ^ 48 - 1) 0x0806 pri (beBytes 8 0x0001080006040001 ++ beBytes 6 s.self.mac ++ ipBytes false s.self.ip ++ beBytes 6 0 ++
    ipBytes false ip)

/-- The parts of an IPv4 packet that an MTU admits: every part but the last carries a multiple of 8 bytes, told by its offset (log 22). -/
def ipv4Parts (mtu : Nat) (packet : List Byte) : List (List Byte) :=
  let data := packet.drop 20
  let n := (mtu - 20) / 8 * 8
  (List.range ((data.length + n - 1) / n)).map fun i =>
    let part := (data.drop (i * n)).take n
    let h := fun (c : Nat) => packet.take 2 ++ beBytes 2 (20 + part.length) ++ (packet.drop 4).take 2 ++
      beBytes 2 (b2n (i * n + part.length < data.length) * 2 ^ 13 + i * n / 8) ++ (packet.drop 8).take 2 ++ beBytes 2 c ++ (packet.drop 12).take 8
    h (inetSum (h 0)) ++ part

/-- Sends an IP packet of at most the MTU; one whose destination's MAC is not known waits for it (R353). -/
def State.sendPart (s : State) (ipv6 : Bool) (mac ip pri : Nat) (packet : List Byte) : State :=
  let key := ipKey ipv6 ip
  if mac ≠ 0 then s.sendFrame mac (ipType ipv6) pri packet
  else match s.host.neighbours.lookup key with
    | some m => s.sendFrame m (ipType ipv6) pri packet
    | none =>
      let asked := s.host.unresolved.any fun u => u.1 == key
      let s := { s with host := { s.host with unresolved := s.host.unresolved ++ [(key, pri, packet)] } }
      if asked then s else s.askNeighbour ipv6 ip pri

/-- Sends an IP packet within the IP MTU (R353). A longer one leaves in parts under IPv4; under IPv6, where parts need an extension header and
the device has none, it does not leave (log 22). -/
def State.sendIp (s : State) (ipv6 : Bool) (mac ip pri : Nat) (packet : List Byte) : State :=
  let mtu := s.fld HP_NET_CFG.mtu
  if packet.length ≤ mtu then s.sendPart ipv6 mac ip pri packet
  else if ipv6 then s
  else (ipv4Parts mtu packet).foldl (fun s p => s.sendPart false mac ip pri p) s

/-- A MAC address becomes known: what waited for it is sent. -/
def State.learn (s : State) (key mac : Nat) : State :=
  let mine := s.host.unresolved.filter fun u => u.1 == key
  let hs : HostPort := { s.host with neighbours := (key, mac) :: (s.host.neighbours.filter fun n => n.1 != key)
                                     unresolved := s.host.unresolved.filter fun u => u.1 != key }
  mine.foldl (fun s u => s.sendFrame mac (ipType (2 ^ 128 ≤ key)) u.2.1 u.2.2) { s with host := hs }

/-- A frame's priority: its channel's while flow control is in use, else a free value. -/
def State.priority (s : State) (channel : Nat) : Nat × State :=
  if s.flag HP_NET_CFG.pfc_en ∧ channel < 4 then
    (s.fld (if channel = 0 then HP_NET_CFG.mgmt_pri else if channel = 1 then HP_NET_CFG.cmd_pri else if channel = 2 then HP_NET_CFG.bulk_pri
      else HP_NET_CFG.evt_pri), s)
  else
    let (w, s) := s.fresh
    (w.toNat % 8, s)

/-- The UDP base B (R356). -/
def State.udpBase (s : State) : Nat := s.fld HP_UDP_CFG.base

/-- Sends a UDP datagram of a channel from its port. -/
def State.sendUdp (s : State) (peer : Endpoint) (channel port : Nat) (pay : List Byte) : State :=
  let (pri, s) := s.priority channel
  let (w, s) := s.fresh
  let me := s.self
  let u := fun (c : Nat) => beBytes 2 (s.udpBase + channel) ++ beBytes 2 port ++ beBytes 2 (8 + pay.length) ++ beBytes 2 c ++ pay
  let c := inetSum (pseudo peer.ipv6 me.ip peer.ip 17 (8 + pay.length) ++ u 0)
  -- a sum of 0 goes as its other form
  let packet := ipPacket peer.ipv6 me.ip peer.ip 17 (bits w 7 0) (bits w 31 16) (u (if c = 0 then 65535 else c))
  s.sendIp peer.ipv6 peer.mac peer.ip pri packet

/-! ### The transport header (R356) -/

structure Header where
  type : Nat
  channel : Nat
  reason : Nat := 0
  session : Nat
  seq : Nat := 0
  ack : Nat := 0
  deriving DecidableEq, Repr

def Header.bytes (h : Header) (pay : List Byte) : List Byte :=
  let b := fun (c : Nat) => leBytes 2 0x7E51 ++ [1#8] ++ leBytes 1 h.type ++ leBytes 1 h.channel ++ leBytes 1 h.reason ++ leBytes 2 h.session ++
    leBytes 4 h.seq ++ leBytes 4 h.ack ++ leBytes 2 pay.length ++ leBytes 2 0 ++ leBytes 4 c ++ leBytes 8 0 ++ pay
  b (crc32c (b 0))

/-- A datagram that keeps the transport's checks, with where it came from. -/
structure Datagram where
  mac : Nat
  ipv6 : Bool
  ip : Nat
  port : Nat
  head : Header
  payload : List Byte
  deriving DecidableEq, Repr

/-! ### Receiving (R353, R355) -/

/-- What a received frame is. -/
inductive Received where
  /-- Discarded under R355. -/
  | discarded
  /-- Priority flow control: time alone (log 11). -/
  | pause
  | arpRequest (mac ip : Nat)
  | solicitation (mac ip : Nat)
  | neighbour (key mac : Nat)
  | echo (mac ip : Nat) (ipv6 : Bool) (message : List Byte)
  | datagram (d : Datagram)
  deriving DecidableEq, Repr

/-- The transport's checks on a UDP payload that came to a channel's port. -/
def readDatagram (mac : Nat) (ipv6 : Bool) (ip port channel : Nat) (bs : List Byte) : Received :=
  let type := byteAt bs 3
  if bs.length < 32 ∨ num bs 0 2 ≠ 0x7E51 ∨ byteAt bs 2 ≠ 1 ∨ byteAt bs 4 ≠ channel ∨ num bs 16 2 ≠ bs.length - 32 ∨ bs.length > 8256 ∨
      type = 0 ∨ type > 5 ∨ num bs 20 4 ≠ crc32c (bs.take 20 ++ leBytes 4 0 ++ bs.drop 24) then .discarded
  else .datagram { mac := mac, ipv6 := ipv6, ip := ip, port := port, payload := bs.drop 32
                   head := { type := type, channel := channel, reason := byteAt bs 5, session := num bs 6 2, seq := num bs 8 4, ack := num bs 12 4 } }

/-- An IP packet's payload for this device. -/
def State.readIp (s : State) (mac : Nat) (ipv6 : Bool) (src dst proto hop : Nat) (p : List Byte) : Received :=
  let me := s.self
  let own := dst == me.ip
  let summed := inetGood (pseudo ipv6 src dst proto p.length ++ p)
  if proto = 17 then
    let port := beNum p 2 2
    if !own ∨ p.length < 8 ∨ beNum p 4 2 ≠ p.length ∨ (!(beNum p 6 2 == 0 && !ipv6) && !summed) ∨ port < s.udpBase ∨ port > s.udpBase + 3 then .discarded
    else readDatagram mac ipv6 src (beNum p 0 2) (port - s.udpBase) (p.drop 8)
  else if proto = 1 ∧ !ipv6 then
    if own ∧ p.length ≥ 8 ∧ beNum p 0 2 = 0x0800 ∧ inetGood p then .echo mac src false p else .discarded
  else if proto = 58 ∧ ipv6 then
    let type := byteAt p 0
    if !summed ∨ byteAt p 1 ≠ 0 then .discarded
    else if type = 128 ∧ own ∧ p.length ≥ 8 then .echo mac src true p
    else if type = 135 ∧ hop = 255 ∧ beNum p 8 16 = me.ip ∧ p.length ≥ 24 then .solicitation mac src
    else if type = 136 ∧ own ∧ hop = 255 ∧ p.length ≥ 32 ∧ byteAt p 24 = 2 then .neighbour (ipKey true (beNum p 8 16)) (beNum p 26 6)
    else .discarded
  else .discarded

/-- What a frame is to this device. -/
def State.readFrame (s : State) (f : Frame) : Received :=
  let bs := f.bytes
  let me := s.self
  let dst := beNum bs 0 6
  let src := beNum bs 6 6
  let tagged := beNum bs 12 2 == 0x8100
  let at' := if tagged then 16 else 12
  let type := beNum bs at' 2
  let p := bs.drop (at' + 2)
  let own := dst == me.mac
  if !f.fcs ∨ bs.length < 60 ∨ bs.length > 9212 then .discarded
  else if type = 0x8808 then
    (if dst = 0x0180C2000001 ∧ beNum p 0 2 = 0x0101 ∧ s.flag HP_NET_CFG.pfc_en then .pause else .discarded)
  else if tagged ≠ s.flag HP_NET_CFG.vlan_en ∨ (tagged && beNum bs 14 2 % 4096 != s.fld HP_NET_CFG.vid) then .discarded
  else if !me.valid then .discarded
  else if type = 0x0806 ∧ !me.ipv6 then
    if p.length < 28 ∨ beNum p 0 6 ≠ 0x000108000604 ∨ beNum p 24 4 ≠ me.ip ∨ !(own || dst == 2 ^ 48 - 1) then .discarded
    else if beNum p 6 2 = 1 then .arpRequest (beNum p 8 6) (beNum p 14 4)
    else if beNum p 6 2 = 2 then .neighbour (ipKey false (beNum p 14 4)) (beNum p 8 6)
    else .discarded
  else if type = 0x0800 ∧ !me.ipv6 then
    let len := beNum p 2 2
    if !own ∨ byteAt p 0 ≠ 0x45 ∨ len < 20 ∨ len > p.length ∨ !(inetGood (p.take 20)) ∨ beNum p 6 2 % 2 ^ 14 ≠ 0 ∨ beNum p 16 4 ≠ me.ip then .discarded
    else s.readIp src false (beNum p 12 4) (beNum p 16 4) (byteAt p 9) (byteAt p 8) ((p.take len).drop 20)
  else if type = 0x86DD ∧ me.ipv6 then
    let len := beNum p 4 2
    if !(own || dst == solicitedMac me.ip) ∨ byteAt p 0 / 16 ≠ 6 ∨ p.length < 40 + len ∨ !(beNum p 24 16 == me.ip || beNum p 24 16 == solicitedNode me.ip)
    then .discarded
    else s.readIp src true (beNum p 8 16) (beNum p 24 16) (byteAt p 6) (byteAt p 7) ((p.drop 40).take len)
  else .discarded

/-- Counts a frame or datagram discarded under R355. -/
def State.discardFrame (s : State) : State := s.bump HP_PERF_DISCARD.count 0 0 1

/-- Answers what is not a datagram (R353). -/
def State.answerFrame (s : State) : Received → State
  | .discarded => s.discardFrame
  | .arpRequest mac ip =>
    let (pri, s) := s.priority 4
    s.sendFrame mac 0x0806 pri (beBytes 8 0x0001080006040002 ++ beBytes 6 s.self.mac ++ ipBytes false s.self.ip ++ beBytes 6 mac ++ ipBytes false ip)
  | .solicitation mac ip =>
    let (pri, s) := s.priority 4
    s.sendFrame mac 0x86DD pri (s.ndPacket ip 136 0x60000000 s.self.ip 2)
  | .neighbour key mac => s.learn key mac
  | .echo mac ip ipv6 m =>
    let (pri, s) := s.priority 4
    let (w, s) := s.fresh
    let t := if ipv6 then 129 else 0
    let r := fun (c : Nat) => beBytes 1 t ++ [0#8] ++ beBytes 2 c ++ m.drop 4
    let c := inetSum ((if ipv6 then pseudo true s.self.ip ip 58 m.length else []) ++ r 0)
    let packet := ipPacket ipv6 s.self.ip ip (if ipv6 then 58 else 1) (bits w 7 0) (bits w 31 16) (r c)
    s.sendFrame mac (ipType ipv6) pri packet
  | .pause | .datagram _ => s

end Sys2Proof.Machine
end

