-- ==== Sys2Proof/Machine/HostOps.lean ====
section
/-! DEFINITION. The host transport (R356 to R358): sessions, sequencing, management (R368), commands and mailboxes (R359 to R361), bulk (R362,
R363), gateway transfers (R346, R347, R364), event records (R365, R366), the host link (R354). -/

namespace Sys2Proof.Machine

/-! ### Sessions and channels -/

/-- Channels and datagram types (R356). -/
def chMgmt : Nat := 0
def chCmd : Nat := 1
def chBulk : Nat := 2
def chEvent : Nat := 3
def dgData : Nat := 1
def dgAck : Nat := 2
def dgNak : Nat := 3
def dgOpen : Nat := 4
def dgClose : Nat := 5

/-- The session of a peer, if one is open. -/
def State.session (s : State) (peer : Nat) : Option HostSession := s.host.sessions.find? fun x => x.peer == peer

def State.setSession (s : State) (x : HostSession) : State :=
  { s with host := { s.host with sessions := s.host.sessions.map fun y => if y.peer = x.peer then x else y } }

def HostSession.value (x : HostSession) : Nat := x.peer + 4 * x.gen

def HostSession.chan (x : HostSession) (c : Nat) : HostChan :=
  if c = chMgmt then x.mgmt else if c = chCmd then x.cmd else if c = chBulk then x.bulk else x.evt

def HostSession.setChan (x : HostSession) (c : Nat) (h : HostChan) : HostSession :=
  if c = chMgmt then { x with mgmt := h } else if c = chCmd then { x with cmd := h } else if c = chBulk then { x with bulk := h } else { x with evt := h }

/-- Datagrams of a channel that are taken and not committed. -/
def HostSession.waiting (x : HostSession) (c : Nat) : Nat :=
  if c = chCmd then x.cmdWait.length else if c = chBulk then x.bulkItems.length else 0

/-- The number after the last committed one. -/
def HostSession.committed (x : HostSession) (c : Nat) : Nat := seqAhead (x.chan c).rx (x.waiting c)

/-- Sends a datagram of a session; every one carries the reverse direction's commits. -/
def State.sendTo (s : State) (x : HostSession) (c type reason seq : Nat) (pay : List Byte) : State :=
  let h : Header := { type := type, channel := c, reason := reason, session := x.value, seq := seq, ack := seqAhead (x.committed c) 1 }
  let peer := s.peer x.peer
  s.sendUdp peer c peer.port (h.bytes pay)

/-- Datagrams a sender may hold unacknowledged (R358). -/
def sendWindow : Nat := 256

/-- Sends a DATA datagram; beyond the window it waits for acknowledgements. -/
def State.chanSend (s : State) (peer c : Nat) (pay : List Byte) : State :=
  match s.session peer with
  | none => s
  | some x =>
    let h := x.chan c
    let x := x.setChan c { h with tx := seqNext h.tx, unacked := h.unacked ++ [(h.tx, pay, 0)] }
    let s := s.setSession x
    if h.unacked.length < sendWindow then s.sendTo x c dgData 0 h.tx pay else s

/-- Sends an ACK; no commit is left uncovered. -/
def State.sendCommitAck (s : State) (peer c : Nat) : State :=
  match s.session peer with
  | none => s
  | some x =>
    let x := x.setChan c { x.chan c with commits := 0 }
    (s.setSession x).sendTo x c dgAck 0 0 []

/-- One more datagram of a channel is committed; every 16th commit is acknowledged at once (R358). -/
def State.commitOne (s : State) (peer c : Nat) : State :=
  match s.session peer with
  | none => s
  | some x =>
    let h := x.chan c
    let s := s.setSession (x.setChan c { h with commits := h.commits + 1 })
    if h.commits + 1 ≥ 16 then s.sendCommitAck peer c else s

def State.sendNak (s : State) (x : HostSession) (c reason seq : Nat) : State := (s.sendTo x c dgNak reason seq []).bump HP_PERF_NAK.count 0 0 1

/-- A session ends (R357): what it has not acknowledged, not committed or not read is discarded. -/
def State.endSession (s : State) (peer : Nat) : State :=
  let hs : HostPort := { s.host with sessions := s.host.sessions.filter fun x => x.peer != peer
                                     reads := s.host.reads.filter fun r => r.peer != peer }
  let s := { s with host := hs }
  s.setFld HP_STATUS.sessions 0 0 (s.host.sessions.map fun x => 2 ^ x.peer).sum

/-- Sends a channel's datagrams again from a number on (R358); at the limit of resends the session closes. -/
def State.resendFrom (s : State) (peer c seq : Nat) : State :=
  match s.session peer with
  | none => s
  | some x =>
    let h := x.chan c
    let sent := h.unacked.take sendWindow
    let again := sent.filter fun u => seqLe seq u.1
    if again.isEmpty then s
    else if again.any fun u => u.2.2 ≥ s.fld HP_RETX_CFG.retries then (s.endSession peer).raise 1 2 0xFFFF 0
    else
      let x := x.setChan c { h with unacked := (sent.map fun u => if seqLe seq u.1 then (u.1, u.2.1, u.2.2 + 1) else u) ++ h.unacked.drop sendWindow }
      let s := (s.setSession x).bump HP_PERF_RESEND.count 0 0 again.length
      again.foldl (fun s u => s.sendTo x c dgData 0 u.1 u.2.1) s

/-! ### The event queue's sink (R365, R366) -/

/-- Record numbers that an EVENT datagram carries. -/
def recordsOf (pay : List Byte) : List Nat := (List.range (pay.length / 32)).map fun i => num pay (32 * i + 8) 4

/-- Records leave the queue once acknowledged; a run of losses is reported when there is room. -/
def State.dropRecords (s : State) (ns : List Nat) : State :=
  if ns.isEmpty then s else
  let s := { s with evt := { s.evt with queue := s.evt.queue.filter fun r => !(ns.contains r.record) } }
  let s := s.setFld HP_EVT_STATUS.queued 0 0 s.evt.queue.length
  if s.evt.runOpen ∧ s.evt.queue.length < 4096 then ({ s with evt := { s.evt with runOpen := false } }).raise 1 4 0xFFFF 0 else s

/-- Up to 32 records that are not under way go to the sink's session. -/
def State.sendEvents (s : State) : State :=
  match s.session (s.fld HP_EVT_CFG.sink) with
  | none => s
  | some x =>
    let away := x.evt.unacked.flatMap fun u => recordsOf u.2.1
    let rs := (s.evt.queue.filter fun r => !(away.contains r.record)).take 32
    if !(s.flag HP_EVT_CFG.enable) ∨ !s.start.ready ∨ rs.isEmpty then s else
    let mark := fun (r : EventRec) => if rs.any (fun q => q.record == r.record) then ({ r with sent := true } : EventRec) else r
    let s := { s with evt := { s.evt with queue := s.evt.queue.map mark } }
    s.chanSend x.peer chEvent (rs.flatMap eventBytes)

/-- An acknowledgement of the host covers a channel's datagrams up to a number; those the window now takes are sent. -/
def State.hostAck (s : State) (peer c ack : Nat) : State :=
  match s.session peer with
  | none => s
  | some x =>
    let h := x.chan c
    let sent := h.unacked.take sendWindow
    let covered := sent.filter fun u => seqLe u.1 ack
    if covered.isEmpty then s else
    let left := (sent.filter fun u => !(seqLe u.1 ack)) ++ h.unacked.drop sendWindow
    let x := x.setChan c { h with unacked := left }
    let s := s.setSession x
    let s := if c = chEvent then s.dropRecords (covered.flatMap fun u => recordsOf u.2.1) else s
    let new := (left.take sendWindow).drop (sent.length - covered.length)
    new.foldl (fun s u => s.sendTo x c dgData 0 u.1 u.2.1) s

/-! ### Management (R368) -/

/-- One access of 16 bytes, performed, and the 16 bytes returned. -/
def State.mgmtOne (s : State) (a : List Byte) : State × List Byte :=
  let addr := num a 0 6
  let back := fun (c : Completion) (v : List Byte) => a.take 7 ++ leBytes 1 (statusCode c) ++ v
  if byteAt a 6 = 0 then
    let (c, v) := s.accessRead true 0xF10 addr
    (s, back c (leBytes 8 v.toNat))
  else if byteAt a 6 = 1 then
    let (c, s) := s.accessWrite true addr (BitVec.ofNat 64 (num a 8 8))
    (s, back c ((a.drop 8).take 8))
  else (s, back .addrErr ((a.drop 8).take 8))

/-- The accesses of a datagram in order, and the payload returned. -/
def State.mgmtAll (s : State) (pay : List Byte) : State × List Byte :=
  (List.range (pay.length / 16)).foldl (fun (acc : State × List Byte) i =>
    let r := acc.1.mgmtOne ((pay.drop (16 * i)).take 16)
    (r.1, acc.2 ++ r.2)) (s, [])

def mgmtGood (pay : List Byte) : Bool := pay.length % 16 == 0 && 16 ≤ pay.length && pay.length ≤ 512

/-! ### Commands and mailboxes (R359 to R361) -/

/-- Whether a CMD message has the layout of R360. -/
def cmdGood (m : List Byte) : Bool :=
  32 ≤ m.length && byteAt m 0 == 1 && byteAt m 1 < 32 && num m 12 4 == m.length - 32 && 33 ≤ m.length && m.length ≤ 8192

/-- Whether the BULK datagrams a message waits for have committed. -/
def bulkDone (x : HostSession) (bulkSeq : Nat) : Bool :=
  bulkSeq == 0xFFFFFFFF ||
    (let behind := seqAhead x.bulk.rx bulkSeq
     0 < behind && behind ≤ 2 ^ 31 && x.bulkItems.all fun b => !(seqLe b.seq bulkSeq))

/-- A mailbox ring is full when head and tail name the same slot in different laps (R96, R359). -/
def State.mailboxFull (s : State) (r : Nat) : Bool :=
  s.fld HP_MBX_PTR.head r == s.fld HP_MBX_PTR.tail r && s.fld HP_MBX_PTR.head_lap r != s.fld HP_MBX_PTR.tail_lap r

/-- The message and the session enter the head slot, and the head advances. -/
def State.mailboxWrite (s : State) (x : HostSession) (m : List Byte) : State :=
  let r := byteAt m 1
  let h := s.fld HP_MBX_PTR.head r
  let s := s.putMem (s.fld HP_MBX_CFG.base + r * 0x80000 + h * 0x2000) (m.take 2 ++ leBytes 2 x.value ++ m.drop 4) ownExt dieHub
  if h + 1 ≥ 64 then (s.setFld HP_MBX_PTR.head r 0 0).setFld HP_MBX_PTR.head_lap r 0 (1 - s.fld HP_MBX_PTR.head_lap r)
  else s.setFld HP_MBX_PTR.head r 0 (h + 1)

/-- The messages that a session has taken are committed in order, as far as they can be. -/
def State.mailboxServe (s : State) (peer : Nat) : Nat → State
  | 0 => s
  | n + 1 =>
    match s.session peer with
    | none => s
    | some x =>
      match x.cmdWait with
      | [] => s
      | m :: rest =>
        let next := ({ x with cmdWait := rest } : HostSession)
        let number := x.committed chCmd
        let refuse := fun (s : State) =>
          let y : HostSession := { x with cmdWait := [], cmd := { x.cmd with rx := number } }
          (s.setSession y).sendNak y chCmd 2 number
        if !(s.flag HP_MBX_CFG.enable) then refuse s
        else if !(cmdGood m) then (((s.setSession next).commitOne peer chCmd).raise 1 5 0xFFFF 0).mailboxServe peer n
        else if !(bulkDone x (num m 4 4)) then s
        else if s.mailboxFull (byteAt m 1) then (refuse s).bump HP_PERF_MBX_FULL.count 0 0 1
        else (((s.mailboxWrite x m).setSession next).commitOne peer chCmd).mailboxServe peer n

/-! ### Bulk (R362, R363) -/

/-- Requester code of the bulk channel (R318). -/
def reqHost : Nat := 0xF10

def bkWrite : Nat := 0x10
def bkReadReq : Nat := 0x11
def bkReadData : Nat := 0x12
def bkStatus : Nat := 0x13
def bkGateway : Nat := 0x14

def bulkBytes (kind status poison tag addr len ref : Nat) (data : List Byte) : List Byte :=
  leBytes 1 kind ++ leBytes 1 status ++ leBytes 2 poison ++ leBytes 4 tag ++ leBytes 8 addr ++ leBytes 4 len ++ leBytes 4 ref ++ leBytes 8 0 ++ data

/-- Whether a global address names this package (R17, R344). -/
def State.isOwn (s : State) (g : Nat) : Bool := g / 2 ^ 48 == 0xFFFF || s.physical (g / 2 ^ 48) == s.physId

/-- The lines a range touches. -/
def linesOf (addr len : Nat) : List Nat := unitsOf 128 addr len

/-- Whether a range lies within one range of R35 as a message must; another package's part is not known here. -/
def State.bulkRange (s : State) (g len : Nat) : Bool :=
  let p : Part := if s.isOwn g then s.part else {}
  let a := g % 2 ^ 48
  1 ≤ len && len ≤ 8192 &&
  (a + len ≤ hbmTop p || (bitBase ≤ a && a + len ≤ bitTop) ||
   match sramPlace a with
   | some (i, off) => i < p.arrays && windowSpan off len && !(s.isOwn g && !(s.bound i))
   | none => false)

/-- The stores of a WRITE, in ascending address (R363): lines, and for whole blocks of this package's protected ranges block writes. -/
def State.bulkStores (s : State) (g : Nat) (data : List Byte) (id : Nat) : List Request :=
  let a := g % 2 ^ 48
  let e := a + data.length
  (linesOf a data.length).filterMap fun l =>
    let blk := l / 1024 * 1024
    if s.isOwn g && a ≤ blk && blk + 1024 ≤ e && (s.crcRange blk).isSome then
      (if l = blk then
        some { op := 2, dst := g / 2 ^ 48, requester := reqHost, addr := blk, full := true, payload := (data.drop (blk - a)).take 1024, stream := id }
       else none)
    else
      let on := fun (i : Nat) => a ≤ l + i && l + i < e
      let mask := ((List.range 128).map fun i => if on i then 2 ^ i else 0).sum
      let full := mask == 2 ^ 128 - 1
      some { op := 2, dst := g / 2 ^ 48, requester := reqHost, addr := l, mask := if full then 0 else mask, full := full
             payload := (List.range 128).map fun i => if on i then data.getD (l + i - a) 0 else 0#8, stream := id }

/-- Whether a WRITE's stores are still on their way. -/
def State.bulkOpen (s : State) (id : Nat) : Bool :=
  (s.fab.reqQ.any fun r => r.requester == reqHost && r.op == 2 && r.stream == id) ||
  (s.fab.table.any fun e => e.op == 2 && e.sources.any fun x => x.package == s.physId && x.requester == reqHost && x.seq == id) ||
  s.fab.flows.any fun f => f.unacked.any fun u => u.packet.requester == reqHost && u.packet.op == 2 && u.stream == id

/-- The datagrams that have taken effect commit in order; a failure's STATUS goes before the ACK that covers it. -/
def State.bulkServe (s : State) (peer : Nat) : Nat → State
  | 0 => s
  | n + 1 =>
    match s.session peer with
    | none => s
    | some x =>
      match x.bulkItems with
      | [] => s
      | b :: rest =>
        if !b.done then s else
        let s := match s.host.failed.lookup b.id with
          | some st => s.chanSend peer chBulk (bulkBytes bkStatus st 0 b.tag 0 0 b.seq [])
          | none => s
        let s := { s with host := { s.host with failed := s.host.failed.filter fun f => f.1 != b.id } }
        match s.session peer with
        | none => s
        | some x => ((s.setSession { x with bulkItems := rest }).commitOne peer chBulk).bulkServe peer n

/-- Commits what can be committed of a session's bulk and command datagrams. -/
def State.hostServe (s : State) (peer : Nat) : State :=
  match s.session peer with
  | none => s
  | some x =>
    let s := s.bulkServe peer x.bulkItems.length
    s.mailboxServe peer x.cmdWait.length

/-- A peer's writes whose stores are complete take effect. -/
def State.bulkComplete (s : State) (peer : Nat) : State :=
  match s.session peer with
  | none => s
  | some x =>
    (s.setSession { x with bulkItems := x.bulkItems.map fun b => { b with done := b.done || !(s.bulkOpen b.id) } }).hostServe peer

/-- The loads of a bulk read: of this package's memory a whole block of 1 KiB goes as one read, which is checked (R297), everything else
by lines; a packet carries no more than a line (R318). -/
def State.bulkLoads (s : State) (g len id : Nat) : List Request :=
  let a := g % 2 ^ 48
  let load := fun (lo n : Nat) => ({ op := 1, dst := g / 2 ^ 48, requester := reqHost, addr := lo, mask := n, stream := id } : Request)
  if !(s.isOwn g) then (linesOf a len).map fun l => load l 0
  else (pieces a len).flatMap fun p =>
    if p.2 = 1024 then [load p.1 1024]
    else (linesOf p.1 p.2).map fun l => load (max l p.1) (min (l + 128) (p.1 + p.2) - max l p.1)

/-- A BULK message of a session is taken: refused as a whole, or split into stores or loads. -/
def State.bulkTake (s : State) (x : HostSession) (seq : Nat) (m : List Byte) : State :=
  let id := s.host.nextBulk
  let tag := num m 4 4
  let g := num m 8 8
  let len := num m 16 4
  let write := byteAt m 0 == bkWrite
  let good := s.bulkRange g len && m.length == (if write then 32 + len else 32)
  let rd : BulkRead := { id := id, peer := x.peer, gen := x.gen, tag := tag, addr := g, len := len }
  let failed := if good then [] else [(id, 1)]
  let reads := if good && !write then [rd] else []
  let hs : HostPort := { s.host with nextBulk := id + 1, failed := s.host.failed ++ failed, reads := s.host.reads ++ reads }
  let rs : List Request := if !good then [] else if write then s.bulkStores g (m.drop 32) id
    else s.bulkLoads g len id
  let item : BulkItem := { seq := seq, id := id, tag := tag, done := !good || !write }
  let s := { s with host := hs, fab := { s.fab with reqQ := s.fab.reqQ ++ rs } }
  (s.setSession { x with bulkItems := x.bulkItems ++ [item] }).hostServe x.peer

/-- Free bytes: what a read that failed returns in place of data. -/
def State.freshBytes (s : State) : Nat → List Byte × State
  | 0 => ([], s)
  | n + 1 =>
    let (w, s) := s.fresh
    let r := s.freshBytes n
    (leBytes 8 w.toNat ++ r.1, r.2)

/-- The lines of a bulk read that have all come, in ascending address. -/
def BulkRead.complete (r : BulkRead) : Bool :=
  (linesOf (r.addr % 2 ^ 48) r.len).all fun l => r.lines.any fun x => x.1 == l

/-- A complete read returns as READ_DATA: poisoned units marked, their bytes as read; its status is that of the first line, in
ascending address, that was not read clean. -/
def State.readReturn (s : State) (r : BulkRead) : State :=
  let a := r.addr % 2 ^ 48
  let got := (linesOf a r.len).foldl (fun (acc : List (Byte × Bool) × List Nat × State) l =>
    let (st, data) := match r.lines.find? fun x => x.1 == l with
      | some x => (x.2.1, x.2.2)
      | none => (5, [])
    let inside := fun (i : Nat) => a ≤ l + i && l + i < a + r.len
    if st = 0 ∨ st = 3 then
      let cells := ((List.range 128).filter inside).map fun i => data.getD i (0, false)
      (acc.1 ++ cells, acc.2.1 ++ (if cells.any (·.2) then [3] else []), acc.2.2)
    else
      let (bs, s) := acc.2.2.freshBytes 16
      (acc.1 ++ (((List.range 128).filter inside).map fun i => (bs.getD i 0, false)), acc.2.1 ++ [st], s)) (([], [], s) : List (Byte × Bool) × List Nat × State)
  let (cells, sts, s) := got
  let poison := ((List.range 16).map fun u => if ((cells.drop (512 * u)).take 512).any (·.2) then 2 ^ u else 0).sum
  s.chanSend r.peer chBulk (bulkBytes bkReadData (sts.headD 0) poison r.tag r.addr r.len 0 (cells.map (·.1)))

/-- The reads that are complete return. -/
def State.returnReads (s : State) : State :=
  let (now, later) := s.host.reads.partition BulkRead.complete
  now.foldl (fun s r => s.readReturn r) { s with host := { s.host with reads := later } }

/-! ### Gateway transfers (R347, R364) -/

/-- A packet's bytes (R318). -/
def packetBytes (p : Packet) : List Byte :=
  leBytes 1 p.op ++ leBytes 1 (p.hops + 8 * b2n p.transit + 16 * b2n p.opening + 32 * b2n p.full) ++ leBytes 2 p.dst ++ leBytes 2 p.src ++
  leBytes 2 (p.slice + 4096 * p.gen) ++ leBytes 4 p.seq ++ leBytes 2 p.requester ++ leBytes 1 p.via ++ leBytes 1 p.func ++ leBytes 6 p.addr ++
  leBytes 2 0 ++ leBytes 4 (if p.op = 2 then 0 else p.mask) ++ leBytes 4 0 ++ (if p.op = 2 ∧ !p.full then leBytes 16 p.mask else []) ++ p.payload

/-- The payload bytes that follow a header; a message's are what is left of its transfer. -/
def payloadLength (op left : Nat) : Option Nat :=
  if op = 0x11 then some (if left ≥ 64 then 64 else 32) else (payloadSizes op).head?

/-- The first packet of a transfer and the bytes behind it. -/
def readPacket (bs : List Byte) : Option (Packet × List Byte) :=
  let op := byteAt bs 0
  let b := byteAt bs 1
  let full := b / 32 % 2 == 1
  let masked := op == 2 && !full
  let rest := bs.drop (if masked then 48 else 32)
  match payloadLength op rest.length with
  | none => none
  | some n =>
    if bs.length < 32 ∨ rest.length < n then none else
    let p : Packet :=
      { op := op, hops := b % 8, transit := b / 8 % 2 == 1, opening := b / 16 % 2 == 1, full := full, dst := num bs 2 2, src := num bs 4 2
        slice := num bs 6 2 % 4096, gen := num bs 6 2 / 4096, seq := num bs 8 4, requester := num bs 12 2 % 4096, via := byteAt bs 14 % 64
        func := byteAt bs 15, addr := num bs 16 6, mask := if op = 2 then (if masked then num bs 32 16 else 0) else num bs 24 4
        payload := rest.take n
        reserved := b / 64 + num bs 12 2 / 4096 + byteAt bs 14 / 64 + num bs 22 2 + (if op = 2 then num bs 24 4 else 0) + num bs 28 4, link := 16 }
    some (p, rest.drop n)

/-- A transfer's packets in order; bytes that are no packet end it. -/
def readPackets : Nat → List Byte → List Packet
  | 0, _ => []
  | n + 1, bs =>
    match readPacket bs with
    | some (p, rest) => p :: readPackets n rest
    | none => []

/-- A GATEWAY message is accepted from a far gateway, and its packets go on within this field, where their hops count anew (R325, R346;
log 21). -/
def State.gatewayArrival (s : State) (d : Datagram) : State :=
  let known := (List.range 64).any fun f =>
    let e := s.farGateway f
    e.valid && e.ipv6 == d.ipv6 && e.ip == d.ip && e.port + chBulk == d.port
  let len := num d.payload 16 4
  if !(s.flag FAB_CFG.gateway) ∨ d.head.channel ≠ chBulk ∨ d.head.type ≠ dgData ∨ !known ∨ byteAt d.payload 0 ≠ bkGateway ∨ d.payload.length ≠ 32 + len then s.discardFrame
  else
    let s := s.bump HP_PERF_GW_RX.count 0 0 1
    (readPackets (len / 32) (d.payload.drop 32)).foldl (fun s p => s.route { p with hops := 0, via := 0x3F }) s

/-- The transfers that wait are sent to their far gateways. -/
def State.sendTransfers (s : State) : State :=
  let ts := s.fab.transfers
  ts.foldl (fun s t =>
    let e := s.farGateway t.1
    let bs := t.2.flatMap packetBytes
    let h : Header := { type := dgData, channel := chBulk, session := 0xFFFF }
    s.sendUdp e chBulk (e.port + chBulk) (h.bytes (bulkBytes bkGateway 0 0 0 0 bs.length 0 bs))) { s with fab := { s.fab with transfers := [] } }

/-! ### Datagrams that arrive (R357, R358) -/

/-- The valid peer at a source. -/
def State.peerAt (s : State) (d : Datagram) : Option Nat :=
  (List.range 4).find? fun n =>
    let e := s.peer n
    e.valid && e.ipv6 == d.ipv6 && e.ip == d.ip && e.port == d.port

/-- An OPEN (R357). -/
def State.openArrival (s : State) (d : Datagram) : State :=
  match s.peerAt d with
  | none =>
    let s := s.discardFrame
    let due : Bool := match s.host.strangerAt with
      | some t => Nat.ble (t + 1500000) s.cycle
      | none => true
    if due then ({ s with host := { s.host with strangerAt := some s.cycle } }).raise 1 3 0xFFFF 0 else s
  | some n =>
    let s := s.endSession n
    let last := Sparse.get 0 s.host.gens n
    let g := if last ≥ 0x3FFE then 1 else last + 1
    let x : HostSession := { peer := n, gen := g }
    let s := { s with host := { s.host with sessions := s.host.sessions ++ [x], gens := Sparse.put 0 s.host.gens n g } }
    let s := s.setFld HP_STATUS.sessions 0 0 (s.host.sessions.map fun y => 2 ^ y.peer).sum
    s.sendTo x chMgmt dgOpen 0 0 []

/-- What a datagram with the next number is once it may be taken: none for one that is discarded instead. -/
def State.takeData (s : State) (x : HostSession) (d : Datagram) : Option State :=
  let c := d.head.channel
  let h := x.chan c
  let y := x.setChan c { h with rx := seqNext h.rx }
  if c = chMgmt then
    if !(mgmtGood d.payload) then none else
    let r := (s.setSession y).mgmtAll d.payload
    some ((r.1.chanSend x.peer chMgmt r.2).commitOne x.peer chMgmt)
  else if c = chCmd then
    some ((s.setSession { y with cmdWait := x.cmdWait ++ [d.payload] }).mailboxServe x.peer (x.cmdWait.length + 1))
  else if c = chBulk then
    if d.payload.length ≥ 32 ∧ (byteAt d.payload 0 = bkWrite ∨ byteAt d.payload 0 = bkReadReq) then some (s.bulkTake y d.head.seq d.payload) else none
  else none

/-- A DATA datagram of a session (R358). -/
def State.dataArrival (s : State) (x : HostSession) (d : Datagram) : State :=
  let c := d.head.channel
  let h := x.chan c
  let ahead := seqAhead d.head.seq h.rx
  if ahead ≥ 2 ^ 31 then s.sendCommitAck x.peer c
  else if ahead + x.waiting c + h.commits ≥ sendWindow then s.sendNak x c 3 h.rx
  else if ahead ≠ 0 then
    let due : Bool := match h.nakAt with
      | some t => Nat.ble (t + 1500) s.cycle
      | none => true
    if due then (s.setSession (x.setChan c { h with nakAt := some s.cycle })).sendNak x c 1 h.rx else s
  else (s.takeData x d).getD s.discardFrame

/-- A datagram that keeps the transport's checks. -/
def State.datagramArrival (s : State) (d : Datagram) : State :=
  let c := d.head.channel
  if !s.start.ready ∧ c ≠ chMgmt then s.discardFrame
  else if d.head.session = 0xFFFF ∧ c = chBulk then s.gatewayArrival d
  else if d.head.type = dgOpen then (if c = chMgmt then s.openArrival d else s.discardFrame)
  else match s.peerAt d with
    | none => s.discardFrame
    | some n =>
      match s.session n with
      | none => s.discardFrame
      | some x =>
        if x.value ≠ d.head.session then s.discardFrame
        else if d.head.type = dgClose then (if c = chMgmt then s.endSession n else s.discardFrame)
        else
          let s := s.hostAck n c d.head.ack
          match s.session n with
          | none => s
          | some x =>
            if d.head.type = dgData then s.dataArrival x d
            else if d.head.type = dgNak then s.resendFrom n c d.head.seq
            else s

/-- A frame arrives while the link is up, if it is one of those meant: it is counted and taken (R355). -/
def State.frameArrival (s : State) (f : Frame) (meant : Received → Bool) : State :=
  if s.fld HP_STATUS.link ≠ 1 then s else
  let r := s.readFrame f
  if !(meant r) then s else
  let s := s.bump HP_PERF_RX_FRAMES.count 0 0 (b2n f.fcs)
  match r with
  | .datagram d => s.datagramArrival d
  | r => s.answerFrame r

/-- Frames that carry a datagram of a kind. -/
def isDatagram (p : Datagram → Bool) : Received → Bool
  | .datagram d => p d
  | _ => false

def isType (type : Nat) : Received → Bool := isDatagram fun d => d.head.type == type && d.head.session != 0xFFFF

/-- DATA of a channel. -/
def isData (c : Nat) : Received → Bool := isDatagram fun d => d.head.type == dgData && d.head.channel == c && d.head.session != 0xFFFF

/-- A bulk message of a kind. -/
def isBulk (kind : Nat) : Received → Bool :=
  isDatagram fun d => d.head.type == dgData && d.head.channel == chBulk && d.head.session != 0xFFFF && byteAt d.payload 0 == kind

def isGateway : Received → Bool := isDatagram fun d => d.head.session == 0xFFFF

/-! ### Timers and the link -/

/-- A channel's oldest datagram has not been acknowledged within the timeout (R358). -/
def State.hostTimeout (s : State) (peer c : Nat) : State :=
  match s.session peer with
  | none => s
  | some x =>
    match (x.chan c).unacked with
    | [] => s
    | u :: _ => s.resendFrom peer c u.1

/-- 2 µs have passed since a commit that no ACK covers. -/
def State.ackDue (s : State) (peer c : Nat) : State :=
  match s.session peer with
  | none => s
  | some x => if (x.chan c).commits = 0 then s else s.sendCommitAck peer c

/-- The host link returns (R354). -/
def State.linkReturn (s : State) : State :=
  if !s.host.linkLost then s else
  ({ (s.setFld HP_STATUS.link 0 0 1) with host := { s.host with linkLost := false } }).raise 1 1 0xFFFF 0

/-- Frames leave while the link is up. -/
def State.drainHost (s : State) : State :=
  if s.fld HP_STATUS.link ≠ 1 ∨ s.host.out.isEmpty then s else
  ({ s with host := { s.host with out := [] } }).bump HP_PERF_TX_FRAMES.count 0 0 s.host.out.length

end Sys2Proof.Machine
end

