-- ==== Sys2Proof/Machine/HostPort.lean ====
section
/-! DEFINITION. The host port (R353 to R368). -/

namespace Sys2Proof.Machine

open Host (Outcome)

/-- FRAME_RECEIVE: any frame is discarded and counted, answered, or taken as the datagram it carries (R353, R355). -/
def execFrameReceive (frame : Frame) (s : State) : Outcome State Fault Refusal :=
  live s (s.frameArrival frame (fun _ => true))

/-- OPEN: an OPEN arrives (R357). -/
def execOpenSession (frame : Frame) (s : State) : Outcome State Fault Refusal :=
  live s (s.frameArrival frame (isType dgOpen))

/-- CLOSE: a CLOSE arrives (R357). -/
def execCloseSession (frame : Frame) (s : State) : Outcome State Fault Refusal :=
  live s (s.frameArrival frame (isType dgClose))

/-- TRANSPORT_ACK: an ACK arrives (R358, R366). -/
def execTransportAck (frame : Frame) (s : State) : Outcome State Fault Refusal :=
  live s (s.frameArrival frame (isType dgAck))

/-- NAK: a NAK arrives (R358). -/
def execNak (frame : Frame) (s : State) : Outcome State Fault Refusal :=
  live s (s.frameArrival frame (isType dgNak))

/-- MGMT_ACCESS: register accesses arrive (R368). -/
def execMgmtAccess (frame : Frame) (s : State) : Outcome State Fault Refusal :=
  live s (s.frameArrival frame (isData chMgmt))

/-- CMD_MESSAGE: a command message arrives (R359 to R361). -/
def execCmdMessage (frame : Frame) (s : State) : Outcome State Fault Refusal :=
  live s (s.frameArrival frame (isData chCmd))

/-- BULK_WRITE: a bulk WRITE arrives (R363). -/
def execBulkWrite (frame : Frame) (s : State) : Outcome State Fault Refusal :=
  live s (s.frameArrival frame (isBulk bkWrite))

/-- BULK_WRITE_COMPLETE: the stores of a peer's bulk writes are complete (R361, R363). -/
def execBulkWriteComplete (peer : Nat) (s : State) : Outcome State Fault Refusal :=
  live s (s.bulkComplete peer)

/-- BULK_READ_REQ: a bulk READ_REQ arrives (R363). -/
def execBulkReadReq (frame : Frame) (s : State) : Outcome State Fault Refusal :=
  live s (s.frameArrival frame (isBulk bkReadReq))

/-- GATEWAY: a far gateway's transfer arrives (R347, R364). -/
def execGateway (frame : Frame) (s : State) : Outcome State Fault Refusal :=
  live s (s.frameArrival frame (isGateway))

/-- HOST_RESEND_TIMEOUT: a datagram is not acknowledged in time (R358). -/
def execHostResendTimeout (peer : Nat) (channel : Nat) (s : State) : Outcome State Fault Refusal :=
  live s (s.hostTimeout peer channel)

/-- HOST_ACK_TIMER: an ACK falls due (R358). -/
def execHostAckTimer (peer : Nat) (channel : Nat) (s : State) : Outcome State Fault Refusal :=
  live s (s.ackDue peer channel)

/-- EVENT_SEND: records go to the sink session (R365, R366). -/
def execEventSend (s : State) : Outcome State Fault Refusal :=
  live s (s.sendEvents)

/-- HOST_LINK_LOSS: the host link is lost (R354). -/
def execHostLinkLoss (s : State) : Outcome State Fault Refusal :=
  live s (s.linkLoss)

/-- HOST_LINK_RETURN: the host link returns (R354). -/
def execHostLinkReturn (s : State) : Outcome State Fault Refusal :=
  live s (s.linkReturn)

end Sys2Proof.Machine
end

