-- ==== Sys2Proof/Machine/Links.lean ====
section
/-! DEFINITION. The optical links (R311 to R313, R329, R330). -/

namespace Sys2Proof.Machine

open Host (Outcome)

/-- LINK_TRAINING: a link trains with what its peer sends (R311, R313). -/
def execLinkTraining (link : Nat) (peer : Nat) (peerLink : Nat) (lanes : Nat) (s : State) : Outcome State Fault Refusal :=
  live s (s.trainLink link peer peerLink lanes)

/-- FLIT_REPLAY: a flit is replayed (R312). -/
def execFlitReplay (link : Nat) (ok : Bool) (s : State) : Outcome State Fault Refusal :=
  live s (s.replayFlit link ok)

/-- LANE_FAILURE: a lane fails (R313). -/
def execLaneFailure (link : Nat) (lane : Nat) (s : State) : Outcome State Fault Refusal :=
  live s (s.loseLane link lane)

/-- LINK_DOWN: a link goes down (R313, R329, R330). -/
def execLinkDown (link : Nat) (s : State) : Outcome State Fault Refusal :=
  live s (s.takeLinkDown link)

/-- LINK_NOTICE: a notice of another link arrives (R330). -/
def execLinkNotice (packet : Packet) (s : State) : Outcome State Fault Refusal :=
  live s (s.arrive 0x13 packet)

end Sys2Proof.Machine
end

