-- ==== Sys2Proof/Machine/Memory.lean ====
section
/-! DEFINITION. The memory controllers (chapter 09) and their calibration (R448). -/

namespace Sys2Proof.Machine

open Host (Outcome)

/-- MEMORY_READ: a DRAM read is corrected or poisoned (R289 to R291). -/
def execMemoryRead (addr : Nat) (len : Nat) (die : Nat) (errors : List MemError) (s : State) : Outcome State Fault Refusal :=
  live s (s.memoryRead addr len die 0 errors)

/-- MEMORY_WRITE: a DRAM write, partial units by read-modify-write (R289, R290). -/
def execMemoryWrite (addr : Nat) (data : List Byte) (die : Nat) (errors : List MemError) (s : State) : Outcome State Fault Refusal :=
  live s (s.memoryWrite addr data die errors)

/-- BLOCK_WRITE: a whole block of a protected range is written with its entry (R294). -/
def execBlockWrite (addr : Nat) (data : List Byte) (s : State) : Outcome State Fault Refusal :=
  live s (if s.isBlock addr && data.length == 1024 then s.memoryWrite addr data 2 [] else s)

/-- LINE_WRITE: any other write into a protected range keeps the entry current (R295). -/
def execLineWrite (addr : Nat) (data : List Byte) (s : State) : Outcome State Fault Refusal :=
  live s (if s.isLineWrite addr data.length then s.memoryWrite addr data 2 [] else s)

/-- BLOCK_READ: a whole block is read and checked, at most four times (R297). -/
def execBlockRead (addr : Nat) (garbled : Nat) (errors : List MemError) (s : State) : Outcome State Fault Refusal :=
  live s (if s.isBlock addr then s.memoryRead addr 1024 2 garbled errors else s)

/-- HBM_TEMP_READ: a stack temperature is read (R282, R298, R299). -/
def execHbmTempRead (stack : Nat) (celsius : Nat) (s : State) : Outcome State Fault Refusal :=
  live s (s.hbmTemp stack celsius)

/-- BITTERN_REFRESH_REPORT: a bittern controller reads its dies' reports (R299, R300). -/
def execBitternRefreshReport (stack : Nat) (rates : List Nat) (celsius : Nat) (s : State) : Outcome State Fault Refusal :=
  live s (s.bitternReport stack rates celsius)

/-- REFRESH: a refresh command is issued (R298, R300). -/
def execRefresh (stack : Nat) (s : State) : Outcome State Fault Refusal :=
  live s (s.refresh stack)

/-- PATROL_SCRUB: the scrubber reads its next run (R301, R302). -/
def execPatrolScrub (stack : Nat) (errors : List MemError) (late : Bool) (s : State) : Outcome State Fault Refusal :=
  live s (s.patrolScrub stack errors late)

/-- HBM_PERIODIC_RETRAINING: a pseudo-channel is retrained when due (R448). -/
def execHbmPeriodicRetraining (stack : Nat) (late : Bool) (s : State) : Outcome State Fault Refusal :=
  live s (if stack < s.part.stacks then s.calibrated late else s)

/-- BITTERN_PERIODIC_CALIBRATION: a bittern stack is calibrated when due (R448). -/
def execBitternPeriodicCalibration (stack : Nat) (late : Bool) (s : State) : Outcome State Fault Refusal :=
  live s (if stack < 4 then s.calibrated late else s)

end Sys2Proof.Machine
end

