-- ==== Sys2Proof/Machine/Observe.lean ====
section
/-! DEFINITION. The determinism count, the quench and the scratchpad scrub (chapter 14). -/

namespace Sys2Proof.Machine

open Host (Outcome)

/-- NDC_ADD: the named die's count advances (R435, R436, R454). -/
def execNdcAdd (value : Word) (s : State) : Outcome State Fault Refusal :=
  live s (s.written fun s => s.ndcAdd value)

/-- QUENCH_FIRE: OBS_QUENCH_CTRL is written with fire (R441, R442). -/
def execQuenchFire (value : Word) (s : State) : Outcome State Fault Refusal :=
  live s (s.written fun s => s.quenchControl (setBits value 63 63 1))

/-- QUENCH_RELEASE: OBS_QUENCH_CTRL.release is written (R442). -/
def execQuenchRelease (s : State) : Outcome State Fault Refusal :=
  live s (s.written fun s => s.quenchControl (setBits 0 62 62 1))

/-- SCP_SCRUB: one line of an array's SRAM is scrubbed (R449). -/
def execScpScrub (array : Nat) (offset : Nat) (errors : List MemError) (late : Bool) (s : State) : Outcome State Fault Refusal :=
  live s (s.sramScrub array offset errors late)

end Sys2Proof.Machine
end

