-- ==== Sys2Proof/Machine/Package.lean ====
section
/-! DEFINITION. Registers with no row of their own (R12, R13), the die-to-die links, power and temperature (R23, R31 to R34). -/

namespace Sys2Proof.Machine

open Host (Outcome)

/-- REGISTER_WRITE: the write acts on the register's fields by their access codes; another width than 64 bits is an address error (R11 to R13, R36, R465). -/
def execRegisterWrite (addr : Nat) (width : Nat) (value : Word) (s : State) : Outcome State Fault Refusal :=
  live s (s.registerWrite addr width value)

/-- UCIE_RETRY: a retry is counted (R23). -/
def execUcieRetry (die : Nat) (s : State) : Outcome State Fault Refusal :=
  live s (s.ucieRetry die)

/-- POWER_MONITOR_SAMPLE: a sample of package power; throttling follows (R31, R32). -/
def execPowerMonitorSample (milliwatts : Nat) (s : State) : Outcome State Fault Refusal :=
  live s (s.powerSample milliwatts)

/-- DIE_SENSOR_READING: a reading of a die's hottest sensor (R34). -/
def execDieSensorReading (die : Nat) (celsius : Nat) (s : State) : Outcome State Fault Refusal :=
  live s (s.dieReading die celsius)

end Sys2Proof.Machine
end

