-- ==== Sys2Proof/Machine/Queues.lean ====
section
/-! DEFINITION. The queue manager and the residency manager (chapter 06). -/

namespace Sys2Proof.Machine

open Host (Outcome)

/-- GROUP_NOTICE: a GROUP notice reaches the expert's home (R190, R192, R210). -/
def execGroupNotice (payload : List Byte) (s : State) : Outcome State Fault Refusal :=
  live s (s.groupNotice payload)

/-- END_NOTICE: an END notice reaches the expert's home (R190, R192, R211). -/
def execEndNotice (payload : List Byte) (s : State) : Outcome State Fault Refusal :=
  live s (s.endNotice payload)

/-- QM_RELEASE: a group is released (R194). -/
def execQmRelease (value : Word) (s : State) : Outcome State Fault Refusal :=
  live s (s.written fun s => s.qmRelease value)

/-- RES_STEP: the histogram moves on and prefetches start (R211). -/
def execResStep (_value : Word) (s : State) : Outcome State Fault Refusal :=
  live s (s.written fun s => s.resStep)

/-- RES_FETCH_START: a fetch that waits for a pool slot looks for one (R210). -/
def execResFetchStart (slot : Nat) (expert : Nat) (s : State) : Outcome State Fault Refusal :=
  live s (s.work fun s => s.fetchRetry slot expert)

/-- EVICT_WRITEBACK_DONE: the write-back of an evicted image ends (R210, R216). -/
def execEvictWritebackDone (slot : Nat) (expert : Nat) (ok : Bool) (s : State) : Outcome State Fault Refusal :=
  live s (s.writeBackDone slot expert ok)

/-- RES_FETCH_DONE: a fetch ends (R210, R216). -/
def execResFetchDone (slot : Nat) (expert : Nat) (ok : Bool) (s : State) : Outcome State Fault Refusal :=
  live s (s.fetchDone slot expert ok)

end Sys2Proof.Machine
end

