-- ==== Sys2Proof/Machine/Rake.lean ====
section
/-! DEFINITION. The rake engine's commands (chapter 06). -/

namespace Sys2Proof.Machine

open Host (Outcome)

/-- RAKE_STREAM_SUBMIT: a store to the stream's submit register queues a route block (R175 to R177). -/
def execRakeStreamSubmit (stream : Nat) (value : Word) (s : State) : Outcome State Fault Refusal :=
  live s (s.written fun s => s.rakeSubmit stream value)

/-- RAKE_HALF_ARM: a half of a layer and direction is armed (R177). -/
def execRakeHalfArm (value : Word) (s : State) : Outcome State Fault Refusal :=
  live s (s.written fun s => s.armHalf value)

/-- RAKE_DISPATCH: the stream's oldest forward submission is taken up (R178, R182 to R188). -/
def execRakeDispatch (stream : Nat) (s : State) : Outcome State Fault Refusal :=
  live s (s.work fun s => s.rakeDispatch stream false)

/-- BACKWARD_DISPATCH: the stream's oldest backward submission is taken up (R204, R205). -/
def execBackwardDispatch (stream : Nat) (s : State) : Outcome State Fault Refusal :=
  live s (s.work fun s => s.rakeDispatch stream true)

/-- RELEASE_ARRIVAL: a release reaches the sending rake, and pending choices go on (R186, R187). -/
def execReleaseArrival (payload : List Byte) (s : State) : Outcome State Fault Refusal :=
  live s (s.releaseMessage payload)

/-- RAKE_STREAM_CFG_WRITE: a stream is configured (R174, R202). -/
def execRakeStreamCfgWrite (stream : Nat) (value : Word) (s : State) : Outcome State Fault Refusal :=
  live s (s.written fun s => s.streamConfigure stream value)

end Sys2Proof.Machine
end

