-- ==== Sys2Proof/Machine/Sequencer.lean ====
section
/-! DEFINITION. The sequencer: fetch, plain commands, control (chapter 03). -/

namespace Sys2Proof.Machine

open Host (Outcome)

/-- COMMAND_FETCH: the next command enters its stream's slot or is rejected (R79). -/
def execCommandFetch (array : Nat) (backward : Bool) (s : State) : Outcome State Fault Refusal :=
  live s (s.commandFetch array backward)

/-- NOP: issues and does nothing (R79). -/
def execNop (array : Nat) (backward : Bool) (s : State) : Outcome State Fault Refusal :=
  live s (s.nopIssue array backward)

/-- OWN: requests a handover and holds the stream until it completes (R91). -/
def execOwn (array : Nat) (backward : Bool) (s : State) : Outcome State Fault Refusal :=
  live s (s.ownIssue array backward)

/-- WAIT: holds the stream until a window holds the threshold (R108). -/
def execWait (array : Nat) (backward : Bool) (s : State) : Outcome State Fault Refusal :=
  live s (s.waitIssue array backward)

/-- WAIT_SATISFIED: the window has reached the threshold (R108). -/
def execWaitSatisfied (array : Nat) (backward : Bool) (s : State) : Outcome State Fault Refusal :=
  live s (s.onArray array fun s => s.waitSatisfied array backward)

/-- WAIT_TIMEOUT: a WAIT ends by its limit (R108). -/
def execWaitTimeout (array : Nat) (backward : Bool) (s : State) : Outcome State Fault Refusal :=
  live s (s.onArray array fun s => s.waitTimeout array backward)

/-- FENCE: waits for the writes of earlier commands (R80, R331). -/
def execFence (array : Nat) (backward : Bool) (s : State) : Outcome State Fault Refusal :=
  live s (s.fenceIssueCmd array backward)

/-- SIGNAL: waits as FENCE, then stores its value (R80, R108). -/
def execSignal (array : Nat) (backward : Bool) (s : State) : Outcome State Fault Refusal :=
  live s (s.signalIssue array backward)

/-- RUN: `ARR_SEQ_CTRL.run` is written (R107). -/
def execRun (array : Nat) (on : Bool) (s : State) : Outcome State Fault Refusal :=
  live s (s.arrayWritten array fun s => s.seqRunWrite array on)

/-- HALT: `ARR_SEQ_CTRL.halt` is written (R107). -/
def execHalt (array : Nat) (s : State) : Outcome State Fault Refusal :=
  live s (s.arrayWritten array fun s => s.seqHalt array)

/-- CLEAR_ERROR: clear_error leaves ERROR (R106, R169). -/
def execClearError (array : Nat) (s : State) : Outcome State Fault Refusal :=
  live s (s.arrayWritten array fun s => s.seqClear array)

/-- ARR_SEQ_CFG_WRITE: heeded only while IDLE or HALTED (R107). -/
def execArrSeqCfgWrite (array : Nat) (value : Word) (s : State) : Outcome State Fault Refusal :=
  live s (s.arrayWritten array fun s => s.seqConfigure array value)

end Sys2Proof.Machine
end

