-- ==== Sys2Proof/Machine/Sideband.lean ====
section
/-! DEFINITION. The sideband and reset (R373 to R375, R426 to R430, R441, R442). Power and reset act on a package held in reset too. -/

namespace Sys2Proof.Machine

open Host (Outcome)

/-- SB_PWR_OK_LOW: every part is reset but what Hallmark and the I2C target hold (R373, R428). -/
def execSbPwrOkLow (s : State) : Outcome State Fault Refusal :=
  .next (s.settle s.powerLow)

/-- SB_RESET_N_ASSERT: the same reset, by SB_RESET_N (R373, R428). -/
def execSbResetNAssert (s : State) : Outcome State Fault Refusal :=
  .next (s.settle s.resetLow)

/-- RESET_RELEASE: straps are sampled and start-up begins (R373, R375, R429). -/
def execResetRelease (straps : Nat) (facts : StartFacts) (s : State) : Outcome State Fault Refusal :=
  .next (s.settle (s.release straps facts))

/-- SB_QUENCH_N_FALL: a falling edge held for at least 100 ns takes a quench, when enabled (R441). -/
def execSbQuenchNFall (nanoseconds : Nat) (s : State) : Outcome State Fault Refusal :=
  live s (s.quenchPin nanoseconds)

/-- I2C_TRANSFER: bytes are written or read at successive offsets of the target addressed (R373, R375). -/
def execI2cTransfer (offset : Nat) (data : List Byte) (len : Nat) (s : State) (address : Nat := 0x58) : Outcome State Fault Refusal :=
  .next (s.settle (s.i2cTransfer address offset data len))

/-- SB_PWR_OK_RAISE: power is good; reset is still held (R426). -/
def execSbPwrOkRaise (s : State) : Outcome State Fault Refusal :=
  .next (s.settle s.powerHigh)

/-- SB_QUENCH_N_DRIVE_END: the device releases the line (R373, R442). -/
def execSbQuenchNDriveEnd (s : State) : Outcome State Fault Refusal :=
  live s ({ s with obs := { s.obs with drivingQuench := false } })

end Sys2Proof.Machine
end

