-- ==== Sys2Proof/Machine/Sluice.lean ====
section
/-! DEFINITION. The sluice engine and the salter threads' control (chapter 06). -/

namespace Sys2Proof.Machine

open Host (Outcome)

/-- SLU_SUBMIT: a request enters the sluice's queue (R195). -/
def execSluSubmit (value : Word) (s : State) : Outcome State Fault Refusal :=
  live s (s.written fun s => s.sluSubmit value)

/-- GATHER: the sluice copies a group to an array (R193). -/
def execGather (s : State) : Outcome State Fault Refusal :=
  live s (s.work fun s => s.gather)

/-- RETURN: the sluice returns rows to their sources (R196, R206). -/
def execReturnRows (s : State) : Outcome State Fault Refusal :=
  live s (s.work fun s => s.returnRows)

/-- SEGMENT: the sluice sends a gradient segment (R207, R253). -/
def execSegment (s : State) : Outcome State Fault Refusal :=
  live s (s.work fun s => s.segment)

/-- RETURN_ROW_ARRIVAL: a return row reaches its source (R198, R199). -/
def execReturnRowArrival (payload : List Byte) (s : State) : Outcome State Fault Refusal :=
  live s (s.rowArrival payload)

/-- SLU_CANCEL: an epoch is cancelled (R200, R201). -/
def execSluCancel (value : Word) (s : State) : Outcome State Fault Refusal :=
  live s (s.written fun s => s.cancelEpoch (bits value 15 0))

/-- SLU_ARM: an epoch's cancellation is cleared (R201). -/
def execSluArm (value : Word) (s : State) : Outcome State Fault Refusal :=
  live s (s.written fun s => s.rearmEpoch (bits value 15 0))

/-- SALT_RUN: threads of a core are run (R213). -/
def execSaltRun (core : Nat) (threads : Nat) (s : State) : Outcome State Fault Refusal :=
  live s (s.written fun s => s.saltRun core threads)

/-- SALT_HALT: threads of a core are halted (R213). -/
def execSaltHalt (core : Nat) (threads : Nat) (s : State) : Outcome State Fault Refusal :=
  live s (s.written fun s => s.saltHalt core threads)

/-- SALTER_THREAD_FAULT: a thread faults (R213). -/
def execSalterThreadFault (core : Nat) (thread : Nat) (info : Word) (s : State) : Outcome State Fault Refusal :=
  live s (s.saltFault core thread info)

end Sys2Proof.Machine
end

