-- ==== Sys2Proof/Machine/SparseWalk.lean ====
section
/-! DEFINITION. The matcher of a sparse tile cycle by cycle: the loader and the group memories, the walk, the lane queues and their slots
(R122, R124, R127, R128, R130), and the flush through the conflict queues (R125). Cycles are array cycles counted from the tile's issue.
Nothing here reads the machine's state: `SparseOps` says what a tile's operands come to. -/

namespace Sys2Proof.Machine

/-- A failure after issue: its status, the ctile, the reason and the directory value (R118, R128, R132). -/
structure SparseFail where
  status : Nat
  ctile : Nat
  reason : Nat
  dirEntry : Nat
  deriving DecidableEq, Repr

/-- A lane-queue entry (R122): step, column, register, weight code and scale, the slots whose bit it carries, the slots that have taken
it, and the cycle in which it entered the queue. -/
structure LaneEntry where
  k : Nat
  col : Nat
  helper : Bool
  code : Nat
  e8 : Nat
  mask : Nat
  taken : Nat := 0
  entered : Nat := 0
  deriving DecidableEq, Repr

/-- A lane: what the present walk cycle still has to queue, the queue, and the entries that every slot of theirs has taken. -/
structure CellLane where
  coming : List LaneEntry := []
  queue : List LaneEntry := []
  spent : List LaneEntry := []
  deriving DecidableEq, Repr

/-- A segment as the loader reads it: the plane lines of its ctiles, and the failure it meets with the lines read before. -/
structure Segment where
  lines : Nat
  fail : Option (Nat × SparseFail)
  deriving DecidableEq, Repr

/-- A walk cycle: what it gives each lane, the cycles it is held for its lines, the failing read with its cycle, and what it counts. -/
structure WalkCycle where
  entries : List (Nat × LaneEntry)
  held : Nat
  fail : Option (Nat × SparseFail)
  special : Nat
  skipped : Nat
  differs : Nat
  deriving DecidableEq, Repr

/-- A tile as the matcher meets it: products per slot and cycle, lines per cycle of the loader, segments, walk cycles, and the steps
of each group's entries in the order they are placed. -/
structure WalkPlan where
  r : Nat
  stripe : Nat
  segments : List Segment
  cycles : List WalkCycle
  groups : List (List Nat)
  deriving DecidableEq, Repr

def WalkPlan.segment (p : WalkPlan) (g : Nat) : Segment := p.segments.getD g ⟨0, none⟩

/-- Cycles the loader takes over a segment (R122). -/
def WalkPlan.readTime (p : WalkPlan) (g : Nat) : Nat := ceilDiv (p.segment g).lines p.stripe

/-- Set bits of a mask of 32. -/
def ones (n : Nat) : Nat := ((List.range 32).filter n.testBit).length

/-- A cycle's entry into a lane queue of 16: at most 8r entries, as room appears (R124). -/
def CellLane.enter (r t : Nat) (l : CellLane) : CellLane :=
  let n := min (8 * r) (16 - l.queue.length)
  { l with coming := l.coming.drop n, queue := l.queue ++ (l.coming.take n).map fun e => { e with entered := t } }

/-- Each slot of `free` takes the oldest entry that carries its bit, has reached the slots and was not taken by it (R124). -/
def takeOldest (t : Nat) : Nat → List LaneEntry → List LaneEntry
  | _, [] => []
  | free, e :: l =>
    let got := if e.entered + 12 ≤ t then (e.mask ^^^ e.taken) &&& free else 0
    { e with taken := e.taken ||| got } :: takeOldest t (free ^^^ got) l

/-- A cycle of a lane's slots: each takes up to r entries, and an entry leaves once all its slots have taken it. -/
def CellLane.serve (r t : Nat) (l : CellLane) : CellLane :=
  let q := (List.range r).foldl (fun q _ => takeOldest t (2 ^ 32 - 1) q) l.queue
  { l with queue := q.filter fun e => e.taken != e.mask, spent := l.spent ++ q.filter fun e => e.taken == e.mask }

/-- The entries of a lane that some slot has taken. -/
def CellLane.used (l : CellLane) : List LaneEntry := (l.spent ++ l.queue).filter fun e => e.taken != 0

/-- Products that a lane's slots have formed. -/
def CellLane.products (l : CellLane) : Nat := (l.used.map fun e => ones e.taken).sum

/-- The matcher in motion. -/
structure Matcher where
  t : Nat := 6
  /-- The segment in the loader, and the cycle its reading began. -/
  seg : Nat := 0
  segAt : Nat := 6
  /-- Steps of the entries not yet placed and of those in the memories, by group. -/
  todo : List (List Nat)
  memory : List (List Nat) := [[], [], [], []]
  /-- Walk cycles done, tries of the present one, whether it has given its entries to the lanes, and when it may be tried. -/
  done : Nat := 0
  tries : Nat := 0
  given : Bool := false
  since : Nat
  lanes : List CellLane := List.replicate 32 {}
  products : Nat := 0
  busy : Nat := 0
  lastProduct : Nat := 0
  walkEnd : Nat := 0
  stallLoad : Nat := 0
  stallFeed : Nat := 0
  stallLaneq : Nat := 0
  special : Nat := 0
  skipped : Nat := 0
  differs : Nat := 0
  failed : Option SparseFail := none
  deriving DecidableEq, Repr

/-- The matcher before the loader's first cycle; the walk begins λ cycles later (R122). -/
def WalkPlan.start (p : WalkPlan) : Matcher := { todo := p.groups, since := 6 + p.readTime 0 }

/-- Whether the loader's segment is decoded. -/
def Matcher.decoded (m : Matcher) (p : WalkPlan) : Bool := m.segAt + p.readTime m.seg ≤ m.t && (p.segment m.seg).fail.isNone

/-- Segments dealt so far (R123). -/
def Matcher.dealt (m : Matcher) (p : WalkPlan) : Nat := m.seg + b2n (m.decoded p)

/-- The next step the walk will cover, 8r steps to a walk cycle (R132). -/
def Matcher.next (m : Matcher) (p : WalkPlan) : Nat := m.done * (8 * p.r)

/-- Entries of a decoded segment go into their group's memory of 256 while it has room (R122). -/
def Matcher.place (m : Matcher) (p : WalkPlan) : Matcher :=
  if !(m.decoded p) then m else
  let moved := (m.todo.zip m.memory).map fun g =>
    ((g.1.take (256 - g.2.length)).filter fun k => k < 256 * (m.seg + 1)).length
  { m with memory := (m.memory.zip (m.todo.zip moved)).map fun g => g.1 ++ g.2.1.take g.2.2
           todo := (m.todo.zip moved).map fun g => g.1.drop g.2 }

/-- The loader's cycle: it places what it has decoded and goes on to the next segment, at most one ahead of the walk (R122). -/
def Matcher.load (m : Matcher) (p : WalkPlan) : Matcher :=
  let m := m.place p
  let placed := m.todo.all fun g => g.all fun k => 256 * (m.seg + 1) ≤ k
  let m := if m.decoded p ∧ placed ∧ m.seg + 1 < p.segments.length ∧ 256 * m.seg ≤ m.next p
    then { m with seg := m.seg + 1, segAt := m.t }.place p else m
  match (p.segment m.seg).fail with
  | some (n, f) => if m.t = m.segAt + n / p.stripe then { m with failed := some f } else m
  | none => m

/-- One try of the present walk cycle: held, in the order of R130, or done (R122). -/
def Matcher.walk (m : Matcher) (p : WalkPlan) : Matcher :=
  match p.cycles[m.done]? with
  | none => m
  | some w =>
    if m.failed.isSome ∨ m.t < m.since then m else
    let held := { m with tries := m.tries + 1 }
    let past := (m.done + 1) * (8 * p.r)
    match w.fail.filter fun f => f.1 == m.tries with
    | some f => { m with failed := some f.2 }
    | none =>
      -- an entry of these steps is not loaded yet, or its ctile is one that the loader will fail to read
      let missing := p.segments.any fun g => g.fail.any fun f => 32 * f.2.ctile < past
      if missing || m.todo.any (fun g => g.any (· < past)) then { held with stallLoad := m.stallLoad + 1 }
      else if m.tries < w.held then { held with stallFeed := m.stallFeed + 1 }
      else
        let lanes := if m.given then m.lanes else m.lanes.zipIdx.map fun l =>
          { l.1 with coming := (w.entries.filter fun e => e.1 == l.2).map (·.2) }
        let lanes := lanes.map (CellLane.enter p.r m.t)
        if lanes.any fun l => !l.coming.isEmpty then
          { held with lanes := lanes, given := true, stallLaneq := m.stallLaneq + 1 }
        else
          { m with lanes := lanes, given := false, tries := 0, done := m.done + 1
                   since := m.t + 1 + w.special, walkEnd := m.t + w.special
                   memory := m.memory.map fun g => g.filter (past ≤ ·)
                   special := m.special + w.special, skipped := m.skipped + w.skipped, differs := m.differs + w.differs }

/-- The slots' cycle. -/
def Matcher.serve (m : Matcher) (p : WalkPlan) : Matcher :=
  let lanes := m.lanes.map (CellLane.serve p.r m.t)
  let n := (lanes.map CellLane.products).sum
  if n = m.products then { m with lanes := lanes }
  else { m with lanes := lanes, products := n, busy := m.busy + 1, lastProduct := m.t }

def Matcher.step (p : WalkPlan) (m : Matcher) : Matcher := (((m.load p).walk p).serve p)

/-- Whether the tile's products are formed, or it has stopped (R128). -/
def Matcher.ended (m : Matcher) (p : WalkPlan) : Bool :=
  m.failed.isSome || (m.done ≥ p.cycles.length && m.lanes.all fun l => l.queue.isEmpty)

/-- The matcher at work, at most `fuel` cycles on. -/
def Matcher.run (p : WalkPlan) : Nat → Matcher → Matcher
  | 0, m => m
  | n + 1, m =>
    let m := m.step p
    if m.ended p then m else Matcher.run p n { m with t := m.t + 1 }

/-- More cycles than any tile takes: every cycle reads a line, is held for one, has a slot take an entry, or waits the 12 cycles of
R124 after a walk cycle. -/
def WalkPlan.bound (p : WalkPlan) : Nat :=
  64 + (p.segments.map fun g => g.lines + 1).sum + (p.cycles.map fun w => 16 + w.held + w.special + w.entries.length).sum

/-- The matcher when the tile's last product is formed, or when it stops. -/
def WalkPlan.result (p : WalkPlan) : Matcher := p.start.run p p.bound

/-- C of R129: P_end − 17. -/
def Matcher.productTime (m : Matcher) : Nat := max m.lastProduct (m.walkEnd + 12) - 17

/-! ### The flush (R125) -/

/-- The flush: the words still to deliver, the entries of the conflict queues with the oldest first, the last row delivered, and what
is counted. -/
structure Flush where
  words : List (Nat × Nat)
  queue : List (Nat × Nat) := []
  row : Nat := 0
  merges : Nat := 0
  conflicts : Nat := 0
  deriving DecidableEq, Repr

/-- A bank applies up to four entries whose row the flush has passed, oldest first. -/
def Flush.apply (f : Flush) : Flush :=
  let may := f.queue.filter fun e => f.words.isEmpty || e.1 < f.row
  let now := (List.range 16).flatMap fun b => (may.filter fun e => e.2 % 16 == b).take 4
  { f with queue := f.queue.filter fun e => !(now.contains e) }

/-- Up to `n` words go to their banks' queues of eight; a word that neither merges nor finds room holds the flush. -/
def Flush.deliver : Nat → Flush → Flush
  | 0, f => f
  | n + 1, f =>
    match f.words with
    | [] => f
    | w :: ws =>
      if f.queue.contains w then Flush.deliver n { f with words := ws, row := w.1, merges := f.merges + 1 }
      else if (f.queue.filter fun e => e.2 % 16 == w.2 % 16).length < 8 then
        Flush.deliver n { f with words := ws, row := w.1, queue := f.queue ++ [w] }
      else { f with conflicts := f.conflicts + 1 }

/-- The flush to its last application, with the cycles it takes: E of R129. -/
def Flush.run : Nat → Nat → Flush → Nat × Flush
  | 0, t, f => (t, f)
  | n + 1, t, f =>
    if f.words.isEmpty ∧ f.queue.isEmpty then (t, f) else Flush.run n (t + 1) (f.apply.deliver 4)

/-- The flush of `rows` rows over the lanes' helper columns, in its fixed order. -/
def flushOf (rows : Nat) (columns : List Nat) : Nat × Flush :=
  let words := (List.range rows).flatMap fun i => columns.map fun h => (i, h)
  Flush.run (2 * words.length + 16) 0 { words := words }

end Sys2Proof.Machine
end

