-- ==== Sys2Proof/Machine/SparseOps.lean ====
section
/-! DEFINITION. Sparse tiles (chapter 04): the descriptor and its checks, the compressed form, the activation masks, the deal of
entries to lanes, the order of every sum, the end phase and the failures after issue. -/

namespace Sys2Proof.Machine

/-! ### Compressed tiles (R115 to R118) -/

/-- An entry of the compressed operand: step, column, code and block scale. -/
structure WEntry where
  k : Nat
  j : Nat
  code : Nat
  e8 : Nat
  deriving DecidableEq, Repr

/-- Positions of a BITMAP payload in ascending order. -/
def bitmapPositions (bm : List Byte) : List Nat :=
  (List.range 1024).filter fun p => (byteAt bm (p / 8)) / 2 ^ (p % 8) % 2 == 1

/-- Code n of a packed list (R45, R117). -/
def packedCode (bs : List Byte) (fmt n : Nat) : Nat :=
  if fmt = 0 then (if n % 2 = 0 then byteAt bs (n / 2) % 16 else byteAt bs (n / 2) / 16) else byteAt bs n

def ascending : List Nat → Bool
  | a :: b :: l => a < b && ascending (b :: l)
  | _ => true

/-- The payload of a ctile as positions and codes, or the reason it breaks R118. -/
def ctilePayload (enc fmt nnz : Nat) (bs : List Byte) : Except Nat (List (Nat × Nat)) :=
  if enc = 0 then
    let cs := (List.range 1024).map fun p => (p, packedCode bs fmt p)
    if (cs.filter fun x => x.2 != 0).length ≠ nnz then .error 5 else .ok (cs.filter fun x => x.2 != 0)
  else if enc = 1 then
    let ps := bitmapPositions (bs.take 128)
    if ps.length ≠ nnz then .error 5
    else .ok (ps.zipIdx.map fun x => (x.1, packedCode (bs.drop 128) fmt x.2))
  else
    let es := (List.range nnz).map fun n => num bs (2 * n) 2
    if es.any (· ≥ 1024) ∨ !(ascending es) then .error 6
    else .ok (es.zipIdx.map fun x => (x.1, packedCode (bs.drop (2 * nnz)) fmt x.2))

/-- Payload bytes of an encoding (R117). -/
def payloadBytes (enc fmt nnz : Nat) : Nat :=
  let codes := ceilDiv (nnz * halfBytes fmt) 2
  if enc = 0 then 512 * halfBytes fmt else if enc = 1 then 128 + codes else 2 * nnz + codes

/-- A ctile as the loader reads it: the plane lines it reads, its entries for columns below n_cols, and the failure met, with the line
that shows it (none: the directory entry) (R122, R128). -/
structure CtileRead where
  lines : List Nat := []
  entries : List WEntry := []
  fail : Option (Option Nat × SparseFail) := none
  deriving DecidableEq, Repr

/-- Lines of 64 bytes that a span covers. -/
def planeLines (off n : Nat) : List Nat := if n = 0 then [] else (List.range ((off + n - 1) / 64 - off / 64 + 1)).map (off / 64 + ·)

/-- Reads ctile t (R115 to R118). What the header's first words show is known with the header's first line, a poisoned word with its own
line, and a payload that disagrees with its header with the payload's last line; of several faults that one header shows, enc comes before fmt, fmt
before nnz and nnz before the length (DEDUCED, log 44). -/
def State.readCtile (s : State) (a : Nat) (c : TileCmd) (d : SparseDesc) (t : Nat) : CtileRead :=
  let da := d.dirAddr + 4 * t * d.dirStride
  let e := leNat (s.sram a da 4)
  let failure := fun (status reason : Nat) => ({ status := status, ctile := t, reason := reason, dirEntry := e } : SparseFail)
  let entry := fun (status reason : Nat) => ({ fail := some (none, failure status reason) } : CtileRead)
  let at' := fun (line : Nat) (status reason : Nat) =>
    ({ lines := (List.range (line + 1 - e / 64)).map (e / 64 + ·), fail := some (some line, failure status reason) } : CtileRead)
  if s.sramPoison a da 4 then entry 6 7
  else if e = 0xFFFFFFFF then {}
  else if e ≥ 2 ^ 19 ∨ e % 32 ≠ 0 then entry 0x13 1
  else if e + 40 > 64 * d.bLines then entry 0x13 2
  else
    let rd := fun x n => (List.range n).map fun o => s.byte (sramKey a (stripedOffset c.bAddr d.bStripe (x + o)))
    let bad := fun x n => (List.range n).find? fun o => s.sramPoison a (stripedOffset c.bAddr d.bStripe (x + o)) 1
    let h := rd e 40
    let enc := byteAt h 0
    let nnz := num h 2 2
    let n := payloadBytes enc c.fmtB nnz
    let last := (e + 40 + n - 1) / 64
    match bad e 4 with
    | some _ => at' (e / 64) 6 7
    | none =>
    if enc > 2 then at' (e / 64) 0x14 3
    else if byteAt h 1 ≠ c.fmtB then at' (e / 64) 0x14 4
    else if nnz > 1024 then at' (e / 64) 0x14 5
    else if e + ceilDiv (40 + n) 32 * 32 > 64 * d.bLines then at' (e / 64) 0x13 2
    else match bad e (40 + n) with
    | some o => at' ((e + o) / 64) 6 7
    | none => match ctilePayload enc c.fmtB nnz (rd (e + 40) n) with
      | .error r => at' last 0x14 r
      | .ok ps =>
        { lines := planeLines e (40 + n)
          entries := (ps.map fun x =>
            let row := x.1 / 32
            let col := x.1 % 32
            let e8 := byteAt h (8 + row)
            if c.transB then { k := 32 * t + row, j := col, code := x.2, e8 := e8 }
            else { k := 32 * t + col, j := row, code := x.2, e8 := e8 }).filter fun (w : WEntry) => w.j < c.nCols }

/-- A segment's plane lines and entries, up to the first failure of its ctiles. -/
structure SegmentRead where
  lines : List Nat := []
  entries : List WEntry := []
  /-- Lines read before the failing read. -/
  fail : Option (Nat × SparseFail) := none
  deriving DecidableEq, Repr

/-- The loader reads ctiles 8g to 8g + 7 in order (R122). -/
def State.readSegment (s : State) (a : Nat) (c : TileCmd) (d : SparseDesc) (g : Nat) : SegmentRead :=
  (List.range (min 8 (c.kLen / 32 - 8 * g))).foldl (fun (r : SegmentRead) x =>
    if r.fail.isSome then r else
    let q := s.readCtile a c d (8 * g + x)
    let lines := (r.lines ++ q.lines).eraseDups
    { lines := lines, entries := r.entries ++ q.entries
      fail := q.fail.map fun f => (match f.1 with
        | some l => lines.idxOf l
        | none => lines.length, f.2) }) {}

/-! ### Activations (R120, R121) -/

/-- Element (i, k) of A with its block scale. -/
def State.activation (s : State) (a : Nat) (c : TileCmd) (d : SparseDesc) (i k : Nat) : LogVal × Nat :=
  match tileFmt c.fmtA with
  | none => (.nan, 0xFF)
  | some f =>
    let half := (k * 32 + i) * halfBytes c.fmtA
    let b := (s.byte (sramKey a (stripedOffset c.aAddr d.aStripe (half / 2)))).toNat
    let code := if c.fmtA = 0 then (if half % 2 = 0 then b % 16 else b / 16) else b
    let e8 := (s.byte (sramKey a (c.aScale + k))).toNat
    (f.read code e8, e8)

/-- A mask of the rows below `n` for which a condition holds. -/
def rowMask (n : Nat) (p : Nat → Bool) : Nat := (((List.range n).filter p).map (2 ^ ·)).sum

/-- The masks nz and nf that a column's codes and block scale show (R120): an element of a void block is NaN, so it is non-zero. -/
def State.observed (s : State) (a : Nat) (c : TileCmd) (d : SparseDesc) (k : Nat) : Nat × Nat :=
  (rowMask c.mRows fun i => (s.activation a c d i k).1 != .zero,
   rowMask c.mRows fun i => let v := (s.activation a c d i k).1; v.isNan || v.isInf)

/-- The masks of the record plane within m_rows, nz read as nz or nf (R120). -/
def State.recorded (s : State) (a : Nat) (c : TileCmd) (d : SparseDesc) (k : Nat) : Nat × Nat :=
  let w := leNat ((List.range 8).map fun o => s.byte (sramKey a (stripedOffset d.recAddr d.aStripe (8 * k + o))))
  let nf := w / 2 ^ 32
  ((w ||| nf) % 2 ^ c.mRows, nf % 2 ^ c.mRows)

/-- What the walk knows of a step: its masks, whether its column is read, and whether a column read differs from the record (R121). -/
structure StepMask where
  k : Nat
  nz : Nat
  nf : Nat
  read : Bool
  differs : Bool
  deriving DecidableEq, Repr

def State.stepMask (s : State) (a : Nat) (c : TileCmd) (d : SparseDesc) (hit : Bool) (k : Nat) : StepMask :=
  if d.record then
    let m := s.recorded a c d k
    let read := hit || m.2 != 0
    { k := k, nz := m.1, nf := m.2, read := read, differs := read && s.observed a c d k != m }
  else
    let m := s.observed a c d k
    { k := k, nz := m.1, nf := m.2, read := true, differs := false }

/-- The scratchpad spans that a step's activation reads cover: its column with the scale byte, and its record (R121, R122). -/
def StepMask.spans (c : TileCmd) (d : SparseDesc) (m : StepMask) : List (Nat × Nat) :=
  (if m.read then [(stripedOffset c.aAddr d.aStripe (m.k * c.stepBytes), c.stepBytes), (c.aScale + m.k, 1)] else []) ++
  (if d.record then [(stripedOffset d.recAddr d.aStripe (8 * m.k), 8)] else [])

/-! ### The deal (R123) -/

/-- A dealt chunk: the lane, whether it takes the helper register, its column and its entries. -/
structure Chunk where
  lane : Nat
  helper : Bool
  col : Nat
  entries : List WEntry
  deriving DecidableEq, Repr

structure Deal where
  chunks : List Chunk := []
  /-- Helper columns of the lanes, kept for the rest of the tile. -/
  helperCol : List (Nat × Nat) := []
  pointer : Nat := 0
  split : Nat := 0
  absorb : Nat := 0
  deriving DecidableEq, Repr

/-- One helper chunk goes to the first lane that qualifies, searched cyclically from the pointer, or stays home. -/
def Deal.place (d : Deal) (j : Nat) (es : List WEntry) : Deal :=
  let order := (List.range 32).map fun x => (d.pointer + x) % 32
  match order.find? fun l => l != j && (match d.helperCol.lookup l with
      | none => true
      | some h => h == j) with
  | some l =>
    { d with chunks := d.chunks ++ [⟨l, true, j, es⟩]
             helperCol := if (d.helperCol.lookup l).isSome then d.helperCol else d.helperCol ++ [(l, j)]
             pointer := (l + 1) % 32, split := d.split + 1 }
  | none => { d with chunks := d.chunks ++ [⟨j, false, j, es⟩], absorb := d.absorb + 1 }

/-- Deals one segment: the rows' first chunks go home, then the helper chunks in ascending column and chunk. -/
def Deal.segment (rowsplit : Nat) (d : Deal) (es : List WEntry) : Deal :=
  let rows := (List.range 32).map fun j =>
    (j, chunksOf rowsplit 256 ((es.filter fun w => w.j == j).mergeSort fun x y => x.k ≤ y.k))
  let d := { d with pointer := 0 }
  let d := rows.foldl (fun d r => match r.2 with
    | [] => d
    | c :: _ => { d with chunks := d.chunks ++ [⟨r.1, false, r.1, c⟩] }) d
  rows.foldl (fun d r => (r.2.drop 1).foldl (fun d c => d.place r.1 c) d) d

/-- The deal of the first segments. -/
def dealAll (rowsplit : Nat) (segments : List (List WEntry)) : Deal := segments.foldl (Deal.segment rowsplit) {}

/-- The helper columns of the lanes that have one, in ascending lane. -/
def Deal.columns (d : Deal) : List Nat := (List.range 32).filterMap fun l => d.helperCol.lookup l

/-! ### The plan of a walk -/

/-- A sparse tile with its operands read: its segments, the masks of its steps, the deal, and what the matcher makes of them. -/
structure SparseRun where
  reads : List SegmentRead
  masks : List StepMask
  deal : Deal
  plan : WalkPlan
  result : Matcher
  deriving DecidableEq, Repr

/-- The dealt entries as the lanes queue them: lane, and the entry with its column's mask. -/
def Deal.queued (d : Deal) (masks : List StepMask) : List (Nat × LaneEntry) :=
  (d.chunks.flatMap fun ch => ch.entries.map fun w =>
    (ch.lane, { k := w.k, col := ch.col, helper := ch.helper, code := w.code, e8 := w.e8
                mask := (masks.getD w.k ⟨0, 0, 0, false, false⟩).nz : LaneEntry })).mergeSort
    fun x y => x.2.k < y.2.k || (x.2.k == y.2.k && (!x.2.helper || y.2.helper))

def badWeight (fb : LogFmt) (code e8 : Nat) : Bool := (fb.read code e8).isNan || (fb.read code e8).isInf

/-- A walk cycle (R122): entries with an empty mask are dropped; its lines are those of its columns, scale bytes and records, a bank
serving them one a cycle in ascending order; a poisoned word fails it in the cycle of its line; each step with a special term costs
one cycle more, however many it has (R127; DEDUCED, log 44). -/
def State.walkCycle (s : State) (a : Nat) (c : TileCmd) (d : SparseDesc) (fb : LogFmt) (entries : List (Nat × LaneEntry))
    (masks : List StepMask) : WalkCycle :=
  let spans := masks.flatMap fun m => (m.spans c d).map fun sp => (m.k, sp)
  let lines := (spans.flatMap fun x => planeLines x.2.1 x.2.2).eraseDups
  let turn := fun l => (lines.filter fun x => x / 512 == l / 512 && x < l).length
  let fails := spans.flatMap fun x => (planeLines x.2.1 x.2.2).filterMap fun l =>
    let lo := max x.2.1 (64 * l)
    if s.sramPoison a lo (min (x.2.1 + x.2.2) (64 * l + 64) - lo) then some (turn l, x.1) else none
  let first := fails.foldl (fun (b : Option (Nat × Nat)) f => match b with
    | none => some f
    | some g => if f.1 < g.1 || (f.1 == g.1 && f.2 < g.2) then some f else some g) none
  { entries := entries.filter fun e => e.2.mask != 0
    held := (lines.map turn).foldl max 0
    fail := first.map fun f =>
      (f.1, { status := 6, ctile := f.2 / 32, reason := 7, dirEntry := leNat (s.sram a (d.dirAddr + 4 * (f.2 / 32) * d.dirStride) 4) })
    special := (masks.filter fun m => m.nf != 0 || entries.any fun e => e.2.k == m.k && badWeight fb e.2.code e.2.e8).length
    skipped := (entries.filter fun e => e.2.mask == 0).length
    differs := (masks.filter (·.differs)).length }

/-- The tile's operands, deal and walk. -/
def State.sparseRun (s : State) (a : Nat) (c : TileCmd) (d : SparseDesc) (fb : LogFmt) : SparseRun :=
  let r := if c.fmtA = 0 ∧ c.fmtB = 0 then 2 else 1
  let rs := if d.rowsplit = 0 then s.fld SPM_CFG.rowsplit a else d.rowsplit
  let reads := (List.range (ceilDiv c.kLen 256)).map (s.readSegment a c d)
  let es := reads.flatMap (·.entries)
  let masks := (List.range c.kLen).map fun k => s.stepMask a c d (es.any fun w => w.k == k) k
  let deal := dealAll rs (reads.map (·.entries))
  let queued := deal.queued masks
  let plan : WalkPlan :=
    { r := r, stripe := d.bStripe
      segments := reads.map fun g => { lines := g.lines.length, fail := g.fail }
      cycles := (List.range (ceilDiv c.kLen (8 * r))).map fun w =>
        s.walkCycle a c d fb (queued.filter fun e => e.2.k / (8 * r) == w) ((masks.drop (8 * r * w)).take (8 * r))
      groups := (List.range 4).map fun g => (queued.filter fun e => e.1 / 8 == g).map (·.2.k) }
  { reads := reads, masks := masks, deal := deal, plan := plan, result := plan.result }

/-- Segments that the loader had dealt when the run ended, and the steps that the walk had covered. -/
def SparseRun.segments (x : SparseRun) : List SegmentRead := x.reads.take (x.result.dealt x.plan)

def SparseRun.covered (x : SparseRun) : List StepMask := x.masks.take (x.result.next x.plan)

/-- Entries loaded: those the loader had placed (R133). -/
def SparseRun.loaded (x : SparseRun) : Nat :=
  (x.plan.groups.map List.length).sum - (x.result.todo.map List.length).sum

/-- The scratchpad spans read when the run ended: the directory entries and ctiles of the segments taken up, and the reads of the walk
cycles tried. -/
def SparseRun.spans (x : SparseRun) (c : TileCmd) (d : SparseDesc) : List (Nat × Nat) :=
  let segs := min x.reads.length (x.result.seg + 1)
  ((List.range (min (c.kLen / 32) (8 * segs))).map fun t => (d.dirAddr + 4 * t * d.dirStride, 4)) ++
  ((x.reads.take segs).flatMap fun g => g.lines.map fun l => (stripedOffset c.bAddr d.bStripe (64 * l), 64)) ++
  ((x.masks.take (x.result.next x.plan + 8 * x.plan.r)).flatMap fun m => m.spans c d)

/-! ### The sums (R124, R126, R127) -/

/-- The sum of one register of a lane's slot i over the entries that the slot has taken, in ascending k (R124). -/
def State.registerSum (s : State) (a : Nat) (c : TileCmd) (d : SparseDesc) (fb : LogFmt) (l : CellLane) (helper : Bool) (i : Nat) : Sum :=
  let es := (l.used.filter fun e => e.helper == helper && e.taken.testBit i).mergeSort fun x y => x.k ≤ y.k
  es.foldl (fun r e =>
    let x := s.activation a c d i e.k
    r.take (logProduct x.1 (fb.read e.code e.e8) x.2 e.e8)) {}

/-- The special terms of an element in ascending k (R127): steps, and the weight entry, absent as +0. -/
def specialSteps (fb : LogFmt) (masks : List StepMask) (es : List WEntry) (i j : Nat) : List (StepMask × Option WEntry) :=
  masks.filterMap fun m =>
    let w := es.find? fun w => w.k == m.k && w.j == j
    if m.nf.testBit i || w.any (fun w => badWeight fb w.code w.e8) then some (m, w) else none

/-- The value and records of an element's special terms alone. -/
def State.specialSum (s : State) (a : Nat) (c : TileCmd) (d : SparseDesc) (fb : LogFmt) (terms : List (StepMask × Option WEntry))
    (i : Nat) : Sum :=
  terms.foldl (fun r t =>
    let x := s.activation a c d i t.1.k
    let av := if t.1.nz.testBit i then x.1 else LogVal.zero
    match t.2 with
    | none => r.take (logProduct av .zero x.2 0x7F)
    | some w => r.take (logProduct av (fb.read w.code w.e8) x.2 w.e8)) {}

/-- Terms no slot formed: an absent weight, or an activation whose nz bit is 0 (R130). -/
def unformed (terms : List (StepMask × Option WEntry)) (i : Nat) : Nat :=
  (terms.filter fun t => t.2.isNone || !(t.1.nz.testBit i)).length

/-- What a sparse tile has formed: home sums, helper sums merged per word, and the special terms that no slot formed. -/
structure SparseResult where
  home : List Cell := []
  helpers : List Cell := []
  extra : Nat := 0
  deriving DecidableEq, Repr

/-- One element (R126, R127): its home sum and its helper sums merged in ascending lane, or its special value alone. -/
def State.sparseElement (s : State) (a : Nat) (c : TileCmd) (d : SparseDesc) (fb : LogFmt) (x : SparseRun) (es : List WEntry)
    (i j : Nat) : SparseResult :=
  let lane := fun l => x.result.lanes.getD l {}
  let home := s.registerSum a c d fb (lane j) false i
  let regs := ((List.range 32).filter fun l => x.deal.helperCol.lookup l == some j).map fun l => s.registerSum a c d fb (lane l) true i
  let helpers := match regs with
    | [] => []
    | r :: rs =>
      let m := rs.foldl (fun (q : Sum) (r : Sum) =>
        let z := accumulate q.value r.value
        { value := z.1, exc := q.exc ||| r.exc ||| z.2, products := q.products + r.products }) r
      [(⟨i, j, m.value.bits32, m.exc⟩ : Cell)]
  let terms := specialSteps fb x.covered es i j
  if terms.isEmpty then { home := [⟨i, j, home.value.bits32, home.exc⟩], helpers := helpers, extra := 0 }
  else
    let sp := s.specialSum a c d fb terms i
    { home := [⟨i, j, sp.value.bits32, sp.exc⟩], helpers := [], extra := unformed terms i }

/-- Every element of the tile, by what its run has formed. -/
def State.sparseResult (s : State) (a : Nat) (c : TileCmd) (d : SparseDesc) (fb : LogFmt) (x : SparseRun) : SparseResult :=
  let es := x.segments.flatMap (·.entries)
  (cellsOf c.mRows c.nCols).foldl (fun (r : SparseResult) ij =>
    let q := s.sparseElement a c d fb x es ij.1 ij.2
    { home := r.home ++ q.home, helpers := r.helpers ++ q.helpers, extra := r.extra + q.extra }) {}

/-! ### Issue and end -/

/-- What a run counts (R110, R130, R133). -/
def State.countSparse (s : State) (a : Nat) (x : SparseRun) (deal : Deal) : State :=
  let m := x.result
  let s := s.bump SPM_PERF_ENTRIES.count a 0 x.loaded
  let s := s.bump SPM_PERF_PAIRS.count a 0 m.products
  let s := s.bump SPM_PERF_SKIP_ACT.count a 0 m.skipped
  let s := s.bump SPM_PERF_SPLIT.count a 0 deal.split
  let s := s.bump SPM_PERF_ABSORB.count a 0 deal.absorb
  let s := s.bump SPM_PERF_MISPREDICT.count a 0 m.differs
  let s := s.bump SPM_PERF_SPECIAL.count a 0 m.special
  let s := s.bump SPM_PERF_STALL_LANEQ.count a 0 m.stallLaneq
  let s := s.bump SPM_PERF_STALL_FEED.count a 0 m.stallFeed
  let s := s.bump SPM_PERF_STALL_LOAD.count a 0 m.stallLoad
  s.bump ARR_PERF_BUSY.count a 0 m.busy

/-- The job that an issued sparse tile comes to: formed whole, with its flush to come, or stopped by the first failing read, with what
its slots had formed by then (R128, R129). -/
def State.sparseChoose (s : State) (a : Nat) (c : TileCmd) (d : SparseDesc) (fb : LogFmt) (offset : Nat) : Job × State :=
  let met := s.sramMeet a (d.spans c)
  let x := met.sparseRun a c d fb
  let s := s.sramMeet a (x.spans c d)
  let r := met.sparseResult a c d fb x
  let m := x.result
  let job : Job :=
    { kind := .sparse, sparse := true, walkK := min c.kLen (m.next x.plan), errInfo := 0, backward := c.backward
      tileId := BitVec.ofNat 32 c.tileId, offset := offset, accLine := c.accLine, rows := c.mRows, cols := c.nCols
      accumulates := c.accumulates, toVec := c.toVec, sums := r.home, helpers := r.helpers, poisoned := [], record := {}
      cycles := 20 + m.productTime, stalled := 0, products := m.products + r.extra, status := 0 }
  let s := (s.setFld SPM_STATUS.state a 0 1).setFld SPM_STATUS.walk_k a 0 0
  match m.failed with
  | some e =>
    let rs := if d.rowsplit = 0 then s.fld SPM_CFG.rowsplit a else d.rowsplit
    let s := s.countSparse a x (dealAll rs (x.segments.map (·.entries)))
    ({ job with kind := .stopped, cycles := m.t + 2, status := e.status, phases := if m.done = 0 ∧ m.t < m.since then [] else [2]
                errInfo := BitVec.ofNat 64 (e.ctile * 2 ^ 48 + e.reason * 2 ^ 40 + e.dirEntry) }, s)
  | none =>
    let s := s.countSparse a x x.deal
    let cols := x.deal.columns
    if cols.isEmpty then ({ job with phases := [2, 4] }, s) else
    let f := flushOf c.mRows cols
    let s := s.bump SPM_PERF_MERGE.count a 0 f.2.merges
    let s := s.bump SPM_PERF_STALL_CONFLICT.count a 0 f.2.conflicts
    ({ job with cycles := job.cycles + f.1, phases := [2, 3, 4] }, s)

/-- Every check of a sparse tile (R81, R114): with a poisoned descriptor SRAM_UE stands for all that rest on it, and a descriptor beyond
the scratchpad breaks SP_RANGE. -/
def State.sparseChecks (s : State) (a : Nat) (backward : Bool) (c : TileCmd) : List (Nat × Bool) :=
  let descAt := c.sparseMeta % 2 ^ 19
  c.checks ++ spMode c ++ [(5, s.refuses a ownSeq (s.sparseSpans a c)), (0x28, s.wrongClass a backward c.backward)] ++
    (if descAt + 32 > 0x50000 then [(0x12, true)]
     else if s.sramPoison a descAt 32 then [(6, true)]
     else (SparseDesc.parse (s.sram a descAt 32)).checks c)

/-- The sparse TILE at a stream's head (R111, R114): rejected with the lowest code, held while a bank is still to become SEQ's (R92), or
issued alone on the cells (R129). The descriptor is read at once, for the checks. -/
def State.sparseIssue (s : State) (a : Nat) (backward : Bool) : State :=
  match s.head a backward 1 with
  | none => s
  | some f =>
    let c := TileCmd.parse f.bytes
    if !c.sparse ∨ c.frozen then s else
    if s.holdsBack a ownSeq (s.sparseSpans a c) ∧
      (firstFailure (c.checks ++ spMode c ++ [(5, s.refuses a ownSeq (s.sparseSpans a c))])).isNone then s else
    let s := s.sramMeet a [(c.sparseMeta % 2 ^ 19, 32)]
    match firstFailure (s.sparseChecks a backward c) with
    | some code => (s.noteRefusal a ownSeq (s.sparseSpans a c) code).rejectTile a backward c f.offset code
    | none =>
      if !(s.turnAllows a backward) ∨ !(s.matrixFree a c.accLine c.mRows true c.toVec backward) then s else
      match tileFmt c.fmtB with
      | none => s
      | some fb =>
        let (j, s) := s.sparseChoose a c (SparseDesc.parse (s.sram a (c.sparseMeta % 2 ^ 19) 32)) fb f.offset
        s.startJob a backward j

/-- A sparse tile in work passes through LOAD, WALK, FLUSH and WRITEBACK as `SPM_STATUS` shows them; a stopped one stays in the phase
that failed (R132; the passage of time: log 11). -/
def State.sparseProgress (s : State) (a : Nat) : State :=
  match (s.array a).jobs with
  | [] => s
  | j :: _ =>
    match j.phases with
    | [] => s
    | p :: ps =>
      let s := s.mapArray a fun x => { x with jobs := { j with phases := ps } :: x.jobs.drop 1 }
      let s := s.setFld SPM_STATUS.state a 0 p
      if p = 2 then s.setFld SPM_STATUS.walk_k a 0 j.walkK else s

/-- The flush's word: accumulate(word, merged entry), where a word this tile has not written reads as +0 when accumulate is 0; a
poisoned word that is read stays (R78, R125, R126). -/
def State.flushWord (s : State) (a : Nat) (j : Job) (h : Cell) : Option (BitVec 32) × Exc :=
  if j.accumulates then s.wordResult a j.accLine true h
  else
    let z := accumulate .zero (a32 h.value.toNat)
    (some z.1.bits32, h.exc ||| z.2)

/-- The home write-back's word: accumulate(word, home sum), with the events the element has met in the flush. -/
def State.homeWord (s : State) (a : Nat) (j : Job) (flushed : List (Cell × Option (BitVec 32) × Exc)) (c : Cell) :
    Option (BitVec 32) × Exc :=
  match flushed.find? fun f => f.1.row == c.row && f.1.col == c.col with
  | none => s.flushWord a j c
  | some f =>
    let off := regionWord j.accLine c.row c.col
    if s.isPoisoned (accUnit a off) then (none, c.exc ||| f.2.2)
    else
      let z := accumulate (a32 (s.accWord a off).toNat) (a32 c.value.toNat)
      (some z.1.bits32, c.exc ||| f.2.2 ||| z.2)

/-- The end phase (R125, R126): each word receives its starting value, the merged helper sums, then the home sum. An element's events
count once, whichever stage met them (R73). -/
def State.sparseEnd (s : State) (a : Nat) : State :=
  match (s.array a).jobs with
  | [] => s
  | j :: _ =>
    if j.kind ≠ .sparse ∨ (j.toVec ∧ !(s.flag FBI_CFG.enable a) ∧ (s.array a).tq.length ≥ 8) then s else
    let (W, s) := s.writebackCycles j.rows
    let s := if j.accumulates then s.sramMeet a (regionSpans j.accLine j.rows j.cols) else s
    let flushed := j.helpers.map fun h => (h, s.flushWord a j h)
    let s := flushed.foldl (fun s f => match f.2.1 with
      | none => s
      | some v => s.writeRow a j.accLine f.1.row [(f.1.col, v)]) s
    let s := s.sramMeet a (j.helpers.map fun h => (accBase + regionWord j.accLine h.row h.col, 4))
    let home := j.sums.map fun c => (c, s.homeWord a j flushed c)
    let s := (List.range j.rows).foldl (fun s i => s.writeRow a j.accLine i
      ((home.filter fun h => h.1.row == i).filterMap fun h => h.2.1.map fun v => (h.1.col, v))) s
    let r := home.foldl (fun (r : Record) h => r.element h.2.2) {}
    let status := if home.any fun h => h.2.1.isNone then 6 else 0
    let s := s.bump SPM_PERF_TILES.count a 0 1
    let s := (s.setFld SPM_STATUS.state a 0 0).setFld SPM_STATUS.walk_k a 0 j.walkK
    let s := if status = 0 then s else s.setFld SPM_STATUS.last_err a 0 status
    let s := if j.toVec then s.appendTq a j (j.record.join r).bits else s
    s.finishJob a j r status (j.cycles + W)

/-- A stopped sparse tile writes its trailer and puts the sequencer into ERROR (R128); `SPM_ERR_INFO` names the ctile and the reason. -/
def State.sparseStop (s : State) (a : Nat) : State :=
  match (s.array a).jobs with
  | [] => s
  | j :: _ =>
    if j.kind ≠ .stopped ∨ !j.sparse then s else
    let s := s.wr .SPM_ERR_INFO a 0 j.errInfo
    let s := s.setFld SPM_STATUS.last_err a 0 j.status
    let s := (s.setFld SPM_STATUS.state a 0 0).setFld SPM_STATUS.walk_k a 0 j.walkK
    let s := s.finishJob a { j with status := 0 } (cellsRecord j.sums) j.status j.cycles
    s.syncSeq a

end Sys2Proof.Machine
end

