-- ==== Sys2Proof/Machine/Sparse.lean ====
section
/-! DEFINITION. Sparse tiles (chapter 04). -/

namespace Sys2Proof.Machine

open Host (Outcome)

/-- SPARSE_TILE: a sparse TILE is checked with its descriptor and issued (R111 to R124, R129). -/
def execSparseTile (array : Nat) (backward : Bool) (s : State) : Outcome State Fault Refusal :=
  live s (s.sparseIssue array backward)

/-- SPARSE_END_PHASE: helper sums are flushed and home sums written back (R125, R126). -/
def execSparseEndPhase (array : Nat) (s : State) : Outcome State Fault Refusal :=
  live s (s.onArray array fun s => s.sparseEnd array)

/-- SPARSE_TILE_STOP: a sparse tile that failed ends with its trailer (R128). -/
def execSparseTileStop (array : Nat) (s : State) : Outcome State Fault Refusal :=
  live s (s.onArray array fun s => s.sparseStop array)

/-- SPM_CFG_WRITE: a rowsplit outside 8 to 256 is ignored (R132). -/
def execSpmCfgWrite (array : Nat) (value : Word) (s : State) : Outcome State Fault Refusal :=
  live s (s.arrayWritten array fun s => s.spmConfigure array value)

end Sys2Proof.Machine
end

