-- ==== Sys2Proof/Machine/Stages.lean ====
section
/-! DEFINITION. The stage controller's queues, admission and stockpile (chapter 07). -/

namespace Sys2Proof.Machine

open Host (Outcome)

/-- STG_STEP_ARM: a step is armed, in IDLE or DONE (R224, R242). -/
def execStgStepArm (value : Word) (s : State) : Outcome State Fault Refusal :=
  live s (s.written fun s => s.stepArm value)

/-- STG_ARRIVE: an entry has arrived and is checked (R221, R225, R226, R244). -/
def execStgArrive (value : Word) (s : State) : Outcome State Fault Refusal :=
  live s (s.written fun s => s.stgArrive value)

/-- ADMISSION: the waiting span-0 entry is looked at again (R228, R229). -/
def execAdmission (slot : Nat) (s : State) : Outcome State Fault Refusal :=
  live s (s.work fun s => s.evaluate slot)

/-- STG_RELEASE: an entry is released and its credit sent (R222). -/
def execStgRelease (value : Word) (s : State) : Outcome State Fault Refusal :=
  live s (s.written fun s => s.stgRelease value)

/-- CREDIT_MESSAGE: a credit arrives at the sending controller (R222, R244). -/
def execCreditMessage (payload : List Byte) (s : State) : Outcome State Fault Refusal :=
  live s (s.creditMessage payload)

/-- STK_REQ: chunks are asked for (R230 to R234). -/
def execStkReq (value : Word) (s : State) : Outcome State Fault Refusal :=
  live s (s.written fun s => s.stkReq value)

/-- STK_GRANT: held requests are looked at again (R229, R231). -/
def execStkGrant (slot : Nat) (s : State) : Outcome State Fault Refusal :=
  live s (s.work fun s => s.evaluate slot)

/-- STK_FREE: a micro-batch's chunks are freed (R232, R234, R238). -/
def execStkFree (value : Word) (s : State) : Outcome State Fault Refusal :=
  live s (s.written fun s => s.stkFree value)

/-- STAGE_RECORD_WRITE: held records go to windows that have room (R223). -/
def execStageRecordWrite (slot : Nat) (s : State) : Outcome State Fault Refusal :=
  live s (s.evaluate slot)

/-- STK_HWM_REARM: the high-water marks take present usage (R235). -/
def execStkHwmRearm (slot : Nat) (s : State) : Outcome State Fault Refusal :=
  live s (s.written fun s => s.rearmHwm slot)

end Sys2Proof.Machine
end

