-- ==== Sys2Proof/Machine/Steps.lean ====
section
/-! DEFINITION. The step's end: aborts, the root's commit point, COMMIT, clearing (chapter 07). -/

namespace Sys2Proof.Machine

open Host (Outcome)

/-- STG_ABORT: software asks for an abort (R238). -/
def execStgAbort (value : Word) (s : State) : Outcome State Fault Refusal :=
  live s (s.written fun s => s.softAbort (bits value 7 0))

/-- LOCAL_DONE: a package's LOCAL_DONE reaches the root (R239). -/
def execLocalDone (payload : List Byte) (s : State) : Outcome State Fault Refusal :=
  live s (s.localDoneMessage payload)

/-- ABORT: a package's ABORT reaches the root (R239). -/
def execAbort (payload : List Byte) (s : State) : Outcome State Fault Refusal :=
  live s (s.abortMessage payload)

/-- COMMIT: COMMIT reaches a package (R240, R241, R266, R339, R446). -/
def execCommit (payload : List Byte) (s : State) : Outcome State Fault Refusal :=
  live s (s.commitMessage payload)

/-- STG_CLEAR: queue state is cleared after an abort (R241). -/
def execStgClear (value : Word) (s : State) : Outcome State Fault Refusal :=
  live s (s.written fun s => s.stageClear value)

/-- CLEARED: a package's CLEARED reaches the root (R242). -/
def execCleared (payload : List Byte) (s : State) : Outcome State Fault Refusal :=
  live s (s.clearedMessage payload)

/-- READY: READY reaches a package (R242). -/
def execReady (payload : List Byte) (s : State) : Outcome State Fault Refusal :=
  live s (s.readyMessage payload)

end Sys2Proof.Machine
end

