-- ==== Sys2Proof/Machine/Temper.lean ====
section
/-! DEFINITION. The temper units (chapter 08). Each command also writes held READY records whose windows have room (R267). -/

namespace Sys2Proof.Machine

open Host (Outcome)

/-- TMP_SEG_ARRIVE: a gradient segment has arrived and is checked (R253, R254). -/
def execTmpSegArrive (value : Word) (s : State) : Outcome State Fault Refusal :=
  live s (s.writtenAt [0, 1] fun s => (s.segArrive value).flushReady)

/-- SHARD_REDUCE: a complete shard is reduced and its partial sent (R255 to R257). -/
def execShardReduce (index : Nat) (s : State) : Outcome State Fault Refusal :=
  live s (s.work fun s => (s.shardReduce index).flushReady)

/-- NORM_PARTIAL: a norm partial arrives; the last decides the layer (R257, R258). -/
def execNormPartial (payload : List Byte) (s : State) : Outcome State Fault Refusal :=
  live s ((s.normPartial payload).flushReady)

/-- APPLY_PHASE: a released shard is updated (R259 to R263, R265, R269). -/
def execApplyPhase (index : Nat) (s : State) : Outcome State Fault Refusal :=
  live s (s.work fun s => (s.applyPhase index).flushReady)

/-- SHARD_STAGED: an applied shard is staged (R265, R266). -/
def execShardStaged (index : Nat) (s : State) : Outcome State Fault Refusal :=
  live s ((s.shardStaged index).flushReady)

/-- STAGED: STAGED arrives at a replica (R270). -/
def execStaged (payload : List Byte) (s : State) : Outcome State Fault Refusal :=
  live s ((s.stagedMessage payload).flushReady)

/-- REPLICA_FETCH_DONE: a replica's fetch ends (R270, R271). -/
def execReplicaFetchDone (index : Nat) (ok : Bool) (entries : List (Nat × Nat)) (s : State) : Outcome State Fault Refusal :=
  live s ((s.replicaFetched index ok entries).flushReady)

/-- UNCHANGED: UNCHANGED arrives at a replica (R271). -/
def execUnchanged (payload : List Byte) (s : State) : Outcome State Fault Refusal :=
  live s ((s.unchangedMessage payload).flushReady)

/-- SEGMENT_TIMEOUT: a shard's segments stay missing after COMMIT(DONE) (R268). -/
def execSegmentTimeout (index : Nat) (s : State) : Outcome State Fault Refusal :=
  live s ((s.segmentTimeout index).flushReady)

/-- RATIO_PARTIAL: a ratio partial arrives at the layer's lead (R273, R274). -/
def execRatioPartial (payload : List Byte) (s : State) : Outcome State Fault Refusal :=
  live s ((s.ratioPartial payload).flushReady)

/-- ASSAY_VISIT: a unit digests its next shard, and then asks its replicas (R275, R276). -/
def execAssayVisit (unit : Nat) (s : State) : Outcome State Fault Refusal :=
  live s (s.work fun s => (s.assayVisit unit).flushReady)

/-- ASSAY: ASSAY arrives at a replica (R277). -/
def execAssay (payload : List Byte) (s : State) : Outcome State Fault Refusal :=
  live s ((s.assayMessage payload).flushReady)

/-- ASSAY_REFETCH_DONE: a refetch ends (R277). -/
def execAssayRefetchDone (index : Nat) (ok : Bool) (entries : List (Nat × Nat)) (s : State) : Outcome State Fault Refusal :=
  live s ((s.refetched index ok entries).flushReady)

/-- TMP_DERIVE: a working copy is derived again in place (R263, R264). -/
def execTmpDerive (value : Word) (s : State) : Outcome State Fault Refusal :=
  live s (s.writtenAt [0, 1] fun s => (s.deriveShard value).flushReady)

end Sys2Proof.Machine
end

