-- ==== Sys2Proof/Machine/Tile.lean ====
section
/-! DEFINITION. Dense tiles, frozen tiles, REDUCE and trailers (chapter 03, R162). -/

namespace Sys2Proof.Machine

open Host (Outcome)

/-- TILE: a dense TILE is checked and issued, its sums formed (R81 to R83). -/
def execTile (array : Nat) (backward : Bool) (s : State) : Outcome State Fault Refusal :=
  live s (s.tileIssue array backward)

/-- TILE_WRITEBACK: the oldest finished dense tile writes back (R85). -/
def execTileWriteback (array : Nat) (s : State) : Outcome State Fault Refusal :=
  live s (s.onArray array fun s => s.tileWriteback array)

/-- TRAILER_WRITE: the oldest trailer enters the trailer window (R86). -/
def execTrailerWrite (array : Nat) (s : State) : Outcome State Fault Refusal :=
  live s (s.onArray array fun s => s.trailerWrite array)

/-- FROZEN_TILE: a TILE with frozen set is skipped with its trailer (R162). -/
def execFrozenTile (array : Nat) (backward : Bool) (s : State) : Outcome State Fault Refusal :=
  live s (s.frozenTileIssue array backward spMode)

/-- REDUCE: slots are added into an accumulator region (R87). -/
def execReduce (array : Nat) (backward : Bool) (s : State) : Outcome State Fault Refusal :=
  live s (s.reduceIssue array backward)

end Sys2Proof.Machine
end

