-- ==== Sys2Proof/Machine/Units.lean ====
section
/-! DEFINITION. The unit state table (R369 to R372). -/

namespace Sys2Proof.Machine

open Host (Outcome)

/-- UNIT_STATE_REQUEST: a table state is requested (R370). -/
def execUnitStateRequest (addr : Nat) (value : Word) (s : State) : Outcome State Fault Refusal :=
  live s (s.unitWrite addr value)

/-- UNIT_DRAINED: a draining unit with no work left is fenced (R370). -/
def execUnitDrained (addr : Nat) (s : State) : Outcome State Fault Refusal :=
  live s (s.unitDrained addr)

end Sys2Proof.Machine
end

