-- ==== Sys2Proof/Machine/Vector.lean ====
section
/-! DEFINITION. Vector commands, the tile queue's loads and the engine's ends (chapter 05). -/

namespace Sys2Proof.Machine

open Host (Outcome)

/-- A row's operation code; a VEC whose code the table does not define is rejected by any of them (R141). -/
def vecWants (code v : Nat) : Bool := v == code || (vopRow v).isNone

/-- COPY: the VEC of operation code 0x0 at the stream's head is checked, put to wait or begun (R134 to R146, R168). -/
def execVecCopy (array : Nat) (backward : Bool) (s : State) : Outcome State Fault Refusal :=
  live s (s.vecIssue array backward (vecWants 0x0) false)

/-- ADD: the VEC of operation code 0x1 at the stream's head is checked, put to wait or begun (R134 to R146, R168). -/
def execVecAdd (array : Nat) (backward : Bool) (s : State) : Outcome State Fault Refusal :=
  live s (s.vecIssue array backward (vecWants 0x1) false)

/-- SUB: the VEC of operation code 0x2 at the stream's head is checked, put to wait or begun (R134 to R146, R168). -/
def execVecSub (array : Nat) (backward : Bool) (s : State) : Outcome State Fault Refusal :=
  live s (s.vecIssue array backward (vecWants 0x2) false)

/-- MUL: the VEC of operation code 0x3 at the stream's head is checked, put to wait or begun (R134 to R146, R168). -/
def execVecMul (array : Nat) (backward : Bool) (s : State) : Outcome State Fault Refusal :=
  live s (s.vecIssue array backward (vecWants 0x3) false)

/-- FMA: the VEC of operation code 0x4 at the stream's head is checked, put to wait or begun (R134 to R146, R168). -/
def execVecFma (array : Nat) (backward : Bool) (s : State) : Outcome State Fault Refusal :=
  live s (s.vecIssue array backward (vecWants 0x4) false)

/-- MAX: the VEC of operation code 0x5 at the stream's head is checked, put to wait or begun (R134 to R146, R168). -/
def execVecMax (array : Nat) (backward : Bool) (s : State) : Outcome State Fault Refusal :=
  live s (s.vecIssue array backward (vecWants 0x5) false)

/-- MIN: the VEC of operation code 0x6 at the stream's head is checked, put to wait or begun (R134 to R146, R168). -/
def execVecMin (array : Nat) (backward : Bool) (s : State) : Outcome State Fault Refusal :=
  live s (s.vecIssue array backward (vecWants 0x6) false)

/-- SCALE: the VEC of operation code 0x7 at the stream's head is checked, put to wait or begun (R134 to R146, R168). -/
def execVecScale (array : Nat) (backward : Bool) (s : State) : Outcome State Fault Refusal :=
  live s (s.vecIssue array backward (vecWants 0x7) false)

/-- DIV: the VEC of operation code 0x8 at the stream's head is checked, put to wait or begun (R134 to R146, R168). -/
def execVecDiv (array : Nat) (backward : Bool) (s : State) : Outcome State Fault Refusal :=
  live s (s.vecIssue array backward (vecWants 0x8) false)

/-- RECIP: the VEC of operation code 0x9 at the stream's head is checked, put to wait or begun (R134 to R146, R168). -/
def execVecRecip (array : Nat) (backward : Bool) (s : State) : Outcome State Fault Refusal :=
  live s (s.vecIssue array backward (vecWants 0x9) false)

/-- SQRT: the VEC of operation code 0xa at the stream's head is checked, put to wait or begun (R134 to R146, R168). -/
def execVecSqrt (array : Nat) (backward : Bool) (s : State) : Outcome State Fault Refusal :=
  live s (s.vecIssue array backward (vecWants 0xa) false)

/-- RSQRT: the VEC of operation code 0xb at the stream's head is checked, put to wait or begun (R134 to R146, R168). -/
def execVecRsqrt (array : Nat) (backward : Bool) (s : State) : Outcome State Fault Refusal :=
  live s (s.vecIssue array backward (vecWants 0xb) false)

/-- EXP: the VEC of operation code 0xc at the stream's head is checked, put to wait or begun (R134 to R146, R168). -/
def execVecExp (array : Nat) (backward : Bool) (s : State) : Outcome State Fault Refusal :=
  live s (s.vecIssue array backward (vecWants 0xc) false)

/-- LOG: the VEC of operation code 0xd at the stream's head is checked, put to wait or begun (R134 to R146, R168). -/
def execVecLog (array : Nat) (backward : Bool) (s : State) : Outcome State Fault Refusal :=
  live s (s.vecIssue array backward (vecWants 0xd) false)

/-- FTAB: the VEC of operation code 0x10 at the stream's head is checked, put to wait or begun (R134 to R146, R168). -/
def execVecFtab (array : Nat) (backward : Bool) (s : State) : Outcome State Fault Refusal :=
  live s (s.vecIssue array backward (vecWants 0x10) false)

/-- DTAB: the VEC of operation code 0x11 at the stream's head is checked, put to wait or begun (R134 to R146, R168). -/
def execVecDtab (array : Nat) (backward : Bool) (s : State) : Outcome State Fault Refusal :=
  live s (s.vecIssue array backward (vecWants 0x11) false)

/-- RSUM: the VEC of operation code 0x18 at the stream's head is checked, put to wait or begun (R134 to R146, R168). -/
def execVecRsum (array : Nat) (backward : Bool) (s : State) : Outcome State Fault Refusal :=
  live s (s.vecIssue array backward (vecWants 0x18) false)

/-- RPROD: the VEC of operation code 0x19 at the stream's head is checked, put to wait or begun (R134 to R146, R168). -/
def execVecRprod (array : Nat) (backward : Bool) (s : State) : Outcome State Fault Refusal :=
  live s (s.vecIssue array backward (vecWants 0x19) false)

/-- RMAX: the VEC of operation code 0x1a at the stream's head is checked, put to wait or begun (R134 to R146, R168). -/
def execVecRmax (array : Nat) (backward : Bool) (s : State) : Outcome State Fault Refusal :=
  live s (s.vecIssue array backward (vecWants 0x1a) false)

/-- RMIN: the VEC of operation code 0x1b at the stream's head is checked, put to wait or begun (R134 to R146, R168). -/
def execVecRmin (array : Nat) (backward : Bool) (s : State) : Outcome State Fault Refusal :=
  live s (s.vecIssue array backward (vecWants 0x1b) false)

/-- RARGMAX: the VEC of operation code 0x1c at the stream's head is checked, put to wait or begun (R134 to R146, R168). -/
def execVecRargmax (array : Nat) (backward : Bool) (s : State) : Outcome State Fault Refusal :=
  live s (s.vecIssue array backward (vecWants 0x1c) false)

/-- RARGMIN: the VEC of operation code 0x1d at the stream's head is checked, put to wait or begun (R134 to R146, R168). -/
def execVecRargmin (array : Nat) (backward : Bool) (s : State) : Outcome State Fault Refusal :=
  live s (s.vecIssue array backward (vecWants 0x1d) false)

/-- RLSE: the VEC of operation code 0x1e at the stream's head is checked, put to wait or begun (R134 to R146, R168). -/
def execVecRlse (array : Nat) (backward : Bool) (s : State) : Outcome State Fault Refusal :=
  live s (s.vecIssue array backward (vecWants 0x1e) false)

/-- SOFTMAX: the VEC of operation code 0x20 at the stream's head is checked, put to wait or begun (R134 to R146, R168). -/
def execVecSoftmax (array : Nat) (backward : Bool) (s : State) : Outcome State Fault Refusal :=
  live s (s.vecIssue array backward (vecWants 0x20) false)

/-- SMAX_BWD: the VEC of operation code 0x21 at the stream's head is checked, put to wait or begun (R134 to R146, R168). -/
def execVecSmaxBwd (array : Nat) (backward : Bool) (s : State) : Outcome State Fault Refusal :=
  live s (s.vecIssue array backward (vecWants 0x21) false)

/-- NORM: the VEC of operation code 0x22 at the stream's head is checked, put to wait or begun (R134 to R146, R168). -/
def execVecNorm (array : Nat) (backward : Bool) (s : State) : Outcome State Fault Refusal :=
  live s (s.vecIssue array backward (vecWants 0x22) false)

/-- TOPK: the VEC of operation code 0x28 at the stream's head is checked, put to wait or begun (R134 to R146, R168). -/
def execVecTopk (array : Nat) (backward : Bool) (s : State) : Outcome State Fault Refusal :=
  live s (s.vecIssue array backward (vecWants 0x28) false)

/-- PASSFORM: the VEC of operation code 0x30 at the stream's head is checked, put to wait or begun (R134 to R146, R168). -/
def execVecPassform (array : Nat) (backward : Bool) (s : State) : Outcome State Fault Refusal :=
  live s (s.vecIssue array backward (vecWants 0x30) false)

/-- PACK: the VEC of operation code 0x31 at the stream's head is checked, put to wait or begun (R134 to R146, R168). -/
def execVecPack (array : Nat) (backward : Bool) (s : State) : Outcome State Fault Refusal :=
  live s (s.vecIssue array backward (vecWants 0x31) false)

/-- VEC_TQ_LOAD: a VEC that waits for a tile-queue entry looks again, the backward stream's first (R148, R149, R165). -/
def execVecTqLoad (array : Nat) (s : State) : Outcome State Fault Refusal :=
  live s ((s.vecIssue array true (fun _ => true) true).vecIssue array false (fun _ => true) true)

/-- VEC_WINDOW_READY: a VEC that waits for its windows looks again, the backward stream's first (R165, R168). -/
def execVecWindowReady (array : Nat) (s : State) : Outcome State Fault Refusal :=
  live s ((s.vecIssue array true (fun _ => true) true).vecIssue array false (fun _ => true) true)

/-- VEC_END: the VEC in execution ends and its windows advance (R137, R146). -/
def execVecEnd (array : Nat) (s : State) : Outcome State Fault Refusal :=
  live s (s.onArray array fun s => s.vecEnd array)

/-- VEC_POISON_STOP: the VEC that read a poisoned word stops (R169). -/
def execVecPoisonStop (array : Nat) (s : State) : Outcome State Fault Refusal :=
  live s (s.onArray array fun s => s.vecPoisonStop array)

/-- TAB_FLUSH: the table slots are emptied (R156). -/
def execTabFlush (array : Nat) (s : State) : Outcome State Fault Refusal :=
  live s (s.arrayWritten array fun s => s.tabFlush array)

/-- VEC_CFG_WRITE: `VEC_CFG` is written (R151). -/
def execVecCfgWrite (array : Nat) (value : Word) (s : State) : Outcome State Fault Refusal :=
  live s (s.arrayWritten array fun s => s.vecConfigure array value)

/-- FBI_CFG_WRITE: `FBI_CFG` is written (R164). -/
def execFbiCfgWrite (array : Nat) (value : Word) (s : State) : Outcome State Fault Refusal :=
  live s (s.arrayWritten array fun s => s.fbiConfigure array value)

end Sys2Proof.Machine
end

