-- ==== Sys2Proof/Machine/Dispatch.lean ====
section
/-! DEFINITION. The dispatch: one arm per command, each one call of its meaning. -/

namespace Sys2Proof.Machine

def exec (i : Instr) (s : State) : Host.Outcome State Fault Refusal :=
  match i with
  | .registerWrite addr width value => Sys2Proof.Machine.execRegisterWrite addr width value s
  | .ucieRetry die => Sys2Proof.Machine.execUcieRetry die s
  | .powerMonitorSample milliwatts => Sys2Proof.Machine.execPowerMonitorSample milliwatts s
  | .dieSensorReading die celsius => Sys2Proof.Machine.execDieSensorReading die celsius s
  | .commandFetch array backward => Sys2Proof.Machine.execCommandFetch array backward s
  | .nop array backward => Sys2Proof.Machine.execNop array backward s
  | .tile array backward => Sys2Proof.Machine.execTile array backward s
  | .tileWriteback array => Sys2Proof.Machine.execTileWriteback array s
  | .trailerWrite array => Sys2Proof.Machine.execTrailerWrite array s
  | .frozenTile array backward => Sys2Proof.Machine.execFrozenTile array backward s
  | .sparseTile array backward => Sys2Proof.Machine.execSparseTile array backward s
  | .sparseEndPhase array => Sys2Proof.Machine.execSparseEndPhase array s
  | .sparseTileStop array => Sys2Proof.Machine.execSparseTileStop array s
  | .reduce array backward => Sys2Proof.Machine.execReduce array backward s
  | .own array backward => Sys2Proof.Machine.execOwn array backward s
  | .wait array backward => Sys2Proof.Machine.execWait array backward s
  | .waitSatisfied array backward => Sys2Proof.Machine.execWaitSatisfied array backward s
  | .waitTimeout array backward => Sys2Proof.Machine.execWaitTimeout array backward s
  | .fence array backward => Sys2Proof.Machine.execFence array backward s
  | .signal array backward => Sys2Proof.Machine.execSignal array backward s
  | .scpBankOwnWrite array bank owner => Sys2Proof.Machine.execScpBankOwnWrite array bank owner s
  | .handoverComplete array bank => Sys2Proof.Machine.execHandoverComplete array bank s
  | .drainTimeout array bank => Sys2Proof.Machine.execDrainTimeout array bank s
  | .sramWindowAccess array access errors => Sys2Proof.Machine.execSramWindowAccess array access errors s
  | .arrWinCfgWrite array window value => Sys2Proof.Machine.execArrWinCfgWrite array window value s
  | .windowAdvance array window tail bytes => Sys2Proof.Machine.execWindowAdvance array window tail bytes s
  | .swizzleWrite array bank swizzle => Sys2Proof.Machine.execSwizzleWrite array bank swizzle s
  | .bankClearDone array bank => Sys2Proof.Machine.execBankClearDone array bank s
  | .marchStart array value => Sys2Proof.Machine.execMarchStart array value s
  | .marchDone array failing => Sys2Proof.Machine.execMarchDone array failing s
  | .run array on => Sys2Proof.Machine.execRun array on s
  | .halt array => Sys2Proof.Machine.execHalt array s
  | .clearError array => Sys2Proof.Machine.execClearError array s
  | .arrSeqCfgWrite array value => Sys2Proof.Machine.execArrSeqCfgWrite array value s
  | .spmCfgWrite array value => Sys2Proof.Machine.execSpmCfgWrite array value s
  | .vecCopy array backward => Sys2Proof.Machine.execVecCopy array backward s
  | .vecAdd array backward => Sys2Proof.Machine.execVecAdd array backward s
  | .vecSub array backward => Sys2Proof.Machine.execVecSub array backward s
  | .vecMul array backward => Sys2Proof.Machine.execVecMul array backward s
  | .vecFma array backward => Sys2Proof.Machine.execVecFma array backward s
  | .vecMax array backward => Sys2Proof.Machine.execVecMax array backward s
  | .vecMin array backward => Sys2Proof.Machine.execVecMin array backward s
  | .vecScale array backward => Sys2Proof.Machine.execVecScale array backward s
  | .vecDiv array backward => Sys2Proof.Machine.execVecDiv array backward s
  | .vecRecip array backward => Sys2Proof.Machine.execVecRecip array backward s
  | .vecSqrt array backward => Sys2Proof.Machine.execVecSqrt array backward s
  | .vecRsqrt array backward => Sys2Proof.Machine.execVecRsqrt array backward s
  | .vecExp array backward => Sys2Proof.Machine.execVecExp array backward s
  | .vecLog array backward => Sys2Proof.Machine.execVecLog array backward s
  | .vecFtab array backward => Sys2Proof.Machine.execVecFtab array backward s
  | .vecDtab array backward => Sys2Proof.Machine.execVecDtab array backward s
  | .vecRsum array backward => Sys2Proof.Machine.execVecRsum array backward s
  | .vecRprod array backward => Sys2Proof.Machine.execVecRprod array backward s
  | .vecRmax array backward => Sys2Proof.Machine.execVecRmax array backward s
  | .vecRmin array backward => Sys2Proof.Machine.execVecRmin array backward s
  | .vecRargmax array backward => Sys2Proof.Machine.execVecRargmax array backward s
  | .vecRargmin array backward => Sys2Proof.Machine.execVecRargmin array backward s
  | .vecRlse array backward => Sys2Proof.Machine.execVecRlse array backward s
  | .vecSoftmax array backward => Sys2Proof.Machine.execVecSoftmax array backward s
  | .vecSmaxBwd array backward => Sys2Proof.Machine.execVecSmaxBwd array backward s
  | .vecNorm array backward => Sys2Proof.Machine.execVecNorm array backward s
  | .vecTopk array backward => Sys2Proof.Machine.execVecTopk array backward s
  | .vecPassform array backward => Sys2Proof.Machine.execVecPassform array backward s
  | .vecPack array backward => Sys2Proof.Machine.execVecPack array backward s
  | .vecTqLoad array => Sys2Proof.Machine.execVecTqLoad array s
  | .vecWindowReady array => Sys2Proof.Machine.execVecWindowReady array s
  | .vecEnd array => Sys2Proof.Machine.execVecEnd array s
  | .vecPoisonStop array => Sys2Proof.Machine.execVecPoisonStop array s
  | .tabFlush array => Sys2Proof.Machine.execTabFlush array s
  | .vecCfgWrite array value => Sys2Proof.Machine.execVecCfgWrite array value s
  | .fbiCfgWrite array value => Sys2Proof.Machine.execFbiCfgWrite array value s
  | .rakeStreamSubmit stream value => Sys2Proof.Machine.execRakeStreamSubmit stream value s
  | .rakeHalfArm value => Sys2Proof.Machine.execRakeHalfArm value s
  | .rakeDispatch stream => Sys2Proof.Machine.execRakeDispatch stream s
  | .backwardDispatch stream => Sys2Proof.Machine.execBackwardDispatch stream s
  | .groupNotice payload => Sys2Proof.Machine.execGroupNotice payload s
  | .endNotice payload => Sys2Proof.Machine.execEndNotice payload s
  | .releaseArrival payload => Sys2Proof.Machine.execReleaseArrival payload s
  | .qmRelease value => Sys2Proof.Machine.execQmRelease value s
  | .resStep value => Sys2Proof.Machine.execResStep value s
  | .resFetchStart slot expert => Sys2Proof.Machine.execResFetchStart slot expert s
  | .evictWritebackDone slot expert ok => Sys2Proof.Machine.execEvictWritebackDone slot expert ok s
  | .resFetchDone slot expert ok => Sys2Proof.Machine.execResFetchDone slot expert ok s
  | .sluSubmit value => Sys2Proof.Machine.execSluSubmit value s
  | .gather => Sys2Proof.Machine.execGather s
  | .returnRows => Sys2Proof.Machine.execReturnRows s
  | .segment => Sys2Proof.Machine.execSegment s
  | .returnRowArrival payload => Sys2Proof.Machine.execReturnRowArrival payload s
  | .sluCancel value => Sys2Proof.Machine.execSluCancel value s
  | .sluArm value => Sys2Proof.Machine.execSluArm value s
  | .rakeStreamCfgWrite stream value => Sys2Proof.Machine.execRakeStreamCfgWrite stream value s
  | .saltRun core threads => Sys2Proof.Machine.execSaltRun core threads s
  | .saltHalt core threads => Sys2Proof.Machine.execSaltHalt core threads s
  | .salterThreadFault core thread info => Sys2Proof.Machine.execSalterThreadFault core thread info s
  | .stgStepArm value => Sys2Proof.Machine.execStgStepArm value s
  | .stgArrive value => Sys2Proof.Machine.execStgArrive value s
  | .admission slot => Sys2Proof.Machine.execAdmission slot s
  | .stgRelease value => Sys2Proof.Machine.execStgRelease value s
  | .creditMessage payload => Sys2Proof.Machine.execCreditMessage payload s
  | .stkReq value => Sys2Proof.Machine.execStkReq value s
  | .stkGrant slot => Sys2Proof.Machine.execStkGrant slot s
  | .stkFree value => Sys2Proof.Machine.execStkFree value s
  | .stageRecordWrite slot => Sys2Proof.Machine.execStageRecordWrite slot s
  | .stkHwmRearm slot => Sys2Proof.Machine.execStkHwmRearm slot s
  | .stgAbort value => Sys2Proof.Machine.execStgAbort value s
  | .localDone payload => Sys2Proof.Machine.execLocalDone payload s
  | .abort payload => Sys2Proof.Machine.execAbort payload s
  | .commit payload => Sys2Proof.Machine.execCommit payload s
  | .stgClear value => Sys2Proof.Machine.execStgClear value s
  | .cleared payload => Sys2Proof.Machine.execCleared payload s
  | .ready payload => Sys2Proof.Machine.execReady payload s
  | .tmpSegArrive value => Sys2Proof.Machine.execTmpSegArrive value s
  | .shardReduce index => Sys2Proof.Machine.execShardReduce index s
  | .normPartial payload => Sys2Proof.Machine.execNormPartial payload s
  | .applyPhase index => Sys2Proof.Machine.execApplyPhase index s
  | .shardStaged index => Sys2Proof.Machine.execShardStaged index s
  | .staged payload => Sys2Proof.Machine.execStaged payload s
  | .replicaFetchDone index ok entries => Sys2Proof.Machine.execReplicaFetchDone index ok entries s
  | .unchanged payload => Sys2Proof.Machine.execUnchanged payload s
  | .segmentTimeout index => Sys2Proof.Machine.execSegmentTimeout index s
  | .ratioPartial payload => Sys2Proof.Machine.execRatioPartial payload s
  | .assayVisit unit => Sys2Proof.Machine.execAssayVisit unit s
  | .assay payload => Sys2Proof.Machine.execAssay payload s
  | .assayRefetchDone index ok entries => Sys2Proof.Machine.execAssayRefetchDone index ok entries s
  | .tmpDerive value => Sys2Proof.Machine.execTmpDerive value s
  | .memoryRead addr len die errors => Sys2Proof.Machine.execMemoryRead addr len die errors s
  | .memoryWrite addr data die errors => Sys2Proof.Machine.execMemoryWrite addr data die errors s
  | .blockWrite addr data => Sys2Proof.Machine.execBlockWrite addr data s
  | .lineWrite addr data => Sys2Proof.Machine.execLineWrite addr data s
  | .blockRead addr garbled errors => Sys2Proof.Machine.execBlockRead addr garbled errors s
  | .hbmTempRead stack celsius => Sys2Proof.Machine.execHbmTempRead stack celsius s
  | .bitternRefreshReport stack rates celsius => Sys2Proof.Machine.execBitternRefreshReport stack rates celsius s
  | .refresh stack => Sys2Proof.Machine.execRefresh stack s
  | .patrolScrub stack errors late => Sys2Proof.Machine.execPatrolScrub stack errors late s
  | .writeWrapperInstruction stack => Sys2Proof.Machine.execWriteWrapperInstruction stack s
  | .shiftDataRegister stack => Sys2Proof.Machine.execShiftDataRegister stack s
  | .sppr stack => Sys2Proof.Machine.execSppr stack s
  | .hppr stack => Sys2Proof.Machine.execHppr stack s
  | .hbmTestDone stack ok => Sys2Proof.Machine.execHbmTestDone stack ok s
  | .hbmTestTimeout stack => Sys2Proof.Machine.execHbmTestTimeout stack s
  | .linkTraining link peer peerLink lanes => Sys2Proof.Machine.execLinkTraining link peer peerLink lanes s
  | .flitReplay link ok => Sys2Proof.Machine.execFlitReplay link ok s
  | .laneFailure link lane => Sys2Proof.Machine.execLaneFailure link lane s
  | .linkDown link => Sys2Proof.Machine.execLinkDown link s
  | .linkNotice packet => Sys2Proof.Machine.execLinkNotice packet s
  | .requestInject access => Sys2Proof.Machine.execRequestInject s access
  | .packetForward packet => Sys2Proof.Machine.execPacketForward packet s
  | .loadReq packet => Sys2Proof.Machine.execLoadReq packet s
  | .store packet => Sys2Proof.Machine.execStore packet s
  | .atomic packet => Sys2Proof.Machine.execAtomic packet s
  | .swap packet => Sys2Proof.Machine.execSwap packet s
  | .cas packet => Sys2Proof.Machine.execCas packet s
  | .loadData packet => Sys2Proof.Machine.execLoadData packet s
  | .oldValue packet => Sys2Proof.Machine.execOldValue packet s
  | .status packet => Sys2Proof.Machine.execStatus packet s
  | .ack packet => Sys2Proof.Machine.execAck packet s
  | .msg packet => Sys2Proof.Machine.execMsg packet s
  | .bcast packet => Sys2Proof.Machine.execBcast packet s
  | .retransmitTimeout peer cls => Sys2Proof.Machine.execRetransmitTimeout peer cls s
  | .tableEntryApply line => Sys2Proof.Machine.execTableEntryApply line s
  | .hotLineWindowEnd => Sys2Proof.Machine.execHotLineWindowEnd s
  | .fenceTimeoutExpiry fence => Sys2Proof.Machine.execFenceTimeoutExpiry fence s
  | .occupancyReport pkg levels => Sys2Proof.Machine.execOccupancyReport pkg levels s
  | .fabEpochAdvance => Sys2Proof.Machine.execFabEpochAdvance s
  | .epochAdvanceComplete => Sys2Proof.Machine.execEpochAdvanceComplete s
  | .epochAdvanceRefused => Sys2Proof.Machine.execEpochAdvanceRefused s
  | .fabPhysIdWrite value => Sys2Proof.Machine.execFabPhysIdWrite value s
  | .gwHoldExpiry field => Sys2Proof.Machine.execGwHoldExpiry field s
  | .frameReceive frame => Sys2Proof.Machine.execFrameReceive frame s
  | .openSession frame => Sys2Proof.Machine.execOpenSession frame s
  | .closeSession frame => Sys2Proof.Machine.execCloseSession frame s
  | .transportAck frame => Sys2Proof.Machine.execTransportAck frame s
  | .nak frame => Sys2Proof.Machine.execNak frame s
  | .mgmtAccess frame => Sys2Proof.Machine.execMgmtAccess frame s
  | .cmdMessage frame => Sys2Proof.Machine.execCmdMessage frame s
  | .bulkWrite frame => Sys2Proof.Machine.execBulkWrite frame s
  | .bulkWriteComplete peer => Sys2Proof.Machine.execBulkWriteComplete peer s
  | .bulkReadReq frame => Sys2Proof.Machine.execBulkReadReq frame s
  | .gateway frame => Sys2Proof.Machine.execGateway frame s
  | .hostResendTimeout peer channel => Sys2Proof.Machine.execHostResendTimeout peer channel s
  | .hostAckTimer peer channel => Sys2Proof.Machine.execHostAckTimer peer channel s
  | .eventSend => Sys2Proof.Machine.execEventSend s
  | .hostLinkLoss => Sys2Proof.Machine.execHostLinkLoss s
  | .hostLinkReturn => Sys2Proof.Machine.execHostLinkReturn s
  | .unitStateRequest addr value => Sys2Proof.Machine.execUnitStateRequest addr value s
  | .unitDrained addr => Sys2Proof.Machine.execUnitDrained addr s
  | .sbPwrOkLow => Sys2Proof.Machine.execSbPwrOkLow s
  | .sbResetNAssert => Sys2Proof.Machine.execSbResetNAssert s
  | .resetRelease straps facts => Sys2Proof.Machine.execResetRelease straps facts s
  | .sbQuenchNFall nanoseconds => Sys2Proof.Machine.execSbQuenchNFall nanoseconds s
  | .i2cTransfer offset data len address => Sys2Proof.Machine.execI2cTransfer offset data len s address
  | .storeCast => Sys2Proof.Machine.execStoreCast s
  | .pour => Sys2Proof.Machine.execPour s
  | .storeFw => Sys2Proof.Machine.execStoreFw s
  | .confirmFw => Sys2Proof.Machine.execConfirmFw s
  | .hallmarkRead => Sys2Proof.Machine.execHallmarkRead s
  | .key => Sys2Proof.Machine.execKey s
  | .attest => Sys2Proof.Machine.execAttest s
  | .nandWearLevel work => Sys2Proof.Machine.execNandWearLevel work s
  | .laserCalibration port lane bias hours late => Sys2Proof.Machine.execLaserCalibration port lane bias hours s late
  | .lifetimeCounterWrite hot => Sys2Proof.Machine.execLifetimeCounterWrite hot s
  | .laneLock => Sys2Proof.Machine.execLaneLock s
  | .judgingWindowEnd count durations => Sys2Proof.Machine.execJudgingWindowEnd count durations s
  | .coreLoopLock => Sys2Proof.Machine.execCoreLoopLock s
  | .monitorGateEnd count => Sys2Proof.Machine.execMonitorGateEnd count s
  | .laneLossOfLock => Sys2Proof.Machine.execLaneLossOfLock s
  | .frameBoundary mismatches => Sys2Proof.Machine.execFrameBoundary mismatches s
  | .holdoverExpiry => Sys2Proof.Machine.execHoldoverExpiry s
  | .clkTestWrite test => Sys2Proof.Machine.execClkTestWrite test s
  | .noReferenceTimeout => Sys2Proof.Machine.execNoReferenceTimeout s
  | .ndcAdd value => Sys2Proof.Machine.execNdcAdd value s
  | .quenchFire value => Sys2Proof.Machine.execQuenchFire value s
  | .quenchRelease => Sys2Proof.Machine.execQuenchRelease s
  | .scpScrub array offset errors late => Sys2Proof.Machine.execScpScrub array offset errors late s
  | .sbPwrOkRaise => Sys2Proof.Machine.execSbPwrOkRaise s
  | .sbQuenchNDriveEnd => Sys2Proof.Machine.execSbQuenchNDriveEnd s
  | .hbmPeriodicRetraining stack late => Sys2Proof.Machine.execHbmPeriodicRetraining stack late s
  | .bitternPeriodicCalibration stack late => Sys2Proof.Machine.execBitternPeriodicCalibration stack late s

end Sys2Proof.Machine
end

