-- ==== Sys2Proof/Machine/StallOps.lean ====
section
/-! DEFINITION. What a hub cycle adds to the counters of waiting: each counts the cycles in which its condition holds (R85, R86,
R108, R147, R150, R166, R168, R187, R210, R236, R322, R336). Array counters count array cycles (log 11). -/

namespace Sys2Proof.Machine

/-- Array cycles in one hub cycle: 2.25 GHz against 1.5 GHz (R413), three to two. -/
def State.arrayCycles (s : State) : Nat := 1 + s.cycle % 2

/-- Whether the oldest job of an array waits on a full tile queue (R85). -/
def State.tqBlocked (s : State) (a : Nat) : Bool :=
  match (s.array a).jobs with
  | j :: _ => (j.kind == .dense || j.kind == .sparse) && j.toVec && !(s.flag FBI_CFG.enable a) && (s.array a).tq.length ≥ 8
  | [] => false

/-- Whether a stream's head is a TILE or REDUCE over a region that the tile queue holds (R150). A frozen TILE has no region: it is skipped,
not held (R162). -/
def State.regionBlocked (s : State) (a : Nat) (backward : Bool) : Bool :=
  match s.head a backward 1, s.head a backward 3 with
  | some f, _ =>
    let c := TileCmd.parse f.bytes
    !c.frozen && (s.array a).regionHeld c.accLine c.mRows
  | none, some f => (s.array a).regionHeld (ReduceCmd.parse f.bytes).accLine (ReduceCmd.parse f.bytes).mRows
  | none, none => false

/-- Whether a stream's head is a TILE or REDUCE whose reads are held for a handover to SEQ (R92, R110). -/
def State.ownBlocked (s : State) (a : Nat) (backward : Bool) : Bool :=
  match s.head a backward 1, s.head a backward 3 with
  | some f, _ =>
    let c := TileCmd.parse f.bytes
    !c.frozen && s.awaits a ownSeq (if c.sparse then s.sparseSpans a c else c.reads)
  | none, some f => s.awaits a ownSeq (ReduceCmd.parse f.bytes).spans
  | none, none => false

/-- Whether a stream's head is a to_vec TILE with no tile-queue credit to take (R166). -/
def State.creditBlocked (s : State) (a : Nat) (backward : Bool) : Bool :=
  match s.head a backward 1 with
  | some f =>
    let c := TileCmd.parse f.bytes
    s.flag FBI_CFG.enable a && c.toVec && !c.frozen && !(s.creditFree a backward)
  | none => false

/-- The VEC at a stream's head that waits: for a tile-queue entry (true), or for its windows (false) (R171). -/
def State.vecWaits (s : State) (a : Nat) (backward : Bool) : Option Bool :=
  match s.head a backward 2 with
  | some f =>
    let c := VecCmd.parse f.bytes
    if !f.waiting then none
    else if c.tq ∧ (s.vecEntry a c).isNone then some true
    else if (s.vecAt a c).windowsReady s then none
    else some false
  | none => none

/-- Whether a stream's head is a VEC held as the incoming owner of a bank (R92, R171). -/
def State.vecOwnWaits (s : State) (a : Nat) (backward : Bool) : Bool :=
  match s.head a backward 2 with
  | some f =>
    let c := VecCmd.parse f.bytes
    s.vecHeld a c && s.awaits a ownVec (s.vecSpans a c)
  | none => false

/-- A counter moves on by `n` where its condition holds. -/
def State.countIf (s : State) (c : Bool) (f : Fld) (i n : Nat) : State := if c then s.bump f i 0 n else s

/-- An array's jobs and trailers that wait grow by the cycles waited (R85, R86). -/
def State.growWaits (s : State) (a n : Nat) : State :=
  let tq := s.tqBlocked a
  let tr := s.trailerBlocked a
  if !tq ∧ !tr then s else
  s.mapArray a fun x =>
    { x with
      jobs := if tq then (match x.jobs with
        | j :: l => { j with stalled := j.stalled + n } :: l
        | [] => []) else x.jobs
      trailers := if tr then x.trailers.map fun t => { t with stalled := t.stalled + n } else x.trailers }

/-- One array's counters; nothing moves at an array halted for heat (R34). A march run, a sparse tile and a VEC go
on to their next phase (R103, R132, R170). -/
def State.countArray (s : State) (n a : Nat) : State :=
  if s.pwr.halted then s else
  let s := ((s.marchStep a).sparseProgress a).vecProgress a
  let both := fun (f : Bool → Bool) => f false || f true
  let holds := fun (p : HoldKind → Bool) => both fun b => ((s.array a).hold b).any fun h => p h.kind
  let own := holds fun k => match k with
    | .own _ => true
    | _ => false
  let wait := holds fun k => match k with
    | .own _ => false
    | _ => true
  let t := s.countIf (own || both (s.ownBlocked a)) ARR_PERF_STALL_OWN.count a n
  let t := t.countIf wait ARR_PERF_STALL_WAIT.count a n
  let t := t.countIf (s.tqBlocked a) ARR_PERF_STALL_TQ.count a n
  let t := t.countIf (s.trailerBlocked a) ARR_PERF_STALL_TRAILER.count a n
  let t := t.countIf (both (s.regionBlocked a)) TQ_PERF_STALL_REGION.count a n
  let t := t.countIf (both (s.creditBlocked a)) TQ_PERF_STALL_CREDIT.count a n
  let t := t.countIf (both (s.vecOwnWaits a)) VEC_PERF_STALL_OWN.count a n
  let t := t.countIf (both fun b => s.vecWaits a b == some true) VEC_PERF_WAIT_TQ.count a n
  let t := t.countIf (both fun b => s.vecWaits a b == some false) VEC_PERF_WAIT_WIN.count a n
  t.growWaits a n

/-- The windows that a WAIT names and that have not reached its threshold, by array (R236). -/
def State.waitedOn (s : State) : List (Nat × Nat) :=
  s.arr.flatMap fun x => [x.2.fwdHold, x.2.bwdHold].filterMap fun h => match h with
    | some h => (match h.kind with
      | .wait w n => if n ≤ s.winOcc x.1 w then none else some (x.1, w)
      | _ => none)
    | none => none

/-- The stages' counters by the windows waited on (R236). -/
def State.countQueues (s : State) : State :=
  let ws := s.waitedOn
  if ws.isEmpty then s else
  (List.range 64).foldl (fun s n =>
    let on := fun (role : Nat) =>
      let q := s.queueEntry n role
      q.valid && ws.contains (q.array, q.window)
    let s := s.countIf (on 0) STG_PERF_STARVE_FWD.count n 1
    let s := s.countIf (on 1) STG_PERF_SEND_FWD.count n 1
    let s := s.countIf (on 2) STG_PERF_STARVE_BWD.count n 1
    s.countIf (on 3) STG_PERF_SEND_BWD.count n 1) s

/-- The stages' counters by what they hold (R236). -/
def State.countStages (s : State) : State :=
  (s.stg.slots.map (·.1)).foldl (fun s n =>
    let x := s.stage n
    let s := s.countIf (x.arrivals.head?.any fun a => a.span == 0) STG_PERF_HOLD_ADMIT.count n 1
    s.countIf (!x.fwdReqs.isEmpty || !x.bwdReqs.isEmpty) STG_PERF_HOLD_STK.count n 1) s

/-- Whether a request of this package waits for room in the retransmit store (R322). -/
def State.storeWaits (s : State) : Bool :=
  s.fab.reqQ.any fun r => s.target r != s.physId && !(s.hasRoom (s.target r) (opClass r.op))

/-- Whether an arrival waits for an entry of the combining table (R336). -/
def State.tableWaits (s : State) : Bool :=
  s.fab.table.length ≥ 4096 && ((s.fab.inflows.any fun f => f.queue.head?.any fun p => opClass p.op == clsReq && !(s.tableTakes p (sourceOf p))) ||
    s.fab.reqQ.any fun r => (r.op == 3 || r.op == 4 || r.op == 5) && s.target r == s.physId &&
      !(s.tableTakes (requestPacket r s.physId) { package := s.physId, requester := r.requester, seq := r.stream }))

/-- The rake's, the residency manager's, the temper units' and the fabric's counters. -/
def State.countShared (s : State) : State :=
  let full := s.rake.pending.any fun p => (s.rake.pending.filter fun q => q.stream == p.stream).length ≥ 256
  let parked := (List.range 4).any fun u => s.fld TMP_UNIT_STATUS.parked u != 0
  let t := s.countIf (!s.rake.pending.isEmpty) RX_PERF_STALL_DEST.count 0 1
  let t := t.countIf full RX_PERF_STALL_FULL.count 0 1
  let t := t.countIf (!s.qm.waiting.isEmpty) RES_PERF_WAIT.count 0 1
  let t := t.countIf parked TMP_PERF_PARK_CYCLES.count 0 1
  let t := t.countIf s.storeWaits FAB_PERF_RETX_FULL.count 0 1
  t.countIf s.tableWaits FAB_PERF_TABLE_FULL.count 0 1

/-- Every counter of waiting moves on by one hub cycle. -/
def State.countWaits (s : State) : State :=
  let n := s.arrayCycles
  ((s.arr.map (·.1)).foldl (fun s a => s.countArray n a) s).countShared.countQueues.countStages

end Sys2Proof.Machine
end

