-- ==== Sys2Proof/Machine/Tick.lean ====
section
/-! DEFINITION. One hub cycle with no command (log 2): what the device does by itself goes one piece on. -/

namespace Sys2Proof.Machine

/-- A cycle of a package out of reset. First what the cycle's commands left to its end: the return rows (R201), the root's aborts (R239)
and the test write (R422). Then units that show a finished job (R280), the counters of waiting, start-up (R429), a store or a pour
(R387, R388), held READY records (R267), pending choices whose position is free (R187), the links (R352), and what the host port has to
send (R347, R363). -/
def State.cycleOn (s : State) : State :=
  ((s.takeRows.settleAborts.settleTest.work State.endDigests).unitsRest.countWaits.startStep.hallmarkStep.flushReady.work State.drainAll).drainLinks.returnReads.sendTransfers.drainHost

/-- What a hub cycle lasts, in the units of `Clk.time`: 2/3 ns at 1.5 GHz, twice that at half, and 8/15 of a ring cycle while coasting
(R413, R415, R417). -/
def State.hubPeriod (s : State) : Nat :=
  if s.flag CLK_STATUS.coast then 8000000 else if s.flag DIE_CLK_STATUS.half 0 then 20 * s.part.ringKHz else 10 * s.part.ringKHz

/-- The time and the place in the alignment frame go on by one hub cycle (R413). -/
def State.timePasses (s : State) : State :=
  let d := s.hubPeriod
  s.mapClk fun c => { c with time := c.time + d, place := (c.place + 1) % 30720 }

/-- One hub cycle; in reset nothing but the count of cycles goes on. -/
def tick (s : State) : State :=
  let s := { s with cycle := s.cycle + 1 }
  if s.up then s.endQuench.timePasses.cycleOn else s

end Sys2Proof.Machine
end

