-- ==== Sys2Proof/Safety.lean ====
section
/-! DEFINITION. What statements speak of: when a package answers, what every step keeps, and a run that no command stops. -/

namespace Sys2Proof.Machine

/-- The package runs and no pour is in progress: its registers take writes (R389). -/
def State.takesWrites (s : State) : Bool := s.up && !s.flag CST_STATE.pouring

/-- The package runs and its engines take up work (R388). -/
def State.working (s : State) : Bool := s.up && !s.hmk.quiet

/-- An array that runs: there, enabled and bound, and not held by the thermal halt (R4, R28, R34). -/
def State.runs (s : State) (a : Nat) : Bool := s.up && s.arrayAnswers a true && !s.pwr.halted

/-- An array that runs and whose registers take writes, its die's link in service (R37). -/
def State.runsAndTakes (s : State) (a : Nat) : Bool := s.takesWrites && s.dieOpen [s.part.dieOf a] && s.arrayAnswers a true && !s.pwr.halted

/-- The bytes of memory are in canonical form, and the fused registers read as manufacture left them (R38, R412). -/
def State.Sound (p : Part) (s : State) : Prop :=
  Memory.wf s.mem = true ∧ s.part = p ∧ ∀ k i j, k.fused = true → s.rd k i j = resetValue p k i j

/-- A step that goes on: no fault and no refusal stops the machine. -/
def GoesOn (o : Host.Outcome State Fault Refusal) : Prop := ∃ t, o = .next t

/-- A safe run of `n` steps: every step goes on. -/
def SafeRun : Nat → State → Prop
  | 0, _ => True
  | n + 1, s => ∃ t, step s = .next t ∧ SafeRun n t

/-- The word that the end phase of a sparse tile leaves where `w` stood: the starting value, the merged helper sums of the word and
its home sum, added in this order (R126). -/
def Job.endWord (j : Job) (w : BitVec 32) (c : Cell) : BitVec 32 :=
  let start := if j.accumulates then a32 w.toNat else .zero
  let merged := match j.helpers.find? fun h => h.row == c.row && h.col == c.col with
    | none => start
    | some h => a32 (accumulate start (a32 h.value.toNat)).1.bits32.toNat
  (accumulate merged (a32 c.value.toNat)).1.bits32

/-- The operation codes of R141 with their rows. -/
def vecRows : List (Nat × (Nat → Bool → Instr)) :=
  [(0x0, .vecCopy), (0x1, .vecAdd), (0x2, .vecSub), (0x3, .vecMul), (0x4, .vecFma), (0x5, .vecMax), (0x6, .vecMin),
   (0x7, .vecScale), (0x8, .vecDiv), (0x9, .vecRecip), (0xA, .vecSqrt), (0xB, .vecRsqrt), (0xC, .vecExp),
   (0xD, .vecLog), (0x10, .vecFtab), (0x11, .vecDtab), (0x18, .vecRsum), (0x19, .vecRprod), (0x1A, .vecRmax),
   (0x1B, .vecRmin), (0x1C, .vecRargmax), (0x1D, .vecRargmin), (0x1E, .vecRlse), (0x20, .vecSoftmax),
   (0x21, .vecSmaxBwd), (0x22, .vecNorm), (0x28, .vecTopk), (0x30, .vecPassform), (0x31, .vecPack)]

/-- Registers whose writes do more, or other, than their access codes say: each has a rule of its own. -/
def RegKind.hasOwnWrite : RegKind → Bool
  | .CLK_CTRL | .FAB_PHYS_ID | .FAB_EPOCH | .FAB_REMAP | .FAB_SLICE_MAP | .SALT_CTRL | .RAKE_HALF_ARM | .QM_RELEASE
  | .RES_STEP | .SLU_SUBMIT | .SLU_CANCEL | .SLU_ARM | .RAKE_STREAM_CFG | .RAKE_STREAM_SUBMIT | .TMP_SEG_ARRIVE
  | .TMP_DERIVE | .HBM_TEST_CTRL | .STG_STEP_ARM | .STG_ABORT | .STG_CLEAR | .STK_REQ | .STK_FREE | .STG_ARRIVE
  | .STG_RELEASE | .STK_HWM | .HMK_CMD | .NDC_ADD | .OBS_QUENCH_CTRL | .UST_ARRAY | .UST_LINK | .UST_HBM | .UST_BITTERN
  | .UST_TEMPER | .ARR_SEQ_CTRL | .ARR_SEQ_CFG | .SCP_BANK_OWN | .SCP_BANK_CFG | .ARR_WIN_CFG | .ARR_WIN_HEAD
  | .ARR_WIN_TAIL | .MARCH_CTRL | .SPM_CFG | .VEC_CFG | .VEC_CTRL | .FBI_CFG | .HP_NET_CFG | .HP_UDP_CFG | .HP_RETX_CFG
  | .HP_MBX_CFG | .HP_PEER | .FENCE_TIMEOUT | .FAB_RETX_CFG | .FAB_HOT_CFG | .MEM_SCRUB_CFG | .OBS_BG_CFG => true
  | _ => false

end Sys2Proof.Machine

namespace Sys2Proof

/-- What power, the board and the I2C bus do; it acts on a package held in reset too (R373, R375, R426 to R429). -/
def Instr.actsInReset : Instr → Bool
  | .sbPwrOkLow | .sbResetNAssert | .resetRelease _ _ | .i2cTransfer _ _ _ _ | .sbPwrOkRaise => true
  | _ => false

/-- Rows that write a register outside the sub-blocks that answer during a pour (R389). -/
def Instr.writesClosed : Instr → Bool
  | .scpBankOwnWrite _ _ _ | .arrWinCfgWrite _ _ _ | .windowAdvance _ _ _ _ | .swizzleWrite _ _ _ | .marchStart _ _
  | .run _ _ | .halt _ | .clearError _ | .arrSeqCfgWrite _ _ | .spmCfgWrite _ _ | .tabFlush _ | .vecCfgWrite _ _
  | .fbiCfgWrite _ _ | .rakeStreamSubmit _ _ | .rakeHalfArm _ | .qmRelease _ | .resStep _ | .sluSubmit _ | .sluCancel _
  | .sluArm _ | .rakeStreamCfgWrite _ _ | .saltRun _ _ | .saltHalt _ _ | .stgStepArm _ | .stgArrive _ | .stgRelease _
  | .stkReq _ | .stkFree _ | .stkHwmRearm _ | .stgAbort _ | .stgClear _ | .tmpSegArrive _ | .tmpDerive _ | .fabEpochAdvance
  | .fabPhysIdWrite _ | .clkTestWrite _ | .ndcAdd _ | .quenchFire _ | .quenchRelease
  | .writeWrapperInstruction _ | .shiftDataRegister _ | .sppr _ | .hppr _ => true
  | _ => false

/-- Rows in which an engine takes up work by itself (R388). -/
def Instr.takesUpWork : Instr → Bool
  | .rakeDispatch _ | .backwardDispatch _ | .resFetchStart _ _ | .gather | .returnRows | .segment | .admission _
  | .stkGrant _ | .shardReduce _ | .applyPhase _ | .assayVisit _ => true
  | _ => false

/-- Rows of the array fabric: its commands, its engines and its control (R34). -/
def Instr.ofArray : Instr → Bool
  | .commandFetch _ _ | .nop _ _ | .tile _ _ | .tileWriteback _ | .trailerWrite _ | .frozenTile _ _ | .sparseTile _ _
  | .sparseEndPhase _ | .sparseTileStop _ | .reduce _ _ | .own _ _ | .wait _ _ | .waitSatisfied _ _ | .waitTimeout _ _
  | .fence _ _ | .signal _ _ | .scpBankOwnWrite _ _ _ | .handoverComplete _ _ | .drainTimeout _ _ | .arrWinCfgWrite _ _ _
  | .windowAdvance _ _ _ _ | .swizzleWrite _ _ _ | .bankClearDone _ _ | .marchStart _ _ | .marchDone _ _ | .run _ _
  | .halt _ | .clearError _ | .arrSeqCfgWrite _ _ | .spmCfgWrite _ _ | .vecCopy _ _ | .vecAdd _ _ | .vecSub _ _
  | .vecMul _ _ | .vecFma _ _ | .vecMax _ _ | .vecMin _ _ | .vecScale _ _ | .vecDiv _ _ | .vecRecip _ _ | .vecSqrt _ _
  | .vecRsqrt _ _ | .vecExp _ _ | .vecLog _ _ | .vecFtab _ _ | .vecDtab _ _ | .vecRsum _ _ | .vecRprod _ _ | .vecRmax _ _
  | .vecRmin _ _ | .vecRargmax _ _ | .vecRargmin _ _ | .vecRlse _ _ | .vecSoftmax _ _ | .vecSmaxBwd _ _ | .vecNorm _ _
  | .vecTopk _ _ | .vecPassform _ _ | .vecPack _ _ | .vecTqLoad _ | .vecWindowReady _ | .vecEnd _ | .vecPoisonStop _
  | .tabFlush _ | .vecCfgWrite _ _ | .fbiCfgWrite _ _ => true
  | _ => false

end Sys2Proof
end

