-- ==== Sys2Proof/Certificates/Slice0/Obligations.lean ====
section
/-! DEFINITION. The statements for the provers. A statement about a command gives the next state that the command answers: `s.settle t`
is `t` but for the queue and what manufacture fixed, which no command changes. -/

open Sys2Proof Sys2Proof.Machine

/-! ### The machine as a whole -/

/-- A step takes the command at the front of the queue and runs it on the package with the rest of the queue. -/
def Obligations.StepTakesFrontCommand : Prop :=
  ∀ (c : Instr) (rest : List Instr) (s : State), s.pending = c :: rest → step s = exec c { s with pending := rest }

/-- With no command waiting, a step is one hub cycle (the model's choice, log 2; R413 gives the hub clock): the cycle count moves on by
one, the queue stays empty, and a package in reset keeps every other part as it was. -/
def Obligations.IdleStepIsOneCycle : Prop :=
  (∀ s : State, s.pending = [] → step s = .next (s.settle (tick s))) ∧
  (∀ s : State, s.pending = [] → s.up = false → Memory.wf s.mem = true →
    step s = .next { s with cycle := s.cycle + 1 })

/-- The package right after reset keeps its invariant. -/
def Obligations.ResetStateIsSound : Prop :=
  State.reset.Sound State.reset.part ∧ State.reset.pending = [] ∧ State.reset.mem = [] ∧
  ∀ k i j, State.reset.rd k i j = resetValue State.reset.part k i j

/-- Every step from a sound state leads to a sound state: what manufacture fixed stays, every fused register reads as it was fused (R38,
R412), and the memory keeps its canonical form. -/
def Obligations.StepKeepsSound : Prop :=
  ∀ (p : Part) (s t : State), s.Sound p → step s = .next t → t.Sound p

/-- Every command goes on from every state: it answers a next state, never a fault and never a refusal (R12 and R319 give a failed access
a completion, R365 an error an event). It leaves the waiting commands alone. -/
def Obligations.EveryCommandGoesOn : Prop :=
  ∀ (c : Instr) (s : State), ∃ t, exec c s = .next t ∧ t.pending = s.pending ∧ t.part = s.part ∧
    (Memory.wf s.mem = true → Memory.wf t.mem = true)

/-! ### Registers -/

/-- A write of a register that no row of its own names acts on its fields by their access codes and completes with no data (R11, R12); one
of another width than 64 bits, or where no register answers, completes with ADDR_ERR and changes nothing else (R11). -/
def Obligations.RegisterWriteByAccessCodes : Prop :=
  (∀ (addr : Nat) (v : Word) (r : Reg) (s : State), s.up = true → s.regAt false addr = some r → r.kind.hasOwnWrite = false →
    exec (.registerWrite addr 8 v) s =
      .next (s.settle { s.wr r.kind r.i r.j (fieldWrite r.kind (s.rd r.kind r.i r.j) v) with compl := (.ok, []) })) ∧
  (∀ (addr width : Nat) (v : Word) (s : State), s.up = true → (width ≠ 8 ∨ addr % 8 ≠ 0 ∨ s.regAt false addr = none) →
    exec (.registerWrite addr width v) s = .next (s.settle { s with compl := (.addrErr, []) }))

/-- What a write leaves in each field of a register, by its access code (R12, R465), and in its reserved bits (R13). -/
def Obligations.FieldWriteByAccessCode : Prop :=
  (∀ (k : RegKind) (f : Fld) (old new : Word), f ∈ k.fields →
    bits (fieldWrite k old new) f.hi f.lo =
      match f.acc with
      | .rw => bits new f.hi f.lo
      | .ro | .wo => bits old f.hi f.lo
      | .w1s => bits old f.hi f.lo ||| bits new f.hi f.lo
      | .w1c =>
        if f.count then (if bits new f.hi f.lo = f.top then 0 else bits old f.hi f.lo)
        else bits old f.hi f.lo - (bits old f.hi f.lo &&& bits new f.hi f.lo)) ∧
  (∀ (k : RegKind) (i : Nat) (old new : Word), (∀ f ∈ k.fields, i < f.lo ∨ f.hi < i) →
    bit (fieldWrite k old new) i = bit old i)

/-- In reset nothing but what power, the board and the I2C bus do has an effect (R428). From BEGIN to DONE of a pour the registers outside
the identity, host port, Hallmark and Touchstone sub-blocks and the unit state table take no write (R389): the rows that write them leave
the package as it is. From the step QUIESCE of a pour on, the engines take up no work of their own (R388). After the halt at 115 °C no
command of an array has an effect (R34). -/
def Obligations.HeldCommandsChangeNothing : Prop :=
  (∀ (c : Instr) (s : State), s.up = false → c.actsInReset = false → exec c s = .next s) ∧
  (∀ (c : Instr) (s : State), s.up = true → s.flag CST_STATE.pouring = true → c.writesClosed = true →
    exec c s = .next (s.settle s)) ∧
  (∀ (c : Instr) (s : State), s.up = true → s.hmk.quiet = true → c.takesUpWork = true → exec c s = .next (s.settle s)) ∧
  (∀ (c : Instr) (s : State), s.up = true → s.pwr.halted = true → c.ofArray = true → exec c s = .next (s.settle s))

/-! ### The sequencer -/

/-- A stream fetches the 32 bytes at its window's tail into its empty slot; a poisoned command is rejected with SRAM_UE, an opcode above 7
with BAD_OPCODE (R79, R80, R106); a poisoned TILE whose first word is readable leaves its trailer (R86). NOP, OWN, WAIT, FENCE and SIGNAL
at a stream's head whose checks pass issue: the tail passes the command, and OWN, WAIT, FENCE and SIGNAL hold the stream (R79, R80, R91,
R108). A FENCE or SIGNAL looks at once whether its writes are complete. A command that fails a check of R108 is not issued: the sequencer
enters ERROR with the lowest failing code, and the command's window is as it was (R106, R108). An OWN for the bank's owner and a WAIT
whose window holds the threshold let the stream go on at once. -/
def Obligations.PlainCommandsRun : Prop :=
  (∀ (a : Nat) (b : Bool) (s u : State), s.up = true → s.streamOpen a b = true → (s.array a).fetched b = none →
    s.winOn a (s.streamWindow a b) = true → 32 ≤ s.winOcc a (s.streamWindow a b) →
    ∀ w p off bs, w = s.streamWindow a b → p = s.fld ARR_WIN_TAIL.pos a w → off = s.winOffset a w p 0 → bs = s.winBytes a w p 32 →
    s.stalls a [(off, 32)] = false → u = s.sramMeet a [(off, 32)] →
    (u.sramPoison a off 32 = false → byteAt bs 0 < 8 →
      exec (.commandFetch a b) s =
        .next (s.settle ((u.mapArray a fun x => x.setFetched b (some { bytes := bs, offset := off, waiting := false })).syncSeq a))) ∧
    (u.sramPoison a off 32 = false → 8 ≤ byteAt bs 0 →
      exec (.commandFetch a b) s = .next (s.settle ((u.seqReject a b 1 0 off).syncSeq a))) ∧
    (u.sramPoison a off 8 = true → u.sramPoison a off 32 = true →
      exec (.commandFetch a b) s = .next (s.settle ((u.seqReject a b 6 0 off).syncSeq a))) ∧
    (u.sramPoison a off 8 = false → u.sramPoison a off 32 = true → byteAt bs 0 = 1 →
      exec (.commandFetch a b) s = .next (s.settle (((u.pushTrailer a off false (trailerBytes (num bs 4 4) 6 Exc.none (byteAt bs 2 / 16 % 4) 0
        0)).seqReject a b 6 (num bs 4 4) off).syncSeq a)))) ∧
  (∀ (a : Nat) (b : Bool) (f : Fetched) (s : State), s.up = true → s.head a b 0 = some f → zeros f.bytes 1 31 = true →
    exec (.nop a b) s = .next (s.settle ((s.issue a b).syncSeq a))) ∧
  (∀ (a : Nat) (b : Bool) (f : Fetched) (s : State), s.up = true → s.head a b 4 = some f → zeros f.bytes 3 29 = true →
    byteAt f.bytes 1 ≤ 9 → byteAt f.bytes 2 ≤ 5 → s.flag SCP_BANK_OWN.pending a (byteAt f.bytes 1) = false →
    s.fld SCP_BANK_OWN.cur_owner a (byteAt f.bytes 1) ≠ byteAt f.bytes 2 →
    exec (.own a b) s = .next (s.settle (((((((s.issue a b).setFld SCP_BANK_OWN.new_owner a (byteAt f.bytes 1) (byteAt f.bytes 2)).setFld
      SCP_BANK_OWN.pending a (byteAt f.bytes 1) 1).mapArray a fun x =>
        { x with handovers := x.handovers ++ [(byteAt f.bytes 1, byteAt f.bytes 2)] })).setHold a b (.own (byteAt f.bytes 1)) f.offset).syncSeq a))) ∧
  (∀ (a : Nat) (b : Bool) (f : Fetched) (s : State), s.up = true → s.head a b 5 = some f →
    zeros f.bytes 2 6 = true → zeros f.bytes 12 20 = true → byteAt f.bytes 1 ≤ 7 →
    (s.issue a b).winOcc a (byteAt f.bytes 1) < num f.bytes 8 4 →
    exec (.wait a b) s =
      .next (s.settle (((s.issue a b).setHold a b (.wait (byteAt f.bytes 1) (num f.bytes 8 4)) f.offset).syncSeq a))) ∧
  (∀ (a : Nat) (b : Bool) (f : Fetched) (s : State), s.up = true → s.head a b 7 = some f → zeros f.bytes 1 31 = true →
    exec (.fence a b) s = .next (s.settle ((((s.issue a b).setHold a b .fence f.offset).pollHold a b).syncSeq a))) ∧
  (∀ (a : Nat) (b : Bool) (f : Fetched) (s : State), s.up = true → s.head a b 6 = some f →
    zeros f.bytes 1 7 = true → zeros f.bytes 24 8 = true →
    exec (.signal a b) s = .next (s.settle ((((s.issue a b).setHold a b (.signal (num f.bytes 8 8) (num f.bytes 16 8)) f.offset).pollHold
      a b).syncSeq a))) ∧
  (∀ (a : Nat) (b : Bool) (f : Fetched) (s : State), s.up = true → s.head a b 0 = some f → zeros f.bytes 1 31 = false →
    exec (.nop a b) s = .next (s.settle ((s.seqReject a b 3 0 f.offset).syncSeq a))) ∧
  (∀ (a : Nat) (b : Bool) (f : Fetched) (s : State), s.up = true → s.head a b 4 = some f → zeros f.bytes 3 29 = true →
    (9 < byteAt f.bytes 1 ∨ 5 < byteAt f.bytes 2 ∨ s.flag SCP_BANK_OWN.pending a (byteAt f.bytes 1) = true) →
    exec (.own a b) s = .next (s.settle ((s.seqReject a b 4 0 f.offset).syncSeq a))) ∧
  (∀ (a : Nat) (b : Bool) (f : Fetched) (s : State), s.up = true → s.head a b 5 = some f →
    zeros f.bytes 2 6 = true → zeros f.bytes 12 20 = true → 7 < byteAt f.bytes 1 →
    exec (.wait a b) s = .next (s.settle ((s.seqReject a b 4 0 f.offset).syncSeq a))) ∧
  (∀ (a : Nat) (b : Bool) (f : Fetched) (s : State), s.up = true → s.head a b 7 = some f → zeros f.bytes 1 31 = false →
    exec (.fence a b) s = .next (s.settle ((s.seqReject a b 3 0 f.offset).syncSeq a))) ∧
  (∀ (a : Nat) (b : Bool) (f : Fetched) (s : State), s.up = true → s.head a b 6 = some f →
    (zeros f.bytes 1 7 = false ∨ zeros f.bytes 24 8 = false) →
    exec (.signal a b) s = .next (s.settle ((s.seqReject a b 3 0 f.offset).syncSeq a))) ∧
  (∀ (a : Nat) (b : Bool) (f : Fetched) (s : State), s.up = true → s.head a b 4 = some f → zeros f.bytes 3 29 = false →
    exec (.own a b) s = .next (s.settle ((s.seqReject a b 3 0 f.offset).syncSeq a))) ∧
  (∀ (a : Nat) (b : Bool) (f : Fetched) (s : State), s.up = true → s.head a b 5 = some f →
    (zeros f.bytes 2 6 = false ∨ zeros f.bytes 12 20 = false) →
    exec (.wait a b) s = .next (s.settle ((s.seqReject a b 3 0 f.offset).syncSeq a))) ∧
  (∀ (a : Nat) (b : Bool) (f : Fetched) (s : State), s.up = true → s.head a b 4 = some f → zeros f.bytes 3 29 = true →
    byteAt f.bytes 1 ≤ 9 → byteAt f.bytes 2 ≤ 5 → s.flag SCP_BANK_OWN.pending a (byteAt f.bytes 1) = false →
    s.fld SCP_BANK_OWN.cur_owner a (byteAt f.bytes 1) = byteAt f.bytes 2 →
    exec (.own a b) s =
      .next (s.settle (((s.issue a b).setFld SCP_BANK_OWN.new_owner a (byteAt f.bytes 1) (byteAt f.bytes 2)).syncSeq a))) ∧
  (∀ (a : Nat) (b : Bool) (f : Fetched) (s : State), s.up = true → s.head a b 5 = some f →
    zeros f.bytes 2 6 = true → zeros f.bytes 12 20 = true → byteAt f.bytes 1 ≤ 7 →
    num f.bytes 8 4 ≤ (s.issue a b).winOcc a (byteAt f.bytes 1) →
    exec (.wait a b) s = .next (s.settle ((s.issue a b).syncSeq a)))

/-- A waiting WAIT lets its stream go on once its window holds the threshold, and ends with WAIT_TIMEOUT when its limit runs out first
(R80, R108). -/
def Obligations.WaitsEnd : Prop :=
  (∀ (a w n off : Nat) (b : Bool) (id : Option Nat) (s : State), s.runs a = true → (s.array a).hold b = some ⟨.wait w n, off, id⟩ →
    n ≤ s.winOcc a w →
    exec (.waitSatisfied a b) s = .next (s.settle ((s.mapArray a fun x => x.setHold b none).syncSeq a))) ∧
  (∀ (a w n off : Nat) (b : Bool) (id : Option Nat) (s : State), s.runs a = true → (s.array a).hold b = some ⟨.wait w n, off, id⟩ →
    s.winOcc a w < n → s.fld ARR_SEQ_CFG.wait_limit a ≠ 0 →
    exec (.waitTimeout a b) s =
      .next (s.settle (((s.mapArray a fun x => x.setHold b none).seqFail a 7 0 off).syncSeq a)))

/-- The control writes of a sequencer: run, halt, clear_error and `ARR_SEQ_CFG` (R106, R107, R169). A failure puts the sequencer into
ERROR with its status, names the command in `ARR_ERR_INFO` and drops what was fetched (R106): for a failure after issue and for a
rejection alike. -/
def Obligations.SequencerControl : Prop :=
  (∀ (a : Nat) (s : State), s.runsAndTakes a = true →
    exec (.run a true) s =
      .next (s.settle (((s.setFld ARR_SEQ_CTRL.run a 0 1).mapArray a fun x => { x with halted := false }).syncSeq a))) ∧
  (∀ (a : Nat) (s : State), s.runsAndTakes a = true →
    exec (.run a false) s =
      .next (s.settle (((s.setFld ARR_SEQ_CTRL.run a 0 0).mapArray a fun x => { x with fwd := none, bwd := none }).syncSeq a))) ∧
  (∀ (a : Nat) (s : State), s.runsAndTakes a = true →
    exec (.halt a) s = .next (s.settle (((s.dropFetched a).mapArray a fun x => { x with halting := true }).syncSeq a))) ∧
  (∀ (a : Nat) (s : State), s.runsAndTakes a = true → s.fld ARR_STATUS.seq_state a = seqError → s.fld VEC_STATUS.state a ≠ 4 →
    exec (.clearError a) s = .next (s.settle (((s.setFld ARR_STATUS.seq_state a 0 seqIdle).dropFetched a).syncSeq a))) ∧
  (∀ (a : Nat) (v : Word) (s : State), s.runsAndTakes a = true →
    (s.fld ARR_STATUS.seq_state a = seqIdle ∨ s.fld ARR_STATUS.seq_state a = seqHalted) → bits v 10 8 ≠ bits v 2 0 →
    exec (.arrSeqCfgWrite a v) s =
      .next (s.settle (s.wr .ARR_SEQ_CFG a 0 (fieldWrite .ARR_SEQ_CFG (s.rd .ARR_SEQ_CFG a) v)))) ∧
  (∀ (a : Nat) (v : Word) (s : State), s.runsAndTakes a = true →
    (s.fld ARR_STATUS.seq_state a ≠ seqIdle ∧ s.fld ARR_STATUS.seq_state a ≠ seqHalted ∨ bits v 10 8 = bits v 2 0) →
    exec (.arrSeqCfgWrite a v) s = .next (s.settle s)) ∧
  (∀ (a status id off : Nat) (s : State), a < 2240 → status < 256 → id < 2 ^ 32 → off < 2 ^ 19 →
    (s.seqFail a status id off).fld ARR_STATUS.seq_state a = seqError ∧
    (s.seqFail a status id off).fld ARR_STATUS.seq_err a = status ∧
    (s.seqFail a status id off).fld ARR_ERR_INFO.tile_id a = id ∧
    (s.seqFail a status id off).fld ARR_ERR_INFO.cmd_offset a = off ∧
    ((s.seqFail a status id off).array a).fwd = none ∧ ((s.seqFail a status id off).array a).bwd = none ∧
    (s.seqFail a status id off).mem = s.mem)

/-! ### Banks, windows and the march engine -/

/-- A handover request, judged in R91's order: rejected, complete at once, or pending. A drained bank, on which its old owner has nothing
under way, passes to its incoming owner, `pending` clears and the count advances (R92); one that has not drained in time keeps its owner
and is reported (R93). Held accesses then go on or are refused, and an OWN that waited ends. -/
def Obligations.HandoversJudgedAndEnd : Prop :=
  (∀ (a b o : Nat) (s : State), s.runsAndTakes a = true → b ≤ 9 → o < 16 →
    (5 < o ∨ s.flag SCP_BANK_OWN.pending a b = true) →
    exec (.scpBankOwnWrite a b o) s = .next (s.settle ((s.setFld SCP_BANK_OWN.rejected a b 1).syncSeq a))) ∧
  (∀ (a b o : Nat) (s : State), s.runsAndTakes a = true → b ≤ 9 → o ≤ 5 → s.flag SCP_BANK_OWN.pending a b = false →
    s.fld SCP_BANK_OWN.cur_owner a b = o →
    exec (.scpBankOwnWrite a b o) s = .next (s.settle ((s.setFld SCP_BANK_OWN.new_owner a b o).syncSeq a))) ∧
  (∀ (a b o : Nat) (s : State), s.runsAndTakes a = true → b ≤ 9 → o ≤ 5 → s.flag SCP_BANK_OWN.pending a b = false →
    s.fld SCP_BANK_OWN.cur_owner a b ≠ o →
    exec (.scpBankOwnWrite a b o) s =
      .next (s.settle ((((s.setFld SCP_BANK_OWN.new_owner a b o).setFld SCP_BANK_OWN.pending a b 1).mapArray a fun x =>
        { x with handovers := x.handovers ++ [(b, o)] }).syncSeq a))) ∧
  (∀ (a b o : Nat) (s : State), s.runs a = true → (s.array a).handovers.lookup b = some o →
    s.ownerBusy a b = false →
    exec (.handoverComplete a b) s =
      .next (s.settle ((((((((((s.setFld SCP_BANK_OWN.cur_owner a b o).setFld SCP_BANK_OWN.pending a b 0).bump
        SCP_BANK_OWN.handovers a b 1).mapArray a fun x => { x with handovers := x.handovers.filter fun h => h.1 != b }).dropTables
        a b).grantHeld a).endOwnHold a b true false).endOwnHold a b true true)).syncSeq a))) ∧
  (∀ (a b o : Nat) (s u : State), s.runs a = true → (s.array a).handovers.lookup b = some o →
    u = ((s.setFld SCP_BANK_OWN.pending a b 0).setFld SCP_BANK_OWN.drain_timeout a b 1).mapArray a (fun x =>
      { x with handovers := x.handovers.filter fun h => h.1 != b }) →
    exec (.drainTimeout a b) s =
      .next (s.settle (((((u.raise 3 2 a (setBits (u.rd .SCP_BANK_OWN a b) 11 8 b)).grantHeld a).endOwnHold a b false
        false).endOwnHold a b false true).syncSeq a)))

/-- An access through the SRAM window: by EXT to banks it owns it is performed and memory changes in the bytes it writes alone; to a bank
of another owner it is refused with OWN_ERR, sets `violation` and changes no byte (R36, R78, R90). -/
def Obligations.SramWindowAccesses : Prop :=
  (∀ (a off : Nat) (data : List Byte) (s : State), s.up = true → s.arrayAnswers a false = true → s.pwr.halted = false → 0 < data.length →
    off + data.length ≤ 0x50000 →
    (∀ b ∈ banksOf [(off, data.length)], s.owns a b ownExt = true ∧ s.bankStalls a b = false ∧ s.incoming a b ownExt = false) →
    ∃ t, exec (.sramWindowAccess a (.write off data) []) s = .next t ∧ t.compl = (.ok, []) ∧ t.regs = s.regs ∧
      (∀ i, i < data.length → t.byte (sramKey a off + i) = data.getD i 0) ∧
      ∀ k, k < sramKey a off ∨ sramKey a off + data.length ≤ k → t.byte k = s.byte k) ∧
  (∀ (a off n : Nat) (s : State), s.up = true → s.arrayAnswers a false = true → 0 < n → off + n ≤ 0x50000 →
    (∀ b ∈ banksOf [(off, n)], s.owns a b ownExt = true ∧ s.bankStalls a b = false ∧ s.incoming a b ownExt = false) →
    (s.sramMeet a [(off, n)]).sramPoison a off n = false →
    ∃ t, exec (.sramWindowAccess a (.read off n) []) s = .next t ∧ t.compl = (.ok, s.sram a off n) ∧ t.regs = s.regs ∧
      ∀ k, t.byte k = s.byte k) ∧
  (∀ (a off b : Nat) (data : List Byte) (s : State), s.up = true → s.arrayAnswers a false = true → 0 < data.length →
    off + data.length ≤ 0x50000 → banksOf [(off, data.length)] = [b] → s.owns a b ownExt = false → s.incoming a b ownExt = false →
    ∃ t, exec (.sramWindowAccess a (.write off data) []) s = .next t ∧ t.compl = (.ownErr, []) ∧
      t.regs = (s.setFld SCP_BANK_OWN.violation a b 1).regs ∧ ∀ k, t.byte k = s.byte k) ∧
  (∀ (a : Nat) (x : Access) (s : State), s.up = true → s.arrayAnswers a false = false →
    exec (.sramWindowAccess a x []) s = .next (s.settle { s with compl := (.addrErr, []) }))

/-- An advance that is allowed moves the position, and wraps with the lap bit where it reaches the window's end; any other leaves both
positions and sets overflow or underflow (R97). A write of `ARR_WIN_CFG` sets both positions to 0 with equal laps; a configuration that
breaks R96 stays disabled and sets cfg_err (R97). -/
def Obligations.WindowsConfigureAndAdvance : Prop :=
  (∀ (a w n : Nat) (s : State), s.runsAndTakes a = true → w < 8 → n < 2 ^ 19 → s.winMay a w false n = true →
    s.fld ARR_WIN_HEAD.pos a w + n < s.winSize a w →
    exec (.windowAdvance a w false n) s = .next (s.settle (s.setFld ARR_WIN_HEAD.pos a w (s.fld ARR_WIN_HEAD.pos a w + n)))) ∧
  (∀ (a w n : Nat) (s : State), s.runsAndTakes a = true → w < 8 → n < 2 ^ 19 → s.winMay a w false n = true →
    s.winSize a w ≤ s.fld ARR_WIN_HEAD.pos a w + n →
    ∃ t, exec (.windowAdvance a w false n) s = .next t ∧
      t.fld ARR_WIN_HEAD.pos a w = (s.fld ARR_WIN_HEAD.pos a w + n - s.winSize a w) % 2 ^ 19 ∧
      t.fld ARR_WIN_HEAD.lap a w = 1 - s.fld ARR_WIN_HEAD.lap a w ∧ t.mem = Memory.canonical s.mem ∧
      ∀ k i j, k ≠ .ARR_WIN_HEAD → i < 65536 → j < 65536 → t.rd k i j = s.rd k i j) ∧
  (∀ (a w n : Nat) (s : State), s.runsAndTakes a = true → w < 8 → n < 2 ^ 19 → s.winMay a w true n = true →
    exec (.windowAdvance a w true n) s = .next (s.settle (s.winMove a w true n))) ∧
  (∀ (a w n : Nat) (s : State), s.runsAndTakes a = true → w < 8 → n < 2 ^ 19 → s.winMay a w false n = false →
    exec (.windowAdvance a w false n) s = .next (s.settle (s.setFld ARR_WIN_CFG.overflow a w 1))) ∧
  (∀ (a w n : Nat) (s : State), s.runsAndTakes a = true → w < 8 → n < 2 ^ 19 → s.winMay a w true n = false →
    exec (.windowAdvance a w true n) s = .next (s.settle (s.setFld ARR_WIN_CFG.underflow a w 1))) ∧
  (∀ (a w : Nat) (v : Word) (s : State), s.runsAndTakes a = true → w < 8 →
    ∃ t, exec (.arrWinCfgWrite a w v) s = .next t ∧ t.rd .ARR_WIN_HEAD a w = 0 ∧ t.rd .ARR_WIN_TAIL a w = 0 ∧
      t.winOcc a w = 0 ∧ t.mem = Memory.canonical s.mem ∧
      (¬ (t.fld ARR_WIN_CFG.base a w < 5120 ∧ 1 ≤ t.fld ARR_WIN_CFG.size a w ∧
          t.fld ARR_WIN_CFG.base a w + t.fld ARR_WIN_CFG.size a w ≤ 5120) →
        t.fld ARR_WIN_CFG.enable a w = 0 ∧ t.fld ARR_WIN_CFG.cfg_err a w = 1))

/-- The swizzle of a bank changes only while its owner is NONE or MARCH; a change clears the bank, which reads `clearing` until the clear
is done (R99). A march run that R105 does not refuse starts; a destructive run over one bank leaves it zero and, with no line failing,
repairs nothing (R102, R105). A run is refused in R105's order: here while one is in progress, and with no background. -/
def Obligations.BankContentsRenewed : Prop :=
  (∀ (a b : Nat) (on : Bool) (s : State), s.runsAndTakes a = true → b ≤ 9 →
    (s.fld SCP_BANK_OWN.cur_owner a b = 0 ∨ s.fld SCP_BANK_OWN.cur_owner a b = ownMarch) → s.flag SCP_BANK_CFG.swizzle a b ≠ on →
    ∃ t, exec (.swizzleWrite a b on) s = .next t ∧ t.flag SCP_BANK_CFG.swizzle a b = on ∧ t.flag SCP_BANK_CFG.clearing a b = true ∧
      (∀ i, i < 0x8000 → t.byte (bankKey a b + i) = 0) ∧
      ∀ k, k < bankKey a b ∨ bankKey a b + 0x8000 ≤ k → t.byte k = s.byte k) ∧
  (∀ (a b : Nat) (on : Bool) (s : State), s.runsAndTakes a = true → b ≤ 9 → s.fld SCP_BANK_OWN.cur_owner a b ≠ 0 →
    s.fld SCP_BANK_OWN.cur_owner a b ≠ ownMarch →
    exec (.swizzleWrite a b on) s = .next (s.settle s)) ∧
  (∀ (a b : Nat) (s : State), s.runs a = true → b ≤ 9 → s.flag SCP_BANK_CFG.clearing a b = true →
    exec (.bankClearDone a b) s = .next (s.settle ((s.setFld SCP_BANK_CFG.clearing a b 0).grantHeld a))) ∧
  (∀ (a b : Nat) (v : Word) (s : State), s.runsAndTakes a = true → bit v 63 = true → bit v 56 = false → bits v 3 0 ≠ 0 →
    maskBanks (bits v 41 32) = [b] → s.owns a b ownMarch = true → (s.array a).march = none →
    exec (.marchStart a v) s =
      .next (s.settle ((((s.wr .MARCH_CTRL a 0 (fieldWrite .MARCH_CTRL (s.rd .MARCH_CTRL a) v)).setFld MARCH_STATUS.state a 0 2).setFld
        MARCH_STATUS.reason a 0 0).mapArray a fun x => { x with march := some { banks := [b], borrow := none, phase := 2 } }))) ∧
  (∀ (a : Nat) (v : Word) (s : State), s.runsAndTakes a = true → bit v 63 = true → (s.array a).march.isSome = true →
    exec (.marchStart a v) s = .next (s.settle (s.marchRefuse a 1))) ∧
  (∀ (a : Nat) (v : Word) (s : State), s.runsAndTakes a = true → bit v 63 = true → (s.array a).march = none → bits v 3 0 = 0 →
    exec (.marchStart a v) s = .next (s.settle (s.marchRefuse a 2))) ∧
  (∀ (a b : Nat) (s : State), s.runs a = true → b ≤ 9 → (s.array a).march = some { banks := [b], borrow := none, phase := 2 } →
    (s.array a).held = [] →
    ∃ t, exec (.marchDone a []) s = .next t ∧ (t.array a).march = none ∧ t.fld MARCH_STATUS.state a = 5 ∧
      t.fld MARCH_STATUS.failed_banks a = 0 ∧ t.fld MARCH_STATUS.new_repairs a = 0 ∧ t.evt = s.evt ∧
      (∀ i, i < 0x8000 → t.byte (bankKey a b + i) = 0) ∧
      ∀ k, k < bankKey a b ∨ bankKey a b + 0x8000 ≤ k → t.byte k = s.byte k)

/-! ### Tiles -/

/-- A dense TILE whose checks pass, with its turn and the cells free, issues: its job enters the pipeline, and a feed that met a poisoned
word fails it after issue (R78, R81, R84, R85, R106, R165). A TILE that fails a check of R81 is not issued: its trailer carries the lowest
failing code with cycles 0, and the sequencer enters ERROR (R81, R86, R106); one that a bank refuses marks the bank (R90). A frozen TILE
is skipped with its trailer and counted as completed; its checks are made, but for the owners of banks, and one that fails is reported as
for any tile (R162, R110). -/
def Obligations.DenseTiles : Prop :=
  (∀ (a : Nat) (b : Bool) (f : Fetched) (s u : State) (c : TileCmd), s.up = true → s.head a b 1 = some f → c = TileCmd.parse f.bytes →
    c.sparse = false → c.frozen = false →
    firstFailure (c.checks ++ [(5, s.refuses a ownSeq c.reads), (0x28, s.wrongClass a b c.backward)]) = none →
    s.holdsBack a ownSeq c.reads = false → s.turnAllows a b = true → s.matrixFree a c.accLine c.mRows false c.toVec b = true →
    u = s.sramMeet a c.reads →
    ((u.denseJob a c f.offset).1.status = 0 →
      exec (.tile a b) s = .next (s.settle ((u.denseJob a c f.offset).2.startJob a b (u.denseJob a c f.offset).1))) ∧
    ((u.denseJob a c f.offset).1.status ≠ 0 →
      exec (.tile a b) s = .next (s.settle ((((u.denseJob a c f.offset).2.startJob a b (u.denseJob a c f.offset).1).seqFail a 6 c.tileId
        f.offset).syncSeq a)))) ∧
  (∀ (a code : Nat) (b : Bool) (f : Fetched) (s : State) (c : TileCmd), s.up = true → s.head a b 1 = some f →
    c = TileCmd.parse f.bytes → c.sparse = false → c.frozen = false →
    firstFailure (c.checks ++ [(5, s.refuses a ownSeq c.reads), (0x28, s.wrongClass a b c.backward)]) = some code →
    exec (.tile a b) s = .next (s.settle ((((s.noteRefusal a ownSeq c.reads code).pushTrailer a f.offset false (trailerBytes c.tileId code Exc.none
      (c.flags false) 0 0)).seqReject a b code c.tileId f.offset).syncSeq a))) ∧
  (∀ (a : Nat) (b : Bool) (f : Fetched) (s : State) (c : TileCmd), s.up = true → s.head a b 1 = some f → c = TileCmd.parse f.bytes →
    c.frozen = true →
    (firstFailure (c.checks ++ (if c.sparse then spMode c else []) ++ [(0x28, s.wrongClass a b c.backward)]) = none →
      exec (.frozenTile a b) s = .next (s.settle ((((((s.issue a b).setFld ARR_STATUS.cur_tile a 0 c.tileId).bump FBI_PERF_FROZEN.count a
        0 1).bump ARR_PERF_TILES.count a 0 1).pushTrailer a f.offset false (trailerBytes c.tileId 0 Exc.none (c.flags true) 1 0)).syncSeq a))) ∧
    (∀ code, firstFailure (c.checks ++ (if c.sparse then spMode c else []) ++ [(0x28, s.wrongClass a b c.backward)]) = some code →
      exec (.frozenTile a b) s = .next (s.settle (s.rejectTile a b c f.offset code))))

/-- A finished job's end: the oldest dense job writes its region back, enters the tile queue when it goes to the vector engine, and ends
with its trailer (R85, R86, R147); one stopped by a poisoned operand ends without a write-back (R86). The oldest trailer enters the
trailer window once 16 bytes are free: its 16 bytes stand at the head, the head moves by 16, and every other byte of memory is as it was
(R86, R95); a window that is not enabled drops it with BAD_RANGE (R97). -/
def Obligations.TileResults : Prop :=
  (∀ (a : Nat) (s u : State) (j : Job) (js : List Job) (W : Nat) (w : State × Record × Bool), s.runs a = true →
    (s.array a).jobs = j :: js → j.kind = .dense →
    (j.toVec = true → s.flag FBI_CFG.enable a = true ∨ (s.array a).tq.length < 8) →
    (W, u) = (s.accContention a).writebackCycles j.rows → w = u.writeRegion a j.accLine j.rows j.accumulates j.sums →
    exec (.tileWriteback a) s =
      .next (s.settle ((if j.toVec then w.1.appendTq a j (j.record.join w.2.1).bits else w.1).finishJob a j w.2.1
        (if w.2.2 then 6 else 0) (j.cycles + W)))) ∧
  (∀ (a : Nat) (s : State) (j : Job) (js : List Job), s.runs a = true → (s.array a).jobs = j :: js → j.kind = .stopped →
    j.sparse = false →
    exec (.tileWriteback a) s = .next (s.settle (s.finishJob a j (cellsRecord j.sums) j.status j.cycles))) ∧
  (∀ (a w off : Nat) (s : State) (x : Trailer) (xs : List Trailer), s.runs a = true → (s.array a).trailers = x :: xs →
    w = s.fld ARR_SEQ_CFG.trailer_window a → s.winOn a w = true → 16 ≤ s.winFree a w →
    off = s.winOffset a w (s.fld ARR_WIN_HEAD.pos a w) 0 → s.stalls a [(off, 16)] = false →
    exec (.trailerWrite a) s = .next (s.settle ((((s.sramWrite a off x.final).winMove a w false 16).mapArray a fun y =>
      { y with trailers := xs }).pollHolds a)) ∧
    ∀ t, exec (.trailerWrite a) s = .next t → ∀ k, k < sramKey a off ∨ sramKey a off + x.final.length ≤ k → t.byte k = s.byte k) ∧
  (∀ (a : Nat) (s : State) (x : Trailer) (xs : List Trailer), s.runs a = true → (s.array a).trailers = x :: xs →
    s.winOn a (s.fld ARR_SEQ_CFG.trailer_window a) = false →
    exec (.trailerWrite a) s = .next (s.settle (((s.mapArray a fun y => { y with trailers := xs }).seqFail a 4 (num x.bytes 0 4)
      x.offset).pollHolds a)))

/-- A REDUCE whose checks pass, with its turn and no job before it, is carried out at its issue: each word of the region becomes the sum
of what stood there and of the slots' words in ascending slot order (R87); here with no poisoned word on the way, once its reads have met
the errors of their words (R78). -/
def Obligations.ReduceAddsSlots : Prop :=
  ∀ (a : Nat) (b : Bool) (f : Fetched) (s u : State) (c : ReduceCmd), s.up = true → s.head a b 3 = some f → c = ReduceCmd.parse f.bytes →
    firstFailure (s.reduceChecks a c) = none → s.holdsBack a ownSeq c.spans = false → s.turnAllows a b = true →
    s.matrixFree a c.accLine c.mRows true false b = true →
    u = s.sramMeet a ((c.spans.flatMap fun sp => (List.range c.mRows).map fun i => (sp.1 + i * 128, 4 * c.nCols)) ++
      regionSpans c.accLine c.mRows c.nCols) →
    (∀ i j, i < c.mRows → j < c.nCols → (u.reduceWord a c i j).1.isSome = true) →
    ∃ t, exec (.reduce a b) s = .next t ∧ t.fld ARR_STATUS.cur_tile a = c.tileId ∧
      (t.array a).trailers.length = (s.array a).trailers.length + 1 ∧
      (∀ i j, i < c.mRows → j < c.nCols → some (t.accWord a (regionWord c.accLine i j)) = (u.reduceWord a c i j).1) ∧
      ∀ k, (∀ i j, i < c.mRows → j < c.nCols → k < sramKey a (accBase + regionWord c.accLine i j) ∨
        sramKey a (accBase + regionWord c.accLine i j) + 4 ≤ k) → t.byte k = s.byte k

/-- A sparse TILE, its descriptor read, is rejected with the lowest code that its command, its descriptor and the owners of its banks give
(R111, R114), and otherwise issues alone on the cells (R129); here with no bank that is still to become the sequencer's (R92). The end of
a sparse tile (R125, R126, R128), and its rowsplit (R132): the end phase flushes the helper sums and writes the home sums back, so that
every word of the region holds its starting value with the merged helper sums and then the home sum added to it; it changes no other byte
of memory and ends the tile with its trailer, unless a full tile queue holds it back; a stopped tile writes no accumulator word and ends
with its status, its error word and the sequencer in ERROR; `SPM_CFG` takes a rowsplit of 8 to 256 and ignores any other. -/
def Obligations.SparseTiles : Prop :=
  (∀ (a : Nat) (b : Bool) (f : Fetched) (s u : State) (c : TileCmd) (d : SparseDesc), s.up = true → s.head a b 1 = some f →
    c = TileCmd.parse f.bytes → c.sparse = true → c.frozen = false → s.holdsBack a ownSeq (s.sparseSpans a c) = false →
    u = s.sramMeet a [(c.sparseMeta % 2 ^ 19, 32)] → d = SparseDesc.parse (u.sram a (c.sparseMeta % 2 ^ 19) 32) →
    (∀ code, firstFailure (u.sparseChecks a b c) = some code →
      exec (.sparseTile a b) s =
        .next (s.settle ((u.noteRefusal a ownSeq (u.sparseSpans a c) code).rejectTile a b c f.offset code))) ∧
    (∀ fb, firstFailure (u.sparseChecks a b c) = none → tileFmt c.fmtB = some fb → u.turnAllows a b = true →
      u.matrixFree a c.accLine c.mRows true c.toVec b = true →
      exec (.sparseTile a b) s =
        .next (s.settle ((u.sparseChoose a c d fb f.offset).2.startJob a b (u.sparseChoose a c d fb f.offset).1)))) ∧
  (∀ (a : Nat) (s : State) (j : Job) (js : List Job), s.runs a = true → (s.array a).jobs = j :: js → j.kind = .sparse →
    (j.toVec = true → s.flag FBI_CFG.enable a = true ∨ (s.array a).tq.length < 8) →
    ∃ t, exec (.sparseEndPhase a) s = .next t ∧ (t.array a).jobs = js ∧
      (t.array a).trailers.length = (s.array a).trailers.length + 1 ∧ t.fld SPM_STATUS.state a = 0 ∧
      ((∀ x ∈ s.upsets, x.2 = false) → (∀ c ∈ j.helpers ++ j.sums, s.isPoisoned (accUnit a (regionWord j.accLine c.row c.col)) = false) →
        (j.sums.map fun c => (c.row, c.col)).Nodup → (j.helpers.map fun c => (c.row, c.col)).Nodup →
        (∀ c ∈ j.helpers ++ j.sums, c.row < j.rows ∧ c.col < 32) →
        ∀ c ∈ j.sums, t.accWord a (regionWord j.accLine c.row c.col) =
          j.endWord (s.accWord a (regionWord j.accLine c.row c.col)) c) ∧
      (j.toVec = true → (t.array a).tq.length = (s.array a).tq.length + 1) ∧
      ∀ k, (∀ c ∈ j.helpers ++ j.sums, k < sramKey a (accBase + regionWord j.accLine c.row c.col) ∨
        sramKey a (accBase + regionWord j.accLine c.row c.col) + 4 ≤ k) → t.byte k = s.byte k) ∧
  (∀ (a : Nat) (s : State) (j : Job) (js : List Job), s.runs a = true → (s.array a).jobs = j :: js → j.kind = .stopped →
    j.sparse = true → j.status ≠ 0 → j.status < 256 →
    ∃ t, exec (.sparseTileStop a) s = .next t ∧ (t.array a).jobs = js ∧
      (t.array a).trailers.length = (s.array a).trailers.length + 1 ∧ t.fld ARR_STATUS.seq_state a = seqError ∧
      ((s.array a).holding = false → t.fld ARR_STATUS.seq_err a = j.status) ∧ t.fld SPM_STATUS.state a = 0 ∧ t.fld SPM_STATUS.last_err a = j.status ∧
      t.rd .SPM_ERR_INFO a = j.errInfo ∧ ∀ k, t.byte k = s.byte k) ∧
  (∀ (a n : Nat) (v : Word) (s : State), s.runsAndTakes a = true →
    n = bits (fieldWrite .SPM_CFG (s.rd .SPM_CFG a) v) SPM_CFG.rowsplit.hi SPM_CFG.rowsplit.lo → 8 ≤ n → n ≤ 256 →
    exec (.spmCfgWrite a v) s = .next (s.settle (s.wr .SPM_CFG a 0 (fieldWrite .SPM_CFG (s.rd .SPM_CFG a) v)))) ∧
  (∀ (a n : Nat) (v : Word) (s : State), s.runsAndTakes a = true →
    n = bits (fieldWrite .SPM_CFG (s.rd .SPM_CFG a) v) SPM_CFG.rowsplit.hi SPM_CFG.rowsplit.lo → (n < 8 ∨ 256 < n) →
    exec (.spmCfgWrite a v) s = .next (s.settle s))

/-! ### The vector engine -/

/-- A VEC of each operation at a stream's head whose checks pass is carried out when the engine and its windows are free (R139, R141,
R168, R471) and no earlier TILE or REDUCE is still to write its accumulator words (R80); it waits in its stream while its tile or its
windows are not there (R149), and a failing check rejects it with the lowest code (R168). Here with no bank that is still to become the
vector engine's (R92). -/
def Obligations.VectorCommandsBegin : Prop :=
  ∀ (code : Nat) (row : Nat → Bool → Instr), (code, row) ∈ vecRows →
    ∀ (a : Nat) (b : Bool) (f : Fetched) (s u : State) (c : VecCmd), s.up = true → s.head a b 2 = some f → c = VecCmd.parse f.bytes →
    c.vop = code → s.vecHeld a c = false → u = s.sramMeet a (inScratchpad c.blockSpans) →
    (∀ bad, firstFailure (u.vecChecks a b c) = some bad →
      exec (row a b) s = .next (s.settle ((u.noteRefusal a ownVec (u.vecSpans a c) bad).rejectVec a b f.offset bad))) ∧
    (firstFailure (u.vecChecks a b c) = none →
      ((c.tq = true ∧ u.vecEntry a c = none ∨ (u.vecAt a c).windowsReady u = false) →
        exec (row a b) s = .next (s.settle (u.vecWait a b f))) ∧
      ((c.tq = true → (u.vecEntry a c).isSome = true) → (u.vecAt a c).windowsReady u = true → (u.array a).vec = none →
        u.accOrderHolds (u.vecAt a c) = false →
        exec (row a b) s = .next (s.settle (u.vecBegin (u.vecAt a c) b f.offset (u.vecEntry a c) (u.vecLength a c)))))

/-- A VEC that waits goes on once its tile-queue entry or its windows are there, in either row, and enters the engine (R149, R168); here
in one stream with nothing waiting in the other. The VEC in execution ends (R137, R97), or stops on a poisoned word (R169): without
windows its end is counted and frees the engine; a stop poisons the words it wrote and puts both engines into ERROR. -/
def Obligations.VectorGoesOnAndEnds : Prop :=
  (∀ (a : Nat) (b : Bool) (f : Fetched) (s u t : State) (c : VecCmd), s.up = true → s.head a b 2 = some f → f.waiting = true →
    c = VecCmd.parse f.bytes → s.vecHeld a c = false → u = s.sramMeet a (inScratchpad c.blockSpans) →
    firstFailure (u.vecChecks a b c) = none → (c.tq = true → (u.vecEntry a c).isSome = true) →
    (u.vecAt a c).windowsReady u = true → (u.array a).vec = none → u.accOrderHolds (u.vecAt a c) = false →
    t = u.vecBegin (u.vecAt a c) b f.offset (u.vecEntry a c) (u.vecLength a c) →
    s.head a (!b) 2 = none → t.head a (!b) 2 = none →
    exec (.vecTqLoad a) s = .next (s.settle t) ∧ exec (.vecWindowReady a) s = .next (s.settle t)) ∧
  (∀ (a : Nat) (s u : State) (j : VecJob), s.runs a = true → (s.array a).vec = some j → j.poisonedAt = none → j.advances = [] →
    u = ((s.mapArray a fun x => { x with vec := none }).bump VEC_PERF_CMDS.count a 0 1).setFld VEC_STATUS.pass a 0 j.pass →
    (s.fld VEC_STATUS.state a ≠ 4 → exec (.vecEnd a) s = .next (s.settle ((u.setFld VEC_STATUS.state a 0 0).pollHolds a))) ∧
    (s.fld VEC_STATUS.state a = 4 → exec (.vecEnd a) s = .next (s.settle (u.pollHolds a)))) ∧
  (∀ (a w n : Nat) (tail : Bool) (s u : State) (j : VecJob), s.runs a = true → (s.array a).vec = some j → j.poisonedAt = none →
    j.advances = [(w, tail, n)] → s.winMay a w tail n = false → w < 8 → s.fld VEC_STATUS.state a ≠ 4 →
    u = (((s.mapArray a fun x => { x with vec := none }).bump VEC_PERF_CMDS.count a 0 1).setFld VEC_STATUS.pass a 0 j.pass).setFld
      VEC_STATUS.state a 0 0 →
    exec (.vecEnd a) s = .next (s.settle ((((u.setFld (if tail then ARR_WIN_CFG.underflow else ARR_WIN_CFG.overflow) a w 1).setFld
      VEC_STATUS.last_err a 0 9).seqFail a 9 0 j.offset).pollHolds a))) ∧
  (∀ (a done : Nat) (s : State) (j : VecJob), s.runs a = true → (s.array a).vec = some j → j.poisonedAt = some done →
    ∃ t, exec (.vecPoisonStop a) s = .next t ∧ (t.array a).vec = none ∧ t.fld VEC_STATUS.state a = 4 ∧ t.fld VEC_STATUS.last_err a = 6 ∧
      t.fld ARR_STATUS.seq_state a = seqError ∧ t.fld ARR_STATUS.seq_err a = 6 ∧ (∀ k ∈ j.written, t.isPoisoned k = true) ∧
      ∀ k, t.byte k = s.byte k)

/-- The vector engine's own registers: tab_flush empties the table slots (R156), `VEC_CFG` is written while the engine is idle and the
tile queue empty (R151), `FBI_CFG` while the sequencer is IDLE or HALTED and, enabled, with shares, a reserve and a window of its own
(R164, R170); any other write is ignored. -/
def Obligations.VectorControlWrites : Prop :=
  (∀ (a : Nat) (s : State), s.runsAndTakes a = true →
    exec (.tabFlush a) s = .next (s.settle (((s.setFld VEC_TAB_SLOT.valid a 0 0).setFld VEC_TAB_SLOT.valid a 1 0).mapArray a fun x =>
      { x with tab0 := none, tab1 := none }))) ∧
  (∀ (a : Nat) (v : Word) (s : State), s.runsAndTakes a = true → s.fld VEC_STATUS.state a = 0 → (s.array a).vec = none →
    (s.array a).tq = [] →
    exec (.vecCfgWrite a v) s = .next (s.settle (s.wr .VEC_CFG a 0 (fieldWrite .VEC_CFG (s.rd .VEC_CFG a) v)))) ∧
  (∀ (a : Nat) (v : Word) (s : State), s.runsAndTakes a = true → (s.fld VEC_STATUS.state a ≠ 0 ∨ (s.array a).tq ≠ []) →
    exec (.vecCfgWrite a v) s = .next (s.settle s)) ∧
  (∀ (a : Nat) (v : Word) (s : State), s.runsAndTakes a = true →
    (s.fld ARR_STATUS.seq_state a = seqIdle ∨ s.fld ARR_STATUS.seq_state a = seqHalted) → bit v 63 = false →
    exec (.fbiCfgWrite a v) s = .next (s.settle (s.wr .FBI_CFG a 0 (fieldWrite .FBI_CFG (s.rd .FBI_CFG a) v)))) ∧
  (∀ (a : Nat) (v : Word) (s : State), s.runsAndTakes a = true →
    (s.fld ARR_STATUS.seq_state a = seqIdle ∨ s.fld ARR_STATUS.seq_state a = seqHalted) → bit v 63 = true →
    (fbiEmpty v = true ∨ bits v 58 56 = s.fld ARR_SEQ_CFG.cmd_window a ∨ bits v 58 56 = s.fld ARR_SEQ_CFG.trailer_window a →
      exec (.fbiCfgWrite a v) s = .next (s.settle s)) ∧
    (fbiEmpty v = false → bits v 58 56 ≠ s.fld ARR_SEQ_CFG.cmd_window a → bits v 58 56 ≠ s.fld ARR_SEQ_CFG.trailer_window a →
      exec (.fbiCfgWrite a v) s = .next (s.settle (s.wr .FBI_CFG a 0 (fieldWrite .FBI_CFG (s.rd .FBI_CFG a) v))))) ∧
  (∀ (a : Nat) (v : Word) (s : State), s.runsAndTakes a = true → s.fld ARR_STATUS.seq_state a ≠ seqIdle →
    s.fld ARR_STATUS.seq_state a ≠ seqHalted →
    exec (.fbiCfgWrite a v) s = .next (s.settle s))

/-! ### The token exchange -/

/-- A submission whose route block passes enters its stream's queue, and its group is marked submitted in its half (R175 to R177); one
whose route block lies in a bank that is still to become EXT's waits (R92). A word with a reserved field set is an error of the stream
(R175, R202), and so are a full queue, a poisoned route block and one whose fields are out of range. -/
def Obligations.RakeSubmissionQueued : Prop :=
  (∀ (n g half slot : Nat) (v : Word) (s u w : State) (l : Layer) (q : Submission) (h : RakeHalf) (cells : List (Byte × Bool)),
    s.takesWrites = true → n ≤ 63 → s.flag RAKE_STREAM_CFG.enable n = true → s.fld RAKE_STREAM_STATUS.state n ≠ 3 →
    g = bits v 63 48 → half = bits v 47 47 → slot = bits v 39 32 → s.layer slot = some l → bits v 46 40 = 0 → bits v 31 19 = 0 →
    bits v 18 0 % 32 = 0 → (s.stream n).queue.length < 16 → (s.stream n).arriving = [] →
    s.memRead (0x080000000000 + s.fld RAKE_STREAM_CFG.array n * 0x100000 + bits v 18 0) 32 ownExt dieHub = (u, .opened, cells) →
    cells.any (·.2) = false → routeHeader l (cells.map (·.1)) g half slot = some q → u.halfOf slot q.backward half q.epoch = some h →
    h.finished = false → g < h.groups → h.submitted.contains g = false →
    w = u.mapHalf slot q.backward half q.epoch (fun h => { h with submitted := h.submitted ++ [g] }) →
    exec (.rakeStreamSubmit n v) s = .next (s.settle ((({ w with rake := { w.rake with arrivals := w.rake.arrivals + 1 } } :
      State).setStream n { w.stream n with queue := (w.stream n).queue ++ [{ q with stamp := w.rake.arrivals + 1 }] }).syncStream n))) ∧
  (∀ (n : Nat) (v : Word) (s : State) (l : Layer), s.takesWrites = true → n ≤ 63 → s.flag RAKE_STREAM_CFG.enable n = true →
    s.fld RAKE_STREAM_STATUS.state n ≠ 3 → s.layer (bits v 39 32) = some l →
    (bits v 46 40 ≠ 0 ∨ bits v 31 19 ≠ 0 ∨ bits v 18 0 % 32 ≠ 0) →
    exec (.rakeStreamSubmit n v) s =
      .next (s.settle (s.streamError n 1 (bits v 39 32) (bits v 63 48) (s.submitSide n (bits v 39 32))))) ∧
  (∀ (n : Nat) (v : Word) (s u : State) (l : Layer) (cells : List (Byte × Bool)), s.takesWrites = true → n ≤ 63 →
    s.flag RAKE_STREAM_CFG.enable n = true → s.fld RAKE_STREAM_STATUS.state n ≠ 3 → s.layer (bits v 39 32) = some l →
    bits v 46 40 = 0 → bits v 31 19 = 0 → bits v 18 0 % 32 = 0 →
    (16 ≤ (s.stream n).queue.length + (s.stream n).arriving.length → exec (.rakeStreamSubmit n v) s =
      .next (s.settle (s.streamError n 3 (bits v 39 32) (bits v 63 48) (s.submitSide n (bits v 39 32))))) ∧
    ((s.stream n).queue.length < 16 → (s.stream n).arriving = [] →
      (s.memRead (0x080000000000 + s.fld RAKE_STREAM_CFG.array n * 0x100000 + bits v 18 0) 32 ownExt dieHub = (u, .held, cells) →
        exec (.rakeStreamSubmit n v) s = .next (s.settle ((s.setStream n { s.stream n with arriving := [v] }).syncStream n))) ∧
      (s.memRead (0x080000000000 + s.fld RAKE_STREAM_CFG.array n * 0x100000 + bits v 18 0) 32 ownExt dieHub = (u, .opened, cells) →
        cells.any (·.2) = true → exec (.rakeStreamSubmit n v) s =
          .next (s.settle (u.streamError n 6 (bits v 39 32) (bits v 63 48) (s.submitSide n (bits v 39 32))))) ∧
      (s.memRead (0x080000000000 + s.fld RAKE_STREAM_CFG.array n * 0x100000 + bits v 18 0) 32 ownExt dieHub = (u, .opened, cells) →
        cells.any (·.2) = false → routeHeader l (cells.map (·.1)) (bits v 63 48) (bits v 47 47) (bits v 39 32) = none →
        exec (.rakeStreamSubmit n v) s =
          .next (s.settle (u.streamError n 2 (bits v 39 32) (bits v 63 48) (byteAt (cells.map (·.1)) 7 % 2 == 1))))))

/-- A half is armed (R177), one with no group being finished at once; arming an unknown layer, the epoch 0xFFFF, a cancelled epoch or a
half that is armed already is refused with source 3 (R201). A write of `RAKE_STREAM_CFG` takes effect; with enable 0 it discards what the
stream holds and clears its error (R214). -/
def Obligations.RakeArmsAndStreams : Prop :=
  (∀ (v : Word) (s u : State) (l : Layer) (slot half epoch : Nat) (b : Bool), s.takesWrites = true → slot = bits v 31 24 → b = bit v 22 →
    half = bits v 23 23 → epoch = bits v 63 48 → s.layer slot = some l → epoch ≠ 0xFFFF → s.cancelled epoch = false →
    s.halfOf slot b half epoch = none →
    u = { s with rake := { s.rake with
      halves := s.rake.halves ++ [{ slot := slot, backward := b, half := half, epoch := epoch
                                    groups := bits v 47 32, cplArray := bits v 15 4, cplWindow := bits v 2 0 }]
      decided := removeKey (decidedKey slot b half epoch) s.rake.decided
      order := if l.train && !b && bits v 47 32 != 0 then s.rake.order.erase (slot, half, epoch) ++ [(slot, half, epoch)] else s.rake.order } } →
    (bits v 47 32 ≠ 0 → exec (.rakeHalfArm v) s = .next (s.settle u)) ∧
    (bits v 47 32 = 0 → exec (.rakeHalfArm v) s = .next (s.settle (u.finishHalf slot b half epoch)))) ∧
  (∀ (v : Word) (s : State), s.takesWrites = true →
    ((s.layer (bits v 31 24)).isSome = false ∨ bits v 63 48 = 0xFFFF ∨ s.cancelled (bits v 63 48) = true ∨
      (s.halfOf (bits v 31 24) (bit v 22) (bits v 23 23) (bits v 63 48)).isSome = true) →
    exec (.rakeHalfArm v) s = .next (s.settle (s.rxRefuse 3 1 3 0xFFFF (bits v 31 24) 0))) ∧
  (∀ (n : Nat) (v : Word) (s : State), s.takesWrites = true → n ≤ 63 → bit v 63 = true →
    exec (.rakeStreamCfgWrite n v) s =
      .next (s.settle (s.wr .RAKE_STREAM_CFG n 0 (fieldWrite .RAKE_STREAM_CFG (s.rd .RAKE_STREAM_CFG n) v)))) ∧
  (∀ (n : Nat) (v : Word) (s : State), s.takesWrites = true → n ≤ 63 → bit v 63 = false →
    ∃ t, exec (.rakeStreamCfgWrite n v) s = .next t ∧ t.stream n = {} ∧ (∀ p ∈ t.rake.pending, p.stream ≠ n) ∧
      t.fld RAKE_STREAM_STATUS.state n = 0 ∧ t.fld RAKE_STREAM_STATUS.err n = 0 ∧ ∀ m, m ≠ n → t.stream m = s.stream m)

/-- The head submission of a stream, its half in work and its turn come, is taken up choice by choice, by RAKE_DISPATCH when it is forward
and by BACKWARD_DISPATCH when it is backward; here with every index in range. When all of its choices are taken the group is marked taken,
an EAGER layer's early one counted, and the submission is done or waits for its pending choices; when the pending store is full it stays
at the head, and a write that fails on the way makes an error of the stream, with what was taken up kept (R177, R178, R182, R187, R202,
R204). A forward choice of no expert is written as absent: its placement word is all ones, its return row zero and the choice counted; one
past the expert's cap, when the layer drops, is dropped so, and counted as dropped (R182, R188). Either ends so unless the return row's
address is refused (R202). -/
def Obligations.RakeTakesChoices : Prop :=
  (∀ (n a : Nat) (s x u v w : State) (l : Layer) (q q1 : Submission) (rest : List Submission) (h : RakeHalf), s.working = true →
    (s.stream n).arriving = [] → (s.stream n).queue = q :: rest → s.fld RAKE_STREAM_STATUS.state n ≠ 3 → s.layer q.slot = some l →
    s.halfInWork q.slot q.backward = some h → h.is q.slot q.backward q.half q.epoch = true → s.submissionTurn l h q = true →
    a = s.fld RAKE_STREAM_CFG.array n →
    (∀ sp ∈ q.spans l, s.memGate (0x080000000000 + a * 0x100000 + sp.1) sp.2 ownExt = .opened) → s.sramSeen a (q.reads l) = (x, false) →
    (∀ m, m < q.tokens * l.topK → leNat (x.sram a (q.idxAddr + 4 * m) 4) < l.experts ∨
      leNat (x.sram a (q.idxAddr + 4 * m) 4) = 0xFFFFFFFF) →
    (∀ c, x.takeChoices n l q (q.tokens * l.topK + 1) = (u, q1, some c) →
      w = (u.setStream n { u.stream n with queue := q1 :: rest }).streamFailed n q.slot q.g q.backward c →
      (q.backward = false → exec (.rakeDispatch n) s = .next (s.settle w)) ∧
      (q.backward = true → exec (.backwardDispatch n) s = .next (s.settle w))) ∧
    (x.takeChoices n l q (q.tokens * l.topK + 1) = (u, q1, none) → q.tokens * l.topK ≤ q1.next →
      v = (u.mapHalf q.slot q.backward q.half q.epoch fun h => { h with taken := h.taken ++ [q.g] }).bump RX_PERF_SUBMITS.count 0 0 1 →
      w = (if l.eager ∧ (List.range q.g).any (fun g => !(h.taken.contains g))
          then (v.bump RX_PERF_NDC.count 0 0 1).ndc ((v.bump RX_PERF_NDC.count 0 0 1).part.dieOf a) 1 1 else v).setStream n
        { s.stream n with queue := rest, under := if q1.waiting = 0 then (s.stream n).under else (s.stream n).under ++ [q1] } →
      (q.backward = false → exec (.rakeDispatch n) s =
        .next (s.settle ((if q1.waiting = 0 then w.submissionDone n q1 else w).syncStream n))) ∧
      (q.backward = true → exec (.backwardDispatch n) s =
        .next (s.settle ((if q1.waiting = 0 then w.submissionDone n q1 else w).syncStream n)))) ∧
    (x.takeChoices n l q (q.tokens * l.topK + 1) = (u, q1, none) → q1.next < q.tokens * l.topK → w = (u.setStream n { u.stream n with queue := q1 :: rest }).syncStream n →
      (q.backward = false → exec (.rakeDispatch n) s = .next (s.settle w)) ∧
      (q.backward = true → exec (.backwardDispatch n) s = .next (s.settle w)))) ∧
  (∀ (n i j : Nat) (s : State) (l : Layer) (q : Submission),
    s.dispatchForward n l q i j 0xFFFFFFFF =
      ((((s.placeWord n q (i * l.topK + j) 0xFFFFFFFF).1.zeroRow l false ((q.firstToken + i) * l.topK + j)).bump RX_PERF_ABSENT.count
        0 0 1), s.zeroEnd l false ((q.firstToken + i) * l.topK + j) .absent)) ∧
  (∀ (n i j e : Nat) (s : State) (l : Layer) (q : Submission) (h : RakeHalf), e ≠ 0xFFFFFFFF → l.drop = true →
    s.halfOf q.slot q.backward q.half q.epoch = some h → Sparse.get 0 h.sent e = l.cap →
    s.dispatchForward n l q i j e =
      ((((s.placeWord n q (i * l.topK + j) 0xFFFFFFFF).1.zeroRow l false ((q.firstToken + i) * l.topK + j)).bump RX_PERF_DROP.count
        0 0 1).mapWindow (fun w => { w with dropped := w.dropped + 1 }), s.zeroEnd l false ((q.firstToken + i) * l.topK + j) .dropped))

/-- A GROUP notice reaches its expert's home: it enters the expert's ring and the group is held until its release (R190, R192); an END
notice enters the ring and, forward, adds its count to the histogram (R190, R211). Here for an expert that does not rest. `QM_RELEASE` of
a held group lets it go and sends its release to the sending rank's rake (R194); of a group not held it is refused with source 4. A
release that arrives frees the group's ring position, and choices that waited for it go on (R186, R187). -/
def Obligations.NoticesAndReleases : Prop :=
  (∀ (bs : List Byte) (s : State) (l : Layer) (e : Nat), s.up = true → bs.length = 32 → byteAt bs 0 = 1 →
    s.layer (byteAt bs 1) = some l → e = num bs 4 2 % 4096 → e < l.experts → l.eager = false → (s.expert l e).rests = false →
    (∃ t, exec (.groupNotice bs) s = .next t ∧ t.regs = (s.ringNotice (s.expert l e).ring bs).regs ∧
      t.mem = Memory.canonical (s.ringNotice (s.expert l e).ring bs).mem ∧
      t.qm.groups = s.qm.groups ++ [{ slot := byteAt bs 1, expert := e, rank := byteAt bs 3 % 64
                                      backward := byteAt bs 2 / 2 % 2 == 1, seq := num bs 8 4 % 2 ^ 24 }])) ∧
  (∀ (bs : List Byte) (s : State) (l : Layer) (e p : Nat), s.up = true → bs.length = 32 → byteAt bs 0 = 2 →
    s.layer (byteAt bs 1) = some l → e = num bs 4 2 % 4096 → e < l.experts → p < l.ranks → p ≠ byteAt bs 3 % 64 →
    s.qm.ends.contains (byteAt bs 1, e, byteAt bs 2 / 2 % 2 == 1, byteAt bs 2 % 2, num bs 16 2, p) = false →
    ∃ t, exec (.endNotice bs) s = .next t ∧
      t.qm.ends = s.qm.ends ++ [(byteAt bs 1, e, byteAt bs 2 / 2 % 2 == 1, byteAt bs 2 % 2, num bs 16 2, byteAt bs 3 % 64)] ∧
      (byteAt bs 2 / 2 % 2 = 1 → t.regs = (s.ringNotice (s.expert l e).ring bs).regs) ∧
      (byteAt bs 2 / 2 % 2 = 0 → t.regs = ((s.ringNotice (s.expert l e).ring bs).addHist l e (num bs 12 4)).regs)) ∧
  (∀ (v : Word) (s : State) (l : Layer) (g : HomeGroup), s.takesWrites = true →
    g = { slot := bits v 63 56, expert := bits v 35 24, rank := bits v 55 50, backward := bit v 49, seq := bits v 23 0 } →
    s.layer g.slot = some l → s.qm.groups.contains g = true →
    exec (.qmRelease v) s = .next (s.settle (({ s with qm := { s.qm with groups := s.qm.groups.erase g } } : State).send
      { op := 0x11, dst := s.packageOf l g.rank, requester := sluiceCode, addr := rakePort
        payload := noticeBytes 4 g.slot 0 g.backward g.rank g.expert 0 g.seq 0 0 0 }))) ∧
  (∀ (v : Word) (s : State), s.takesWrites = true →
    s.qm.groups.contains { slot := bits v 63 56, expert := bits v 35 24, rank := bits v 55 50, backward := bit v 49, seq := bits v 23 0 } = false →
    exec (.qmRelease v) s = .next (s.settle (s.rxRefuse 4 1 4 0xFFFF (bits v 63 56) (bits v 35 24)))) ∧
  (∀ (bs : List Byte) (s : State) (d : Dest), s.up = true → byteAt bs 0 = 4 →
    d = s.dest (byteAt bs 1) (num bs 4 2 % 4096) (byteAt bs 2 / 2 % 2 == 1) → d.occupied.contains (num bs 8 4 % 2 ^ 24) = true →
    exec (.releaseArrival bs) s = .next (s.settle ((s.setDest { d with occupied := d.occupied.erase (num bs 8 4 % 2 ^ 24) }).drainPending
      (byteAt bs 1) (num bs 4 2 % 4096) (byteAt bs 2 / 2 % 2 == 1) (s.rake.pending.length + 1))))

/-- The residency of experts (R209 to R211, R216): `RES_STEP` opens the next bin; a fetch that waits takes a free pool slot; a write-back
that ends lets its image rest and the fetch behind it start; a fetch that ends makes its expert RESIDENT, one that fails leaves it
RESTING. -/
def Obligations.ResidencyMoves : Prop :=
  (∀ (v : Word) (s : State), s.takesWrites = true →
    ∃ t, exec (.resStep v) s = .next t ∧ t.qm.bins = (s.qm.bins.map fun b => (b.1, (0 :: b.2).take 16)) ∧ t.qm.groups = s.qm.groups ∧
      t.mem = Memory.canonical s.mem) ∧
  (∀ (slot e p : Nat) (s : State) (l : Layer), s.working = true → s.layer slot = some l → s.qm.waiting.contains (resKey slot e) = true →
    s.freePool l = some p →
    exec (.resFetchStart slot e) s = .next (s.settle ((({ s with qm := { s.qm with waiting := s.qm.waiting.erase (resKey slot e) } } :
      State).setRes (l.expertBase + e) resFetching p).bump RES_PERF_FETCH_DEMAND.count 0 0 1))) ∧
  (∀ (slot v : Nat) (s u : State) (l wl : Layer) (w : Nat × Nat), s.up = true → s.layer slot = some l →
    s.qm.writeBacks.find? (fun w => w.1 == resKey slot v) = some w →
    ({ s with qm := { s.qm with writeBacks := s.qm.writeBacks.erase w } } : State).copyMem (l.poolAddr (s.res (l.expertBase + v)).2)
      (s.expert l v).image (l.slotUnits * 4096) = (u, true) → u.layer (w.2 / 4096) = some wl →
    exec (.evictWritebackDone slot v true) s =
      .next (s.settle ((({ u with qm := { u.qm with changed := u.qm.changed.erase (resKey slot v) } } : State).setRes (l.expertBase + v)
        resResting 0).setRes (wl.expertBase + w.2 % 4096) resFetching (s.res (l.expertBase + v)).2))) ∧
  (∀ (slot e : Nat) (s u : State) (l : Layer), s.up = true → s.layer slot = some l → e < l.experts →
    (s.res (l.expertBase + e)).1 = resFetching →
    s.copyMem (s.expert l e).image (l.poolAddr (s.res (l.expertBase + e)).2) (l.slotUnits * 4096) = (u, true) →
    exec (.resFetchDone slot e true) s =
      .next (s.settle ((({ u with qm := { u.qm with changed := u.qm.changed.erase (resKey slot e) } } : State).setRes (l.expertBase + e)
        resResident (s.res (l.expertBase + e)).2).ringNotice (s.expert l e).ring (noticeBytes 3 slot 0 false 0 e 0 0 0 0 0)))) ∧
  (∀ (slot e : Nat) (s : State) (l : Layer), s.up = true → s.layer slot = some l → e < l.experts →
    (s.res (l.expertBase + e)).1 = resFetching →
    exec (.resFetchDone slot e false) s = .next (s.settle ((s.setRes (l.expertBase + e) resResting 0).fetchFailed slot e)))

/-- The sluice: a request that the table of R195 admits is queued, any other is refused with source 2, and one whose read is held waits
(R92); GATHER copies a group into the array, RETURN sends one row for each slot in use, SEGMENT sends a gradient with its CRC and
announces it behind, and fails on a poisoned gradient (R193 to R197, R206, R207, R253, R291). -/
def Obligations.SluiceRequests : Prop :=
  (∀ (v : Word) (s u : State) (cells : List (Byte × Bool)), s.takesWrites = true →
    bits v 47 0 % 32 = 0 → s.slu.length < 64 → s.sluWait = [] → s.memRead (bits v 47 0) 32 ownExt dieHub = (u, .opened, cells) →
    cells.any (·.2) = false → s.sluBad (cells.map (·.1)) = false →
    exec (.sluSubmit v) s = .next (s.settle { u with slu := u.slu ++ [SluReq.parse (cells.map (·.1))] })) ∧
  (∀ (v : Word) (s u : State) (cells : List (Byte × Bool)) (g : Gate), s.takesWrites = true → bits v 47 0 % 32 = 0 →
    s.slu.length < 64 → s.sluWait = [] → s.memRead (bits v 47 0) 32 ownExt dieHub = (u, g, cells) →
    (g = .held → exec (.sluSubmit v) s = .next (s.settle { s with sluWait := [bits v 47 0] })) ∧
    (g ≠ .held → (g ≠ .opened ∨ cells.any (·.2) = true ∨ s.sluBad (cells.map (·.1)) = true) →
      exec (.sluSubmit v) s = .next (s.settle (u.rxRefuse 2 1 2 0xFFFF (byteAt (cells.map (·.1)) 1) (bits v 47 0))))) ∧
  (∀ (v : Word) (s : State), s.takesWrites = true → (bits v 47 0 % 32 ≠ 0 ∨ 64 ≤ s.slu.length + s.sluWait.length) →
    exec (.sluSubmit v) s = .next (s.settle (s.rxRefuse 2 1 2 0xFFFF 0 (bits v 47 0)))) ∧
  (∀ (s u : State) (r : SluReq) (rs : List SluReq) (l : Layer) (cells : List (Byte × Bool)), s.working = true →
    s.sluWait = [] → s.slu = r :: rs → r.kind = 1 → s.layer r.slot = some l →
    s.memGate (winAddr r.array r.a) (l.groupBytes r.backward) ownExt = .opened →
    s.memGate (r.addr % 2 ^ 48) (l.groupBytes r.backward) ownExt = .opened →
    s.memRead (r.addr % 2 ^ 48) (l.groupBytes r.backward) ownExt dieHub = (u, .opened, cells) →
    exec .gather s = .next (s.settle (((u.memWrite (winAddr r.array r.a) (cells.map fun c => some c.1) ownExt 2).1.copyPoison
      (winAddr r.array r.a) cells).sluEnd r 0x13 0 0 0))) ∧
  (∀ (s u v : State) (r : SluReq) (rs : List SluReq) (l : Layer) (rows : List (Nat × Nat)), s.working = true → s.sluWait = [] →
    s.slu = r :: rs → r.kind = 2 → s.layer r.slot = some l →
    (∀ sp ∈ [(r.a, l.codeBytes r.backward), (r.b, l.d), (r.c, 256)], s.memGate (winAddr r.array sp.1) sp.2 ownExt = .opened) →
    s.sramSeen r.array [(r.c, 8 * r.n)] = (u, false) →
    rows = ((List.range r.n).map fun t => (t, leNat (u.sram r.array (r.c + 8 * t) 8))).filter (fun x => x.2 != emptyTag) →
    (∀ x ∈ rows, u.rowsToward (u.packageOf l (x.2 / 2 ^ 24 % 64)) +
      (rows.filter fun y => u.packageOf l (y.2 / 2 ^ 24 % 64) == u.packageOf l (x.2 / 2 ^ 24 % 64)).length ≤ 512) →
    v = (u.sramSeen r.array (rows.flatMap fun x => rowSpans l r x.1)).1 →
    exec .returnRows s = .next (s.settle ((rows.foldl (fun t x => t.send
      { op := 0x11, dst := u.packageOf l (x.2 / 2 ^ 24 % 64), requester := sluiceCode, addr := rakePort
        payload := rowBytes r.slot r.backward (v.returnRow l r x.1).2.2 x.2 (v.returnRow l r x.1).1 (v.returnRow l r x.1).2.1 })
      v).sluEnd r 0x14 ((rows.map (·.2)).headD 0 / 2 ^ 47 % 2) ((rows.map (·.2)).headD 0 / 2 ^ 48) rows.length))) ∧
  (∀ (s u : State) (r : SluReq) (rs : List SluReq) (cells : List (Byte × Bool)) (bs : List Byte) (crc line : Nat), s.working = true →
    s.sluWait = [] → s.slu = r :: rs → r.kind = 3 → s.memGate (winAddr r.array (gradientOff r.a)) (32 + r.len) ownExt = .opened →
    s.memRead (winAddr r.array (gradientOff r.a)) (32 + r.len) ownExt dieHub = (u, .opened, cells) → bs = cells.map (·.1) →
    crc = (if r.len = 0 then 0 else crc32c (bs.drop 32)) → line = segArriveAddr / 128 * 128 →
    (cells.any (·.2) = true → exec .segment s = .next (s.settle (u.sluFail r))) ∧
    (cells.any (·.2) = false → exec .segment s = .next (s.settle (((u.storeTo (r.addr / 2 ^ 48) sluiceCode 0 (r.addr % 2 ^ 48)
      (bs.take 20 ++ leBytes 4 crc ++ (bs.drop 24).take 8 ++ bs.drop 32)).send
      { op := 2, dst := r.addr / 2 ^ 48, requester := sluiceCode, addr := line, mask := 255 * 2 ^ (segArriveAddr - line), behind := true
        payload := List.replicate (segArriveAddr - line) 0#8 ++ leBytes 8 (r.addr % 2 ^ 48) ++
          List.replicate (120 - (segArriveAddr - line)) 0#8 }).sluEnd r 0x15 0 0 0))))

/-- A return row that arrives is taken up in the hub cycle that follows: it is committed in the return region, codes and scales poisoned
where it was sent so, and counted, or, its epoch cancelled, dropped and counted (R198, R199). A cancel marks its epoch and no other, and
`SLU_ARM` clears the mark (R200, R201). -/
def Obligations.RowsReturnEpochsCancel : Prop :=
  (∀ (bs : List Byte) (s : State), s.up = true →
    exec (.returnRowArrival bs) s = .next (s.settle { s with rake := { s.rake with rows := s.rake.rows ++ [bs] } })) ∧
  (∀ (bs : List Byte) (s : State), s.rake.rows = [bs] → s.takeRows = ({ s with rake := { s.rake with rows := [] } } : State).takeRow bs) ∧
  (∀ (bs : List Byte) (s u : State) (l : Layer) (b : Bool) (tag n nc : Nat), byteAt bs 0 = 5 →
    s.layer (byteAt bs 1) = some l → b = (byteAt bs 2 / 2 % 2 == 1) → tag = num bs 8 8 → s.cancelled (tag / 2 ^ 48) = false →
    n = tag % 2 ^ 24 * l.topK + tag / 2 ^ 43 % 16 → nc = l.d * half2 (l.fmtOf b) / 2 →
    u = (s.putMem (retCodes l b n) ((bs.drop 16).take nc) ownExt dieHub).putMem (retScales l b n)
      ((bs.drop (16 + nc)).take (l.d / 32)) ownExt dieHub →
    s.takeRow bs = ((((if byteAt bs 3 % 2 = 1 then (u.copyPoison (retCodes l b n) (((bs.drop 16).take nc).map fun b =>
      (b, true))).copyPoison (retScales l b n) (((bs.drop (16 + nc)).take (l.d / 32)).map fun b => (b, true)) else u)).bump
      SLU_PERF_ROWS.count 0 0 1).mapHalf (byteAt bs 1) b (tag / 2 ^ 47 % 2) (tag / 2 ^ 48) fun h =>
      { h with committed := h.committed + 1 }).decideHalf (byteAt bs 1) b (tag / 2 ^ 47 % 2) (tag / 2 ^ 48)) ∧
  (∀ (bs : List Byte) (s : State) (l : Layer) (b : Bool) (tag : Nat), byteAt bs 0 = 5 →
    s.layer (byteAt bs 1) = some l → b = (byteAt bs 2 / 2 % 2 == 1) → tag = num bs 8 8 → s.cancelled (tag / 2 ^ 48) = true →
    s.takeRow bs = (((s.bump SLU_PERF_CANCEL_DROP.count 0 0 1).mapWindow fun w =>
      { w with cancelRows := w.cancelRows + 1 }).mapHalf (byteAt bs 1) b (tag / 2 ^ 47 % 2) (tag / 2 ^ 48) fun h =>
      { h with dropped := h.dropped + 1 }).decideHalf (byteAt bs 1) b (tag / 2 ^ 47 % 2) (tag / 2 ^ 48)) ∧
  (∀ (v : Word) (s : State), s.takesWrites = true →
    ∃ t, exec (.sluCancel v) s = .next t ∧ t.cancelled (bits v 15 0) = true ∧
      ∀ e, e < 65536 → e ≠ bits v 15 0 → t.cancelled e = s.cancelled e) ∧
  (∀ (v : Word) (s : State), s.takesWrites = true →
    ∃ t, exec (.sluArm v) s = .next t ∧ t.cancelled (bits v 15 0) = false ∧ t.mem = Memory.canonical s.mem ∧
      ∀ e, e < 65536 → e ≠ bits v 15 0 → t.cancelled e = s.cancelled e)

/-- The salter threads' control (R213): a run starts the threads named and clears the faults of those it starts, a halt stops those named,
and a fault halts its thread, marks it, keeps its cause and raises 0x06:0x05. A thread that waits on a remote access neither runs nor is
halted. -/
def Obligations.SalterThreads : Prop :=
  (∀ (core m started : Nat) (s : State), s.takesWrites = true → core ≤ 31 → m < 256 → started = (m &&& (255 - s.fld SALT_CTRL.run core)) →
    ∃ t, exec (.saltRun core m) s = .next t ∧ t.fld SALT_CTRL.run core = m ∧
      t.fld SALT_STATUS.faulted core = (s.fld SALT_STATUS.faulted core &&& (255 - started)) ∧
      t.fld SALT_STATUS.running core = (m &&& (255 - (s.fld SALT_STATUS.faulted core &&& (255 - started))) &&&
        (255 - s.fld SALT_STATUS.remote core)) ∧ t.salt = s.salt ∧ t.mem = Memory.canonical s.mem) ∧
  (∀ (core m : Nat) (s : State), s.takesWrites = true → core ≤ 31 → m < 256 →
    ∃ t, exec (.saltHalt core m) s = .next t ∧ t.fld SALT_CTRL.run core = (s.fld SALT_CTRL.run core &&& (255 - m)) ∧
      t.fld SALT_STATUS.running core = (s.fld SALT_STATUS.running core &&& (255 - m)) ∧
      t.fld SALT_STATUS.remote core = (s.fld SALT_STATUS.remote core &&& (255 - m)) ∧
      t.fld SALT_STATUS.faulted core = s.fld SALT_STATUS.faulted core ∧ t.salt = s.salt ∧ t.mem = Memory.canonical s.mem) ∧
  (∀ (core thread : Nat) (info : Word) (s u : State), s.up = true → core ≤ 31 → thread ≤ 7 →
    (s.fld SALT_STATUS.running core / 2 ^ thread % 2 = 1 ∨ s.fld SALT_STATUS.remote core / 2 ^ thread % 2 = 1) → u = s.saltHalt core (2 ^ thread) →
    exec (.salterThreadFault core thread info) s = .next (s.settle (((u.setFld SALT_STATUS.faulted core 0
      (u.fld SALT_STATUS.faulted core ||| 2 ^ thread)).setThread (8 * core + thread) { s.thread (8 * core + thread) with
      cause := info }).raise 6 5 (8 * core + thread) 0)))

/-! ### Power and the step -/

/-- A UCIe retry is counted (R23); a sample of package power moves the throttle by the two windows (R31, R32); a reading of a die's sensor
moves SB_THERM_N at 105 °C and halts the arrays at 115 °C (R34). -/
def Obligations.PowerAndHeatReadings : Prop :=
  (∀ (die : Nat) (s : State), s.up = true →
    exec (.ucieRetry die) s = .next (s.settle (s.setFld DIE_D2D_STATUS.retry_count die 0
      (min (s.fld DIE_D2D_STATUS.retry_count die + 1) DIE_D2D_STATUS.retry_count.top)))) ∧
  (∀ (mw : Nat) (s : State) (p : Pwr), s.up = true → p = { s.pwr with samples := runTake longWindow (runPush mw s.pwr.samples) } →
    ∃ t, exec (.powerMonitorSample mw) s = .next t ∧
      (t.pwr.power, t.pwr.restPower) = throttleStep p.over p.under p.power p.restPower ∧
      (t.pwr.thermal, t.pwr.restThermal) = throttleStep (s.hottest ≥ 100) (s.hottest ≤ 95) p.thermal p.restThermal ∧
      t.pwr.samples = p.samples ∧ (∀ d, d < 2 → t.fld DIE_PWR_STATUS.throttle d = t.pwr.throttle % 16) ∧
      t.mem = Memory.canonical s.mem ∧ t.arr = s.arr) ∧
  (∀ (die celsius : Nat) (s u : State), s.up = true → die ≤ 2 →
    u = { s with pwr := { s.pwr with dies := Sparse.put 0 s.pwr.dies die celsius } } →
    ∃ t, exec (.dieSensorReading die celsius) s = .next t ∧ t.pwr.dies = u.pwr.dies ∧
      (die < 2 → t.fld DIE_PWR_STATUS.temp_max die = min celsius 255) ∧ t.pins.thermN = !(u.hottest ≥ 105) ∧
      (115 ≤ celsius → t.pwr.halted = true) ∧ (celsius < 115 → t.pwr.halted = s.pwr.halted ∧ t.pins.faultN = s.pins.faultN) ∧
      (115 ≤ celsius → s.pwr.halted = false → t.pins.faultN = false))

/-- `STG_STEP_ARM` in IDLE or DONE arms the step with M micro-batches and starts each valid stage's counts anew; in any other state, or
with M 0, it is ignored (R224, R242). -/
def Obligations.StepArms : Prop :=
  (∀ (v : Word) (s : State) (m : Nat), s.takesWrites = true → (s.fld STG_STEP_STATUS.state = 0 ∨ s.fld STG_STEP_STATUS.state = 2) →
    bits v 31 16 ≠ 0 → m < 64 → (s.stageEntry m).valid = true →
    ∃ t, exec (.stgStepArm v) s = .next t ∧ t.fld STG_STEP_STATUS.state = 1 ∧ t.fld STG_STEP_STATUS.step = bits v 63 32 ∧
      t.fld STG_STEP_STATUS.cause = 0 ∧ t.fld STG_STEP_STATUS.user_code = 0 ∧ t.stg.mbs = bits v 31 16 ∧
      t.mem = Memory.canonical s.mem ∧ t.fab = s.fab ∧
      ∀ n, n < 64 → (s.stageEntry n).valid = true → t.stage n = { s.stage n with
        freed := 0, inFwd := { (s.stage n).inFwd with mb := 0, span := 0, spans := 0 }
        inBwd := { (s.stage n).inBwd with mb := 0, span := 0, spans := 0 } }) ∧
  (∀ (v : Word) (s : State), s.takesWrites = true →
    ((s.fld STG_STEP_STATUS.state ≠ 0 ∧ s.fld STG_STEP_STATUS.state ≠ 2) ∨ bits v 31 16 = 0) →
    exec (.stgStepArm v) s = .next (s.settle s))

/-- A boundary entry that arrives in order and agrees with its queue is accepted: forward it waits for admission, backward its ARRIVE
record goes out; one with a wrong sequence number is protocol error 1 (R221, R225, R226, R244). -/
def Obligations.EntryArrives : Prop :=
  (∀ (v : Word) (s u : State) (e : StageEntry) (q : QueueEntry) (x : Stage) (slot seq : Nat) (b : Bool) (k : StgQueue)
      (cells : List (Byte × Bool)) (h : List Byte), s.takesWrites = true → s.stageHears = true → slot = bits v 63 58 → b = bit v 57 →
    seq = bits v 23 0 → e = s.stageEntry slot → q = s.queueEntry slot (2 * b2n b) → x = s.stage slot →
    k = (if b then x.inBwd else x.inFwd) → e.valid = true → q.valid = true → seq = k.next →
    s.memRead (q.slotAddr seq) 64 ownExt dieHub = (u, .opened, cells) → cells.any (·.2) = false → h = cells.map (·.1) →
    byteAt h 0 = 0x40 → byteAt h 1 % 2 = b2n b → u.fld STG_STEP_STATUS.state = 1 → num h 4 4 = u.fld STG_STEP_STATUS.step →
    spanOk k b e.spanTokens u.stg.mbs (num h 8 2) (num h 10 2 % 4096) (num h 12 2 % 8192) (num h 16 4 % 2 ^ 21) (num h 20 4 % 2 ^ 21)
      (x.inflight.find? fun i => i.mb == num h 8 2) = true →
    exec (.stgArrive v) s = .next (s.settle
      (if b then ((u.setStage slot { x with inBwd := k.step b (num h 10 2 % 4096) (num h 12 2 % 8192) }).stageRecord slot q.array q.window
        (some 1) (arriveBytes slot true
          { q := seq, mb := num h 8 2, span := num h 10 2 % 4096, spans := num h 12 2 % 8192, tokens := num h 20 4 % 2 ^ 21 }
          (q.slotAddr seq))).syncStage slot
      else (u.setStage slot { x with
        inFwd := k.step b (num h 10 2 % 4096) (num h 12 2 % 8192)
        arrivals := x.arrivals ++ [{ q := seq, mb := num h 8 2, span := num h 10 2 % 4096, spans := num h 12 2 % 8192
                                     tokens := num h 20 4 % 2 ^ 21 }] }).evaluate slot))) ∧
  (∀ (v : Word) (s : State), s.takesWrites = true → s.stageHears = true →
    bits v 23 0 ≠ (if bit v 57 then (s.stage (bits v 63 58)).inBwd else (s.stage (bits v 63 58)).inFwd).next →
    exec (.stgArrive v) s = .next (s.settle (s.protocolError 1 (bits v 63 58) (bit v 57) 0 (bits v 23 0))))

/-- The stage's pools: a waiting micro-batch is admitted when inflight, held requests and free chunks allow it (R228); a held request is
served in order and answered by a GRANT record (R229 to R231); records that wait go out when their windows have room (R223); and `STK_HWM`
takes present usage at a write of rearm (R235). -/
def Obligations.StagePoolsMove : Prop :=
  (∀ (slot : Nat) (s u : State) (e : StageEntry) (q : QueueEntry) (x : Stage) (a : Arrival) (rest : List Arrival), s.working = true →
    slot ≤ 63 → e = s.stageEntry slot → e.valid = true → s.fld STG_STEP_STATUS.state = 1 → u = s.flushStage slot →
    u.fld STG_STEP_STATUS.state = 1 → x = u.stage slot → x.records = [] → x.fwdReqs = [] → x.bwdReqs = [] → x.arrivals = a :: rest →
    a.span = 0 → u.mayAdmit slot e = true → q = u.queueEntry slot 0 → u.winMay q.array q.window false 32 = true →
    exec (.admission slot) s = .next (s.settle
      (((((u.bump STG_PERF_ADMIT.count slot 0 1).setStage slot { x with
          arrivals := rest
          inflight := x.inflight ++ [{ mb := a.mb, spans := a.spans, tokens := if a.spans = 1 then a.tokens else 0 }] }).stageRecord slot
        q.array q.window (some 0) (arriveBytes slot false a (q.slotAddr a.q))).admitAll slot e 63).syncStage slot))) ∧
  (∀ (slot : Nat) (s u v : State) (e : StageEntry) (q : StkReq), s.working = true →
    slot ≤ 63 → e = s.stageEntry slot → e.valid = true → s.fld STG_STEP_STATUS.state = 1 → u = s.flushStage slot →
    (u.stage slot).fwdReqs = [q] → u.serve slot e q = some v → (v.stage slot).bwdReqs = [] → v.fld STG_STEP_STATUS.state = 1 →
    exec (.stkGrant slot) s = .next (s.settle
      (((v.setStage slot { v.stage slot with fwdReqs := [] }).admitAll slot e 64).syncStage slot))) ∧
  (∀ (slot mb n tag p k : Nat) (r : Bool) (s : State) (e : StageEntry),
    (s.stage slot).stk.place e.stkChunks n = some (p, k) →
    s.serve slot e { backward := false, recomputable := r, mb := mb, n := n, tag := tag } =
      some (((s.setStage slot { s.stage slot with stk := (s.stage slot).stk.take p k n mb }).bump STK_PERF_SKIP.count slot 0 k).stageRecord
        slot e.lead e.stkWindow none (stageBytes 0x30 slot 0 n mb tag 0 0 (e.stkBase + p * 0x10000)))) ∧
  (∀ (slot : Nat) (s : State), s.up = true → slot ≤ 63 → (s.stageEntry slot).valid = true → s.fld STG_STEP_STATUS.state ≠ 1 →
    exec (.stageRecordWrite slot) s = .next (s.settle ((s.flushStage slot).syncStage slot))) ∧
  (∀ (slot : Nat) (s : State), s.takesWrites = true → slot ≤ 63 →
    ∃ t, exec (.stkHwmRearm slot) s = .next t ∧ t.fld STK_HWM.stk_hwm slot = s.fld STK_USED.stk_used slot % 2 ^ 28 ∧
      t.fld STK_HWM.spill_hwm slot = s.fld STK_USED.spill_used slot % 2 ^ 28 ∧ t.stg = s.stg ∧ t.mem = Memory.canonical s.mem)

/-- Credits and chunks come back: a release in order sends its credit to the peer (R222), a credit in order becomes a CREDIT record, a
request joins its pool (R230), and the free of the oldest micro-batch returns its chunks (R232, R238); out of order each is its protocol
error (R244). -/
def Obligations.CreditsAndChunksReturn : Prop :=
  (∀ (v : Word) (s : State) (q : QueueEntry) (x : Stage) (slot seq : Nat) (b : Bool) (k : StgQueue), s.takesWrites = true →
    s.stageHears = true → slot = bits v 63 58 → b = bit v 57 → seq = bits v 23 0 → q = s.queueEntry slot (2 * b2n b) →
    x = s.stage slot → k = (if b then x.inBwd else x.inFwd) → (s.stageEntry slot).valid = true → q.valid = true → seq = k.released →
    k.released ≠ k.given →
    exec (.stgRelease v) s = .next (s.settle ((s.setStage slot
      (if b then { x with inBwd := { k with released := (k.released + 1) % 2 ^ 24 } }
        else { x with inFwd := { k with released := (k.released + 1) % 2 ^ 24 } })).stageSend q.peerPkg
      (stageMessage msgCredit q.peerSlot (b2n b) 0 ((seq + q.depth) % 2 ^ 24) s.myId)))) ∧
  (∀ (v : Word) (s : State), s.takesWrites = true → s.stageHears = true →
    bits v 23 0 ≠ (if bit v 57 then (s.stage (bits v 63 58)).inBwd else (s.stage (bits v 63 58)).inFwd).released →
    exec (.stgRelease v) s = .next (s.settle (s.protocolError 4 (bits v 63 58) (bit v 57) 0 (bits v 23 0)))) ∧
  (∀ (bs : List Byte) (s : State) (q : QueueEntry) (x : Stage) (slot seq : Nat) (b : Bool), s.up = true → byteAt bs 0 = 0x46 →
    slot = byteAt bs 1 % 64 → b = (byteAt bs 2 % 2 == 1) → seq = num bs 4 4 % 2 ^ 24 → q = s.queueEntry slot (if b then 3 else 1) →
    x = s.stage slot → (s.stageEntry slot).valid = true → q.valid = true → seq = (if b then x.creditBwd else x.creditFwd) →
    exec (.creditMessage bs) s = .next (s.settle ((s.setStage slot
      (if b then { x with creditBwd := (seq + 1) % 2 ^ 24 } else { x with creditFwd := (seq + 1) % 2 ^ 24 })).stageRecord slot q.array
      q.window none (stageBytes 0x34 slot (b2n b) 0 0 0 seq 0 0)))) ∧
  (∀ (v : Word) (s : State) (q : StkReq) (x : Stage) (slot : Nat), s.takesWrites = true → s.stageHears = true → slot = bits v 63 58 →
    q = { backward := bit v 57, recomputable := bit v 56, mb := bits v 55 40, n := bits v 39 34, tag := bits v 15 0 } →
    x = s.stage slot → (s.stageEntry slot).valid = true → x.inflight.any (fun i => i.mb == q.mb) = true → x.trippedMb q.mb = false →
    1 ≤ q.n → q.n ≤ 32 → (if q.backward then x.bwdReqs else x.fwdReqs).length < 16 →
    exec (.stkReq v) s = .next (s.settle ((s.setStage slot
      (if q.backward then { x with bwdReqs := x.bwdReqs ++ [q] } else { x with fwdReqs := x.fwdReqs ++ [q] })).evaluate slot))) ∧
  (∀ (v : Word) (s : State) (e : StageEntry) (x : Stage) (i : InFlight) (rest : List InFlight) (slot : Nat), s.takesWrites = true →
    s.stageHears = true → slot = bits v 63 58 → e = s.stageEntry slot → e.valid = true → x = s.stage slot → x.inflight = i :: rest →
    i.mb = bits v 15 0 →
    exec (.stkFree v) s = .next (s.settle (((s.setStage slot { x with
      inflight := rest, freed := x.freed + 1, stk := x.stk.free e.stkChunks i.mb
      spill := x.spill.free e.spillChunks i.mb, bres := x.bres.free e.bresChunks i.mb }).evaluate slot).checkLocalDone))) ∧
  (∀ (v : Word) (s : State) (x : Stage) (i : InFlight) (rest : List InFlight), s.takesWrites = true → s.stageHears = true →
    x = s.stage (bits v 63 58) → x.inflight = i :: rest → i.mb ≠ bits v 15 0 →
    exec (.stkFree v) s = .next (s.settle (s.protocolError 7 (bits v 63 58) false (bits v 15 0) 0)))

/-- The step's end at the root: LOCAL_DONE is counted and the last decides DONE (R239); an ABORT before the commit point decides ABORTED
at the end of its hub cycle unless completion comes in that cycle, and one after the cycle of the commit point is only counted (R239);
CLEARED of every package makes the root send READY (R242). -/
def Obligations.RootDecides : Prop :=
  (∀ (bs : List Byte) (s u : State), s.up = true → byteAt bs 0 = 0x41 → s.isRoot = true → s.stepDecided (num bs 4 4) (num bs 10 2) = false →
    s.stg.doneFrom.contains (num bs 4 4, num bs 8 2) = false →
    u = { s with stg := { s.stg with doneFrom := s.stg.doneFrom ++ [(num bs 4 4, num bs 8 2)] } } →
    exec (.localDone bs) s = .next (s.settle
      (if s.fld STG_ROOT.packages ≤ ((s.stg.doneFrom ++ [(num bs 4 4, num bs 8 2)]).filter fun x => x.1 == num bs 4 4).length
        then u.decide true 0 0 (num bs 4 4) 0 (num bs 10 2) else u))) ∧
  (∀ (bs : List Byte) (s : State), s.up = true → byteAt bs 0 = 0x42 → s.isRoot = true →
    s.stepDecided (num bs 4 4) (num bs 10 2) = false → (∀ a ∈ s.stg.aborts, a.1 ≠ num bs 4 4) →
    exec (.abort bs) s = .next (s.settle { s with stg := { s.stg with
      aborts := s.stg.aborts ++ [(num bs 4 4, num bs 8 2, byteAt bs 2, byteAt bs 3, num bs 10 2)] } })) ∧
  (∀ (step pkg cause user attempt : Nat) (s t : State), s.stg.aborts = [(step, pkg, cause, user, attempt)] → step < 2 ^ 32 →
    cause < 256 → user < 256 → t = s.settleAborts →
    (s.stepDecided step attempt = true → t = { s with stg := { s.stg with aborts := [] } }) ∧
    (s.stepDecided step attempt = false → t.stg.decided = s.stg.decided ++ [(step, attempt)] ∧ t.fld STG_STEP_STATUS.state = 3 ∧
      t.fld STG_STEP_STATUS.cause = cause ∧ t.fld STG_STEP_STATUS.user_code = user ∧ t.fld STG_STEP_STATUS.step = step)) ∧
  (∀ (bs : List Byte) (s : State), s.up = true → byteAt bs 0 = 0x42 → s.isRoot = true →
    s.stepDecided (num bs 4 4) (num bs 10 2) = true → s.stg.decidedAt ≠ s.cycle →
    exec (.abort bs) s = .next (s.settle (s.bump STG_PERF_LATE_ABORT.count 0 0 1))) ∧
  (∀ (bs : List Byte) (s : State) (c : List Nat), s.up = true → byteAt bs 0 = 0x44 → s.isRoot = true →
    c = (if s.stg.clearedFrom.contains (num bs 8 2) then s.stg.clearedFrom else s.stg.clearedFrom ++ [num bs 8 2]) →
    ∃ t, exec (.cleared bs) s = .next t ∧
      (c.length < s.fld STG_ROOT.packages → t = s.settle { s with stg := { s.stg with clearedFrom := c } }) ∧
      (s.fld STG_ROOT.packages ≤ c.length → t.stg.clearedFrom = [] ∧ t.stg.decided = s.stg.decided ∧
        t.fab.reqQ = s.fab.reqQ ++ s.otherPackages.map (fun p => ({ op := 0x11, dst := p, requester := stageCode, addr := stagePort
                                                                    payload := stageMessage msgReady 0 0 0 (s.fld STG_STEP_STATUS.step) 0 } :
          Request)) ∧
        t.fld STG_STEP_STATUS.state = if s.fld STG_STEP_STATUS.state = 4 then 0 else s.fld STG_STEP_STATUS.state))

/-- The step's end at a package: COMMIT shows its outcome and ends the step's tracking (R240, R241, R339); an abort asked for goes to the
root while a step is armed and is only counted otherwise (R238); `STG_CLEAR` after an abort starts every queue anew and reports CLEARED,
and READY leads to IDLE (R241, R242). -/
def Obligations.StepEndsAtPackage : Prop :=
  (∀ (bs : List Byte) (s : State), s.up = true → byteAt bs 0 = 0x43 →
    ∃ t, exec (.commit bs) s = .next t ∧ t.fld STG_STEP_STATUS.state = (if byteAt bs 1 = 1 then 2 else 3) ∧
      t.fld STG_STEP_STATUS.cause = byteAt bs 2 ∧ t.fld STG_STEP_STATUS.user_code = byteAt bs 3 ∧
      t.fld STG_STEP_STATUS.step = num bs 4 4 ∧ t.fab.tracks = [] ∧ t.fab.lost = [] ∧ t.rd .FAB_TRACK_STATUS = 0 ∧ t.qm.updates = [] ∧
      t.stg.attempts = if byteAt bs 1 = 1 then s.stg.attempts else (s.stg.attempts + 1) % 65536) ∧
  (∀ (v : Word) (s : State), s.takesWrites = true → s.fld STG_STEP_STATUS.state = 1 → s.isRoot = false →
    exec (.stgAbort v) s = .next (s.settle (s.stageSend (s.fld STG_ROOT.root)
      (stageMessage msgAbort 0 1 (bits v 7 0) (s.fld STG_STEP_STATUS.step) s.myId s.stg.attempts)))) ∧
  (∀ (v : Word) (s : State), s.takesWrites = true → s.fld STG_STEP_STATUS.state ≠ 1 →
    exec (.stgAbort v) s = .next (s.settle (s.bump STG_PERF_LATE_ABORT.count 0 0 1))) ∧
  (∀ (v : Word) (s : State), s.takesWrites = true → s.fld STG_STEP_STATUS.state = 3 → bit v 0 = true → s.isRoot = false →
    ∃ t, exec (.stgClear v) s = .next t ∧ t.fld STG_STEP_STATUS.state = 4 ∧
      (∀ n, n < 64 → (t.stage n).inflight = [] ∧ (t.stage n).arrivals = [] ∧ (t.stage n).fwdReqs = [] ∧ (t.stage n).bwdReqs = [] ∧
        (t.stage n).stk = {} ∧ (t.stage n).spill = {} ∧ (t.stage n).bres = {}) ∧
      t.fab.reqQ.getLast? = some { op := 0x11, dst := s.fld STG_ROOT.root, requester := stageCode, addr := stagePort
                                   payload := stageMessage msgCleared 0 0 0 (s.fld STG_STEP_STATUS.step) s.myId }) ∧
  (∀ (bs : List Byte) (s : State), s.up = true → byteAt bs 0 = 0x45 → s.fld STG_STEP_STATUS.state = 4 →
    ∃ t, exec (.ready bs) s = .next t ∧ t.fld STG_STEP_STATUS.state = 0 ∧ t.stg = s.stg ∧ t.mem = Memory.canonical s.mem)

/-! ### The temper units -/

/-- A gradient segment that passes its checks joins its shard's collection (R253, R254); one that fails a check, or is at no landing slot,
is counted, recorded as corrupt and aborts the step with user code 0xE1 (R254). A shard whose segments are all there is reduced, its norm
partial sent and the shard parked (R255 to R257), unless one of them can no longer be used; a norm partial is stored until its layer's
last one comes (R257, R258); and a shard whose segments stay away after COMMIT(DONE) is missing (R268). -/
def Obligations.SegmentsReduce : Prop :=
  (∀ (v : Word) (s y : State) (x bank r : Nat) (e : ShardEntry) (hd bd : State × List Byte × Bool),
    s.takesWrites = true → s.dieOpen [0, 1] = true → s.stageHears = true → s.landingSlot (bits v 47 0) = some (x, e, bank, r) →
    hd = s.unitRead e.unit (bits v 47 0) 32 →
    bd = hd.1.unitRead e.unit (bits v 47 0 + 32) (if num hd.2.1 16 4 = 4 * e.n then num hd.2.1 16 4 else 0) →
    (hd.2.2 = false → bd.1.segmentCheck x e bank r hd.2.1 bd.2.1 bd.2.2 = none →
      y = (bd.1.setTshard x { (bd.1.tshard x) with segs := (bd.1.tshard x).segs ++ [{ step := num hd.2.1 8 4, replica := r
                                                                                      count := num hd.2.1 12 4
                                                                                      empty := byteAt hd.2.1 1 / 2 % 2 == 1 }] }).bump
        TMP_PERF_SEGMENTS.count 0 0 1 →
      exec (.tmpSegArrive v) s = .next (s.settle
        ((((if y.phase x = phIdle then y.setPhase x phCollect else y).syncPresent x).syncUnit e.unit).flushReady))) ∧
    (∀ c, (if hd.2.2 then some 8 else bd.1.segmentCheck x e bank r hd.2.1 bd.2.1 bd.2.2) = some c →
      exec (.tmpSegArrive v) s = .next (s.settle
        ((((bd.1.bump TMP_PERF_BAD_SEGMENT.count 0 0 1).temperFault 4 r c x e.unit).softAbort 0xE1).flushReady)))) ∧
  (∀ (v : Word) (s : State), s.takesWrites = true → s.dieOpen [0, 1] = true → s.stageHears = true → s.landingSlot (bits v 47 0) = none →
    exec (.tmpSegArrive v) s =
      .next (s.settle ((((s.bump TMP_PERF_BAD_SEGMENT.count 0 0 1).temperFault 4 0 0xA 0 0xFFFF).softAbort 0xE1).flushReady))) ∧
  (∀ (x step : Nat) (s : State) (e : ShardEntry) (segs : List Seg) (p : State × Option Nat × List (Array Byte))
      (g : List (Sys2Proof.Machine.Num × Exc)), s.working = true →
    s.shardEntry x = some e → e.owner = true → e.nRep ≠ 0 → s.shardWorks x = true → step = s.workStep x →
    segs = (s.tshard x).segsOf step e.nRep → e.nRep ≤ segs.length → (s.phase x = phIdle ∨ s.phase x = phCollect) →
    s.pathState ⟨.UST_TEMPER, e.unit⟩ ≠ tsDraining → (e.kind ≠ 2 ∨ (segs.map (·.count)).sum ≠ 0) → p = s.payloads e step segs →
    g = e.gradients segs p.2.2 →
    (p.2.1 = none →
      exec (.shardReduce x) s = .next (s.settle (((((p.1.recordUnit e.unit ((g.foldl (fun (r : Record) y => r.element y.2) {}).element
        (sumSquares (g.map (·.1))).2)).sendNorm e step (toB64 (sumSquares (g.map (·.1))).1) false false).setPhase x phParked).syncUnit
        e.unit).flushReady))) ∧
    (∀ r, p.2.1 = some r → exec (.shardReduce x) s = .next (s.settle ((p.1.corruptSegment 8 r x e.unit).flushReady)))) ∧
  (∀ (bs : List Byte) (s w : State) (li : Nat) (p : Partial), s.up = true → byteAt bs 0 = 0x60 → s.thisAttempt bs = true →
    s.tlayerIndex (num bs 8 2) = some li →
    p = { layer := li, step := num bs 4 4, ordinal := num bs 10 2 % 8192, skip := byteAt bs 1 % 2 == 1
          missing := byteAt bs 1 / 2 % 2 == 1, value := num bs 16 8 } →
    s.tmp.partials.any (fun y => y.layer == li && y.step == p.step && y.ordinal == p.ordinal) = false →
    s.tmp.norms.any (fun y => y.1 == li && y.2.1 == p.step) = false →
    w = s.putMem ((s.tlayer li).partials + 8 * p.ordinal) (leBytes 8 p.value) ownExt (unitDie ((s.ownUnits (s.tlayer li)).headD 0)) →
    ((List.range (s.tlayer li).nShards).filterMap fun o => (w.tmp.partials ++ [p]).find? fun y =>
      y.layer == li && y.step == p.step && y.ordinal == o).length < (s.tlayer li).nShards →
    exec (.normPartial bs) s = .next (s.settle (({ w with tmp := { w.tmp with partials := w.tmp.partials ++ [p] } } : State).flushReady))) ∧
  (∀ (x step : Nat) (rest : List Nat) (s : State) (e : ShardEntry), s.up = true → s.shardEntry x = some e →
    (s.tshard x).late = step :: rest → e.owner = true → (s.phase x = phIdle ∨ s.phase x = phCollect ∨ s.phase x = phDamaged) →
    ((s.tshard x).segsOf step e.nRep).length < e.nRep →
    exec (.segmentTimeout x) s = .next (s.settle (((((s.sendNorm e step 0 false true).bump TMP_PERF_MISSING.count 0 0 1).temperFault 7 0 0 x
      e.unit).decideUnchanged x e 3 step).flushReady)))

/-- A layer's norm is the square root of the sum of its partials, and its update is withheld if the norm is no number, infinite or over
the ceiling, or a shard is missing (R258, R268): the last partial of a layer then has its shards left as they are, and otherwise releases
its parked shards into their apply phases with the clip factor (R258); an update of one element under SGD is the one of R260; a released
shard's new image goes to the buffers not selected by cur, and a word in what is read that cannot be used ends the job (R261 to R265,
R269); the applied shard is staged (R265, R266); `TMP_DERIVE` derives a working copy in place (R264); and a ratio partial is stored until
its layer's last one comes (R273). That a `TMP_DERIVE` of a master that cannot be read writes nothing is the model's choice (log 49). -/
def Obligations.ShardsUpdate : Prop :=
  (∀ (s : State) (l : TLayer) (ps : List Partial) (N C : Sys2Proof.Machine.Num), N = (sqrt64 (sumTerms (ps.map (·.value)))).1 →
    C = a32 (if l.ceil = 0 then s.fld TEMPER_NORM_CEIL.ceil else l.ceil) →
    (s.judgeNorm l ps).1.1 = N ∧
    ((s.judgeNorm l ps).2.isSome = true ↔ N.isNan = true ∨ N.isInf = true ∨ C.lt N = true ∨ ∃ y ∈ ps, y.missing = true)) ∧
  (∀ (bs : List Byte) (s w v : State) (li norm : Nat) (p : Partial) (mine : List Partial) (j : (Sys2Proof.Machine.Num × Exc) × Option Nat)
      (k : Sys2Proof.Machine.Num × Exc), s.up = true → byteAt bs 0 = 0x60 → s.thisAttempt bs = true →
    s.tlayerIndex (num bs 8 2) = some li →
    p = { layer := li, step := num bs 4 4, ordinal := num bs 10 2 % 8192, skip := byteAt bs 1 % 2 == 1
          missing := byteAt bs 1 / 2 % 2 == 1, value := num bs 16 8 } →
    s.tmp.partials.any (fun y => y.layer == li && y.step == p.step && y.ordinal == p.ordinal) = false →
    s.tmp.norms.any (fun y => y.1 == li && y.2.1 == p.step) = false →
    w = s.putMem ((s.tlayer li).partials + 8 * p.ordinal) (leBytes 8 p.value) ownExt (unitDie ((s.ownUnits (s.tlayer li)).headD 0)) →
    mine = ((List.range (s.tlayer li).nShards).filterMap fun o => (w.tmp.partials ++ [p]).find? fun y =>
      y.layer == li && y.step == p.step && y.ordinal == o) → mine.length = (s.tlayer li).nShards →
    j = w.judgeNorm (s.tlayer li) mine → k = clipFactor (s.tlayer li) j.1.1 → norm = toB64 j.1.1 →
    v = ((({ w with tmp := { w.tmp with partials := w.tmp.partials ++ [p] } } : State).ownUnits (s.tlayer li)).foldl (fun (a : State) u =>
      a.recordUnit u ((({} : Record).element j.1.2).element (if j.2.isNone then k.2 else Exc.none)))
      { w with tmp := { w.tmp with partials := w.tmp.partials ++ [p] } }) →
    (∀ t, t = ({ v with tmp := { v.tmp with
        partials := (w.tmp.partials ++ [p]).filter fun y => !(y.layer == li && y.step == p.step)
        norms := (v.tmp.norms.filter fun y => !(y.1 == li && y.2.1 + 1 < p.step)) ++ [(li, p.step, norm)] } } : State) →
      (∀ flags, j.2 = some flags → exec (.normPartial bs) s = .next (s.settle ((t.withhold li (s.tlayer li) p.step flags norm).flushReady))) ∧
      (j.2 = none → exec (.normPartial bs) s = .next (s.settle ((t.shardList.foldl (fun (a : State) (x : Nat × ShardEntry) =>
        if x.2.owner = true ∧ x.2.layer = li ∧ a.phase x.1 = phParked then
          ((a.setTshard x.1 { (a.tshard x.1) with k := toB64 k.1 }).setPhase x.1 phApply).syncUnit x.2.unit
        else a) t).flushReady))))) ∧
  (∀ (h : Hset) (t : Nat) (g : Sys2Proof.Machine.Num × Exc) (w m v : Sys2Proof.Machine.Num),
    (updateElement 0 h t g w m v).2.1 = add64 (mul64 (h.b1, consumed [h.b1]) (m, consumed [m])) g ∧
    (updateElement 0 h t g w m v).1 = sub64 (w, consumed [w]) (mul64 (h.lr, consumed [h.lr])
      (add64 (updateElement 0 h t g w m v).2.1 (mul64 (h.wd, consumed [h.wd]) (w, consumed [w]))))) ∧
  (∀ (x : Nat) (s : State) (e : ShardEntry), s.working = true → s.shardEntry x = some e → s.phase x = phApply →
    (s.tshard x).applied = none →
    (∀ t w0 out, (s.applyCompute x e).2 = some (t, w0, out) →
      exec (.applyPhase x) s = .next (s.settle (((s.applyCompute x e).1.applyWrites x e t w0 out).flushReady))) ∧
    ((s.applyCompute x e).2 = none → exec (.applyPhase x) s =
      .next (s.settle ((((s.applyCompute x e).1.ownerDamaged x e).softAbort 0xE2).flushReady))) ∧
    ((s.applyReads x e).2 = none → (s.applyCompute x e).2 = none)) ∧
  (∀ (x step version plane n w : Nat) (s b u : State) (e : ShardEntry), s.up = true → s.shardEntry x = some e →
    (s.tshard x).applied = some (version, plane, n, w) → s.phase x = phApply → step = s.workStep x →
    b = s.bump TMP_PERF_UPDATES.count 0 0 1 →
    u = (b.replicaList e).foldl (fun (a : State) r => if r.1 = a.myId then a else a.temperSend e.unit r.1 e.unit
      (stagedBytes b.stg.attempts step e.id version (b.myId * 2 ^ 48 + b.otherImage x e) (e.offPlane + plane))) b →
    exec (.shardStaged x) s =
      .next (s.settle ((((u.sendRatio e step n w false).setPhase x phStaged).shardDecided x e).flushReady))) ∧
  (∀ (v : Word) (x base : Nat) (s u : State) (e : ShardEntry) (r : State × List Byte × Bool) (d : List Byte × List Byte × Record),
    s.takesWrites = true → s.dieOpen [0, 1] = true → x = bits v 14 0 → s.shardEntry x = some e → base = s.curImage x e →
    r = s.unitRead e.unit (base + offMaster) (2 * e.n) → d = e.derive ((List.range e.n).map (halfWords r.2.1)).toArray →
    u = ((((r.1.recordUnit e.unit d.2.2).putMem (base + e.offDir) d.1 ownExt (unitDie e.unit)).putMem (base + e.offPlane) d.2.1 ownExt
      (unitDie e.unit)).putMem (base + 24) (leBytes 4 d.2.1.length) ownExt (unitDie e.unit)) →
    (r.2.2 = false → exec (.tmpDerive v) s =
      .next (s.settle ((((u.showVersion x e).markChanged e).showJob e.unit 3 x).flushReady))) ∧
    (r.2.2 = true → exec (.tmpDerive v) s = .next (s.settle (((r.1.ownerDamaged x e).showJob e.unit 3 x).flushReady)))) ∧
  (∀ (bs : List Byte) (s : State) (li : Nat) (p : RatioPart), s.up = true → byteAt bs 0 = 0x61 → s.thisAttempt bs = true →
    s.tlayerIndex (num bs 8 2) = some li → (s.tlayer li).leadPkg = s.myId →
    p = { layer := li, step := num bs 4 4, ordinal := num bs 10 2 % 8192, skip := byteAt bs 1 % 2 == 1, u := num bs 16 8
          w := num bs 24 8 } →
    s.tmp.ratios.any (fun y => y.layer == li && y.step == p.step && y.ordinal == p.ordinal) = false →
    s.tmp.stopped.contains (li, p.step) = false →
    ((List.range (s.tlayer li).nShards).filterMap fun o => (s.tmp.ratios ++ [p]).find? fun y =>
      y.layer == li && y.step == p.step && y.ordinal == o).length < (s.tlayer li).nShards →
    exec (.ratioPartial bs) s = .next (s.settle (({ s with tmp := { s.tmp with ratios := s.tmp.ratios ++ [p] } } : State).flushReady)))

/-- Replicas follow their owner: STAGED starts the fetch of the owner's image and a whole fetch whose blocks agree with the owner's
entries waits for COMMIT, while a block that does not is asked for again up to three times (R270); UNCHANGED leaves the shard as it is
(R271); one of a later step waits for the step in work; and an assay digests a shard and asks its replicas, unless its buffer is written
before the digest ends, a replica that agrees counts it, one of another version is stale, and a refetched image of the right version and
digest is kept for the next COMMIT (R275 to R277). That a digest ends with the hub cycle it began in is the model's choice (log 49). -/
def Obligations.ReplicasFollow : Prop :=
  (∀ (bs : List Byte) (x : Nat) (s u : State) (e : ShardEntry), s.up = true → byteAt bs 0 = 0x62 → s.thisAttempt bs = true →
    s.replicaOf (num bs 8 4) = some (x, e) → s.phase x ≠ phDamaged → u = s.setTshard x { (s.tshard x) with step := num bs 4 4 } →
    ((s.replicaBusy x = false ∨ (s.tshard x).step = num bs 4 4) → s.refetching x = false →
      exec (.staged bs) s = .next (s.settle ((((u.setFld TMP_SHARD_STATE.repair x 0 0).startImageFetch x e (num bs 16 8) (num bs 24 8)
        (num bs 12 4) none).shardDecided x e).flushReady))) ∧
    (s.replicaBusy x = true → (s.tshard x).step ≠ num bs 4 4 →
      exec (.staged bs) s =
        .next (s.settle ((s.setTshard x { (s.tshard x) with waiting := (s.tshard x).waiting ++ [bs] }).flushReady)))) ∧
  (∀ (x : Nat) (ok : Bool) (entries : List (Nat × Nat)) (s u : State) (e : ShardEntry) (f : Fetch), s.up = true → s.shardEntry x = some e →
    (s.tshard x).fetch = some f → f.digest = none → f.left = 0 →
    (s.endFetch x e (f.heard ok) entries = (u, some true) → exec (.replicaFetchDone x ok entries) s =
      .next (s.settle ((((u.bump TMP_PERF_FETCH.count 0 0 1).setPhase x phFetched).shardDecided x e).flushReady))) ∧
    (s.endFetch x e (f.heard ok) entries = (u, some false) → exec (.replicaFetchDone x ok entries) s =
      .next (s.settle ((((u.setPhase x phDamaged).temperFault 5 0 0 x e.unit).shardDecided x e).flushReady))) ∧
    (s.endFetch x e (f.heard ok) entries = (u, none) → exec (.replicaFetchDone x ok entries) s = .next (s.settle u.flushReady))) ∧
  (∀ (x : Nat) (entries : List (Nat × Nat)) (s : State) (e : ShardEntry) (f : Fetch),
    (∀ y ∈ entries, 1024 * y.1 + 1024 ≤ f.bytes → crc32c (s.getMem (s.otherImage x e + 1024 * y.1) 1024) = y.2) →
    (s.endFetch x e f entries).2 = some (!f.failed) ∧ ((s.endFetch x e f entries).1.tshard x).fetch = none ∧
      (s.endFetch x e f entries).1.mem = s.mem) ∧
  (∀ (x i crc : Nat) (s : State) (e : ShardEntry) (f : Fetch), 1024 * i + 1024 ≤ f.bytes →
    crc32c (s.getMem (s.otherImage x e + 1024 * i) 1024) ≠ crc →
    ((Sparse.get {} f.blocks i).fails < 3 → (s.endFetch x e f [(i, crc)]).2 = none ∧
      (s.endFetch x e f [(i, crc)]).1.fab.reqQ = s.fab.reqQ ++ f.lines e (1024 * i) (1024 * i + 1024)) ∧
    (3 ≤ (Sparse.get {} f.blocks i).fails → (s.endFetch x e f [(i, crc)]).2 = some false)) ∧
  (∀ (bs : List Byte) (x : Nat) (s u : State) (e : ShardEntry), s.up = true → byteAt bs 0 = 0x63 → s.thisAttempt bs = true →
    s.replicaOf (num bs 8 4) = some (x, e) → s.phase x ≠ phDamaged → (s.replicaBusy x = false ∨ (s.tshard x).step = num bs 4 4) →
    s.refetching x = false → u = s.setTshard x { (s.tshard x) with step := num bs 4 4 } →
    exec (.unchanged bs) s =
      .next (s.settle ((((u.setTshard x { (u.tshard x) with reason := byteAt bs 1 }).setPhase x phUnchanged).shardDecided x e).flushReady))) ∧
  (∀ (n x : Nat) (s u : State) (e : ShardEntry), s.working = true → n ≤ 3 → s.flag TMP_ASSAY_CFG.enable = true →
    s.fld TMP_ASSAY_CFG.budget ≠ 0 → s.shardList.filter (fun x => x.2.owner && x.2.unit == n && x.2.nRep > 1) = [(x, e)] →
    u = { s with tmp := { s.tmp with
      visit := Sparse.put 0 s.tmp.visit n (x + 1), digests := s.tmp.digests ++ [{ shard := x, base := s.curImage x e, ask := none }] } } →
    exec (.assayVisit n) s = .next (s.settle ((u.showJob e.unit 5 x).flushReady))) ∧
  (∀ (base : Nat) (s u : State) (e : ShardEntry) (d : Digest), s.tmp.digests = [d] → d.ask = none → s.shardEntry d.shard = some e →
    base = d.base → u = { s with tmp := { s.tmp with digests := [] } } →
    (∀ digest, (u.imageDigest e base).2 = some digest →
      s.endDigests = (((u.imageDigest e base).1.replicaList e).foldl (fun (a : State) r =>
        if r.1 = a.myId then a else a.temperSend e.unit r.1 e.unit (assayBytes e.id (leNat (u.getMem (base + 8) 4))
          ((u.imageDigest e base).1.myId * 2 ^ 48 + base) (e.offPlane + leNat (u.getMem (base + 24) 4)) digest)) (u.imageDigest e base).1)) ∧
    ((u.imageDigest e base).2 = none → s.endDigests = (u.imageDigest e base).1.bump TMP_PERF_ASSAY_ABANDON.count 0 0 1)) ∧
  (∀ (x base : Nat) (s : State) (d : Digest), s.tmp.digests = [d] → d.shard = x → d.base = base →
    s.abandonDigests x base =
      ({ s with tmp := { s.tmp with digests := [] } } : State).bump TMP_PERF_ASSAY_ABANDON.count 0 0 1) ∧
  (∀ (bs : List Byte) (x : Nat) (s : State) (e : ShardEntry), s.up = true → byteAt bs 0 = 0x64 → s.replicaOf (num bs 8 4) = some (x, e) →
    (s.fld TMP_SHARD_STATE.version x ≠ num bs 12 4 ∨ s.phase x = phDamaged) →
    exec (.assay bs) s = .next (s.settle ((s.bump TMP_PERF_ASSAY_STALE.count 0 0 1).flushReady))) ∧
  (∀ (bs : List Byte) (x : Nat) (s : State) (e : ShardEntry), s.up = true → byteAt bs 0 = 0x64 → s.replicaOf (num bs 8 4) = some (x, e) →
    s.fld TMP_SHARD_STATE.version x = num bs 12 4 → s.phase x ≠ phDamaged →
    (e.offPlane + leNat (s.getMem (s.curImage x e + 24) 4) = num bs 24 8 →
      exec (.assay bs) s = .next (s.settle ((({ s with tmp := { s.tmp with
        digests := s.tmp.digests ++ [{ shard := x, base := s.curImage x e, ask := some bs }] } } : State).showJob e.unit 5 x).flushReady))) ∧
    (e.offPlane + leNat (s.getMem (s.curImage x e + 24) 4) ≠ num bs 24 8 →
      exec (.assay bs) s = .next (s.settle ((s.assayJudge x e bs false).flushReady)))) ∧
  (∀ (s : State) (e : ShardEntry) (d : Digest) (bs : List Byte) (g : State × Option (List Byte)), s.tmp.digests = [d] → d.ask = some bs →
    s.shardEntry d.shard = some e → g = ({ s with tmp := { s.tmp with digests := [] } } : State).imageDigest e d.base →
    s.endDigests = g.1.assayJudge d.shard e bs (g.2 == some ((bs.drop 32).take 32))) ∧
  (∀ (bs : List Byte) (x : Nat) (s y : State) (e : ShardEntry), y = s.assayMismatch x e (num bs 12 4) →
    s.assayJudge x e bs true = s.bump TMP_PERF_ASSAY.count 0 0 1 ∧
    ((y.phase x = phIdle ∨ y.phase x = phUnchanged) → y.refetching x = false →
      s.assayJudge x e bs false = (y.setFld TMP_SHARD_STATE.repair x 0 0).startImageFetch x e (num bs 16 8) (num bs 24 8) (num bs 12 4)
        (some ((bs.drop 32).take 32)))) ∧
  (∀ (x base : Nat) (ok : Bool) (entries : List (Nat × Nat)) (s u w : State) (e : ShardEntry) (f : Fetch) (digest : List Byte)
      (g : State × Option (List Byte)),
    s.up = true → s.shardEntry x = some e → (s.tshard x).fetch = some f → f.digest = some digest → f.left = 0 →
    s.endFetch x e (f.heard ok) entries = (u, some true) → base = u.otherImage x e →
    w = u.setPhase x (if (u.tshard x).reason ≠ 0 then phUnchanged else phIdle) → g = w.imageDigest e base →
    exec (.assayRefetchDone x ok entries) s = .next (s.settle
      (((if leNat (g.1.getMem (base + 8) 4) = f.version ∧ g.2 = some digest
        then (g.1.bump TMP_PERF_FETCH.count 0 0 1).setFld TMP_SHARD_STATE.repair x 0 1
        else g.1.bump TMP_PERF_ASSAY_ABANDON.count 0 0 1).syncUnit e.unit).flushReady)))

/-! ### Memory -/

/-- A read of one piece outside the protected ranges, where no error waits to be met, answers its bytes, poisoned ones with POISON (R289
to R291); a write of one leaves the data there, every other byte as it was (R289, R290); an access with no memory behind it completes with
ADDR_ERR (R36). -/
def Obligations.MemoryAccesses : Prop :=
  (∀ (addr len die : Nat) (s : State) (d : Dplace), s.up = true → s.dramOpen addr len = true → pieces addr len = [(addr, len)] →
    s.dplace addr = some d → s.crcRange addr = none → s.meetErrors (eccWords addr len) = s →
    ∃ t, exec (.memoryRead addr len die []) s = .next t ∧
      t.compl = (if (List.range len).any (fun i => s.dbad (addr + i)) then .poison else .ok, s.dbytes addr len) ∧
      t.poison = s.poison ∧ ∀ a, t.byte a = s.byte a) ∧
  (∀ (addr die k : Nat) (data : List Byte) (s : State), s.up = true → s.dramOpen addr data.length = true →
    pieces addr data.length = [(addr, data.length)] → s.dkey addr = some k → s.crcRange addr = none →
    ∃ t, exec (.memoryWrite addr data die []) s = .next t ∧ t.compl = (.ok, []) ∧ t.dbytes addr data.length = data ∧
      ∀ a, (a < k ∨ k + data.length ≤ a) → t.byte a = s.byte a) ∧
  (∀ (addr len die : Nat) (data : List Byte) (errors : List MemError) (s : State), s.up = true →
    (s.dramOpen addr len = false →
      exec (.memoryRead addr len die errors) s = .next (s.settle { s with compl := (.addrErr, []) })) ∧
    (s.dramOpen addr data.length = false →
      exec (.memoryWrite addr data die errors) s = .next (s.settle { s with compl := (.addrErr, []) })))

/-- A block's entry follows its data: a block write stores the data and its CRC (R294), a line write keeps a current entry current (R295),
and a block read answers the data, poisoned when its check fails four times (R297). -/
def Obligations.BlockEntriesFollowData : Prop :=
  (∀ (addr k e : Nat) (data : List Byte) (s : State) (r : CrcRange), s.up = true → data.length = 1024 → addr % 1024 = 0 →
    s.dramOpen addr 1024 = true → s.crcRange addr = some r → s.dkey addr = some k → s.dkey (r.entry addr) = some e →
    (e + 4 ≤ k ∨ k + 1024 ≤ e) →
    ∃ t, exec (.blockWrite addr data) s = .next t ∧ t.compl = (.ok, []) ∧ t.dbytes addr 1024 = data ∧
      t.entryWord (r.entry addr) = crc32c data) ∧
  (∀ (addr blk j k e : Nat) (data : List Byte) (s : State) (r : CrcRange), s.up = true → data.length = 128 → addr % 128 = 0 →
    s.dramOpen addr 128 = true → s.crcRange addr = some r → s.crcRange (addr + 127) = some r → (addr - r.base) % 128 = 0 →
    j = (addr - r.base) % 1024 / 128 → addr = blk + 128 * j → s.dkey blk = some k → s.dkey addr = some (k + 128 * j) →
    (∀ i ∈ List.range 4, s.dbad (addr + 32 * i) = false) → s.dkey (r.entry blk) = some e → (e + 4 ≤ k ∨ k + 1024 ≤ e) →
    s.entryWord (r.entry blk) = crc32c (s.dbytes blk 1024) → s.meetErrors (eccWords addr 128) = s →
    ∃ t, exec (.lineWrite addr data) s = .next t ∧ t.compl = (.ok, []) ∧ t.dbytes addr 128 = data ∧
      t.entryWord (r.entry blk) = crc32c (t.dbytes blk 1024)) ∧
  (∀ (addr garbled : Nat) (s : State) (r : CrcRange), s.up = true → addr % 1024 = 0 → s.dramOpen addr 1024 = true →
    s.crcRange addr = some r → (s.dkey addr).isSome = true → (∀ i ∈ List.range 1024, s.dbad (addr + i) = false) →
    s.meetErrors (eccWords addr 1024) = s → s.meetErrors (eccWords (r.entry addr) 4) = s → s.dbad (r.entry addr) = false →
    ∃ t, exec (.blockRead addr garbled []) s = .next t ∧
      t.compl = (if crc32c (s.dbytes addr 1024) = s.entryWord (r.entry addr) ∧ garbled < 4 then .ok else .poison, s.dbytes addr 1024) ∧
      ∀ a, t.byte a = s.byte a)

/-- The CRC of a block with one part changed is the old CRC, exclusive-ored with the register update of the change at its place (R292,
R295). -/
def Obligations.CrcFollowsChange : Prop :=
  ∀ pre old new post : List Byte, old.length = new.length →
    crc32c (pre ++ new ++ post) = crc32c (pre ++ old ++ post) ^^^
      crcLin (List.replicate pre.length 0 ++ List.zipWith (· ^^^ ·) old new ++ List.replicate post.length 0)

/-- A stack's temperature and refresh rate are shown, its highest kept (R282, R298 to R300, R419); a refresh, a late retraining and a late
calibration are counted (R309, R448); the patrol scrub goes to its next run and around at the end of its stack, altering no data (R301,
R302); and a scrub of array SRAM counts what it reads and corrects, and poisons what it cannot correct (R449). -/
def Obligations.MemoryUpkeep : Prop :=
  (∀ (i celsius : Nat) (s : State), s.up = true → i < s.part.stacks →
    ∃ t, exec (.hbmTempRead i celsius) s = .next t ∧ t.fld HBM_STK_TEMP.temp i = min celsius 255 ∧
      t.fld HBM_STK_TEMP.temp_max i = max (s.fld HBM_STK_TEMP.temp_max i) (min celsius 255) ∧
      Sparse.get 0 t.dram.levels i = refreshLevel (Sparse.get 0 s.dram.levels i) (min celsius 255) ∧
      t.fld HBM_STK_TEMP.refresh i = min (Sparse.get 0 t.dram.levels i + b2n (s.flag CLK_STATUS.holdover_expired)) 2 ∧
      t.mem = Memory.canonical s.mem) ∧
  (∀ (b celsius : Nat) (rates : List Nat) (s : State), s.up = true → b < 4 →
    ∃ t, exec (.bitternRefreshReport b rates celsius) s = .next t ∧ t.fld BIT_STK_TEMP.temp b = min celsius 255 ∧
      t.fld BIT_STK_TEMP.temp_max b = max (s.fld BIT_STK_TEMP.temp_max b) (min celsius 255) ∧
      t.fld BIT_STK_TEMP.refresh b = min (min (rates.foldl max 0) 2 + b2n (s.flag CLK_STATUS.holdover_expired)) 2 ∧
      t.mem = Memory.canonical s.mem) ∧
  (∀ (stack : Nat) (s : State), s.up = true → stack < s.part.stacks → stack < 0x100 →
    exec (.refresh stack) s = .next (s.settle (s.bump HBM_PERF_REFRESH.count stack 0 1))) ∧
  (∀ (b : Nat) (s : State), s.up = true → exec (.refresh (0x100 + b)) s = .next (s.settle (s.bump BIT_PERF_REFRESH.count b 0 1))) ∧
  (∀ (stack : Nat) (late : Bool) (s : State), s.up = true → stack < s.part.stacks →
    exec (.hbmPeriodicRetraining stack late) s = .next (s.settle (s.bump OBS_PERF_CAL_LATE.count 0 0 (if late then 1 else 0)))) ∧
  (∀ (stack : Nat) (late : Bool) (s : State), s.up = true → stack < 4 →
    exec (.bitternPeriodicCalibration stack late) s = .next (s.settle (s.bump OBS_PERF_CAL_LATE.count 0 0 (if late then 1 else 0)))) ∧
  (∀ (stack pos : Nat) (errors : List MemError) (late : Bool) (s : State), s.up = true → s.scrubOn stack = true →
    pos = Sparse.get 0 s.dram.scrub stack →
    ∃ t, exec (.patrolScrub stack errors late) s = .next t ∧
      Sparse.get 0 t.dram.scrub stack = (if (if 0x100 ≤ stack then 2 ^ 37 else 0x900000000) ≤ pos + 4096 then 0 else pos + 4096) ∧
      ∀ a, t.byte a = s.byte a) ∧
  (∀ (a off w : Nat) (late : Bool) (s u : State), s.up = true → s.flag OBS_BG_CFG.scp_scrub = true → s.arrayAnswers a true = true →
    off < 0x50000 → s.fld SCP_BANK_OWN.cur_owner a (off / 0x8000) ≠ ownMarch → s.flag SCP_BANK_CFG.clearing a (off / 0x8000) = false → w < 8 →
    s.upsets = [] →
    u = (s.bump OBS_PERF_SCP_SCRUB.count 0 0 1).bump OBS_PERF_SCP_LATE.count 0 0 (if late then 1 else 0) →
    exec (.scpScrub a off [] late) s = .next (s.settle u) ∧
    (s.isPoisoned (sramKey a (off / 64 * 64 + 8 * w)) = false →
      exec (.scpScrub a off [{ unit := w, uncorrectable := false }] late) s = .next (s.settle ((u.bump OBS_PERF_SCP_CORRECTED.count 0 0
        1).mapWindow fun v => { v with corrected := v.corrected + 1 })) ∧
      exec (.scpScrub a off [{ unit := w, uncorrectable := true }] late) s = .next (s.settle ((u.setPoison (sramKey a (off / 64 * 64 +
        8 * w))).raise 0x0C 5 a (BitVec.ofNat 64 (a * 2 ^ 48 + (off / 64 * 64 + 8 * w)))))))

/-- An operation of a stack's test port is started, or refused with its reason (R304, R305); at its end the wrapper holds the instruction,
the data register what was shifted out, the record the repair; a failure and a timeout are states of their own, with event 0x09:0x06. -/
def Obligations.RepairAndTest : Prop :=
  (∀ (i op : Nat) (c : Instr) (s u : State), s.takesWrites = true → s.dieOpen [s.part.positions.getD i 0 / 6] = true →
    i < s.part.stacks → (op, c) ∈ [(1, Instr.writeWrapperInstruction i), (2, .shiftDataRegister i), (3, .sppr i), (4, .hppr i)] →
    u = s.setFld HBM_TEST_CTRL.op i 0 op →
    exec c s = .next (s.settle (if u.testRefusal i op = 0
      then ({ u with dram := { u.dram with testing := u.dram.testing ++ [(i, op)] } } : State).testStatus i 1 0
      else u.testStatus i 3 (u.testRefusal i op)))) ∧
  (∀ (i op : Nat) (s u : State), s.up = true → s.dram.testing.find? (fun t => t.1 == i) = some (i, op) →
    u = ({ s with dram := { s.dram with testing := s.dram.testing.filter fun t => t.1 != i } } : State).testStatus i 2 0 →
    exec (.hbmTestDone i true) s = .next (s.settle
      (if op = 1 then { u with dram := { u.dram with wrapper := Sparse.put 0 u.dram.wrapper i (u.fld HBM_TEST_CTRL.instruction i) } }
      else if op = 2 then ({ u with free := u.free + 1 } : State).wr .HBM_TEST_DATA i 0 (Config.freeValue u.free)
      else (u.recordRepair (u.testRow i) (if op = 4 then 2 else 1)).showRepairs i))) ∧
  (∀ (i op : Nat) (s u : State), s.up = true → s.dram.testing.find? (fun t => t.1 == i) = some (i, op) →
    u = { s with dram := { s.dram with testing := s.dram.testing.filter fun t => t.1 != i } } →
    exec (.hbmTestDone i false) s = .next (s.settle ((u.testStatus i 4 0).raise 9 6 i 0)) ∧
    exec (.hbmTestTimeout i) s = .next (s.settle ((u.testStatus i 5 0).raise 9 6 i 0)))

/-! ### Observability -/

/-- `NDC_ADD` advances the named die's count of R435 (R436). `OBS_QUENCH_CTRL.fire` is a source of its hub cycle's quench, which joins the
sources of the cycle; the quench is taken at the cycle's end, with its frame position, and latches the hub then and every other domain at
its edge, or is counted as dropped while one is held; a release ends it (R441 to R445). -/
def Obligations.DeterminismAndQuench : Prop :=
  (∀ (v : Word) (s : State) (n d : Nat), s.takesWrites = true → d = bits v 63 63 → n = bits v 31 0 →
    ∃ t, exec (.ndcAdd v) s = .next t ∧ t.fld NDC_COUNT.count d = (s.fld NDC_COUNT.count d + n) % (NDC_COUNT.count.top + 1) ∧
      t.fld NDC_COUNT.count (1 - d) = s.fld NDC_COUNT.count (1 - d) ∧
      t.fld OBS_PERF_NDC_SW.count = (s.fld OBS_PERF_NDC_SW.count + n) % (OBS_PERF_NDC_SW.count.top + 1) ∧
      t.mem = Memory.canonical s.mem) ∧
  (∀ (v : Word) (s : State), s.takesWrites = true → bit v 62 = false → s.flag OBS_QUENCH_STATUS.held = false →
    exec (.quenchFire v) s = .next (s.settle { s with obs := { s.obs with
      trigger := some ((s.obs.trigger.getD (0, 0)).1 ||| 16,
        if (s.obs.trigger.getD (0, 0)).1 / 2 % 2 = 1 then (s.obs.trigger.getD (0, 0)).2 else 0) } })) ∧
  (∀ (sources entry : Nat) (s : State), s.obs.trigger = some (sources, entry) → s.obs.latching = [] →
    s.flag OBS_QUENCH_STATUS.held = false → sources < 32 → entry < 4 → s.clk.place < 30720 →
    ∃ t, s.endQuench = t ∧ t.flag OBS_QUENCH_STATUS.held = true ∧ t.fld OBS_QUENCH_STATUS.sources = sources ∧
      t.fld OBS_QUENCH_STATUS.matched = entry ∧ t.fld OBS_QUENCH_STATUS.dropped = 0 ∧
      t.fld OBS_QUENCH_FRAME.frame = s.fld CLK_STATUS.frames ∧ t.fld OBS_QUENCH_FRAME.cycle = s.clk.place ∧
      t.rd .OBS_QUENCH_TIME = s.nanos ∧ t.obs.trigger = none ∧
      t.obs.snapshot = [(0, { regs := s.regs, spare := s.spare, record := s.hmk.spare, repairs := s.hmk.scpRepair, arr := s.arr
                              salt := s.salt })] ∧ t.mem = s.mem) ∧
  (∀ (d : Nat) (s : State), s.obs.trigger = none → s.obs.latching = [(1, d)] →
    s.endQuench = { s with obs := { s.obs with latching := [], snapshot := s.obs.snapshot ++
      [(d, { regs := s.regs, spare := s.spare, record := s.hmk.spare, repairs := s.hmk.scpRepair, arr := s.arr, salt := s.salt })] } }) ∧
  (∀ (sources entry : Nat) (s : State), s.obs.trigger = some (sources, entry) → s.obs.latching = [] →
    s.flag OBS_QUENCH_STATUS.held = true →
    ∃ t, s.endQuench = t ∧
      t.fld OBS_QUENCH_STATUS.dropped = min (s.fld OBS_QUENCH_STATUS.dropped + 1) OBS_QUENCH_STATUS.dropped.top ∧
      t.obs.snapshot = s.obs.snapshot) ∧
  (∀ s : State, s.takesWrites = true →
    exec .quenchRelease s =
      .next (s.settle { (s.setFld OBS_QUENCH_STATUS.held 0 0 0) with obs := { s.obs with snapshot := [], latching := [] } }))

/-! ### The fabric -/

/-- The optical links: one whose eight lanes work and that meets the peer the wiring gives it comes UP, one that meets another is MISWIRED
(R311); the eighth failed replay in a row takes a link down (R312); with a lane failed it runs on four (R313); and a link that goes down
is shown so, counted, and treated as out of service (R313, R329, R330). -/
def Obligations.LinksTrainAndFail : Prop :=
  (∀ (l peer peerLink : Nat) (s : State), s.up = true → l ≤ 15 → peer ≠ 0xFFFF → s.flag FAB_PHYS_ID.set = true →
    ∃ t, exec (.linkTraining l peer peerLink 0xFF) s = .next t ∧
      (wiredPeer s.groups s.physId l = some (peer, peerLink) → t.fld FAB_LINK_STATUS.state l = 2 ∧ t.fld FAB_LINK_STATUS.lanes l = 0xFF) ∧
      (wiredPeer s.groups s.physId l ≠ some (peer, peerLink) → t.fld FAB_LINK_STATUS.state l = 4 ∧ t.fld FAB_LINK_STATUS.lanes l = 0)) ∧
  (∀ (l : Nat) (s u : State), s.up = true → l ≤ 15 → s.linkUp l = true → u = s.bump FAB_LINK_PERF_RETRY.count l 0 1 →
    exec (.flitReplay l true) s = .next (s.settle { u with fab := { u.fab with replays := Sparse.put 0 u.fab.replays l 0 } }) ∧
    (Sparse.get 0 s.fab.replays l < 7 → exec (.flitReplay l false) s =
      .next (s.settle { u with fab := { u.fab with replays := Sparse.put 0 u.fab.replays l (Sparse.get 0 u.fab.replays l + 1) } })) ∧
    (7 ≤ Sparse.get 0 s.fab.replays l → ∃ t, exec (.flitReplay l false) s = .next t ∧ t.fld FAB_LINK_STATUS.state l = 0)) ∧
  (∀ (l lane : Nat) (s u : State), s.up = true → l ≤ 15 → lane ≤ 7 → s.linkUp l = true → s.fab.badLanes.contains (8 * l + lane) = false →
    s.fld FAB_LINK_STATUS.lanes l / 2 ^ lane % 2 = 1 →
    u = { s with fab := { s.fab with badLanes := s.fab.badLanes ++ [8 * l + lane] } } → 4 ≤ (u.goodLanes l).length →
    exec (.laneFailure l lane) s = .next (s.settle (((u.setFld FAB_LINK_STATUS.state l 0 3).setFld FAB_LINK_STATUS.lanes l 0
      (laneMask ((u.goodLanes l).take 4))).fabEvent 2 0 l (u.fld FAB_LINK_PEER.peer_id l) 0))) ∧
  (∀ (l : Nat) (s : State), s.up = true → l ≤ 15 → s.fld FAB_LINK_STATUS.state l ≠ 0 →
    ∃ t, exec (.linkDown l) s = .next t ∧ t.fld FAB_LINK_STATUS.state l = 0 ∧ t.fld FAB_LINK_STATUS.lanes l = 0 ∧
      t.fab.down.contains (s.physId, l) = true ∧ t.linkUp l = false ∧ t.mem = Memory.canonical s.mem)

/-- A good packet for another package goes on by the link its router chooses (R318, R326, R329; the model's choice, log 62). A request
that comes in its flow's order from a package of the slice enters the combining table (R320, R324, R333); a message, broadcast or notice
goes to its unit and is acknowledged (R320, R330, R349). -/
def Obligations.PacketsArrive : Prop :=
  (∀ (p q : Packet) (s u : State) (target l : Nat) (picks : List ((Nat × Nat × Nat × Nat) × Nat)), s.up = true → s.linkUp p.link = true → packetGood p = true → p.dst ≠ s.physId →
    u = s.countArrival p → u.heading p.dst = some target → target ≠ s.physId → p.hops < 5 →
    u.forwardLink p target = some (l, q, picks) → p.slice = s.fld FAB_ID.slice →
    exec (.packetForward p) s =
      .next (s.settle (({ u with fab := { u.fab with picks := picks } } : State).queueAt l { q with transit := false }))) ∧
  (∀ (op : Nat) (c : Instr) (p q : Packet) (s u v : State) (f : InFlow), s.up = true →
    (op, c) ∈ [(1, Instr.loadReq p), (2, .store p), (3, .atomic p), (4, .swap p), (5, .cas p)] → q = { p with op := op } →
    s.linkUp q.link = true → packetGood q = true → q.dst = s.physId → q.transit = false → s.inSlice q.src = true →
    s.flag CST_STATE.pouring = false → isRegister q.addr = false → (op ≤ 3 ∨ q.addr % 8 = 0) → s.inflow q.src 0 = some f →
    f.gen = q.gen → f.expected = q.seq → q.seq < 2 ^ 32 → f.held = [] → f.queue = [] → s.fab.portWaits = [] → s.tableTakes q (sourceOf q) = true →
    u = s.countArrival q →
    v = (u.setInflow { f with expected := seqNext q.seq, queue := [q] }).setInflow
      { f with expected := seqNext q.seq, inTable := f.inTable ++ [q.seq] } →
    exec c s = .next (s.settle (v.enterTable q (sourceOf q)))) ∧
  (∀ (op : Nat) (c : Instr) (p q : Packet) (effect : State → State) (s u v : State) (f : InFlow), s.up = true →
    (op, c, effect) ∈ [(0x11, Instr.msg p, fun a : State => a.deliver p.addr p.payload),
      (0x12, .bcast p, fun a => a.takeBroadcast p.src p.payload), (0x13, .linkNotice p, fun a => a.takeNotice p.src p.payload)] →
    q = { p with op := op } → s.linkUp q.link = true → packetGood q = true → q.dst = s.physId → q.transit = false →
    s.inSlice q.src = true → s.inflow q.src 2 = some f → f.gen = q.gen → f.expected = q.seq → q.seq < 2 ^ 32 → f.held = [] →
    f.queue = [] → u = s.countArrival q →
    v = (u.setInflow { f with expected := seqNext q.seq, queue := [q] }).setInflow { f with expected := seqNext q.seq, queue := [] } →
    exec c s = .next (s.settle ((effect v).sendAck q.src 2 q.seq)))

/-- A request of this package for another takes its flow's next number, enters the retransmit store and leaves (R322); unacknowledged
packets are sent again, in order, or, after the retries, the flow is unreachable (R322, R323); an ACK frees what it covers, tells the
salter threads whose stores and atomics it covers (R213), and ends the fences that waited for nothing else (R321, R331); an answer reaches
its requester in its flow's order and is acknowledged, and a STATUS ends the request whose number it carries (R318, R320, R321); and a
fence past its limit ends with an event (R332). -/
def Obligations.FlowsCarryRequests : Prop :=
  (∀ (s u : State) (r : Request) (rest : List Request), s.up = true → s.fab.reqQ = r :: rest →
    u = { s with fab := { s.fab with reqQ := rest } } → s.mayGo [] r = true → (r.op ≠ 0x12 ∨ r.dst ≠ 0xFFFF) → s.target r ≠ s.physId →
    s.hasRoom (s.target r) (opClass r.op) = true →
    exec (.requestInject none) s = .next (s.settle ((u.launch (requestPacket r (s.target r)) r.backward r.stream).pollFences))) ∧
  (∀ (peer cls : Nat) (s : State) (f : Flow) (u : Unacked) (us : List Unacked), s.up = true → f = s.flow peer cls →
    f.unacked = u :: us →
    (s.fld FAB_RETX_CFG.retries ≤ u.again → exec (.retransmitTimeout peer cls) s = .next (s.settle (s.unreachable f))) ∧
    (u.again < s.fld FAB_RETX_CFG.retries → f.routed = true → exec (.retransmitTimeout peer cls) s = .next (s.settle
      (((u :: us).map fun u => { u with again := u.again + 1, packet := { u.packet with via := f.via } }).foldl
        (fun a u => a.emitFlow f u.packet)
        ((s.setFlow { f with unacked := (u :: us).map fun u => { u with again := u.again + 1, packet := { u.packet with via := f.via } } }).bump
          FAB_PERF_RETX.count 0 0 (us.length + 1))))) ∧
    (u.again < s.fld FAB_RETX_CFG.retries → f.routed = false → exec (.retransmitTimeout peer cls) s =
      .next (s.settle ((s.settlePath f).2.resend (s.settlePath f).1)))) ∧
  (∀ (p q : Packet) (s u v : State) (f : Flow), s.up = true → q = { p with op := 0x10 } → s.linkUp q.link = true → packetGood q = true →
    q.dst = s.physId → q.transit = false → s.inSlice q.src = true → q.func = 0 → f = s.flow q.src 0 → f.failed = [] →
    f.unacked.any (fun u => seqLe u.packet.seq q.seq) = true →
    u = (s.countArrival q).setFlow
      { f with unacked := f.unacked.filter fun u => !(seqLe u.packet.seq q.seq) } →
    v = (f.unacked.filter fun x => seqLe x.packet.seq q.seq).foldl
      (fun a x => if x.packet.op = 2 ∨ x.packet.op = 3 then a.threadAnswered x.packet.requester else a) u →
    exec (.ack p) s = .next (s.settle (({ v with fab := { v.fab with
      fences := v.fab.fences.map fun g => g.reach q.src (some q.seq) } } : State).settleFences))) ∧
  (∀ (op : Nat) (c : Instr) (p q a : Packet) (stream : Nat) (s u v w : State) (f : InFlow), s.up = true →
    (op, c) ∈ [(0x08, Instr.loadData p), (0x09, .oldValue p)] → q = { p with op := op } → s.linkUp q.link = true →
    packetGood q = true → q.dst = s.physId → q.transit = false → s.inSlice q.src = true → s.inflow q.src 1 = some f → f.gen = q.gen →
    f.expected = q.seq → q.seq < 2 ^ 32 → f.held = [] → f.queue = [] →
    s.fab.awaiting.find? (fun x => x.1.dst == q.src && x.1.requester == q.requester && x.1.addr == q.addr && (x.1.op == 1) == (op == 8)) =
      some (a, stream) →
    u = s.countArrival q →
    v = (u.setInflow { f with expected := seqNext q.seq, queue := [q] }).setInflow { f with expected := seqNext q.seq, queue := [] } →
    w = ({ v with fab := { v.fab with awaiting := v.fab.awaiting.erase (a, stream) } } : State).threadAnswered a.requester →
    exec c s = .next (s.settle
      ((if op = 0x08 then w.answer a stream (if q.mask % 16 ≠ 0 then 3 else q.func % 16)
          (q.payload.zip ((List.range 128).map fun i => q.mask / 2 ^ (i / 32) % 2 == 1))
        else { w with compl := (.ok, q.payload.take 8) }).sendAck q.src 1 q.seq))) ∧
  (∀ (p q a : Packet) (stream : Nat) (s u v : State) (f : Flow), s.up = true → q = { p with op := 0x0A } → s.linkUp q.link = true →
    packetGood q = true → q.dst = s.physId → q.transit = false → s.inSlice q.src = true → f = s.flow q.src 0 →
    u = s.countArrival q →
    v = u.setFlow { f with failed := f.failed ++ [(q.seq, q.func % 16)] } →
    (f.unacked.any (fun x => x.packet.seq == q.seq) = true → f.failed.any (fun x => x.1 == q.seq) = false →
      s.fab.awaiting.find? (fun x => x.1.dst == q.src && x.1.seq == q.seq) = some (a, stream) →
      exec (.status p) s = .next (s.settle
        (({ v with fab := { v.fab with awaiting := v.fab.awaiting.erase (a, stream) } } : State).answer a stream (q.func % 16) []))) ∧
    (f.unacked.any (fun x => x.packet.seq == q.seq) = true → f.failed.any (fun x => x.1 == q.seq) = false →
      s.fab.awaiting.find? (fun x => x.1.dst == q.src && x.1.seq == q.seq) = none → exec (.status p) s = .next (s.settle v)) ∧
    (f.failed.any (fun x => x.1 == q.seq) = true → exec (.status p) s = .next (s.settle (u.bump FAB_PERF_DUP.count 0 0 1)))) ∧
  (∀ (id : Nat) (s : State) (f : Fence), s.up = true → s.fab.fences.find? (fun f => f.id == id) = some f →
    exec (.fenceTimeoutExpiry id) s = .next (s.settle (((s.endFence f .timeout).fabEvent 3 0 16 0 0).pollFences)))

/-- A line's head entry goes to memory, its requests are committed and the line's next entry follows (R333 to R335), an atomic that meets
poison in a protected range poisoning its block (R295); a stored line of array SRAM reads as stored. A window of the hot-line detector
ends with its counts (R337), a router's report is kept, this package's own telling what its queues hold (R326), and what is gathered for a
field is sent when its hold ends (R347). -/
def Obligations.TableAppliesInOrder : Prop :=
  (∀ (line : Nat) (s u m v : State) (e : Entry) (cells : List (Byte × Bool)) (out : List (Option Byte) × Nat × List Byte × List Exc),
    s.up = true → s.fab.table.find? (fun e => e.line == line) = some e → s.entryTurn e = true → e.op ≠ 1 →
    s.memGate line 128 (ownerOf ((e.sources.map (·.requester)).headD 0)) = .opened →
    u = { s with fab := { s.fab with table := startNext line (s.fab.table.erase e) } } →
    cells = (u.meetAtomic e).peekLine line → out = applyEntry e cells →
    m = (u.meetAtomic e).mapWindow (fun w => { w with poisoned := s.obs.window.poisoned }) →
    v = (if out.1.any (·.isSome) then ((m.mendAtomic e).memWrite line out.1 (ownerOf ((e.sources.map (·.requester)).headD 0)) (m.entryDie e)).1
      else m.idleAtomic e) →
    exec (.tableEntryApply line) s = .next (s.settle ((e.sources.foldl (fun a src => a.commitRequest src e.op
      (if e.op = 4 ∨ e.op = 5 then line + e.off else line) out.2.1 cells out.2.2.1) (v.recordAtomic out.2.2.2)).serveAll))) ∧
  (∀ (line a off : Nat) (s : State) (e : Entry) (src : Source), s.up = true → s.fab.table.find? (fun e => e.line == line) = some e →
    sramPlace line = some (a, off) → s.pwr.halted = false → e.op = 2 → e.mask = 2 ^ 128 - 1 → e.data.length = 128 → e.sources = [src] →
    s.memGate line 128 (ownerOf src.requester) = .opened → s.fab.inflows = [] →
    ∃ t, exec (.tableEntryApply line) s = .next t ∧ t.sram a off 128 = e.data ∧
      t.fab.table = startNext line (s.fab.table.erase e) ∧
      ∀ k, (k < sramKey a off ∨ sramKey a off + 128 ≤ k) → t.byte k = s.byte k) ∧
  (∀ (s : State), s.up = true →
    ∃ t, exec .hotLineWindowEnd s = .next t ∧ t.fab.merges = [] ∧
      (s.fld FAB_HOT_CFG.threshold ≠ 0 → (∀ m ∈ s.fab.merges, m.2 < s.fld FAB_HOT_CFG.threshold) →
        ∀ n, n < 16 → t.rd .FAB_HOT_LINE n = 0)) ∧
  (∀ (pkg : Nat) (levels : List Nat) (s : State), s.up = true → levels.length = 4 → pkg ≠ s.physId →
    exec (.occupancyReport pkg levels) s = .next (s.settle { s with fab := { s.fab with
      occupancy := (s.fab.occupancy.filter fun o => o.1 != pkg) ++ (List.range 4).map fun j => (pkg, 12 + j, levels.getD j 0) } })) ∧
  (∀ (levels : List Nat) (s : State), s.up = true →
    ∃ t, exec (.occupancyReport s.physId levels) s = .next t ∧
      ∀ j, j < 4 → t.fld FAB_LINK_STATUS.level_occ (12 + j) = min (s.linkOccupancy (12 + j)) 0xFFFF) ∧
  (∀ (f : Nat) (s : State) (p : Nat × Packet) (ps : List (Nat × Packet)), s.up = true →
    s.fab.gathered.filter (fun g => g.1 == f) = p :: ps →
    exec (.gwHoldExpiry f) s = .next (s.settle (({ s with fab := { s.fab with
      gathered := s.fab.gathered.filter fun g => g.1 != f
      transfers := s.fab.transfers ++ [(f, (p :: ps).map (·.2))] } } : State).bump FAB_PERF_GW_BULK.count 0 0 1)))

/-- A fence epoch: an advance asked for waits until the REQ flows have drained, then staged changes take effect and the path states follow
the table (R345, R371); one given up leaves them staged (R345). The physical ID is set while no casting is poured (R314). A unit's table
state changes as asked where the table of R370 allows it, and is rejected otherwise; a unit that has drained is fenced (R370). -/
def Obligations.EpochsAndUnits : Prop :=
  (∀ s : State, s.takesWrites = true → exec .fabEpochAdvance s = .next (s.settle (s.setFld FAB_EPOCH.pending 0 0 1))) ∧
  (∀ (s : State) (a n : Nat) (v : Word), s.up = true → s.flag FAB_EPOCH.pending = true → s.outstanding = false →
    s.fab.staged = [(a, v)] → Reg.ofAddr a = some ⟨.FAB_REMAP, n, 0⟩ →
    ∃ t, exec .epochAdvanceComplete s = .next t ∧ t.flag FAB_EPOCH.pending = false ∧ t.fab.staged = [] ∧
      t.fld FAB_EPOCH.epoch = (s.fld FAB_EPOCH.epoch + 1) % 2 ^ 32 ∧ t.fab.tracks = [] ∧
      t.rd .FAB_REMAP n = fieldWrite .FAB_REMAP (s.rd .FAB_REMAP n) v ∧
      ∀ u ∈ s.part.units, s.present u = true → s.pathState u ≠ tsDraining → t.pathState u = s.tableState u) ∧
  (∀ s : State, s.up = true → s.flag FAB_EPOCH.pending = true → exec .epochAdvanceRefused s =
    .next (s.settle (((s.setFld FAB_EPOCH.pending 0 0 0).setFld FAB_EPOCH.refused 0 0 1).fabEvent 3 0 16 0 0))) ∧
  (∀ (v : Word) (s : State), s.takesWrites = true → s.flag CST_STATE.configured = false →
    ∃ t, exec (.fabPhysIdWrite v) s = .next t ∧ t.fld FAB_PHYS_ID.id = bits v 15 0 ∧ t.fld FAB_PHYS_ID.set = 1 ∧
      t.fld FAB_ID.logical_id = bits v 15 0 ∧ t.mem = Memory.canonical s.mem) ∧
  (∀ (v : Word) (s : State), s.takesWrites = true → s.flag CST_STATE.configured = true →
    exec (.fabPhysIdWrite v) s = .next (s.settle s)) ∧
  (∀ (addr : Nat) (v : Word) (s : State) (r : Reg) (u : UnitId), s.up = true → Reg.ofAddr addr = some r → r.unit = some u →
    s.present u = true →
    exec (.unitStateRequest addr v) s = .next (s.settle
      (match s.tableState u, bits v 55 52 with
      | 0, 1 => s.setTable u 1 1
      | 1, 0 => s.setTable u 0 1
      | 2, 0 => if s.mayReturn u then s.setTable u 0 1 else s.rejectRequest u
      | 2, 3 => (s.recordRetired u).setTable u 3 1
      | _, _ => s.rejectRequest u))) ∧
  (∀ (addr : Nat) (s : State) (r : Reg) (u : UnitId), s.up = true → Reg.ofAddr addr = some r → r.unit = some u → s.present u = true →
    s.tableState u = 1 → s.pathState u = 1 → s.workInFlight u = false →
    exec (.unitDrained addr) s = .next (s.settle (s.setTable u 2 4)))

/-! ### The host port -/

/-- The host transport: a frame that is none of the port's is counted and discarded (R355); an OPEN of a valid peer starts a session of a
new generation and CLOSE ends one (R357); an acknowledgement drops what it covers, a NAK and a timeout send again, and commits are
acknowledged when due (R358); records of the event queue go to the sink's session (R365, R366); and the link is lost and returns with
event 0x01:0x01 (R354). -/
def Obligations.HostTransport : Prop :=
  (∀ (f : Frame) (s : State), s.up = true → s.fld HP_STATUS.link = 1 → s.readFrame f = .discarded →
    exec (.frameReceive f) s =
      .next (s.settle ((s.bump HP_PERF_RX_FRAMES.count 0 0 (if f.fcs then 1 else 0)).bump HP_PERF_DISCARD.count 0 0 1))) ∧
  (∀ (f : Frame) (s u : State) (d : Datagram) (n : Nat), s.up = true → s.fld HP_STATUS.link = 1 → s.readFrame f = .datagram d →
    d.head.type = 4 → d.head.channel = 0 → d.head.session ≠ 0xFFFF → u = s.bump HP_PERF_RX_FRAMES.count 0 0 (if f.fcs then 1 else 0) →
    u.peerAt d = some n →
    ∃ t, exec (.openSession f) s = .next t ∧
      t.session n = some { peer := n, gen := if 0x3FFE ≤ Sparse.get 0 s.host.gens n then 1 else Sparse.get 0 s.host.gens n + 1 } ∧
      ∀ m, m ≠ n → t.session m = s.session m) ∧
  (∀ (f : Frame) (s u : State) (d : Datagram) (n : Nat) (x : HostSession), s.up = true → s.fld HP_STATUS.link = 1 →
    s.readFrame f = .datagram d → d.head.type = 5 → d.head.channel = 0 →
    u = s.bump HP_PERF_RX_FRAMES.count 0 0 (if f.fcs then 1 else 0) → u.peerAt d = some n → u.session n = some x →
    x.value = d.head.session → d.head.session ≠ 0xFFFF →
    ∃ t, exec (.closeSession f) s = .next t ∧ t.session n = none ∧ ∀ m, m ≠ n → t.session m = s.session m) ∧
  (∀ (f : Frame) (s u : State) (d : Datagram) (n c : Nat) (x : HostSession), s.up = true → s.fld HP_STATUS.link = 1 →
    s.readFrame f = .datagram d → c = d.head.channel → (s.start.ready = true ∨ c = 0) →
    u = s.bump HP_PERF_RX_FRAMES.count 0 0 (if f.fcs then 1 else 0) → u.peerAt d = some n → u.session n = some x →
    x.value = d.head.session → d.head.session ≠ 0xFFFF →
    (d.head.type = 2 → c < 3 → (x.chan c).unacked.length ≤ 256 →
      ((x.chan c).unacked.any fun u => seqLe u.1 d.head.ack) = true →
      exec (.transportAck f) s = .next (s.settle (u.setSession (x.setChan c { x.chan c with
        unacked := (x.chan c).unacked.filter fun u => !(seqLe u.1 d.head.ack) })))) ∧
    (d.head.type = 3 → exec (.nak f) s = .next (s.settle ((u.hostAck n c d.head.ack).resendFrom n c d.head.seq)))) ∧
  (∀ (peer c a n : Nat) (pay : List Byte) (s : State) (x : HostSession), s.up = true → s.session peer = some x → c < 4 →
    (x.chan c).unacked = [(a, pay, n)] →
    (n < s.fld HP_RETX_CFG.retries → ∃ t, exec (.hostResendTimeout peer c) s = .next t ∧
      t.session peer = some (x.setChan c { x.chan c with unacked := [(a, pay, n + 1)] })) ∧
    (s.fld HP_RETX_CFG.retries ≤ n → exec (.hostResendTimeout peer c) s =
      .next (s.settle ((s.endSession peer).raise 1 2 0xFFFF 0)))) ∧
  (∀ (peer c : Nat) (s : State) (x y : HostSession), s.up = true → s.session peer = some x → (x.chan c).commits ≠ 0 →
    y = x.setChan c { x.chan c with commits := 0 } →
    exec (.hostAckTimer peer c) s = .next (s.settle ((s.setSession y).sendTo y c dgAck 0 0 []))) ∧
  (∀ (s : State) (x : HostSession) (now q : List EventRec), s.up = true → s.flag HP_EVT_CFG.enable = true → s.start.ready = true →
    s.session (s.fld HP_EVT_CFG.sink) = some x → x.evt.unacked = [] → s.evt.queue ≠ [] → now = s.evt.queue.take 32 →
    q = s.evt.queue.map (fun r => if now.any (fun y => y.record == r.record) then { r with sent := true } else r) →
    exec .eventSend s =
      .next (s.settle (({ s with evt := { s.evt with queue := q } } : State).chanSend x.peer 3 (now.flatMap eventBytes)))) ∧
  (∀ s : State, s.up = true → s.fld HP_STATUS.link ≠ 0 →
    exec .hostLinkLoss s = .next (s.settle { (s.setFld HP_STATUS.link 0 0 0) with host := { s.host with linkLost := true } })) ∧
  (∀ s : State, s.up = true → s.host.linkLost = true → exec .hostLinkReturn s =
    .next (s.settle (({ (s.setFld HP_STATUS.link 0 0 1) with host := { s.host with linkLost := false } } : State).raise 1 1 0xFFFF 0)))

/-- Messages of a session in their order: register accesses are performed and answered (R368); a command message enters its mailbox ring
and is committed (R359 to R361); a bulk write becomes stores, and is committed when they are complete, a bulk read becomes loads (R362,
R363); and a far gateway's transfer is unpacked (R347, R364), its packets' hops counted anew in this field (R325, R346; the model's
choice, log 21). -/
def Obligations.HostMessages : Prop :=
  (∀ (f : Frame) (s u v : State) (d : Datagram) (n : Nat) (x : HostSession), s.up = true → s.fld HP_STATUS.link = 1 →
    s.readFrame f = .datagram d → d.head.type = 1 → d.head.session ≠ 0xFFFF →
    u = s.bump HP_PERF_RX_FRAMES.count 0 0 (if f.fcs then 1 else 0) → u.peerAt d = some n → u.session n = some x →
    x.value = d.head.session → (x.chan d.head.channel).unacked = [] → d.head.seq = (x.chan d.head.channel).rx →
    (x.chan d.head.channel).commits + x.waiting d.head.channel < 256 →
    v = u.setSession (x.setChan d.head.channel { x.chan d.head.channel with rx := seqNext d.head.seq }) →
    (d.head.channel = 0 → mgmtGood d.payload = true → exec (.mgmtAccess f) s = .next (s.settle
      (((v.mgmtAll d.payload).1.chanSend n 0 (v.mgmtAll d.payload).2).commitOne n 0))) ∧
    (d.head.channel = 1 → s.start.ready = true → x.cmdWait = [] → s.flag HP_MBX_CFG.enable = true → cmdGood d.payload = true →
      num d.payload 4 4 = 0xFFFFFFFF → s.mailboxFull (byteAt d.payload 1) = false →
      ∃ t y, exec (.cmdMessage f) s = .next t ∧ t.session n = some y ∧ y.cmdWait = [] ∧ y.cmd.rx = seqNext d.head.seq ∧
        t.mem = Memory.canonical (s.mailboxWrite x d.payload).mem ∧
        t.rd .HP_MBX_PTR (byteAt d.payload 1) = (s.mailboxWrite x d.payload).rd .HP_MBX_PTR (byteAt d.payload 1)) ∧
    (d.head.channel = 2 → s.start.ready = true → x.bulkItems = [] → x.cmdWait = [] → byteAt d.payload 0 = 0x10 →
      d.payload.length = 32 + num d.payload 16 4 → s.bulkRange (num d.payload 8 8) (num d.payload 16 4) = true →
      ∃ t y, exec (.bulkWrite f) s = .next t ∧ t.session n = some y ∧
        y.bulkItems = [{ seq := d.head.seq, id := s.host.nextBulk, tag := num d.payload 4 4, done := false }] ∧
        t.host.nextBulk = s.host.nextBulk + 1 ∧
        t.fab.reqQ = s.fab.reqQ ++ s.bulkStores (num d.payload 8 8) (d.payload.drop 32) s.host.nextBulk) ∧
    (d.head.channel = 2 → s.start.ready = true → x.bulkItems = [] → x.cmdWait = [] → byteAt d.payload 0 = 0x11 → d.payload.length = 32 →
      s.bulkRange (num d.payload 8 8) (num d.payload 16 4) = true → s.isOwn (num d.payload 8 8) = false →
      s.host.failed.lookup s.host.nextBulk = none →
      ∃ t y, exec (.bulkReadReq f) s = .next t ∧ t.session n = some y ∧ y.bulkItems = [] ∧
        t.host.reads = s.host.reads ++ [{ id := s.host.nextBulk, peer := n, gen := x.gen, tag := num d.payload 4 4
                                          addr := num d.payload 8 8, len := num d.payload 16 4 }] ∧
        t.fab.reqQ = s.fab.reqQ ++ (linesOf (num d.payload 8 8 % 2 ^ 48) (num d.payload 16 4)).map (fun l =>
          ({ op := 1, dst := num d.payload 8 8 / 2 ^ 48, requester := 0xF10, addr := l, stream := s.host.nextBulk } : Request)))) ∧
  (∀ (peer : Nat) (s : State) (x : HostSession) (b : BulkItem), s.up = true → s.session peer = some x → x.bulkItems = [b] →
    x.cmdWait = [] → s.bulkOpen b.id = false → s.host.failed.lookup b.id = none →
    ∃ t y, exec (.bulkWriteComplete peer) s = .next t ∧ t.session peer = some y ∧ y.bulkItems = [] ∧ y.bulk.rx = x.bulk.rx ∧
      y.bulk.commits = if 16 ≤ x.bulk.commits + 1 then 0 else x.bulk.commits + 1) ∧
  (∀ (f : Frame) (s : State) (d : Datagram) (g len : Nat), s.up = true → s.flag FAB_CFG.gateway = true → s.fld HP_STATUS.link = 1 → s.start.ready = true →
    s.readFrame f = .datagram d → d.head.session = 0xFFFF → d.head.channel = 2 → d.head.type = 1 → g < 64 →
    (s.farGateway g).valid = true → (s.farGateway g).ipv6 = d.ipv6 → (s.farGateway g).ip = d.ip → (s.farGateway g).port + 2 = d.port →
    byteAt d.payload 0 = 0x14 → len = num d.payload 16 4 → d.payload.length = 32 + len →
    exec (.gateway f) s = .next (s.settle ((readPackets (len / 32) (d.payload.drop 32)).foldl (fun a p => a.route { p with hops := 0, via := 0x3F })
      ((s.bump HP_PERF_RX_FRAMES.count 0 0 (if f.fcs then 1 else 0)).bump HP_PERF_GW_RX.count 0 0 1))))

/-! ### Reset, sideband, clocks -/

/-- Power lost and SB_RESET_N low reset every part but the fused values, MRAM, NAND and the I2C registers, show the cause (R428) and give
every flow its next generation (R323, log 21); the release samples the straps and begins start-up (R373, R429). SB_QUENCH_N held low 100
ns takes a quench where it is enabled (R441), and the I2C target stores and returns bytes and answers no address but its own (R375). -/
def Obligations.ResetAndSideband : Prop :=
  (∀ (n : Nat) (c : Instr) (s : State), (n, c) ∈ [(1, Instr.sbResetNAssert), (2, .sbPwrOkLow)] →
    s.pins.pwrOk = true → s.pins.resetN = true →
    ∃ t, exec c s = .next t ∧ t.up = false ∧ t.pins.pwrOk = (n == 1) ∧ t.fld RST_STATUS.cause = (if s.pwr.halted then 3 else n) ∧
      t.fab = { flows := s.fab.flows.map fun f => { dst := f.dst, cls := f.cls, gen := (f.gen + 1) % 16 } } ∧ t.arr = [] ∧ t.poison = [] ∧ t.rake = {} ∧ t.stg = {} ∧ t.tmp = {} ∧ t.start = {} ∧ t.hmk.job = none ∧
      t.hmk.keys = s.hmk.keys ∧ t.hmk.castSvn = s.hmk.castSvn ∧ t.hmk.spare = s.hmk.spare ∧ t.i2c = s.i2c ∧
      (∀ a, a < nandBase → t.byte a = 0) ∧ (∀ a, nandBase ≤ a → t.byte a = s.byte a) ∧
      t.fld HMK_LIFE_RESETS.count = s.fld HMK_LIFE_RESETS.count ∧ t.rd .STG_STEP_STATUS = resetValue s.part .STG_STEP_STATUS 0 0) ∧
  (∀ s : State, exec .sbPwrOkRaise s = .next (s.settle { s with pins := { s.pins with pwrOk := true } })) ∧
  (∀ (straps : Nat) (facts : StartFacts) (s : State), s.pins.pwrOk = true → s.pins.resetN = false →
    ∃ t, exec (.resetRelease straps facts) s = .next t ∧ t.up = true ∧ t.pins.straps = straps % 16 ∧
      t.fld RST_STATUS.straps = straps % 16 ∧ t.fld HMK_LIFE_RESETS.count = (s.fld HMK_LIFE_RESETS.count + 1) % 2 ^ 64 ∧
      t.start = { running := true, facts := facts } ∧
      (s.i2c.bytes = [] → t.fld HP_UDP_CFG.base = if straps / 4 % 2 = 1 then 52224 else 51200)) ∧
  (∀ (ns : Nat) (s : State), s.up = true →
    (100 ≤ ns → s.flag OBS_QUENCH_CFG.pin_en = true → s.obs.drivingQuench = false →
      exec (.sbQuenchNFall ns) s = .next (s.settle (s.quench 4 0))) ∧
    ((ns < 100 ∨ s.flag OBS_QUENCH_CFG.pin_en = false) → exec (.sbQuenchNFall ns) s = .next (s.settle s))) ∧
  (∀ s : State, s.up = true →
    exec .sbQuenchNDriveEnd s = .next (s.settle { s with obs := { s.obs with drivingQuench := false } })) ∧
  (∀ (o : Nat) (b : Byte) (s : State), s.pins.pwrOk = true → 0x10 ≤ o → o ≤ 0x51 →
    exec (.i2cTransfer o [b] 0 s.i2cAddress) s = .next (s.settle { s with i2c := { s.i2c with bytes := Sparse.put 0 s.i2c.bytes o b } }) ∧
    exec (.i2cTransfer o [] 1 s.i2cAddress) s = .next (s.settle { s with compl := (.ok, [s.i2cStored o]) }) ∧
    exec (.i2cTransfer 3 [b] 0 s.i2cAddress) s =
      .next (s.settle { s with i2c := { s.i2c with alert := s.i2c.alert - (s.i2c.alert &&& b.toNat) } })) ∧
  (∀ (address o len : Nat) (bs : List Byte) (s : State), address ≠ 0x58 + s.pins.straps % 4 →
    exec (.i2cTransfer o bs len address) s = .next (s.settle s))

/-- The reference and the clocks: lock of lane 0 begins judging, and a stable window lets start-up and recovery go on (R414, R420); the
core loops' lock leads to NORMAL at a frame boundary (R415); a count outside the gate's limits and a loss of lock in service lead to
FALLBACK (R416, R417), whose holdover ends with the links and stays shown (R419); test, taken with the next hub cycle, is entered only
while unconfigured (R421); and no reference in 2 s asserts SB_FAULT_N (R430). -/
def Obligations.ClocksFollowReference : Prop :=
  (∀ s : State, s.up = true → exec .laneLock s =
    .next (s.settle ((s.setFld CLK_STATUS.lane_lock 0 0 1).setFld CLK_STATUS.judging 0 0 1))) ∧
  (∀ (count : Nat) (ds : List Nat) (s : State), s.up = true → s.flag CLK_STATUS.judging = true →
    (s.part.stable count ds = false →
      exec (.judgingWindowEnd count ds) s = .next (s.settle (s.bump CLK_PERF_JUDGE_FAIL.count 0 0 1))) ∧
    (s.part.stable count ds = true → s.fld CLK_STATUS.mode = 0 → s.start.running = true → s.start.clock = 0 →
      exec (.judgingWindowEnd count ds) s =
        .next (s.settle { (s.setFld CLK_STATUS.judging 0 0 0).startPhase 3 with start := { s.start with clock := 1 } })) ∧
    (s.part.stable count ds = true → s.fld CLK_STATUS.mode = 2 → ∃ t, exec (.judgingWindowEnd count ds) s = .next t ∧
      t.fld CLK_STATUS.mode = 3 ∧ t.fld CLK_STATUS.coast = 1 ∧ t.flag CLK_STATUS.judging = false)) ∧
  (∀ s : State, s.up = true → s.fld CLK_STATUS.mode = 0 → s.start.clock = 1 →
    exec .coreLoopLock s = .next (s.settle (((s.mapClk fun c => { c with locked := true }).setFld DIE_CLK_STATUS.array_lock 0 0 1).setFld
      DIE_CLK_STATUS.array_lock 1 0 1))) ∧
  (∀ (count : Nat) (s : State), s.up = true → s.fld CLK_STATUS.mode = 1 →
    ∃ t, exec (.monitorGateEnd count) s = .next t ∧
      (s.part.lowCount ≤ count ∧ count ≤ s.part.highCount → t.fld CLK_STATUS.mode = 1 ∧ t.fld CLK_MON.count = min count 255) ∧
      (count < s.part.lowCount ∨ s.part.highCount < count → t.fld CLK_STATUS.mode = 2 ∧ t.clk.halve = true)) ∧
  (∀ s : State, s.up = true → s.fld CLK_STATUS.mode = 1 →
    ∃ t, exec .laneLossOfLock s = .next t ∧ t.fld CLK_STATUS.mode = 2 ∧ t.fld CLK_STATUS.lane_lock = 0 ∧ t.clk.halve = true) ∧
  (∀ (n : Nat) (s : State), s.up = true →
    (s.fld CLK_STATUS.mode = 1 → s.clk.locked = false → exec (.frameBoundary 0) s = .next (s.settle ((s.mapClk fun c => { c with place := 0 }).bump
      CLK_STATUS.frames 0 0 1))) ∧
    (s.fld CLK_STATUS.mode = 0 → s.clk.locked = true → ∃ t, exec (.frameBoundary n) s = .next t ∧ t.fld CLK_STATUS.mode = 1 ∧
      t.fld CLK_STATUS.coast = 0 ∧ t.start.clock = 2 ∧ t.fld CLK_STATUS.frames = s.fld CLK_STATUS.frames)) ∧
  (∀ s : State, s.up = true → s.fld CLK_STATUS.mode = 2 → s.flag CLK_STATUS.holdover_expired = false →
    ∃ t, exec .holdoverExpiry s = .next t ∧ t.flag CLK_STATUS.holdover_expired = true ∧ t.fld HP_STATUS.link = 0 ∧
      ∀ l, l < 16 → t.fld FAB_LINK_STATUS.state l = 0) ∧
  (∀ (on : Bool) (s : State), s.takesWrites = true →
    exec (.clkTestWrite on) s = .next (s.settle (s.mapClk fun c => { c with test := some on }))) ∧
  (∀ (on : Bool) (s u : State), s.clk.test = some on → u = (s.mapClk fun c => { c with test := none }) →
    (s.flag CST_STATE.configured = false → s.flag CST_STATE.pouring = false → s.fld CLK_STATUS.mode = 1 → on = true →
      s.settleTest = (((u.setFld CLK_CTRL.test 0 0 1).setMode clkTest).showCore true false false).raise 5 5 0xFFFF 0) ∧
    (s.flag CST_STATE.configured = false → s.flag CST_STATE.pouring = false → s.fld CLK_STATUS.mode = 4 → s.clk.leaving = false → on = false →
      s.settleTest = ((u.setFld CLK_CTRL.test 0 0 0).mapClk fun c => { c with leaving := true }).raise 5 5 0xFFFF 0) ∧
    ((s.flag CST_STATE.configured = true ∨ s.flag CST_STATE.pouring = true ∨ (s.fld CLK_STATUS.mode ≠ 1 ∧ s.fld CLK_STATUS.mode ≠ 4)) →
      s.settleTest = u)) ∧
  (∀ s : State, s.up = true → s.fld CLK_STATUS.mode = 4 → s.clk.leaving = true → s.clk.locked = false →
    exec .coreLoopLock s = .next (s.settle (((s.mapClk fun c => { c with locked := true }).setFld DIE_CLK_STATUS.array_lock 0 0 1).setFld
      DIE_CLK_STATUS.array_lock 1 0 1))) ∧
  (∀ s : State, s.up = true → s.fld CLK_STATUS.mode = 4 → s.clk.locked = true →
    ∃ t, exec (.frameBoundary 0) s = .next t ∧ t.fld CLK_STATUS.mode = 1 ∧ t.fld CLK_STATUS.coast = 0) ∧
  (∀ s : State, s.up = true → s.start.running = true → s.start.ready = false → s.start.clock = 0 →
    exec .noReferenceTimeout s = .next (s.settle (s.assertFault.raise 5 4 0xFFFF 0)))

/-! ### The Hallmark store -/

/-- Hallmark's operations: a store and a pour are taken up as the job in progress (R387, R388), and while one is in progress a request is
refused with reason 0x0B (R407); the running firmware is confirmed (R406); a partition is read into HBM (R407); the first owner key is
enrolled (R384). What an operation records becomes its record's newest version, its copy A written and read back and copy B to follow
(R396), unless the record would shrink (R398), and the operation ends by whether both copies stand. A report is signed into HBM (R386),
and a poisoned nonce gives none (R291, R450). -/
def Obligations.HallmarkOperations : Prop :=
  (∀ (op : Nat) (c : Instr) (s : State) (n : Nat), s.up = true → (op, c) ∈ [(1, Instr.storeCast), (3, .storeFw)] → s.hmk.job = none →
    s.hmk.running = some n → s.hmk.nand.wornOut = false →
    exec c s = .next (s.settle ((s.hmkStatus 1 op 0 0 0).setJob (some
      { op := op, slot := s.hmk.target op, addr := s.fld HMK_ARG0.addr, length := s.fld HMK_ARG1.length })))) ∧
  (∀ (s : State) (n : Nat), s.up = true → s.hmk.job = none → s.hmk.running = some n →
    (s.hmk.cast (s.fld HMK_ARG0.slot)).valid = true →
    exec .pour s = .next (s.settle ((s.hmkStatus 1 2 0 0 0).setJob (some { op := 2, slot := s.fld HMK_ARG0.slot })))) ∧
  (∀ (c : Instr) (s : State), s.up = true → c ∈ [Instr.confirmFw, .hallmarkRead, .key, .attest] → s.hmk.job.isSome = true →
    exec c s = .next (s.settle (s.setFld HMK_STATUS.reason 0 0 0x0B))) ∧
  (∀ (s : State) (n : Nat), s.up = true → s.hmk.job = none → s.hmk.running = some n → s.hmk.startFailures < 3 →
    exec .confirmFw s = .next (s.settle (s.recordOperation opConfirm recFirmware fun h =>
      { (h.setFw n { s.hmk.fw n with confirmed := true }) with fwSvn := max h.fwSvn (s.hmk.fw n).svn }))) ∧
  (∀ (op kind : Nat) (f : Hmk → Hmk) (s : State) (h : Hmk), h = f s.hmk → h.copying.contains kind = false →
    (mayFollow kind (((h.newest kind).map fun v => v.data).getD {}) h.data = false → (h.newest kind).map (fun v => v.seq) = (s.hmk.newest kind).map (fun v => v.seq) →
      (s.recordOperation op kind f).fld HMK_STATUS.state = 4 ∧ (s.recordOperation op kind f).hmk.versions = h.versions ∧
      (s.recordOperation op kind f).hmk.reports = h.reports ++ [(6, kind)]) ∧
    (mayFollow kind (((h.newest kind).map fun v => v.data).getD {}) h.data = true → h.nand.broken = [] → h.seqOf kind = s.hmk.seqOf kind →
      ∃ t, s.recordOperation op kind f = t ∧ t.fld HMK_STATUS.state = 1 ∧ t.hmk.job = some { op := op, slot := 0 } ∧ t.hmk.data = h.data ∧
        t.hmk.newest kind = some { kind := kind, seq := s.hmk.seqOf kind + 1, data := h.data, a := true, b := false } ∧
        t.hmk.copying = h.copying ++ [kind])) ∧
  (∀ (s : State) (p n off addr : Nat), s.up = true → s.hmk.job = none → p = s.fld HMK_ARG0.partition → (p = 1 ∨ p = 2) →
    addr = s.fld HMK_ARG0.addr → n = s.fld HMK_ARG1.length → off = s.fld HMK_ARG1.offset * 4096 → n ≠ 0 → off + n ≤ partSize p →
    addr % 4096 = 0 → s.inHbm addr n = true → s.nandReadable p (s.fld HMK_ARG0.slot) off n = true →
    exec .hallmarkRead s = .next (s.settle ((s.hbmWrite addr (s.nandBytes p (s.fld HMK_ARG0.slot) off n)).hmkStatus 2 5 0 0
      ((n + 4095) / 4096)))) ∧
  (∀ (s u : State) (n addr slot : Nat) (r : List Byte), s.up = true → s.hmk.job = none → s.hmk.running = some n → addr = s.fld HMK_ARG0.addr →
    addr % 4096 = 0 → s.inHbm addr 64 = true → s.hbmRead addr 64 = (u, r, false) → byteAt r 0 = 0x4B → byteAt r 1 = 1 → slot = byteAt r 2 →
    slot ≤ 3 → byteAt r 3 = 0 → zeros r 40 24 = true → num r 4 4 = 1 → u.hmk.keyEpoch = 0 →
    (∀ k ∈ u.hmk.keys, k.valid = false) → (u.hmk.keys.getD slot {}).revoked = false →
    exec .key s = .next (s.settle (u.recordOperation opKey recKeys fun h =>
      { h with keys := h.keys.set slot { digest := slice r 8 32, valid := true }, keyEpoch := h.keyEpoch + 1 }))) ∧
  (∀ (op kind : Nat) (s : State), (op, kind) ∈ [(opConfirm, recFirmware), (opKey, recKeys)] → s.hmk.job = some { op := op, slot := 0 } →
    s.hmk.copying.contains kind = false →
    (s.hmk.whole kind = true → op = opConfirm → s.jobStep = (s.setJob none).hmkStatus 2 op 0 0 0) ∧
    (s.hmk.whole kind = true → op = opKey → s.jobStep = ((s.setJob none).hmkStatus 2 op 0 0 0).raise 0x0B 0x0D 0xFFFF 0) ∧
    (s.hmk.whole kind = false → s.jobStep = (s.setJob none).hmkStatus 4 op 0 0 0)) ∧
  (∀ (s u : State) (addr : Nat) (nonce r : List Byte), s.up = true → s.hmk.job = none →
    addr = s.fld HMK_ARG0.addr → addr % 4096 = 0 → s.inHbm addr 3629 = true → s.hbmRead addr 32 = (u, nonce, false) →
    r = u.report nonce u.nanos →
    exec .attest s = .next (s.settle ((u.hbmWrite (addr + 64) (r ++
      (Config.mlDsaSign (withContext ctxAttest (shake256 r)) ++ List.replicate 3309 0#8).take 3309)).hmkStatus 2 7 0 0 0))) ∧
  (∀ (s u : State) (addr : Nat) (nonce : List Byte), s.up = true → s.hmk.job = none →
    addr = s.fld HMK_ARG0.addr → addr % 4096 = 0 → s.inHbm addr 3629 = true → s.hbmRead addr 32 = (u, nonce, true) →
    ∃ t, exec .attest s = .next t ∧ t.fld HMK_STATUS.state = 3 ∧ t.mem = Memory.canonical u.mem)

/-- Hallmark's background work: a page read with many corrected bits is programmed anew (R399), and a failing block joins the bad-block
bitmap with event 0x0B:0x07 (R400); a lane's calibration moves its bias by one code, at most to its maximum (R403), and counts when late
(R448); and the seconds counters advance (R404, R409). -/
def Obligations.HallmarkUpkeep : Prop :=
  (∀ (p : Nat) (s : State), s.up = true → s.hmk.nand.map.any (fun m => m.1 == p) = true →
    exec (.nandWearLevel (.refresh p)) s =
      .next (s.settle { s with hmk := { s.hmk with nand := Nand.move s.hmk.nand p } })) ∧
  (∀ (b : Nat) (s : State) (n : Nand), s.up = true → b < 16384 → s.hmk.nand.bad.contains b = false →
    n = { s.hmk.nand with bad := insertKey b s.hmk.nand.bad, used := s.hmk.nand.used.filter (· != b)
                          fill := if s.hmk.nand.openBlock = b then 64 else s.hmk.nand.fill } →
    exec (.nandWearLevel (.retire b)) s = .next (s.settle (({ s with hmk := { s.hmk with
      nand := (s.hmk.nand.validPages b).foldl Nand.move n } } : State).hmkFailure 7 0 0 b))) ∧
  (∀ (port lane bias hours code : Nat) (late : Bool) (s : State) (old : Lane), s.up = true → port ≤ 16 → lane ≤ 7 →
    s.hmk.nand.broken = [] → old = s.laser (8 * port + lane) → min bias old.maxCode ≠ old.bias →
    code = (if old.bias < min bias old.maxCode then old.bias + 1 else old.bias - 1) → 10 * code < 9 * old.maxCode →
    ∃ t d, exec (.laserCalibration port lane bias hours late) s = .next t ∧
      t.laser (8 * port + lane) = { bias := code, maxCode := old.maxCode, hours := hours, drift := d, calHours := hours } ∧
      t.hmk.laserHours = hours ∧ t.regs = (s.bump OBS_PERF_CAL_LATE.count 0 0 (b2n late)).regs ∧ t.fab = s.fab) ∧
  (∀ (hot : Nat) (s : State), s.up = true → exec (.lifetimeCounterWrite hot) s =
    .next (s.settle ((s.bump HMK_LIFE_POWER_S.count 0 0 60).bump HMK_LIFE_HOT_S.count 0 0 (min hot 60))))

/-! ### Number formats -/

/-- Every encoding of A32, M16 and W16 is read and written back as it is, but for a NaN, written in its one form, and for a zero or a
subnormal that the format does not keep, written as +0; nothing is recorded (R49 to R52). -/
def Obligations.LinearFormatsRoundTrip : Prop :=
  ∀ (F : Lin) (b : Nat), F ∈ [Lin.a32, Lin.m16, Lin.w16] → b < 2 ^ F.width →
    F.encode (F.decode b) =
      (if b / 2 ^ F.fw % 2 ^ F.ew = 2 ^ F.ew - 1 ∧ b % 2 ^ F.fw ≠ 0 then F.canonicalNan
       else if b / 2 ^ F.fw % 2 ^ F.ew = 0 ∧ (F.sub = false ∨ b % 2 ^ F.fw = 0) then 0
       else b, Exc.none)

/-- Every code of the log formats, read under a block scale that is not void, is written back under the same scale as it is; nothing is
recorded (R43 to R48, R56, R65, R66). -/
def Obligations.LogCodesRoundTrip : Prop :=
  ∀ (f : LogFmt) (code e8 : Nat), e8 < 255 → code < (if f = .l4 then 16 else 256) → toLog f (f.num code e8) e8 = (code, Exc.none)

/-- Whatever is added to a running sum that is an A32 value, the sum stays one (R49, R57): it never leaves the 24-bit significand or the
range. -/
def Obligations.RunningSumsStayA32 : Prop :=
  ∀ (b : Nat) (p : Sys2Proof.Machine.Num), b < 2 ^ 32 → ∃ c, c < 2 ^ 32 ∧ (accumulate (a32 b) p).1 = a32 c
end

