-- ==== Sys2Proof/Laws/Sparse.lean ====
section
/-! SUPPORT. What a write to a sparse map does, and that it keeps the canonical form. -/

namespace Sys2Proof.Machine

variable {α : Type} [DecidableEq α]

/-- A read after a write: the value written at its key, every other key as before. -/
theorem Sparse.get_put (d : α) (m : List (Nat × α)) (k : Nat) (x : α) (j : Nat) :
    Sparse.get d (Sparse.put d m k x) j = if j = k then x else Sparse.get d m j := by
  induction m with
  | nil => by_cases h : x = d <;> by_cases e : k = j <;> simp [Sparse.put, Sparse.get, h, e, eq_comm]
  | cons c m ih =>
    obtain ⟨a, v⟩ := c
    simp only [Sparse.put]
    split
    · rename_i hk
      subst hk
      split <;> rename_i hx
      · rw [ih]
        by_cases e : j = k
        · simp [e]
        · simp [e, Sparse.get, Ne.symm e]
      · by_cases e : j = k
        · simp [e, Sparse.get]
        · simp [e, Sparse.get, Ne.symm e]
    · rename_i hk
      split
      · by_cases e : j = k
        · simp [e, Sparse.get]
        · simp [e, Sparse.get, Ne.symm e]
      · simp only [Sparse.get, ih]
        by_cases e : a = j
        · simp [e, show ¬ j = k from fun h => hk (h ▸ e.symm)]
        · simp [e]

theorem Sparse.get_put_same (d : α) (m : List (Nat × α)) (k : Nat) (x : α) :
    Sparse.get d (Sparse.put d m k x) k = x := by simp [Sparse.get_put]

/-- A read of another key, under whatever it reads unlisted. -/
theorem Sparse.get_put_other (d d' : α) (m : List (Nat × α)) {k j : Nat} (x : α) (h : j ≠ k) :
    Sparse.get d' (Sparse.put d m k x) j = Sparse.get d' m j := by
  induction m with
  | nil => by_cases e : x = d <;> simp [Sparse.put, Sparse.get, e, Ne.symm h]
  | cons c m ih =>
    obtain ⟨a, v⟩ := c
    simp only [Sparse.put]
    split
    · rename_i hk
      subst hk
      split
      · simp [ih, Sparse.get, Ne.symm h]
      · simp [Sparse.get, Ne.symm h]
    · split
      · simp [Sparse.get, Ne.symm h]
      · simp only [Sparse.get, ih]

/-- Keys rise strictly above a bound and no value is `d`. -/
def Sparse.Above (d : α) : Nat → List (Nat × α) → Prop
  | _, [] => True
  | n, (a, v) :: m => n ≤ a ∧ v ≠ d ∧ Sparse.Above d (a + 1) m

omit [DecidableEq α] in
theorem Sparse.Above.mono {d : α} {n n' : Nat} {m : List (Nat × α)} (h : n' ≤ n) (w : Sparse.Above d n m) :
    Sparse.Above d n' m := by
  cases m with
  | nil => trivial
  | cons c m => exact ⟨Nat.le_trans h w.1, w.2⟩

/-- Writing `d` at a key below every key changes nothing above. -/
theorem Sparse.Above.put_below {d : α} {n k : Nat} {m : List (Nat × α)} (w : Sparse.Above d n m) (h : k < n) :
    Sparse.Above d n (Sparse.put d m k d) := by
  induction m generalizing n with
  | nil => simp [Sparse.put, Sparse.Above]
  | cons c m ih =>
    obtain ⟨b, u⟩ := c
    have hb : k ≠ b := by have := w.1; omega
    simp only [Sparse.put, hb, if_false, ne_eq, not_true, and_false]
    exact ⟨w.1, w.2.1, ih w.2.2 (by have := w.1; omega)⟩

/-- A write keeps the keys rising. -/
theorem Sparse.Above.put {d : α} {n : Nat} {m : List (Nat × α)} (w : Sparse.Above d n m) {k : Nat} (h : n ≤ k) (x : α) :
    Sparse.Above d n (Sparse.put d m k x) := by
  induction m generalizing n with
  | nil => by_cases e : x = d <;> simp [Sparse.put, Sparse.Above, e, h]
  | cons c m ih =>
    obtain ⟨a, v⟩ := c
    obtain ⟨h1, h2, h3⟩ := w
    simp only [Sparse.put]
    split
    · rename_i hk
      subst hk
      split
      · rename_i e
        rw [e]
        exact (h3.put_below (by omega)).mono (by omega)
      · rename_i e
        exact ⟨h1, e, h3⟩
    · split
      · rename_i hk e
        exact ⟨h, e.2, by have := e.1; omega, h2, h3⟩
      · rename_i hk e
        by_cases hlt : k < a
        · have hx : x = d := Classical.byContradiction fun hx => e ⟨hlt, hx⟩
          rw [hx]
          exact ⟨h1, h2, h3.put_below (by omega)⟩
        · exact ⟨h1, h2, ih h3 (by omega)⟩

end Sys2Proof.Machine
end

