-- ==== Sys2Proof/Laws/Memory.lean ====
section
/-! SUPPORT. The addressed memory: reads after writes, and the canonical form, which every memory operation keeps. -/

namespace Sys2Proof.Machine

theorem Memory.wf_cons (c : Host.Cell) (m : List Host.Cell) :
    Memory.wf (c :: m) = true ↔ c.2 ≠ unlisted ∧ Sparse.Above unlisted (c.1 + 1) m ∧ Memory.wf m = true := by
  induction m generalizing c with
  | nil => simp [Memory.wf, Sparse.Above]
  | cons e m ih =>
    have := ih e
    simp only [Memory.wf, Bool.and_eq_true, decide_eq_true_eq, bne_iff_ne, ne_eq, Sparse.Above]
    rw [this]
    constructor
    · rintro ⟨⟨h1, h2⟩, h3, h4, h5⟩
      exact ⟨h1, ⟨by omega, h3, h4⟩, h3, h4, h5⟩
    · rintro ⟨h1, ⟨h2, h3, h4⟩, _, _, h5⟩
      exact ⟨⟨h1, by omega⟩, h3, h4, h5⟩

/-- The Boolean form says that the keys rise and that no listed byte reads as it would unlisted. -/
theorem Memory.wf_iff (m : List Host.Cell) : Memory.wf m = true ↔ Sparse.Above unlisted 0 m := by
  induction m with
  | nil => simp [Memory.wf, Sparse.Above]
  | cons c m ih =>
    rw [Memory.wf_cons, ih]
    constructor
    · exact fun h => ⟨Nat.zero_le _, h.1, h.2.1⟩
    · exact fun h => ⟨h.2.1, h.2.2, h.2.2.mono (Nat.zero_le _)⟩

theorem Memory.wf_put {m : List Host.Cell} (h : Memory.wf m = true) (k : Nat) (b : Byte) :
    Memory.wf (Sparse.put unlisted m k b) = true :=
  (Memory.wf_iff _).2 (((Memory.wf_iff _).1 h).put (Nat.zero_le k) b)

theorem Sparse.Above.filter {d : Byte} {n : Nat} {m : List Host.Cell} (w : Sparse.Above d n m) (p : Host.Cell → Bool) :
    Sparse.Above d n (m.filter p) := by
  induction m generalizing n with
  | nil => exact w
  | cons c m ih =>
    by_cases e : p c = true
    · simp only [List.filter_cons, e, if_true]
      exact ⟨w.1, w.2.1, ih w.2.2⟩
    · simp only [List.filter_cons, e]
      exact (ih w.2.2).mono (by have := w.1; omega)

theorem Memory.wf_filter {m : List Host.Cell} (h : Memory.wf m = true) (p : Host.Cell → Bool) : Memory.wf (m.filter p) = true :=
  (Memory.wf_iff _).2 (((Memory.wf_iff _).1 h).filter p)

theorem Memory.wf_canonical (m : List Host.Cell) : Memory.wf (Memory.canonical m) = true := by
  have anew : Memory.wf (m.foldr (fun c l => Sparse.put unlisted l c.1 c.2) []) = true := by
    induction m with
    | nil => rfl
    | cons c m ih => exact Memory.wf_put ih _ _
  unfold Memory.canonical
  split
  · assumption
  · exact anew

/-- The canonical form of a canonical memory is that memory. -/
theorem Memory.canonical_of_wf {m : List Host.Cell} (h : Memory.wf m = true) : Memory.canonical m = m := by
  simp [Memory.canonical, h]

/-- Every byte reads as before. -/
theorem Memory.get_canonical (m : List Host.Cell) (k : Nat) :
    Sparse.get unlisted (Memory.canonical m) k = Sparse.get unlisted m k := by
  have anew : Sparse.get unlisted (m.foldr (fun c l => Sparse.put unlisted l c.1 c.2) []) k = Sparse.get unlisted m k := by
    induction m with
    | nil => rfl
    | cons c m ih =>
      obtain ⟨a, v⟩ := c
      simp only [List.foldr_cons, Sparse.get_put, Sparse.get, ih]
      by_cases e : k = a <;> simp [e, eq_comm]
  unfold Memory.canonical
  split
  · rfl
  · exact anew

/-! ### Reads after writes -/

@[simp] theorem State.byte_setByte (s : State) (k j : Nat) (b : Byte) :
    (s.setByte k b).byte j = if j = k then b else s.byte j := by
  simp [State.byte, State.setByte, Sparse.get_put]

theorem State.byte_setBytes (s : State) (k : Nat) (bs : List Byte) (j : Nat) :
    (s.setBytes k bs).byte j = if k ≤ j ∧ j < k + bs.length then bs.getD (j - k) 0 else s.byte j := by
  induction bs generalizing s k with
  | nil => simp [State.setBytes, show ¬ (k ≤ j ∧ j < k) by omega]
  | cons b bs ih =>
    simp only [State.setBytes, ih, State.byte_setByte, List.length_cons]
    by_cases e : j = k
    · subst e
      have h : ¬ (j + 1 ≤ j ∧ j < j + 1 + bs.length) := by omega
      rw [if_neg h]; simp
    · by_cases h : k + 1 ≤ j ∧ j < k + 1 + bs.length
      · have h' : k ≤ j ∧ j < k + (bs.length + 1) := by omega
        have e2 : j - k = (j - (k + 1)) + 1 := by omega
        rw [if_pos h, if_pos h', e2, List.getD_cons_succ]
      · have h' : ¬ (k ≤ j ∧ j < k + (bs.length + 1)) := by omega
        rw [if_neg h, if_neg h', if_neg e]

/-- What a fold leaves alone at each of its steps, it leaves alone. -/
theorem foldl_keeps {α β γ : Type} (p : α → γ) (f : α → β → α) (h : ∀ a b, p (f a b) = p a) (l : List β) (a : α) :
    p (l.foldl f a) = p a := by
  induction l generalizing a with
  | nil => rfl
  | cons b l ih => rw [List.foldl_cons, ih, h]

/-- Words that a write covers in part change no byte but those written. -/
@[simp] theorem State.settleWords_mem (s : State) (on : Nat → Bool) : (s.settleWords on).mem = s.mem :=
  foldl_keeps State.mem _ (fun s u => by split <;> rfl) _ _

theorem State.byte_writeWords (s : State) (k : Nat) (bs : List Byte) (j : Nat) :
    (s.writeWords k bs).byte j = if k ≤ j ∧ j < k + bs.length then bs.getD (j - k) 0 else s.byte j := by
  rw [← State.byte_setBytes]
  simp [State.writeWords, State.byte]

theorem State.wf_setByte {s : State} (h : Memory.wf s.mem = true) (k : Nat) (b : Byte) : Memory.wf (s.setByte k b).mem = true :=
  Memory.wf_put h k b

theorem State.wf_setBytes {s : State} (h : Memory.wf s.mem = true) (k : Nat) (bs : List Byte) :
    Memory.wf (s.setBytes k bs).mem = true := by
  induction bs generalizing s k with
  | nil => exact h
  | cons b bs ih => exact ih (State.wf_setByte h k b) (k + 1)

theorem State.wf_writeWords {s : State} (h : Memory.wf s.mem = true) (k : Nat) (bs : List Byte) :
    Memory.wf (s.writeWords k bs).mem = true := by
  simpa [State.writeWords] using State.wf_setBytes h k bs

theorem State.wf_sramWrite {s : State} (h : Memory.wf s.mem = true) (a off : Nat) (bs : List Byte) :
    Memory.wf (s.sramWrite a off bs).mem = true := State.wf_writeWords h _ bs

end Sys2Proof.Machine
end

