-- ==== Sys2Proof/Laws/State.lean ====
section
/-! SUPPORT. What the small updates of the state leave alone: one lemma per field and update. -/

namespace Sys2Proof.Machine

@[simp] theorem State.wr_part (s : State) (k : RegKind) (i j : Nat) (v : Word) : (s.wr k i j v).part = s.part := by unfold State.wr; split <;> rfl
@[simp] theorem State.wr_pins (s : State) (k : RegKind) (i j : Nat) (v : Word) : (s.wr k i j v).pins = s.pins := by unfold State.wr; split <;> rfl
@[simp] theorem State.wr_mem (s : State) (k : RegKind) (i j : Nat) (v : Word) : (s.wr k i j v).mem = s.mem := by unfold State.wr; split <;> rfl
@[simp] theorem State.wr_poison (s : State) (k : RegKind) (i j : Nat) (v : Word) : (s.wr k i j v).poison = s.poison := by unfold State.wr; split <;> rfl
@[simp] theorem State.wr_upsets (s : State) (k : RegKind) (i j : Nat) (v : Word) : (s.wr k i j v).upsets = s.upsets := by unfold State.wr; split <;> rfl
@[simp] theorem State.wr_arr (s : State) (k : RegKind) (i j : Nat) (v : Word) : (s.wr k i j v).arr = s.arr := by unfold State.wr; split <;> rfl
@[simp] theorem State.wr_fab (s : State) (k : RegKind) (i j : Nat) (v : Word) : (s.wr k i j v).fab = s.fab := by unfold State.wr; split <;> rfl
@[simp] theorem State.wr_dram (s : State) (k : RegKind) (i j : Nat) (v : Word) : (s.wr k i j v).dram = s.dram := by unfold State.wr; split <;> rfl
@[simp] theorem State.wr_rake (s : State) (k : RegKind) (i j : Nat) (v : Word) : (s.wr k i j v).rake = s.rake := by unfold State.wr; split <;> rfl
@[simp] theorem State.wr_qm (s : State) (k : RegKind) (i j : Nat) (v : Word) : (s.wr k i j v).qm = s.qm := by unfold State.wr; split <;> rfl
@[simp] theorem State.wr_slu (s : State) (k : RegKind) (i j : Nat) (v : Word) : (s.wr k i j v).slu = s.slu := by unfold State.wr; split <;> rfl
@[simp] theorem State.wr_sluWait (s : State) (k : RegKind) (i j : Nat) (v : Word) : (s.wr k i j v).sluWait = s.sluWait := by unfold State.wr; split <;> rfl
@[simp] theorem State.wr_salt (s : State) (k : RegKind) (i j : Nat) (v : Word) : (s.wr k i j v).salt = s.salt := by unfold State.wr; split <;> rfl
@[simp] theorem State.wr_stg (s : State) (k : RegKind) (i j : Nat) (v : Word) : (s.wr k i j v).stg = s.stg := by unfold State.wr; split <;> rfl
@[simp] theorem State.wr_tmp (s : State) (k : RegKind) (i j : Nat) (v : Word) : (s.wr k i j v).tmp = s.tmp := by unfold State.wr; split <;> rfl
@[simp] theorem State.wr_hmk (s : State) (k : RegKind) (i j : Nat) (v : Word) : (s.wr k i j v).hmk = s.hmk := by unfold State.wr; split <;> rfl
@[simp] theorem State.wr_spare (s : State) (k : RegKind) (i j : Nat) (v : Word) : (s.wr k i j v).spare = s.spare := by unfold State.wr; split <;> rfl
@[simp] theorem State.wr_pwr (s : State) (k : RegKind) (i j : Nat) (v : Word) : (s.wr k i j v).pwr = s.pwr := by unfold State.wr; split <;> rfl
@[simp] theorem State.wr_clk (s : State) (k : RegKind) (i j : Nat) (v : Word) : (s.wr k i j v).clk = s.clk := by unfold State.wr; split <;> rfl
@[simp] theorem State.wr_start (s : State) (k : RegKind) (i j : Nat) (v : Word) : (s.wr k i j v).start = s.start := by unfold State.wr; split <;> rfl
@[simp] theorem State.wr_i2c (s : State) (k : RegKind) (i j : Nat) (v : Word) : (s.wr k i j v).i2c = s.i2c := by unfold State.wr; split <;> rfl
@[simp] theorem State.wr_host (s : State) (k : RegKind) (i j : Nat) (v : Word) : (s.wr k i j v).host = s.host := by unfold State.wr; split <;> rfl
@[simp] theorem State.wr_evt (s : State) (k : RegKind) (i j : Nat) (v : Word) : (s.wr k i j v).evt = s.evt := by unfold State.wr; split <;> rfl
@[simp] theorem State.wr_obs (s : State) (k : RegKind) (i j : Nat) (v : Word) : (s.wr k i j v).obs = s.obs := by unfold State.wr; split <;> rfl
@[simp] theorem State.wr_free (s : State) (k : RegKind) (i j : Nat) (v : Word) : (s.wr k i j v).free = s.free := by unfold State.wr; split <;> rfl
@[simp] theorem State.wr_cycle (s : State) (k : RegKind) (i j : Nat) (v : Word) : (s.wr k i j v).cycle = s.cycle := by unfold State.wr; split <;> rfl
@[simp] theorem State.wr_compl (s : State) (k : RegKind) (i j : Nat) (v : Word) : (s.wr k i j v).compl = s.compl := by unfold State.wr; split <;> rfl
@[simp] theorem State.wr_pending (s : State) (k : RegKind) (i j : Nat) (v : Word) : (s.wr k i j v).pending = s.pending := by unfold State.wr; split <;> rfl

@[simp] theorem State.setFld_part (s : State) (f : Fld) (i j v : Nat) : (s.setFld f i j v).part = s.part := by simp [State.setFld]
@[simp] theorem State.setFld_pins (s : State) (f : Fld) (i j v : Nat) : (s.setFld f i j v).pins = s.pins := by simp [State.setFld]
@[simp] theorem State.setFld_mem (s : State) (f : Fld) (i j v : Nat) : (s.setFld f i j v).mem = s.mem := by simp [State.setFld]
@[simp] theorem State.setFld_poison (s : State) (f : Fld) (i j v : Nat) : (s.setFld f i j v).poison = s.poison := by simp [State.setFld]
@[simp] theorem State.setFld_upsets (s : State) (f : Fld) (i j v : Nat) : (s.setFld f i j v).upsets = s.upsets := by simp [State.setFld]
@[simp] theorem State.setFld_arr (s : State) (f : Fld) (i j v : Nat) : (s.setFld f i j v).arr = s.arr := by simp [State.setFld]
@[simp] theorem State.setFld_fab (s : State) (f : Fld) (i j v : Nat) : (s.setFld f i j v).fab = s.fab := by simp [State.setFld]
@[simp] theorem State.setFld_dram (s : State) (f : Fld) (i j v : Nat) : (s.setFld f i j v).dram = s.dram := by simp [State.setFld]
@[simp] theorem State.setFld_rake (s : State) (f : Fld) (i j v : Nat) : (s.setFld f i j v).rake = s.rake := by simp [State.setFld]
@[simp] theorem State.setFld_qm (s : State) (f : Fld) (i j v : Nat) : (s.setFld f i j v).qm = s.qm := by simp [State.setFld]
@[simp] theorem State.setFld_slu (s : State) (f : Fld) (i j v : Nat) : (s.setFld f i j v).slu = s.slu := by simp [State.setFld]
@[simp] theorem State.setFld_sluWait (s : State) (f : Fld) (i j v : Nat) : (s.setFld f i j v).sluWait = s.sluWait := by simp [State.setFld]
@[simp] theorem State.setFld_salt (s : State) (f : Fld) (i j v : Nat) : (s.setFld f i j v).salt = s.salt := by simp [State.setFld]
@[simp] theorem State.setFld_stg (s : State) (f : Fld) (i j v : Nat) : (s.setFld f i j v).stg = s.stg := by simp [State.setFld]
@[simp] theorem State.setFld_tmp (s : State) (f : Fld) (i j v : Nat) : (s.setFld f i j v).tmp = s.tmp := by simp [State.setFld]
@[simp] theorem State.setFld_hmk (s : State) (f : Fld) (i j v : Nat) : (s.setFld f i j v).hmk = s.hmk := by simp [State.setFld]
@[simp] theorem State.setFld_spare (s : State) (f : Fld) (i j v : Nat) : (s.setFld f i j v).spare = s.spare := by simp [State.setFld]
@[simp] theorem State.setFld_pwr (s : State) (f : Fld) (i j v : Nat) : (s.setFld f i j v).pwr = s.pwr := by simp [State.setFld]
@[simp] theorem State.setFld_clk (s : State) (f : Fld) (i j v : Nat) : (s.setFld f i j v).clk = s.clk := by simp [State.setFld]
@[simp] theorem State.setFld_start (s : State) (f : Fld) (i j v : Nat) : (s.setFld f i j v).start = s.start := by simp [State.setFld]
@[simp] theorem State.setFld_i2c (s : State) (f : Fld) (i j v : Nat) : (s.setFld f i j v).i2c = s.i2c := by simp [State.setFld]
@[simp] theorem State.setFld_host (s : State) (f : Fld) (i j v : Nat) : (s.setFld f i j v).host = s.host := by simp [State.setFld]
@[simp] theorem State.setFld_evt (s : State) (f : Fld) (i j v : Nat) : (s.setFld f i j v).evt = s.evt := by simp [State.setFld]
@[simp] theorem State.setFld_obs (s : State) (f : Fld) (i j v : Nat) : (s.setFld f i j v).obs = s.obs := by simp [State.setFld]
@[simp] theorem State.setFld_free (s : State) (f : Fld) (i j v : Nat) : (s.setFld f i j v).free = s.free := by simp [State.setFld]
@[simp] theorem State.setFld_cycle (s : State) (f : Fld) (i j v : Nat) : (s.setFld f i j v).cycle = s.cycle := by simp [State.setFld]
@[simp] theorem State.setFld_compl (s : State) (f : Fld) (i j v : Nat) : (s.setFld f i j v).compl = s.compl := by simp [State.setFld]
@[simp] theorem State.setFld_pending (s : State) (f : Fld) (i j v : Nat) : (s.setFld f i j v).pending = s.pending := by simp [State.setFld]

@[simp] theorem State.sat_part (s : State) (f : Fld) (i j v : Nat) : (s.sat f i j v).part = s.part := by unfold State.sat; split <;> simp
@[simp] theorem State.sat_pins (s : State) (f : Fld) (i j v : Nat) : (s.sat f i j v).pins = s.pins := by unfold State.sat; split <;> simp
@[simp] theorem State.sat_mem (s : State) (f : Fld) (i j v : Nat) : (s.sat f i j v).mem = s.mem := by unfold State.sat; split <;> simp
@[simp] theorem State.sat_poison (s : State) (f : Fld) (i j v : Nat) : (s.sat f i j v).poison = s.poison := by unfold State.sat; split <;> simp
@[simp] theorem State.sat_upsets (s : State) (f : Fld) (i j v : Nat) : (s.sat f i j v).upsets = s.upsets := by unfold State.sat; split <;> simp
@[simp] theorem State.sat_arr (s : State) (f : Fld) (i j v : Nat) : (s.sat f i j v).arr = s.arr := by unfold State.sat; split <;> simp
@[simp] theorem State.sat_fab (s : State) (f : Fld) (i j v : Nat) : (s.sat f i j v).fab = s.fab := by unfold State.sat; split <;> simp
@[simp] theorem State.sat_dram (s : State) (f : Fld) (i j v : Nat) : (s.sat f i j v).dram = s.dram := by unfold State.sat; split <;> simp
@[simp] theorem State.sat_rake (s : State) (f : Fld) (i j v : Nat) : (s.sat f i j v).rake = s.rake := by unfold State.sat; split <;> simp
@[simp] theorem State.sat_qm (s : State) (f : Fld) (i j v : Nat) : (s.sat f i j v).qm = s.qm := by unfold State.sat; split <;> simp
@[simp] theorem State.sat_slu (s : State) (f : Fld) (i j v : Nat) : (s.sat f i j v).slu = s.slu := by unfold State.sat; split <;> simp
@[simp] theorem State.sat_sluWait (s : State) (f : Fld) (i j v : Nat) : (s.sat f i j v).sluWait = s.sluWait := by unfold State.sat; split <;> simp
@[simp] theorem State.sat_salt (s : State) (f : Fld) (i j v : Nat) : (s.sat f i j v).salt = s.salt := by unfold State.sat; split <;> simp
@[simp] theorem State.sat_stg (s : State) (f : Fld) (i j v : Nat) : (s.sat f i j v).stg = s.stg := by unfold State.sat; split <;> simp
@[simp] theorem State.sat_tmp (s : State) (f : Fld) (i j v : Nat) : (s.sat f i j v).tmp = s.tmp := by unfold State.sat; split <;> simp
@[simp] theorem State.sat_hmk (s : State) (f : Fld) (i j v : Nat) : (s.sat f i j v).hmk = s.hmk := by unfold State.sat; split <;> simp
@[simp] theorem State.sat_spare (s : State) (f : Fld) (i j v : Nat) : (s.sat f i j v).spare = s.spare := by unfold State.sat; split <;> simp
@[simp] theorem State.sat_pwr (s : State) (f : Fld) (i j v : Nat) : (s.sat f i j v).pwr = s.pwr := by unfold State.sat; split <;> simp
@[simp] theorem State.sat_clk (s : State) (f : Fld) (i j v : Nat) : (s.sat f i j v).clk = s.clk := by unfold State.sat; split <;> simp
@[simp] theorem State.sat_start (s : State) (f : Fld) (i j v : Nat) : (s.sat f i j v).start = s.start := by unfold State.sat; split <;> simp
@[simp] theorem State.sat_i2c (s : State) (f : Fld) (i j v : Nat) : (s.sat f i j v).i2c = s.i2c := by unfold State.sat; split <;> simp
@[simp] theorem State.sat_host (s : State) (f : Fld) (i j v : Nat) : (s.sat f i j v).host = s.host := by unfold State.sat; split <;> simp
@[simp] theorem State.sat_evt (s : State) (f : Fld) (i j v : Nat) : (s.sat f i j v).evt = s.evt := by unfold State.sat; split <;> simp
@[simp] theorem State.sat_obs (s : State) (f : Fld) (i j v : Nat) : (s.sat f i j v).obs = s.obs := by unfold State.sat; split <;> simp
@[simp] theorem State.sat_free (s : State) (f : Fld) (i j v : Nat) : (s.sat f i j v).free = s.free := by unfold State.sat; split <;> simp
@[simp] theorem State.sat_cycle (s : State) (f : Fld) (i j v : Nat) : (s.sat f i j v).cycle = s.cycle := by unfold State.sat; split <;> simp
@[simp] theorem State.sat_compl (s : State) (f : Fld) (i j v : Nat) : (s.sat f i j v).compl = s.compl := by unfold State.sat; split <;> simp
@[simp] theorem State.sat_pending (s : State) (f : Fld) (i j v : Nat) : (s.sat f i j v).pending = s.pending := by unfold State.sat; split <;> simp

@[simp] theorem State.bump_part (s : State) (f : Fld) (i j v : Nat) : (s.bump f i j v).part = s.part := by unfold State.bump; split <;> simp
@[simp] theorem State.bump_pins (s : State) (f : Fld) (i j v : Nat) : (s.bump f i j v).pins = s.pins := by unfold State.bump; split <;> simp
@[simp] theorem State.bump_mem (s : State) (f : Fld) (i j v : Nat) : (s.bump f i j v).mem = s.mem := by unfold State.bump; split <;> simp
@[simp] theorem State.bump_poison (s : State) (f : Fld) (i j v : Nat) : (s.bump f i j v).poison = s.poison := by unfold State.bump; split <;> simp
@[simp] theorem State.bump_upsets (s : State) (f : Fld) (i j v : Nat) : (s.bump f i j v).upsets = s.upsets := by unfold State.bump; split <;> simp
@[simp] theorem State.bump_arr (s : State) (f : Fld) (i j v : Nat) : (s.bump f i j v).arr = s.arr := by unfold State.bump; split <;> simp
@[simp] theorem State.bump_fab (s : State) (f : Fld) (i j v : Nat) : (s.bump f i j v).fab = s.fab := by unfold State.bump; split <;> simp
@[simp] theorem State.bump_dram (s : State) (f : Fld) (i j v : Nat) : (s.bump f i j v).dram = s.dram := by unfold State.bump; split <;> simp
@[simp] theorem State.bump_rake (s : State) (f : Fld) (i j v : Nat) : (s.bump f i j v).rake = s.rake := by unfold State.bump; split <;> simp
@[simp] theorem State.bump_qm (s : State) (f : Fld) (i j v : Nat) : (s.bump f i j v).qm = s.qm := by unfold State.bump; split <;> simp
@[simp] theorem State.bump_slu (s : State) (f : Fld) (i j v : Nat) : (s.bump f i j v).slu = s.slu := by unfold State.bump; split <;> simp
@[simp] theorem State.bump_sluWait (s : State) (f : Fld) (i j v : Nat) : (s.bump f i j v).sluWait = s.sluWait := by unfold State.bump; split <;> simp
@[simp] theorem State.bump_salt (s : State) (f : Fld) (i j v : Nat) : (s.bump f i j v).salt = s.salt := by unfold State.bump; split <;> simp
@[simp] theorem State.bump_stg (s : State) (f : Fld) (i j v : Nat) : (s.bump f i j v).stg = s.stg := by unfold State.bump; split <;> simp
@[simp] theorem State.bump_tmp (s : State) (f : Fld) (i j v : Nat) : (s.bump f i j v).tmp = s.tmp := by unfold State.bump; split <;> simp
@[simp] theorem State.bump_hmk (s : State) (f : Fld) (i j v : Nat) : (s.bump f i j v).hmk = s.hmk := by unfold State.bump; split <;> simp
@[simp] theorem State.bump_spare (s : State) (f : Fld) (i j v : Nat) : (s.bump f i j v).spare = s.spare := by unfold State.bump; split <;> simp
@[simp] theorem State.bump_pwr (s : State) (f : Fld) (i j v : Nat) : (s.bump f i j v).pwr = s.pwr := by unfold State.bump; split <;> simp
@[simp] theorem State.bump_clk (s : State) (f : Fld) (i j v : Nat) : (s.bump f i j v).clk = s.clk := by unfold State.bump; split <;> simp
@[simp] theorem State.bump_start (s : State) (f : Fld) (i j v : Nat) : (s.bump f i j v).start = s.start := by unfold State.bump; split <;> simp
@[simp] theorem State.bump_i2c (s : State) (f : Fld) (i j v : Nat) : (s.bump f i j v).i2c = s.i2c := by unfold State.bump; split <;> simp
@[simp] theorem State.bump_host (s : State) (f : Fld) (i j v : Nat) : (s.bump f i j v).host = s.host := by unfold State.bump; split <;> simp
@[simp] theorem State.bump_evt (s : State) (f : Fld) (i j v : Nat) : (s.bump f i j v).evt = s.evt := by unfold State.bump; split <;> simp
@[simp] theorem State.bump_obs (s : State) (f : Fld) (i j v : Nat) : (s.bump f i j v).obs = s.obs := by unfold State.bump; split <;> simp
@[simp] theorem State.bump_free (s : State) (f : Fld) (i j v : Nat) : (s.bump f i j v).free = s.free := by unfold State.bump; split <;> simp
@[simp] theorem State.bump_cycle (s : State) (f : Fld) (i j v : Nat) : (s.bump f i j v).cycle = s.cycle := by unfold State.bump; split <;> simp
@[simp] theorem State.bump_compl (s : State) (f : Fld) (i j v : Nat) : (s.bump f i j v).compl = s.compl := by unfold State.bump; split <;> simp
@[simp] theorem State.bump_pending (s : State) (f : Fld) (i j v : Nat) : (s.bump f i j v).pending = s.pending := by unfold State.bump; split <;> simp

@[simp] theorem State.setByte_part (s : State) (k : Nat) (b : Byte) : (s.setByte k b).part = s.part := rfl
@[simp] theorem State.setByte_pins (s : State) (k : Nat) (b : Byte) : (s.setByte k b).pins = s.pins := rfl
@[simp] theorem State.setByte_regs (s : State) (k : Nat) (b : Byte) : (s.setByte k b).regs = s.regs := rfl
@[simp] theorem State.setByte_poison (s : State) (k : Nat) (b : Byte) : (s.setByte k b).poison = s.poison := rfl
@[simp] theorem State.setByte_upsets (s : State) (k : Nat) (b : Byte) : (s.setByte k b).upsets = s.upsets := rfl
@[simp] theorem State.setByte_arr (s : State) (k : Nat) (b : Byte) : (s.setByte k b).arr = s.arr := rfl
@[simp] theorem State.setByte_fab (s : State) (k : Nat) (b : Byte) : (s.setByte k b).fab = s.fab := rfl
@[simp] theorem State.setByte_dram (s : State) (k : Nat) (b : Byte) : (s.setByte k b).dram = s.dram := rfl
@[simp] theorem State.setByte_rake (s : State) (k : Nat) (b : Byte) : (s.setByte k b).rake = s.rake := rfl
@[simp] theorem State.setByte_qm (s : State) (k : Nat) (b : Byte) : (s.setByte k b).qm = s.qm := rfl
@[simp] theorem State.setByte_slu (s : State) (k : Nat) (b : Byte) : (s.setByte k b).slu = s.slu := rfl
@[simp] theorem State.setByte_sluWait (s : State) (k : Nat) (b : Byte) : (s.setByte k b).sluWait = s.sluWait := rfl
@[simp] theorem State.setByte_salt (s : State) (k : Nat) (b : Byte) : (s.setByte k b).salt = s.salt := rfl
@[simp] theorem State.setByte_stg (s : State) (k : Nat) (b : Byte) : (s.setByte k b).stg = s.stg := rfl
@[simp] theorem State.setByte_tmp (s : State) (k : Nat) (b : Byte) : (s.setByte k b).tmp = s.tmp := rfl
@[simp] theorem State.setByte_hmk (s : State) (k : Nat) (b : Byte) : (s.setByte k b).hmk = s.hmk := rfl
@[simp] theorem State.setByte_spare (s : State) (k : Nat) (b : Byte) : (s.setByte k b).spare = s.spare := rfl
@[simp] theorem State.setByte_pwr (s : State) (k : Nat) (b : Byte) : (s.setByte k b).pwr = s.pwr := rfl
@[simp] theorem State.setByte_clk (s : State) (k : Nat) (b : Byte) : (s.setByte k b).clk = s.clk := rfl
@[simp] theorem State.setByte_start (s : State) (k : Nat) (b : Byte) : (s.setByte k b).start = s.start := rfl
@[simp] theorem State.setByte_i2c (s : State) (k : Nat) (b : Byte) : (s.setByte k b).i2c = s.i2c := rfl
@[simp] theorem State.setByte_host (s : State) (k : Nat) (b : Byte) : (s.setByte k b).host = s.host := rfl
@[simp] theorem State.setByte_evt (s : State) (k : Nat) (b : Byte) : (s.setByte k b).evt = s.evt := rfl
@[simp] theorem State.setByte_obs (s : State) (k : Nat) (b : Byte) : (s.setByte k b).obs = s.obs := rfl
@[simp] theorem State.setByte_free (s : State) (k : Nat) (b : Byte) : (s.setByte k b).free = s.free := rfl
@[simp] theorem State.setByte_cycle (s : State) (k : Nat) (b : Byte) : (s.setByte k b).cycle = s.cycle := rfl
@[simp] theorem State.setByte_compl (s : State) (k : Nat) (b : Byte) : (s.setByte k b).compl = s.compl := rfl
@[simp] theorem State.setByte_pending (s : State) (k : Nat) (b : Byte) : (s.setByte k b).pending = s.pending := rfl

@[simp] theorem State.setPoison_part (s : State) (k : Nat) : (s.setPoison k).part = s.part := rfl
@[simp] theorem State.setPoison_pins (s : State) (k : Nat) : (s.setPoison k).pins = s.pins := rfl
@[simp] theorem State.setPoison_regs (s : State) (k : Nat) : (s.setPoison k).regs = s.regs := rfl
@[simp] theorem State.setPoison_mem (s : State) (k : Nat) : (s.setPoison k).mem = s.mem := rfl
@[simp] theorem State.setPoison_upsets (s : State) (k : Nat) : (s.setPoison k).upsets = s.upsets := rfl
@[simp] theorem State.setPoison_arr (s : State) (k : Nat) : (s.setPoison k).arr = s.arr := rfl
@[simp] theorem State.setPoison_fab (s : State) (k : Nat) : (s.setPoison k).fab = s.fab := rfl
@[simp] theorem State.setPoison_dram (s : State) (k : Nat) : (s.setPoison k).dram = s.dram := rfl
@[simp] theorem State.setPoison_rake (s : State) (k : Nat) : (s.setPoison k).rake = s.rake := rfl
@[simp] theorem State.setPoison_qm (s : State) (k : Nat) : (s.setPoison k).qm = s.qm := rfl
@[simp] theorem State.setPoison_slu (s : State) (k : Nat) : (s.setPoison k).slu = s.slu := rfl
@[simp] theorem State.setPoison_sluWait (s : State) (k : Nat) : (s.setPoison k).sluWait = s.sluWait := rfl
@[simp] theorem State.setPoison_salt (s : State) (k : Nat) : (s.setPoison k).salt = s.salt := rfl
@[simp] theorem State.setPoison_stg (s : State) (k : Nat) : (s.setPoison k).stg = s.stg := rfl
@[simp] theorem State.setPoison_tmp (s : State) (k : Nat) : (s.setPoison k).tmp = s.tmp := rfl
@[simp] theorem State.setPoison_hmk (s : State) (k : Nat) : (s.setPoison k).hmk = s.hmk := rfl
@[simp] theorem State.setPoison_spare (s : State) (k : Nat) : (s.setPoison k).spare = s.spare := rfl
@[simp] theorem State.setPoison_pwr (s : State) (k : Nat) : (s.setPoison k).pwr = s.pwr := rfl
@[simp] theorem State.setPoison_clk (s : State) (k : Nat) : (s.setPoison k).clk = s.clk := rfl
@[simp] theorem State.setPoison_start (s : State) (k : Nat) : (s.setPoison k).start = s.start := rfl
@[simp] theorem State.setPoison_i2c (s : State) (k : Nat) : (s.setPoison k).i2c = s.i2c := rfl
@[simp] theorem State.setPoison_host (s : State) (k : Nat) : (s.setPoison k).host = s.host := rfl
@[simp] theorem State.setPoison_evt (s : State) (k : Nat) : (s.setPoison k).evt = s.evt := rfl
@[simp] theorem State.setPoison_obs (s : State) (k : Nat) : (s.setPoison k).obs = s.obs := rfl
@[simp] theorem State.setPoison_free (s : State) (k : Nat) : (s.setPoison k).free = s.free := rfl
@[simp] theorem State.setPoison_cycle (s : State) (k : Nat) : (s.setPoison k).cycle = s.cycle := rfl
@[simp] theorem State.setPoison_compl (s : State) (k : Nat) : (s.setPoison k).compl = s.compl := rfl
@[simp] theorem State.setPoison_pending (s : State) (k : Nat) : (s.setPoison k).pending = s.pending := rfl

@[simp] theorem State.clearPoison_part (s : State) (k : Nat) : (s.clearPoison k).part = s.part := rfl
@[simp] theorem State.clearPoison_pins (s : State) (k : Nat) : (s.clearPoison k).pins = s.pins := rfl
@[simp] theorem State.clearPoison_regs (s : State) (k : Nat) : (s.clearPoison k).regs = s.regs := rfl
@[simp] theorem State.clearPoison_mem (s : State) (k : Nat) : (s.clearPoison k).mem = s.mem := rfl
@[simp] theorem State.clearPoison_upsets (s : State) (k : Nat) : (s.clearPoison k).upsets = s.upsets := rfl
@[simp] theorem State.clearPoison_arr (s : State) (k : Nat) : (s.clearPoison k).arr = s.arr := rfl
@[simp] theorem State.clearPoison_fab (s : State) (k : Nat) : (s.clearPoison k).fab = s.fab := rfl
@[simp] theorem State.clearPoison_dram (s : State) (k : Nat) : (s.clearPoison k).dram = s.dram := rfl
@[simp] theorem State.clearPoison_rake (s : State) (k : Nat) : (s.clearPoison k).rake = s.rake := rfl
@[simp] theorem State.clearPoison_qm (s : State) (k : Nat) : (s.clearPoison k).qm = s.qm := rfl
@[simp] theorem State.clearPoison_slu (s : State) (k : Nat) : (s.clearPoison k).slu = s.slu := rfl
@[simp] theorem State.clearPoison_sluWait (s : State) (k : Nat) : (s.clearPoison k).sluWait = s.sluWait := rfl
@[simp] theorem State.clearPoison_salt (s : State) (k : Nat) : (s.clearPoison k).salt = s.salt := rfl
@[simp] theorem State.clearPoison_stg (s : State) (k : Nat) : (s.clearPoison k).stg = s.stg := rfl
@[simp] theorem State.clearPoison_tmp (s : State) (k : Nat) : (s.clearPoison k).tmp = s.tmp := rfl
@[simp] theorem State.clearPoison_hmk (s : State) (k : Nat) : (s.clearPoison k).hmk = s.hmk := rfl
@[simp] theorem State.clearPoison_spare (s : State) (k : Nat) : (s.clearPoison k).spare = s.spare := rfl
@[simp] theorem State.clearPoison_pwr (s : State) (k : Nat) : (s.clearPoison k).pwr = s.pwr := rfl
@[simp] theorem State.clearPoison_clk (s : State) (k : Nat) : (s.clearPoison k).clk = s.clk := rfl
@[simp] theorem State.clearPoison_start (s : State) (k : Nat) : (s.clearPoison k).start = s.start := rfl
@[simp] theorem State.clearPoison_i2c (s : State) (k : Nat) : (s.clearPoison k).i2c = s.i2c := rfl
@[simp] theorem State.clearPoison_host (s : State) (k : Nat) : (s.clearPoison k).host = s.host := rfl
@[simp] theorem State.clearPoison_evt (s : State) (k : Nat) : (s.clearPoison k).evt = s.evt := rfl
@[simp] theorem State.clearPoison_obs (s : State) (k : Nat) : (s.clearPoison k).obs = s.obs := rfl
@[simp] theorem State.clearPoison_free (s : State) (k : Nat) : (s.clearPoison k).free = s.free := rfl
@[simp] theorem State.clearPoison_cycle (s : State) (k : Nat) : (s.clearPoison k).cycle = s.cycle := rfl
@[simp] theorem State.clearPoison_compl (s : State) (k : Nat) : (s.clearPoison k).compl = s.compl := rfl
@[simp] theorem State.clearPoison_pending (s : State) (k : Nat) : (s.clearPoison k).pending = s.pending := rfl

@[simp] theorem State.setArray_part (s : State) (a : Nat) (x : Arr) : (s.setArray a x).part = s.part := rfl
@[simp] theorem State.setArray_pins (s : State) (a : Nat) (x : Arr) : (s.setArray a x).pins = s.pins := rfl
@[simp] theorem State.setArray_regs (s : State) (a : Nat) (x : Arr) : (s.setArray a x).regs = s.regs := rfl
@[simp] theorem State.setArray_mem (s : State) (a : Nat) (x : Arr) : (s.setArray a x).mem = s.mem := rfl
@[simp] theorem State.setArray_poison (s : State) (a : Nat) (x : Arr) : (s.setArray a x).poison = s.poison := rfl
@[simp] theorem State.setArray_upsets (s : State) (a : Nat) (x : Arr) : (s.setArray a x).upsets = s.upsets := rfl
@[simp] theorem State.setArray_fab (s : State) (a : Nat) (x : Arr) : (s.setArray a x).fab = s.fab := rfl
@[simp] theorem State.setArray_dram (s : State) (a : Nat) (x : Arr) : (s.setArray a x).dram = s.dram := rfl
@[simp] theorem State.setArray_rake (s : State) (a : Nat) (x : Arr) : (s.setArray a x).rake = s.rake := rfl
@[simp] theorem State.setArray_qm (s : State) (a : Nat) (x : Arr) : (s.setArray a x).qm = s.qm := rfl
@[simp] theorem State.setArray_slu (s : State) (a : Nat) (x : Arr) : (s.setArray a x).slu = s.slu := rfl
@[simp] theorem State.setArray_sluWait (s : State) (a : Nat) (x : Arr) : (s.setArray a x).sluWait = s.sluWait := rfl
@[simp] theorem State.setArray_salt (s : State) (a : Nat) (x : Arr) : (s.setArray a x).salt = s.salt := rfl
@[simp] theorem State.setArray_stg (s : State) (a : Nat) (x : Arr) : (s.setArray a x).stg = s.stg := rfl
@[simp] theorem State.setArray_tmp (s : State) (a : Nat) (x : Arr) : (s.setArray a x).tmp = s.tmp := rfl
@[simp] theorem State.setArray_hmk (s : State) (a : Nat) (x : Arr) : (s.setArray a x).hmk = s.hmk := rfl
@[simp] theorem State.setArray_spare (s : State) (a : Nat) (x : Arr) : (s.setArray a x).spare = s.spare := rfl
@[simp] theorem State.setArray_pwr (s : State) (a : Nat) (x : Arr) : (s.setArray a x).pwr = s.pwr := rfl
@[simp] theorem State.setArray_clk (s : State) (a : Nat) (x : Arr) : (s.setArray a x).clk = s.clk := rfl
@[simp] theorem State.setArray_start (s : State) (a : Nat) (x : Arr) : (s.setArray a x).start = s.start := rfl
@[simp] theorem State.setArray_i2c (s : State) (a : Nat) (x : Arr) : (s.setArray a x).i2c = s.i2c := rfl
@[simp] theorem State.setArray_host (s : State) (a : Nat) (x : Arr) : (s.setArray a x).host = s.host := rfl
@[simp] theorem State.setArray_evt (s : State) (a : Nat) (x : Arr) : (s.setArray a x).evt = s.evt := rfl
@[simp] theorem State.setArray_obs (s : State) (a : Nat) (x : Arr) : (s.setArray a x).obs = s.obs := rfl
@[simp] theorem State.setArray_free (s : State) (a : Nat) (x : Arr) : (s.setArray a x).free = s.free := rfl
@[simp] theorem State.setArray_cycle (s : State) (a : Nat) (x : Arr) : (s.setArray a x).cycle = s.cycle := rfl
@[simp] theorem State.setArray_compl (s : State) (a : Nat) (x : Arr) : (s.setArray a x).compl = s.compl := rfl
@[simp] theorem State.setArray_pending (s : State) (a : Nat) (x : Arr) : (s.setArray a x).pending = s.pending := rfl

@[simp] theorem State.mapArray_part (s : State) (a : Nat) (f : Arr → Arr) : (s.mapArray a f).part = s.part := rfl
@[simp] theorem State.mapArray_pins (s : State) (a : Nat) (f : Arr → Arr) : (s.mapArray a f).pins = s.pins := rfl
@[simp] theorem State.mapArray_regs (s : State) (a : Nat) (f : Arr → Arr) : (s.mapArray a f).regs = s.regs := rfl
@[simp] theorem State.mapArray_mem (s : State) (a : Nat) (f : Arr → Arr) : (s.mapArray a f).mem = s.mem := rfl
@[simp] theorem State.mapArray_poison (s : State) (a : Nat) (f : Arr → Arr) : (s.mapArray a f).poison = s.poison := rfl
@[simp] theorem State.mapArray_upsets (s : State) (a : Nat) (f : Arr → Arr) : (s.mapArray a f).upsets = s.upsets := rfl
@[simp] theorem State.mapArray_fab (s : State) (a : Nat) (f : Arr → Arr) : (s.mapArray a f).fab = s.fab := rfl
@[simp] theorem State.mapArray_dram (s : State) (a : Nat) (f : Arr → Arr) : (s.mapArray a f).dram = s.dram := rfl
@[simp] theorem State.mapArray_rake (s : State) (a : Nat) (f : Arr → Arr) : (s.mapArray a f).rake = s.rake := rfl
@[simp] theorem State.mapArray_qm (s : State) (a : Nat) (f : Arr → Arr) : (s.mapArray a f).qm = s.qm := rfl
@[simp] theorem State.mapArray_slu (s : State) (a : Nat) (f : Arr → Arr) : (s.mapArray a f).slu = s.slu := rfl
@[simp] theorem State.mapArray_sluWait (s : State) (a : Nat) (f : Arr → Arr) : (s.mapArray a f).sluWait = s.sluWait := rfl
@[simp] theorem State.mapArray_salt (s : State) (a : Nat) (f : Arr → Arr) : (s.mapArray a f).salt = s.salt := rfl
@[simp] theorem State.mapArray_stg (s : State) (a : Nat) (f : Arr → Arr) : (s.mapArray a f).stg = s.stg := rfl
@[simp] theorem State.mapArray_tmp (s : State) (a : Nat) (f : Arr → Arr) : (s.mapArray a f).tmp = s.tmp := rfl
@[simp] theorem State.mapArray_hmk (s : State) (a : Nat) (f : Arr → Arr) : (s.mapArray a f).hmk = s.hmk := rfl
@[simp] theorem State.mapArray_spare (s : State) (a : Nat) (f : Arr → Arr) : (s.mapArray a f).spare = s.spare := rfl
@[simp] theorem State.mapArray_pwr (s : State) (a : Nat) (f : Arr → Arr) : (s.mapArray a f).pwr = s.pwr := rfl
@[simp] theorem State.mapArray_clk (s : State) (a : Nat) (f : Arr → Arr) : (s.mapArray a f).clk = s.clk := rfl
@[simp] theorem State.mapArray_start (s : State) (a : Nat) (f : Arr → Arr) : (s.mapArray a f).start = s.start := rfl
@[simp] theorem State.mapArray_i2c (s : State) (a : Nat) (f : Arr → Arr) : (s.mapArray a f).i2c = s.i2c := rfl
@[simp] theorem State.mapArray_host (s : State) (a : Nat) (f : Arr → Arr) : (s.mapArray a f).host = s.host := rfl
@[simp] theorem State.mapArray_evt (s : State) (a : Nat) (f : Arr → Arr) : (s.mapArray a f).evt = s.evt := rfl
@[simp] theorem State.mapArray_obs (s : State) (a : Nat) (f : Arr → Arr) : (s.mapArray a f).obs = s.obs := rfl
@[simp] theorem State.mapArray_free (s : State) (a : Nat) (f : Arr → Arr) : (s.mapArray a f).free = s.free := rfl
@[simp] theorem State.mapArray_cycle (s : State) (a : Nat) (f : Arr → Arr) : (s.mapArray a f).cycle = s.cycle := rfl
@[simp] theorem State.mapArray_compl (s : State) (a : Nat) (f : Arr → Arr) : (s.mapArray a f).compl = s.compl := rfl
@[simp] theorem State.mapArray_pending (s : State) (a : Nat) (f : Arr → Arr) : (s.mapArray a f).pending = s.pending := rfl

@[simp] theorem State.send_part (s : State) (r : Request) : (s.send r).part = s.part := rfl
@[simp] theorem State.send_pins (s : State) (r : Request) : (s.send r).pins = s.pins := rfl
@[simp] theorem State.send_regs (s : State) (r : Request) : (s.send r).regs = s.regs := rfl
@[simp] theorem State.send_mem (s : State) (r : Request) : (s.send r).mem = s.mem := rfl
@[simp] theorem State.send_poison (s : State) (r : Request) : (s.send r).poison = s.poison := rfl
@[simp] theorem State.send_upsets (s : State) (r : Request) : (s.send r).upsets = s.upsets := rfl
@[simp] theorem State.send_arr (s : State) (r : Request) : (s.send r).arr = s.arr := rfl
@[simp] theorem State.send_dram (s : State) (r : Request) : (s.send r).dram = s.dram := rfl
@[simp] theorem State.send_rake (s : State) (r : Request) : (s.send r).rake = s.rake := rfl
@[simp] theorem State.send_qm (s : State) (r : Request) : (s.send r).qm = s.qm := rfl
@[simp] theorem State.send_slu (s : State) (r : Request) : (s.send r).slu = s.slu := rfl
@[simp] theorem State.send_sluWait (s : State) (r : Request) : (s.send r).sluWait = s.sluWait := rfl
@[simp] theorem State.send_salt (s : State) (r : Request) : (s.send r).salt = s.salt := rfl
@[simp] theorem State.send_stg (s : State) (r : Request) : (s.send r).stg = s.stg := rfl
@[simp] theorem State.send_tmp (s : State) (r : Request) : (s.send r).tmp = s.tmp := rfl
@[simp] theorem State.send_hmk (s : State) (r : Request) : (s.send r).hmk = s.hmk := rfl
@[simp] theorem State.send_spare (s : State) (r : Request) : (s.send r).spare = s.spare := rfl
@[simp] theorem State.send_pwr (s : State) (r : Request) : (s.send r).pwr = s.pwr := rfl
@[simp] theorem State.send_clk (s : State) (r : Request) : (s.send r).clk = s.clk := rfl
@[simp] theorem State.send_start (s : State) (r : Request) : (s.send r).start = s.start := rfl
@[simp] theorem State.send_i2c (s : State) (r : Request) : (s.send r).i2c = s.i2c := rfl
@[simp] theorem State.send_host (s : State) (r : Request) : (s.send r).host = s.host := rfl
@[simp] theorem State.send_evt (s : State) (r : Request) : (s.send r).evt = s.evt := rfl
@[simp] theorem State.send_obs (s : State) (r : Request) : (s.send r).obs = s.obs := rfl
@[simp] theorem State.send_free (s : State) (r : Request) : (s.send r).free = s.free := rfl
@[simp] theorem State.send_cycle (s : State) (r : Request) : (s.send r).cycle = s.cycle := rfl
@[simp] theorem State.send_compl (s : State) (r : Request) : (s.send r).compl = s.compl := rfl
@[simp] theorem State.send_pending (s : State) (r : Request) : (s.send r).pending = s.pending := rfl

@[simp] theorem State.mapWindow_part (s : State) (f : Window → Window) : (s.mapWindow f).part = s.part := rfl
@[simp] theorem State.mapWindow_pins (s : State) (f : Window → Window) : (s.mapWindow f).pins = s.pins := rfl
@[simp] theorem State.mapWindow_regs (s : State) (f : Window → Window) : (s.mapWindow f).regs = s.regs := rfl
@[simp] theorem State.mapWindow_mem (s : State) (f : Window → Window) : (s.mapWindow f).mem = s.mem := rfl
@[simp] theorem State.mapWindow_poison (s : State) (f : Window → Window) : (s.mapWindow f).poison = s.poison := rfl
@[simp] theorem State.mapWindow_upsets (s : State) (f : Window → Window) : (s.mapWindow f).upsets = s.upsets := rfl
@[simp] theorem State.mapWindow_arr (s : State) (f : Window → Window) : (s.mapWindow f).arr = s.arr := rfl
@[simp] theorem State.mapWindow_fab (s : State) (f : Window → Window) : (s.mapWindow f).fab = s.fab := rfl
@[simp] theorem State.mapWindow_dram (s : State) (f : Window → Window) : (s.mapWindow f).dram = s.dram := rfl
@[simp] theorem State.mapWindow_rake (s : State) (f : Window → Window) : (s.mapWindow f).rake = s.rake := rfl
@[simp] theorem State.mapWindow_qm (s : State) (f : Window → Window) : (s.mapWindow f).qm = s.qm := rfl
@[simp] theorem State.mapWindow_slu (s : State) (f : Window → Window) : (s.mapWindow f).slu = s.slu := rfl
@[simp] theorem State.mapWindow_sluWait (s : State) (f : Window → Window) : (s.mapWindow f).sluWait = s.sluWait := rfl
@[simp] theorem State.mapWindow_salt (s : State) (f : Window → Window) : (s.mapWindow f).salt = s.salt := rfl
@[simp] theorem State.mapWindow_stg (s : State) (f : Window → Window) : (s.mapWindow f).stg = s.stg := rfl
@[simp] theorem State.mapWindow_tmp (s : State) (f : Window → Window) : (s.mapWindow f).tmp = s.tmp := rfl
@[simp] theorem State.mapWindow_hmk (s : State) (f : Window → Window) : (s.mapWindow f).hmk = s.hmk := rfl
@[simp] theorem State.mapWindow_spare (s : State) (f : Window → Window) : (s.mapWindow f).spare = s.spare := rfl
@[simp] theorem State.mapWindow_pwr (s : State) (f : Window → Window) : (s.mapWindow f).pwr = s.pwr := rfl
@[simp] theorem State.mapWindow_clk (s : State) (f : Window → Window) : (s.mapWindow f).clk = s.clk := rfl
@[simp] theorem State.mapWindow_start (s : State) (f : Window → Window) : (s.mapWindow f).start = s.start := rfl
@[simp] theorem State.mapWindow_i2c (s : State) (f : Window → Window) : (s.mapWindow f).i2c = s.i2c := rfl
@[simp] theorem State.mapWindow_host (s : State) (f : Window → Window) : (s.mapWindow f).host = s.host := rfl
@[simp] theorem State.mapWindow_evt (s : State) (f : Window → Window) : (s.mapWindow f).evt = s.evt := rfl
@[simp] theorem State.mapWindow_free (s : State) (f : Window → Window) : (s.mapWindow f).free = s.free := rfl
@[simp] theorem State.mapWindow_cycle (s : State) (f : Window → Window) : (s.mapWindow f).cycle = s.cycle := rfl
@[simp] theorem State.mapWindow_compl (s : State) (f : Window → Window) : (s.mapWindow f).compl = s.compl := rfl
@[simp] theorem State.mapWindow_pending (s : State) (f : Window → Window) : (s.mapWindow f).pending = s.pending := rfl

@[simp] theorem State.newVersion_part (s : State) (k : Nat) : (s.newVersion k).part = s.part := rfl
@[simp] theorem State.newVersion_pins (s : State) (k : Nat) : (s.newVersion k).pins = s.pins := rfl
@[simp] theorem State.newVersion_regs (s : State) (k : Nat) : (s.newVersion k).regs = s.regs := rfl
@[simp] theorem State.newVersion_mem (s : State) (k : Nat) : (s.newVersion k).mem = s.mem := rfl
@[simp] theorem State.newVersion_poison (s : State) (k : Nat) : (s.newVersion k).poison = s.poison := rfl
@[simp] theorem State.newVersion_upsets (s : State) (k : Nat) : (s.newVersion k).upsets = s.upsets := rfl
@[simp] theorem State.newVersion_arr (s : State) (k : Nat) : (s.newVersion k).arr = s.arr := rfl
@[simp] theorem State.newVersion_fab (s : State) (k : Nat) : (s.newVersion k).fab = s.fab := rfl
@[simp] theorem State.newVersion_dram (s : State) (k : Nat) : (s.newVersion k).dram = s.dram := rfl
@[simp] theorem State.newVersion_rake (s : State) (k : Nat) : (s.newVersion k).rake = s.rake := rfl
@[simp] theorem State.newVersion_qm (s : State) (k : Nat) : (s.newVersion k).qm = s.qm := rfl
@[simp] theorem State.newVersion_slu (s : State) (k : Nat) : (s.newVersion k).slu = s.slu := rfl
@[simp] theorem State.newVersion_sluWait (s : State) (k : Nat) : (s.newVersion k).sluWait = s.sluWait := rfl
@[simp] theorem State.newVersion_salt (s : State) (k : Nat) : (s.newVersion k).salt = s.salt := rfl
@[simp] theorem State.newVersion_stg (s : State) (k : Nat) : (s.newVersion k).stg = s.stg := rfl
@[simp] theorem State.newVersion_tmp (s : State) (k : Nat) : (s.newVersion k).tmp = s.tmp := rfl
@[simp] theorem State.newVersion_spare (s : State) (k : Nat) : (s.newVersion k).spare = s.spare := rfl
@[simp] theorem State.newVersion_pwr (s : State) (k : Nat) : (s.newVersion k).pwr = s.pwr := rfl
@[simp] theorem State.newVersion_clk (s : State) (k : Nat) : (s.newVersion k).clk = s.clk := rfl
@[simp] theorem State.newVersion_start (s : State) (k : Nat) : (s.newVersion k).start = s.start := rfl
@[simp] theorem State.newVersion_i2c (s : State) (k : Nat) : (s.newVersion k).i2c = s.i2c := rfl
@[simp] theorem State.newVersion_host (s : State) (k : Nat) : (s.newVersion k).host = s.host := rfl
@[simp] theorem State.newVersion_evt (s : State) (k : Nat) : (s.newVersion k).evt = s.evt := rfl
@[simp] theorem State.newVersion_obs (s : State) (k : Nat) : (s.newVersion k).obs = s.obs := rfl
@[simp] theorem State.newVersion_free (s : State) (k : Nat) : (s.newVersion k).free = s.free := rfl
@[simp] theorem State.newVersion_cycle (s : State) (k : Nat) : (s.newVersion k).cycle = s.cycle := rfl
@[simp] theorem State.newVersion_compl (s : State) (k : Nat) : (s.newVersion k).compl = s.compl := rfl
@[simp] theorem State.newVersion_pending (s : State) (k : Nat) : (s.newVersion k).pending = s.pending := rfl

@[simp] theorem State.alarm_part (s : State) (n : Nat) : (s.alarm n).part = s.part := rfl
@[simp] theorem State.alarm_pins (s : State) (n : Nat) : (s.alarm n).pins = s.pins := rfl
@[simp] theorem State.alarm_regs (s : State) (n : Nat) : (s.alarm n).regs = s.regs := rfl
@[simp] theorem State.alarm_mem (s : State) (n : Nat) : (s.alarm n).mem = s.mem := rfl
@[simp] theorem State.alarm_poison (s : State) (n : Nat) : (s.alarm n).poison = s.poison := rfl
@[simp] theorem State.alarm_upsets (s : State) (n : Nat) : (s.alarm n).upsets = s.upsets := rfl
@[simp] theorem State.alarm_arr (s : State) (n : Nat) : (s.alarm n).arr = s.arr := rfl
@[simp] theorem State.alarm_fab (s : State) (n : Nat) : (s.alarm n).fab = s.fab := rfl
@[simp] theorem State.alarm_dram (s : State) (n : Nat) : (s.alarm n).dram = s.dram := rfl
@[simp] theorem State.alarm_rake (s : State) (n : Nat) : (s.alarm n).rake = s.rake := rfl
@[simp] theorem State.alarm_qm (s : State) (n : Nat) : (s.alarm n).qm = s.qm := rfl
@[simp] theorem State.alarm_slu (s : State) (n : Nat) : (s.alarm n).slu = s.slu := rfl
@[simp] theorem State.alarm_sluWait (s : State) (n : Nat) : (s.alarm n).sluWait = s.sluWait := rfl
@[simp] theorem State.alarm_salt (s : State) (n : Nat) : (s.alarm n).salt = s.salt := rfl
@[simp] theorem State.alarm_stg (s : State) (n : Nat) : (s.alarm n).stg = s.stg := rfl
@[simp] theorem State.alarm_tmp (s : State) (n : Nat) : (s.alarm n).tmp = s.tmp := rfl
@[simp] theorem State.alarm_hmk (s : State) (n : Nat) : (s.alarm n).hmk = s.hmk := rfl
@[simp] theorem State.alarm_spare (s : State) (n : Nat) : (s.alarm n).spare = s.spare := rfl
@[simp] theorem State.alarm_pwr (s : State) (n : Nat) : (s.alarm n).pwr = s.pwr := rfl
@[simp] theorem State.alarm_clk (s : State) (n : Nat) : (s.alarm n).clk = s.clk := rfl
@[simp] theorem State.alarm_start (s : State) (n : Nat) : (s.alarm n).start = s.start := rfl
@[simp] theorem State.alarm_host (s : State) (n : Nat) : (s.alarm n).host = s.host := rfl
@[simp] theorem State.alarm_evt (s : State) (n : Nat) : (s.alarm n).evt = s.evt := rfl
@[simp] theorem State.alarm_obs (s : State) (n : Nat) : (s.alarm n).obs = s.obs := rfl
@[simp] theorem State.alarm_free (s : State) (n : Nat) : (s.alarm n).free = s.free := rfl
@[simp] theorem State.alarm_cycle (s : State) (n : Nat) : (s.alarm n).cycle = s.cycle := rfl
@[simp] theorem State.alarm_compl (s : State) (n : Nat) : (s.alarm n).compl = s.compl := rfl
@[simp] theorem State.alarm_pending (s : State) (n : Nat) : (s.alarm n).pending = s.pending := rfl

@[simp] theorem State.fresh_part (s : State)  : (s.fresh.2).part = s.part := rfl
@[simp] theorem State.fresh_pins (s : State)  : (s.fresh.2).pins = s.pins := rfl
@[simp] theorem State.fresh_regs (s : State)  : (s.fresh.2).regs = s.regs := rfl
@[simp] theorem State.fresh_mem (s : State)  : (s.fresh.2).mem = s.mem := rfl
@[simp] theorem State.fresh_poison (s : State)  : (s.fresh.2).poison = s.poison := rfl
@[simp] theorem State.fresh_upsets (s : State)  : (s.fresh.2).upsets = s.upsets := rfl
@[simp] theorem State.fresh_arr (s : State)  : (s.fresh.2).arr = s.arr := rfl
@[simp] theorem State.fresh_fab (s : State)  : (s.fresh.2).fab = s.fab := rfl
@[simp] theorem State.fresh_dram (s : State)  : (s.fresh.2).dram = s.dram := rfl
@[simp] theorem State.fresh_rake (s : State)  : (s.fresh.2).rake = s.rake := rfl
@[simp] theorem State.fresh_qm (s : State)  : (s.fresh.2).qm = s.qm := rfl
@[simp] theorem State.fresh_slu (s : State)  : (s.fresh.2).slu = s.slu := rfl
@[simp] theorem State.fresh_sluWait (s : State)  : (s.fresh.2).sluWait = s.sluWait := rfl
@[simp] theorem State.fresh_salt (s : State)  : (s.fresh.2).salt = s.salt := rfl
@[simp] theorem State.fresh_stg (s : State)  : (s.fresh.2).stg = s.stg := rfl
@[simp] theorem State.fresh_tmp (s : State)  : (s.fresh.2).tmp = s.tmp := rfl
@[simp] theorem State.fresh_hmk (s : State)  : (s.fresh.2).hmk = s.hmk := rfl
@[simp] theorem State.fresh_spare (s : State)  : (s.fresh.2).spare = s.spare := rfl
@[simp] theorem State.fresh_pwr (s : State)  : (s.fresh.2).pwr = s.pwr := rfl
@[simp] theorem State.fresh_clk (s : State)  : (s.fresh.2).clk = s.clk := rfl
@[simp] theorem State.fresh_start (s : State)  : (s.fresh.2).start = s.start := rfl
@[simp] theorem State.fresh_i2c (s : State)  : (s.fresh.2).i2c = s.i2c := rfl
@[simp] theorem State.fresh_host (s : State)  : (s.fresh.2).host = s.host := rfl
@[simp] theorem State.fresh_evt (s : State)  : (s.fresh.2).evt = s.evt := rfl
@[simp] theorem State.fresh_obs (s : State)  : (s.fresh.2).obs = s.obs := rfl
@[simp] theorem State.fresh_cycle (s : State)  : (s.fresh.2).cycle = s.cycle := rfl
@[simp] theorem State.fresh_compl (s : State)  : (s.fresh.2).compl = s.compl := rfl
@[simp] theorem State.fresh_pending (s : State)  : (s.fresh.2).pending = s.pending := rfl

/-! ### The end of a step -/

@[simp] theorem State.settle_part (s t : State) : (s.settle t).part = s.part := rfl
@[simp] theorem State.settle_pins (s t : State) : (s.settle t).pins = t.pins := rfl
@[simp] theorem State.settle_regs (s t : State) : (s.settle t).regs = t.regs := rfl
@[simp] theorem State.settle_mem (s t : State) : (s.settle t).mem = Memory.canonical t.mem := rfl
@[simp] theorem State.settle_poison (s t : State) : (s.settle t).poison = t.poison := rfl
@[simp] theorem State.settle_upsets (s t : State) : (s.settle t).upsets = t.upsets := rfl
@[simp] theorem State.settle_arr (s t : State) : (s.settle t).arr = t.arr := rfl
@[simp] theorem State.settle_fab (s t : State) : (s.settle t).fab = t.fab := rfl
@[simp] theorem State.settle_dram (s t : State) : (s.settle t).dram = t.dram := rfl
@[simp] theorem State.settle_rake (s t : State) : (s.settle t).rake = t.rake := rfl
@[simp] theorem State.settle_qm (s t : State) : (s.settle t).qm = t.qm := rfl
@[simp] theorem State.settle_slu (s t : State) : (s.settle t).slu = t.slu := rfl
@[simp] theorem State.settle_sluWait (s t : State) : (s.settle t).sluWait = t.sluWait := rfl
@[simp] theorem State.settle_salt (s t : State) : (s.settle t).salt = t.salt := rfl
@[simp] theorem State.settle_stg (s t : State) : (s.settle t).stg = t.stg := rfl
@[simp] theorem State.settle_tmp (s t : State) : (s.settle t).tmp = t.tmp := rfl
@[simp] theorem State.settle_hmk (s t : State) : (s.settle t).hmk = t.hmk := rfl
@[simp] theorem State.settle_spare (s t : State) : (s.settle t).spare = t.spare := rfl
@[simp] theorem State.settle_pwr (s t : State) : (s.settle t).pwr = t.pwr := rfl
@[simp] theorem State.settle_clk (s t : State) : (s.settle t).clk = t.clk := rfl
@[simp] theorem State.settle_start (s t : State) : (s.settle t).start = t.start := rfl
@[simp] theorem State.settle_i2c (s t : State) : (s.settle t).i2c = t.i2c := rfl
@[simp] theorem State.settle_host (s t : State) : (s.settle t).host = t.host := rfl
@[simp] theorem State.settle_evt (s t : State) : (s.settle t).evt = t.evt := rfl
@[simp] theorem State.settle_obs (s t : State) : (s.settle t).obs = t.obs := rfl
@[simp] theorem State.settle_free (s t : State) : (s.settle t).free = t.free := rfl
@[simp] theorem State.settle_cycle (s t : State) : (s.settle t).cycle = t.cycle := rfl
@[simp] theorem State.settle_compl (s t : State) : (s.settle t).compl = t.compl := rfl
@[simp] theorem State.settle_pending (s t : State) : (s.settle t).pending = s.pending := rfl

end Sys2Proof.Machine
end

