-- ==== Sys2Proof/Laws/Registers.lean ====
section
/-! SUPPORT. The register file: reads after writes, fields of words, and the accessors over a settled state. -/

namespace Sys2Proof.Machine

/-! ### Keys -/

theorem RegKind.ctorIdx_inj {k k' : RegKind} (h : k.ctorIdx = k'.ctorIdx) : k = k' := by
  rw [← RegKind.ofNat_ctorIdx k, h, RegKind.ofNat_ctorIdx]

/-- Two registers of the file have different keys. -/
theorem regKey_inj {k k' : RegKind} {i j i' j' : Nat} (hi : i < 65536) (hj : j < 65536) (hi' : i' < 65536) (hj' : j' < 65536)
    (h : regKey k i j = regKey k' i' j') : k = k' ∧ i = i' ∧ j = j' := by
  simp only [regKey] at h
  have hk : k.ctorIdx = k'.ctorIdx := by omega
  exact ⟨RegKind.ctorIdx_inj hk, by omega, by omega⟩

/-! ### The register file -/

/-- A register reads what was written to it. -/
theorem State.rd_wr_same (s : State) (k : RegKind) (i j : Nat) (v : Word) (h : k.inRange i j = true) (hf : k.fused = false) :
    (s.wr k i j v).rd k i j = v := by
  simp [State.wr, State.rd, h, hf, Sparse.get_put]

/-- A register of another key reads as before. -/
theorem State.rd_wr_key (s : State) (k k' : RegKind) (i j i' j' : Nat) (v : Word) (h : regKey k' i' j' ≠ regKey k i j) :
    (s.wr k i j v).rd k' i' j' = s.rd k' i' j' := by
  by_cases c : (k.inRange i j && !k.fused) = true
  · simp only [State.wr, c, if_true, State.rd, Sparse.get_put_other _ _ _ _ h]
  · simp only [State.wr, c, Bool.false_eq_true, if_false]

/-- A register of another kind reads as before. -/
theorem State.rd_wr_kind (s : State) (k k' : RegKind) (i j i' j' : Nat) (v : Word) (h : k' ≠ k) (hi : i < 65536) (hj : j < 65536)
    (hi' : i' < 65536) (hj' : j' < 65536) : (s.wr k i j v).rd k' i' j' = s.rd k' i' j' :=
  State.rd_wr_key s k k' i j i' j' v fun e => h (regKey_inj hi' hj' hi hj e).1

/-- Another register of the same kind reads as before. -/
theorem State.rd_wr_index (s : State) (k : RegKind) (i j i' j' : Nat) (v : Word) (h : i' ≠ i ∨ j' ≠ j) (hi : i < 65536)
    (hj : j < 65536) (hi' : i' < 65536) (hj' : j' < 65536) : (s.wr k i j v).rd k i' j' = s.rd k i' j' :=
  State.rd_wr_key s k k i j i' j' v fun e => by have := regKey_inj hi' hj' hi hj e; omega

/-- A fused register reads its value, whatever the file lists (R38, R412). -/
theorem State.rd_fused (s : State) (k : RegKind) (i j : Nat) (h : k.fused = true) : s.rd k i j = resetValue s.part k i j := by
  simp [State.rd, h]

@[simp] theorem State.rd_settle (s t : State) (h : t.part = s.part) (k : RegKind) (i j : Nat) : (s.settle t).rd k i j = t.rd k i j := by
  simp [State.rd, h]

@[simp] theorem State.byte_settle (s t : State) (k : Nat) : (s.settle t).byte k = t.byte k := by
  simp [State.byte, Memory.get_canonical]

theorem State.wf_settle (s t : State) : Memory.wf (s.settle t).mem = true := by simp [Memory.wf_canonical]

/-! ### Fields -/

theorem bits_lt (w : Word) (hi lo : Nat) : bits w hi lo < 2 ^ (hi - lo + 1) := Nat.mod_lt _ (Nat.two_pow_pos _)

theorem bits_ofNat (n hi lo : Nat) (h : n < 2 ^ 64) : bits (BitVec.ofNat 64 n) hi lo = n / 2 ^ lo % 2 ^ (hi - lo + 1) := by
  rw [bits, BitVec.toNat_ofNat, Nat.mod_eq_of_lt h]

/-- A word split at a field: above it, the field, below it. -/
theorem setBits_toNat (w : Word) (hi lo v : Nat) (h1 : lo ≤ hi) (h2 : hi < 64) :
    (setBits w hi lo v).toNat =
      w.toNat / 2 ^ (hi + 1) * 2 ^ (hi + 1) + v % 2 ^ (hi - lo + 1) * 2 ^ lo + w.toNat % 2 ^ lo := by
  have hn : (2:Nat) ^ (hi + 1) = 2 ^ (hi - lo + 1) * 2 ^ lo := by rw [← Nat.pow_add]; congr 1; omega
  have h64 : (2:Nat) ^ 64 = 2 ^ (63 - hi) * 2 ^ (hi + 1) := by rw [← Nat.pow_add]; congr 1; omega
  simp only [setBits, bits]
  generalize hN : (2:Nat) ^ (hi - lo + 1) = N at *
  generalize hL : (2:Nat) ^ lo = L at *
  generalize hH : (2:Nat) ^ (hi + 1) = H at *
  generalize hW : w.toNat = W
  have hNp : 0 < N := by rw [← hN]; exact Nat.two_pow_pos _
  have hLp : 0 < L := by rw [← hL]; exact Nat.two_pow_pos _
  have hHp : 0 < H := by rw [← hH]; exact Nat.two_pow_pos _
  have hv : v % N < N := Nat.mod_lt _ hNp
  have hr : W % L < L := Nat.mod_lt _ hLp
  have hdd : W / L / N = W / H := by rw [Nat.div_div_eq_div_mul, Nat.mul_comm, ← hn]
  have hq : W / L = W / H * N + W / L % N := by rw [← hdd, Nat.mul_comm]; exact (Nat.div_add_mod _ _).symm
  have hw : W = (W / H * N + W / L % N) * L + W % L := by rw [← hq, Nat.mul_comm]; exact (Nat.div_add_mod _ _).symm
  have hsub : W - W / L % N * L = W / H * H + W % L := by
    have e : W = W / H * H + W / L % N * L + W % L := by rw [hn, ← Nat.mul_assoc, ← Nat.add_mul]; rw [hn] at hw; exact hw
    omega
  have hWdiv : W / H < 2 ^ (63 - hi) := by
    apply Nat.div_lt_of_lt_mul
    rw [Nat.mul_comm, ← h64, ← hW]
    exact w.isLt
  have hlt : W / H * H + v % N * L + W % L < 2 ^ 64 := by
    have h3 : (v % N + 1) * L ≤ H := by rw [hn]; exact Nat.mul_le_mul_right L hv
    have h4 : (W / H + 1) * H ≤ 2 ^ (63 - hi) * H := Nat.mul_le_mul_right H hWdiv
    rw [Nat.add_mul] at h3 h4
    rw [h64]
    omega
  rw [hsub, BitVec.toNat_ofNat, Nat.mod_eq_of_lt (by omega)]
  omega

/-- A field reads the value put into it, cut to its width. -/
theorem bits_setBits_same (w : Word) (hi lo v : Nat) (h1 : lo ≤ hi) (h2 : hi < 64) :
    bits (setBits w hi lo v) hi lo = v % 2 ^ (hi - lo + 1) := by
  have hn : (2:Nat) ^ (hi + 1) = 2 ^ (hi - lo + 1) * 2 ^ lo := by rw [← Nat.pow_add]; congr 1; omega
  have hLp : 0 < (2:Nat) ^ lo := Nat.two_pow_pos _
  rw [bits, setBits_toNat w hi lo v h1 h2, hn]
  have e : w.toNat / (2 ^ (hi - lo + 1) * 2 ^ lo) * (2 ^ (hi - lo + 1) * 2 ^ lo) + v % 2 ^ (hi - lo + 1) * 2 ^ lo + w.toNat % 2 ^ lo =
      2 ^ lo * (2 ^ (hi - lo + 1) * (w.toNat / (2 ^ (hi - lo + 1) * 2 ^ lo)) + v % 2 ^ (hi - lo + 1)) + w.toNat % 2 ^ lo := by
    rw [Nat.mul_add, ← Nat.mul_assoc (2 ^ lo), Nat.mul_comm (2 ^ lo) (2 ^ (hi - lo + 1))]
    simp only [Nat.mul_comm]
  rw [e, Nat.mul_add_div hLp, Nat.div_eq_of_lt (Nat.mod_lt _ hLp), Nat.add_zero, Nat.mul_add_mod, Nat.mod_mod]

/-- A field above the one written reads as before. -/
theorem bits_setBits_above (w : Word) (hi lo v hi' lo' : Nat) (h1 : lo ≤ hi) (h2 : hi < 64) (h : hi < lo') :
    bits (setBits w hi lo v) hi' lo' = bits w hi' lo' := by
  have hn : (2:Nat) ^ (hi + 1) = 2 ^ (hi - lo + 1) * 2 ^ lo := by rw [← Nat.pow_add]; congr 1; omega
  have hl : (2:Nat) ^ lo' = 2 ^ (hi + 1) * 2 ^ (lo' - (hi + 1)) := by rw [← Nat.pow_add]; congr 1; omega
  have hHp : 0 < (2:Nat) ^ (hi + 1) := Nat.two_pow_pos _
  have hv : (v % 2 ^ (hi - lo + 1) + 1) * 2 ^ lo ≤ 2 ^ (hi + 1) := by
    rw [hn]; exact Nat.mul_le_mul_right _ (Nat.mod_lt _ (Nat.two_pow_pos _))
  have hr : w.toNat % 2 ^ lo < 2 ^ lo := Nat.mod_lt _ (Nat.two_pow_pos _)
  rw [Nat.add_mul] at hv
  have e : (setBits w hi lo v).toNat / 2 ^ (hi + 1) = w.toNat / 2 ^ (hi + 1) := by
    rw [setBits_toNat w hi lo v h1 h2, Nat.add_assoc, Nat.mul_comm, Nat.mul_add_div hHp,
      Nat.div_eq_of_lt (Nat.lt_of_lt_of_le (Nat.add_lt_add_left hr _) (by rw [Nat.one_mul] at hv; exact hv)), Nat.add_zero]
  simp only [bits, hl, ← Nat.div_div_eq_div_mul, e]

/-- A field below the one written reads as before. -/
theorem bits_setBits_below (w : Word) (hi lo v hi' lo' : Nat) (h1 : lo ≤ hi) (h2 : hi < 64) (h : hi' < lo) (h3 : lo' ≤ hi') :
    bits (setBits w hi lo v) hi' lo' = bits w hi' lo' := by
  have key : (setBits w hi lo v).toNat % 2 ^ lo = w.toNat % 2 ^ lo := by
    have hh : (2:Nat) ^ (hi + 1) = 2 ^ lo * 2 ^ (hi + 1 - lo) := by rw [← Nat.pow_add]; congr 1; omega
    have e : w.toNat / 2 ^ (hi + 1) * 2 ^ (hi + 1) + v % 2 ^ (hi - lo + 1) * 2 ^ lo =
        2 ^ lo * (w.toNat / 2 ^ (hi + 1) * 2 ^ (hi + 1 - lo) + v % 2 ^ (hi - lo + 1)) := by
      rw [Nat.mul_add, ← Nat.mul_assoc, Nat.mul_comm (2 ^ lo) (w.toNat / _), Nat.mul_assoc, ← hh, Nat.mul_comm (2 ^ lo)]
    rw [setBits_toNat w hi lo v h1 h2, e, Nat.mul_add_mod, Nat.mod_mod]
  have low : ∀ x : Nat, x / 2 ^ lo' % 2 ^ (hi' - lo' + 1) = x % 2 ^ lo / 2 ^ lo' % 2 ^ (hi' - lo' + 1) := by
    intro x
    have hl : (2:Nat) ^ lo = 2 ^ lo' * (2 ^ (hi' - lo' + 1) * 2 ^ (lo - (hi' + 1))) := by
      rw [← Nat.pow_add, ← Nat.pow_add]; congr 1; omega
    rw [hl, Nat.mod_mul_right_div_self, Nat.mod_mul_right_mod]
  simp only [bits]
  rw [low, key, ← low]

/-- A field's place lies in its word. -/
def Fld.ok (f : Fld) : Bool := f.lo ≤ f.hi && f.hi < 64

/-- A field reads what was put into it. -/
theorem State.fld_setFld_same (s : State) (f : Fld) (i j v : Nat) (h : f.kind.inRange i j = true) (hf : f.kind.fused = false)
    (ok : f.ok = true) : (s.setFld f i j v).fld f i j = v % 2 ^ (f.hi - f.lo + 1) := by
  simp only [Fld.ok, Bool.and_eq_true, decide_eq_true_eq] at ok
  rw [State.setFld, State.fld, State.rd_wr_same s _ i j _ h hf, bits_setBits_same _ _ _ _ ok.1 ok.2]

/-- Another field of the same register reads as before. -/
theorem State.fld_setFld_apart (s : State) (f g : Fld) (i j v : Nat) (h : f.kind.inRange i j = true) (hf : f.kind.fused = false)
    (hk : g.kind = f.kind) (ok : f.ok = true) (okg : g.ok = true) (ha : f.hi < g.lo ∨ g.hi < f.lo) :
    (s.setFld f i j v).fld g i j = s.fld g i j := by
  simp only [Fld.ok, Bool.and_eq_true, decide_eq_true_eq] at ok okg
  rw [State.setFld, State.fld, hk, State.rd_wr_same s _ i j _ h hf, State.fld, hk]
  rcases ha with ha | ha
  · exact bits_setBits_above _ _ _ _ _ _ ok.1 ok.2 ha
  · exact bits_setBits_below _ _ _ _ _ _ ok.1 ok.2 ha okg.1

/-- A register other than the field's reads as before. -/
theorem State.rd_setFld_key (s : State) (f : Fld) (k : RegKind) (i j v i' j' : Nat) (h : regKey k i' j' ≠ regKey f.kind i j) :
    (s.setFld f i j v).rd k i' j' = s.rd k i' j' := State.rd_wr_key s f.kind k i j i' j' _ h

theorem State.rd_setFld_kind (s : State) (f : Fld) (k : RegKind) (i j v i' j' : Nat) (h : k ≠ f.kind) (hi : i < 65536)
    (hj : j < 65536) (hi' : i' < 65536) (hj' : j' < 65536) : (s.setFld f i j v).rd k i' j' = s.rd k i' j' :=
  State.rd_wr_kind s f.kind k i j i' j' _ h hi hj hi' hj'

theorem State.rd_bump_kind (s : State) (f : Fld) (k : RegKind) (i j n i' j' : Nat) (h : k ≠ f.kind) (hi : i < 65536)
    (hj : j < 65536) (hi' : i' < 65536) (hj' : j' < 65536) : (s.bump f i j n).rd k i' j' = s.rd k i' j' := by
  unfold State.bump
  split
  · rfl
  · exact State.rd_setFld_kind s f k i j _ i' j' h hi hj hi' hj'

/-- A counter that has not reached its top moves on by what is added. -/
theorem State.fld_bump (s : State) (f : Fld) (i j n : Nat) (h : f.kind.inRange i j = true) (hf : f.kind.fused = false)
    (ok : f.ok = true) : (s.bump f i j n).fld f i j = (s.fld f i j + n) % 2 ^ (f.hi - f.lo + 1) := by
  unfold State.bump
  split
  · rename_i e
    rw [e, Nat.add_zero]
    exact (Nat.mod_eq_of_lt (bits_lt _ _ _)).symm
  · exact State.fld_setFld_same s f i j _ h hf ok

/-- A saturating count moves on by what is added, up to its top. -/
theorem State.fld_sat (s : State) (f : Fld) (i j n : Nat) (h : f.kind.inRange i j = true) (hf : f.kind.fused = false)
    (ok : f.ok = true) : (s.sat f i j n).fld f i j = min (s.fld f i j + n) f.top := by
  have hp : 0 < (2:Nat) ^ (f.hi - f.lo + 1) := Nat.two_pow_pos _
  have hl : s.fld f i j < 2 ^ (f.hi - f.lo + 1) := bits_lt _ _ _
  unfold State.sat
  split
  · rename_i e
    rw [e, Nat.add_zero, Fld.top]
    omega
  · rw [State.fld_setFld_same s f i j _ h hf ok, Fld.top]
    exact Nat.mod_eq_of_lt (by omega)

end Sys2Proof.Machine
end

