-- ==== Sys2Proof/Laws/Events.lean ====
section
/-! SUPPORT. What an event and a quench can do: the registers and the state they leave alone (R365, R366, R441, R442). -/

namespace Sys2Proof.Machine

/-- The registers that an event can change, by its record, a quench or a match entry (R366, R441, R442). -/
def RegKind.ofEvents : RegKind → Bool
  | .HP_EVT_STATUS | .OBS_QUENCH_STATUS | .OBS_QUENCH_TIME | .OBS_QUENCH_FRAME | .OBS_PERF_QUENCH_DROP | .OBS_MATCH => true
  | _ => false

/-- What an event leaves as it was: every part of the state but the queue of events, the observability block, Hallmark and
ALERT; and every register but those of events. -/
structure State.Calm (s t : State) : Prop where
  part : t.part = s.part
  pins : t.pins = s.pins
  mem : t.mem = s.mem
  poison : t.poison = s.poison
  arr : t.arr = s.arr
  fab : t.fab = s.fab
  dram : t.dram = s.dram
  rake : t.rake = s.rake
  qm : t.qm = s.qm
  slu : t.slu = s.slu
  stg : t.stg = s.stg
  tmp : t.tmp = s.tmp
  spare : t.spare = s.spare
  pwr : t.pwr = s.pwr
  clk : t.clk = s.clk
  upsets : t.upsets = s.upsets
  sluWait : t.sluWait = s.sluWait
  salt : t.salt = s.salt
  start : t.start = s.start
  host : t.host = s.host
  free : t.free = s.free
  cycle : t.cycle = s.cycle
  compl : t.compl = s.compl
  pending : t.pending = s.pending
  rd : ∀ k i j, k.ofEvents = false → i < 65536 → j < 65536 → t.rd k i j = s.rd k i j

theorem State.Calm.refl (s : State) : s.Calm s := by constructor <;> intros <;> rfl

theorem State.Calm.trans {s t u : State} (h : s.Calm t) (g : t.Calm u) : s.Calm u := by
  constructor
  case rd => intro k i j hk hi hj; rw [g.rd k i j hk hi hj, h.rd k i j hk hi hj]
  all_goals first
    | exact g.part.trans h.part
    | exact g.pins.trans h.pins
    | exact g.mem.trans h.mem
    | exact g.poison.trans h.poison
    | exact g.arr.trans h.arr
    | exact g.fab.trans h.fab
    | exact g.dram.trans h.dram
    | exact g.rake.trans h.rake
    | exact g.qm.trans h.qm
    | exact g.slu.trans h.slu
    | exact g.stg.trans h.stg
    | exact g.tmp.trans h.tmp
    | exact g.spare.trans h.spare
    | exact g.pwr.trans h.pwr
    | exact g.clk.trans h.clk
    | exact g.upsets.trans h.upsets
    | exact g.sluWait.trans h.sluWait
    | exact g.salt.trans h.salt
    | exact g.start.trans h.start
    | exact g.host.trans h.host
    | exact g.free.trans h.free
    | exact g.cycle.trans h.cycle
    | exact g.compl.trans h.compl
    | exact g.pending.trans h.pending

theorem State.Calm.ite {s t u : State} {c : Prop} [Decidable c] (h : s.Calm t) (g : s.Calm u) : s.Calm (if c then t else u) := by
  split <;> assumption

theorem State.Calm.setFld {s t : State} (h : s.Calm t) (f : Fld) (i j v : Nat) (hf : f.kind.ofEvents = true) (hi : i < 65536)
    (hj : j < 65536) : s.Calm (t.setFld f i j v) := by
  refine h.trans ?_
  constructor
  case rd =>
    intro k i' j' hk hi' hj'
    exact State.rd_setFld_kind t f k i j v i' j' (fun e => by rw [e, hf] at hk; cases hk) hi hj hi' hj'
  all_goals simp

theorem State.Calm.bump {s t : State} (h : s.Calm t) (f : Fld) (i j n : Nat) (hf : f.kind.ofEvents = true) (hi : i < 65536)
    (hj : j < 65536) : s.Calm (t.bump f i j n) := by
  unfold State.bump
  exact State.Calm.ite h (h.setFld f i j _ hf hi hj)

theorem State.Calm.sat {s t : State} (h : s.Calm t) (f : Fld) (i j n : Nat) (hf : f.kind.ofEvents = true) (hi : i < 65536)
    (hj : j < 65536) : s.Calm (t.sat f i j n) := by
  unfold State.sat
  exact State.Calm.ite h (h.setFld f i j _ hf hi hj)

theorem State.Calm.ofEvt {s t : State} (h : s.Calm t) (e : Evt) : s.Calm { t with evt := e } :=
  h.trans (by constructor <;> intros <;> rfl)

theorem State.Calm.ofObs {s t : State} (h : s.Calm t) (o : Obs) : s.Calm { t with obs := o } :=
  h.trans (by constructor <;> intros <;> rfl)

theorem State.Calm.ofHmk {s t : State} (h : s.Calm t) (x : Hmk) : s.Calm { t with hmk := x } :=
  h.trans (by constructor <;> intros <;> rfl)

theorem State.Calm.alarm {s t : State} (h : s.Calm t) (n : Nat) : s.Calm (t.alarm n) :=
  h.trans (by constructor <;> intros <;> rfl)

theorem State.Calm.logEvent {s t : State} (h : s.Calm t) (r : EventRec) : s.Calm (t.logEvent r) := h.ofHmk _

/-- Everything that queueing a record leaves alone (R366). -/
theorem State.calm_enqueue (s : State) (cls code unit : Nat) (info : Word) : s.Calm (s.enqueue cls code unit info) := by
  have h := State.Calm.refl s
  unfold State.enqueue
  refine State.Calm.ite (State.Calm.ite (State.Calm.logEvent ?_ _) ?_) (State.Calm.ite (State.Calm.logEvent ?_ _) ?_)
  · exact ((h.sat _ _ _ _ rfl (by decide) (by decide)).alarm _).ofEvt _
  · exact ((h.sat _ _ _ _ rfl (by decide) (by decide)).alarm _).ofEvt _
  all_goals
    refine State.Calm.ite (State.Calm.alarm ?_ _) ?_ <;>
      exact ((h.ofEvt _).bump _ _ _ _ rfl (by decide) (by decide)).setFld _ _ _ _ rfl (by decide) (by decide)

/-- Everything that a source of a quench leaves alone (R442). -/
theorem State.calm_quench (s : State) (sources entry : Nat) : s.Calm (s.quench sources entry) := (State.Calm.refl s).ofObs _

/-- Everything that an event leaves alone (R365, R441). -/
theorem State.calm_raise (s : State) (cls code unit : Nat) (info : Word) : s.Calm (s.raise cls code unit info) := by
  have h := State.calm_enqueue s cls code unit info
  unfold State.raise
  cases e : (s.enqueue cls code unit info).matchEntry cls code with
  | none => simpa only [e] using h
  | some n =>
    have hn : n < 65536 := by
      unfold State.matchEntry at e
      split at e
      · cases e
      · have := List.mem_of_find?_eq_some e
        simp only [List.mem_range] at this
        omega
    simp only [e]
    exact (State.Calm.ite (h.setFld OBS_MATCH.enable n 0 0 rfl hn (by decide)) h).trans (State.calm_quench _ _ _)

end Sys2Proof.Machine
end

