-- ==== Sys2Proof/Laws/Live.lean ====
section
/-! SUPPORT. When a command's effect happens at all: running or in reset, during a pour, while quiet, on an array that answers. -/

namespace Sys2Proof.Machine

theorem live_up {s t : State} (h : s.up = true) : live s t = .next (s.settle t) := by simp [live, h]

theorem live_reset {s t : State} (h : s.up = false) : live s t = .next s := by simp [live, h]

/-- Everything `live` can answer. -/
theorem live_next (s t : State) : ∃ u, live s t = .next u ∧ (u = s ∨ u = s.settle t) := by
  cases h : s.up
  · exact ⟨s, live_reset h, .inl rfl⟩
  · exact ⟨s.settle t, live_up h, .inr rfl⟩

theorem State.work_quiet {s : State} (f : State → State) (h : s.hmk.quiet = true) : s.work f = s := by simp [State.work, h]

theorem State.work_on {s : State} (f : State → State) (h : s.hmk.quiet = false) : s.work f = f s := by simp [State.work, h]

theorem State.written_pouring {s : State} (f : State → State) (h : s.flag CST_STATE.pouring = true) : s.written f = s := by
  simp [State.written, h]

theorem State.written_on {s : State} (f : State → State) (h : s.flag CST_STATE.pouring = false) : s.written f = f s := by
  simp [State.written, h]

theorem State.onArray_halted {s : State} (a : Nat) (f : State → State) (h : s.pwr.halted = true) : s.onArray a f = s := by
  simp [State.onArray, h]

theorem State.onArray_on {s : State} (a : Nat) (f : State → State) (ha : s.arrayAnswers a true = true)
    (h : s.pwr.halted = false) : s.onArray a f = f s := by
  simp [State.onArray, ha, h]

theorem State.takesWrites_iff {s : State} : s.takesWrites = true ↔ s.up = true ∧ s.flag CST_STATE.pouring = false := by
  simp [State.takesWrites]

theorem State.working_iff {s : State} : s.working = true ↔ s.up = true ∧ s.hmk.quiet = false := by simp [State.working]

theorem State.runs_iff {s : State} {a : Nat} :
    s.runs a = true ↔ s.up = true ∧ s.arrayAnswers a true = true ∧ s.pwr.halted = false := by
  simp [State.runs, and_assoc]

theorem State.runsAndTakes_iff {s : State} {a : Nat} :
    s.runsAndTakes a = true ↔
      s.up = true ∧ s.flag CST_STATE.pouring = false ∧ s.dieOpen [s.part.dieOf a] = true ∧ s.arrayAnswers a true = true ∧
        s.pwr.halted = false := by
  simp [State.runsAndTakes, State.takesWrites, and_assoc]

/-- A register of an array that runs and takes writes is written. -/
theorem State.arrayWritten_on {s : State} (a : Nat) (f : State → State) (h : s.runsAndTakes a = true) : s.arrayWritten a f = f s := by
  obtain ⟨-, hp, hd, ha, hh⟩ := State.runsAndTakes_iff.mp h
  simp [State.arrayWritten, State.writtenAt, State.written, State.onArray, hp, hd, ha, hh]

/-- A register behind a link that is out of service is not written (R37). -/
theorem State.writtenAt_closed {s : State} (dies : List Nat) (f : State → State) (h : s.dieOpen dies = false) :
    s.writtenAt dies f = s := by
  simp [State.writtenAt, State.written, h]

/-- Settling changes nothing where memory is in its canonical form. -/
theorem State.settle_self {s : State} (h : Memory.wf s.mem = true) : s.settle s = s := by
  simp [State.settle, Memory.canonical, h]

end Sys2Proof.Machine
end

