-- ==== Sys2Proof/WellFormed.lean ====
section
/-! DEFINITION. Well-formed commands: operands that the outside can supply, within the ranges the spec gives the device. A command
that is not well-formed names something no package of the family has. Meanings are total; they ask nothing of this check. -/

namespace Sys2Proof

/-- A logical array ID of the family (R2, R42). -/
def isArray (a : Nat) : Bool := a < 2240

/-- A local address (R17, R35). -/
def isLocal (addr : Nat) : Bool := addr < 2 ^ 48

/-- A length one transfer can have. -/
def isSpan (n : Nat) : Bool := 1 ≤ n && n ≤ 8192

/-- An access to an array's 1 MiB window (R36, R89). -/
def isAccess : Access → Bool
  | .read off len => off < 2 ^ 20 && isSpan len
  | .write off data => off < 2 ^ 20 && isSpan data.length

/-- Errors of one transfer: each names a unit within it, none twice. -/
def isErrors (l : List MemError) : Bool :=
  l.all (fun e => e.unit < 1024) && (l.map (·.unit)).Nodup

/-- A line of a march run: one of a bank's 512, or a spare line (R102). -/
def isLine (l : LineFailure) : Bool := l.bank < 10 && l.line < 514

/-- An HBM stack index, or 0x100 and a bittern stack's number (R307). -/
def isStack (n : Nat) : Bool := n < 12 || (0x100 ≤ n && n < 0x104)

/-- A physical package ID (R344). -/
def isPackage (n : Nat) : Bool := n / 1024 < 64 && n / 16 % 64 < 53 && n % 16 < 13

/-- A message's payload: 32 or 64 bytes (R318). -/
def isMessage (bs : List Byte) : Bool := bs.length == 32 || bs.length == 64

/-- A packet whose header's values fit their fields (R318), from a link of the package. -/
def isPacket (p : Packet) : Bool :=
  p.op < 256 && p.hops < 8 && p.dst < 2 ^ 16 && p.src < 2 ^ 16 && p.slice < 2 ^ 12 && p.gen < 2 ^ 4 && p.seq < 2 ^ 32 &&
  p.requester < 2 ^ 12 && p.via < 2 ^ 6 && p.func < 2 ^ 8 && p.addr < 2 ^ 48 && p.mask < 2 ^ 128 && p.link < 17

/-- A frame of 64 to 9,216 bytes on the wire, of which 4 are its check sequence (R353). -/
def isFrame (f : Frame) : Bool := 60 ≤ f.bytes.length && f.bytes.length ≤ 9212

/-- What start-up finds names stacks, lines and record kinds that there are. -/
def isStart (f : StartFacts) : Bool :=
  f.failedStacks.all isStack && (f.march.all fun x => isArray x.1 && isLine x.2) && (f.copies.all fun x => x.2 < 2) && f.torn.all fun k => 0x10 ≤ k && k ≤ 0x17

/-- The block or page of a piece of the NAND's work. -/
def isNandWork : NandWork → Bool
  | .collect => true
  | .level => true
  | .retire block => block < 2 ^ 16
  | .refresh page => page < 2 ^ 24
  | .decay page bits => page < 2 ^ 20 && bits ≤ 8192
  | .weaken block => block < 2 ^ 14

/-- Every operand is one the outside can supply. -/
def Instr.wellFormed : Instr → Bool
  | .registerWrite addr width _ => isLocal addr && (width == 1 || width == 2 || width == 4 || width == 8)
  | .ucieRetry die => die < 2
  | .powerMonitorSample _ => true
  | .dieSensorReading die _ => die < 3
  | .commandFetch array _ => isArray array
  | .nop array _ => isArray array
  | .tile array _ => isArray array
  | .tileWriteback array => isArray array
  | .trailerWrite array => isArray array
  | .frozenTile array _ => isArray array
  | .sparseTile array _ => isArray array
  | .sparseEndPhase array => isArray array
  | .sparseTileStop array => isArray array
  | .reduce array _ => isArray array
  | .own array _ => isArray array
  | .wait array _ => isArray array
  | .waitSatisfied array _ => isArray array
  | .waitTimeout array _ => isArray array
  | .fence array _ => isArray array
  | .signal array _ => isArray array
  | .scpBankOwnWrite array bank owner => isArray array && bank < 10 && owner < 16
  | .handoverComplete array bank => isArray array && bank < 10
  | .drainTimeout array bank => isArray array && bank < 10
  | .sramWindowAccess array access errors => isArray array && isAccess access && isErrors errors
  | .arrWinCfgWrite array window _ => isArray array && window < 8
  | .windowAdvance array window _ bytes => isArray array && window < 8 && bytes < 2 ^ 19
  | .swizzleWrite array bank _ => isArray array && bank < 10
  | .bankClearDone array bank => isArray array && bank < 10
  | .marchStart array _ => isArray array
  | .marchDone array failing => isArray array && failing.all isLine
  | .run array _ => isArray array
  | .halt array => isArray array
  | .clearError array => isArray array
  | .arrSeqCfgWrite array _ => isArray array
  | .spmCfgWrite array _ => isArray array
  | .vecCopy array _ => isArray array
  | .vecAdd array _ => isArray array
  | .vecSub array _ => isArray array
  | .vecMul array _ => isArray array
  | .vecFma array _ => isArray array
  | .vecMax array _ => isArray array
  | .vecMin array _ => isArray array
  | .vecScale array _ => isArray array
  | .vecDiv array _ => isArray array
  | .vecRecip array _ => isArray array
  | .vecSqrt array _ => isArray array
  | .vecRsqrt array _ => isArray array
  | .vecExp array _ => isArray array
  | .vecLog array _ => isArray array
  | .vecFtab array _ => isArray array
  | .vecDtab array _ => isArray array
  | .vecRsum array _ => isArray array
  | .vecRprod array _ => isArray array
  | .vecRmax array _ => isArray array
  | .vecRmin array _ => isArray array
  | .vecRargmax array _ => isArray array
  | .vecRargmin array _ => isArray array
  | .vecRlse array _ => isArray array
  | .vecSoftmax array _ => isArray array
  | .vecSmaxBwd array _ => isArray array
  | .vecNorm array _ => isArray array
  | .vecTopk array _ => isArray array
  | .vecPassform array _ => isArray array
  | .vecPack array _ => isArray array
  | .vecTqLoad array => isArray array
  | .vecWindowReady array => isArray array
  | .vecEnd array => isArray array
  | .vecPoisonStop array => isArray array
  | .tabFlush array => isArray array
  | .vecCfgWrite array _ => isArray array
  | .fbiCfgWrite array _ => isArray array
  | .rakeStreamSubmit stream _ => stream < 64
  | .rakeHalfArm _ => true
  | .rakeDispatch stream => stream < 64
  | .backwardDispatch stream => stream < 64
  | .groupNotice payload => isMessage payload
  | .endNotice payload => isMessage payload
  | .releaseArrival payload => isMessage payload
  | .qmRelease _ => true
  | .resStep _ => true
  | .resFetchStart slot expert => slot < 256 && expert < 4096
  | .evictWritebackDone slot expert _ => slot < 256 && expert < 4096
  | .resFetchDone slot expert _ => slot < 256 && expert < 4096
  | .sluSubmit _ => true
  | .gather => true
  | .returnRows => true
  | .segment => true
  | .returnRowArrival payload => isMessage payload
  | .sluCancel _ => true
  | .sluArm _ => true
  | .rakeStreamCfgWrite stream _ => stream < 64
  | .saltRun core threads => core < 32 && threads < 256
  | .saltHalt core threads => core < 32 && threads < 256
  | .salterThreadFault core thread _ => core < 32 && thread < 8
  | .stgStepArm _ => true
  | .stgArrive _ => true
  | .admission slot => slot < 64
  | .stgRelease _ => true
  | .creditMessage payload => isMessage payload
  | .stkReq _ => true
  | .stkGrant slot => slot < 64
  | .stkFree _ => true
  | .stageRecordWrite slot => slot < 64
  | .stkHwmRearm slot => slot < 64
  | .stgAbort _ => true
  | .localDone payload => isMessage payload
  | .abort payload => isMessage payload
  | .commit payload => isMessage payload
  | .stgClear _ => true
  | .cleared payload => isMessage payload
  | .ready payload => isMessage payload
  | .tmpSegArrive _ => true
  | .shardReduce index => index < 32768
  | .normPartial payload => isMessage payload
  | .applyPhase index => index < 32768
  | .shardStaged index => index < 32768
  | .staged payload => isMessage payload
  | .replicaFetchDone index _ entries => index < 32768 && entries.all fun e => e.2 < 2 ^ 32
  | .unchanged payload => isMessage payload
  | .segmentTimeout index => index < 32768
  | .ratioPartial payload => isMessage payload
  | .assayVisit unit => unit < 4
  | .assay payload => isMessage payload
  | .assayRefetchDone index _ entries => index < 32768 && entries.all fun e => e.2 < 2 ^ 32
  | .tmpDerive _ => true
  | .memoryRead addr len die errors => isLocal addr && isSpan len && die < 3 && isErrors errors
  | .memoryWrite addr data die errors => isLocal addr && isSpan data.length && die < 3 && isErrors errors
  | .blockWrite addr data => isLocal addr && data.length == 1024
  | .lineWrite addr data => isLocal addr && isSpan data.length
  | .blockRead addr garbled errors => isLocal addr && garbled ≤ 4 && isErrors errors
  | .hbmTempRead stack _ => stack < 12
  | .bitternRefreshReport stack rates _ => stack < 4 && rates.length ≤ 64
  | .refresh stack => isStack stack
  | .patrolScrub stack errors _ => isStack stack && isErrors errors
  | .writeWrapperInstruction stack => stack < 12
  | .shiftDataRegister stack => stack < 12
  | .sppr stack => stack < 12
  | .hppr stack => stack < 12
  | .hbmTestDone stack _ => stack < 12
  | .hbmTestTimeout stack => stack < 12
  | .linkTraining link peer peerLink lanes => link < 16 && (isPackage peer || peer == 0xFFFF) && peerLink < 16 && lanes < 256
  | .flitReplay link _ => link < 16
  | .laneFailure link lane => link < 16 && lane < 8
  | .linkDown link => link < 16
  | .linkNotice packet => isPacket packet
  | .requestInject access => access.all isPacket
  | .packetForward packet => isPacket packet
  | .loadReq packet => isPacket packet
  | .store packet => isPacket packet
  | .atomic packet => isPacket packet
  | .swap packet => isPacket packet
  | .cas packet => isPacket packet
  | .loadData packet => isPacket packet
  | .oldValue packet => isPacket packet
  | .status packet => isPacket packet
  | .ack packet => isPacket packet
  | .msg packet => isPacket packet
  | .bcast packet => isPacket packet
  | .retransmitTimeout peer cls => isPackage peer && cls < 3
  | .tableEntryApply line => isLocal line && line % 128 == 0
  | .hotLineWindowEnd => true
  | .fenceTimeoutExpiry _ => true
  | .occupancyReport pkg levels => isPackage pkg && levels.length ≤ 4
  | .fabEpochAdvance => true
  | .epochAdvanceComplete => true
  | .epochAdvanceRefused => true
  | .fabPhysIdWrite _ => true
  | .gwHoldExpiry field => field < 64
  | .frameReceive frame => isFrame frame
  | .openSession frame => isFrame frame
  | .closeSession frame => isFrame frame
  | .transportAck frame => isFrame frame
  | .nak frame => isFrame frame
  | .mgmtAccess frame => isFrame frame
  | .cmdMessage frame => isFrame frame
  | .bulkWrite frame => isFrame frame
  | .bulkWriteComplete peer => peer < 4
  | .bulkReadReq frame => isFrame frame
  | .gateway frame => isFrame frame
  | .hostResendTimeout peer channel => peer < 4 && channel < 4
  | .hostAckTimer peer channel => peer < 4 && channel < 4
  | .eventSend => true
  | .hostLinkLoss => true
  | .hostLinkReturn => true
  | .unitStateRequest addr _ => isLocal addr
  | .unitDrained addr => isLocal addr
  | .sbPwrOkLow => true
  | .sbResetNAssert => true
  | .resetRelease straps facts => straps < 64 && isStart facts
  | .sbQuenchNFall _ => true
  | .i2cTransfer offset data len address => address < 128 && offset < 256 && data.length ≤ 256 && len ≤ 256
  | .storeCast => true
  | .pour => true
  | .storeFw => true
  | .confirmFw => true
  | .hallmarkRead => true
  | .key => true
  | .attest => true
  | .nandWearLevel work => isNandWork work
  | .laserCalibration port lane bias _ _ => port < 17 && lane < 8 && bias < 4096
  | .lifetimeCounterWrite _ => true
  | .laneLock => true
  | .judgingWindowEnd _ durations => durations.length == 256
  | .coreLoopLock => true
  | .monitorGateEnd _ => true
  | .laneLossOfLock => true
  | .frameBoundary _ => true
  | .holdoverExpiry => true
  | .clkTestWrite _ => true
  | .noReferenceTimeout => true
  | .ndcAdd _ => true
  | .quenchFire _ => true
  | .quenchRelease => true
  | .scpScrub array offset errors _ => isArray array && offset < 0xC0000 && isErrors errors
  | .sbPwrOkRaise => true
  | .sbQuenchNDriveEnd => true
  | .hbmPeriodicRetraining stack _ => stack < 12
  | .bitternPeriodicCalibration stack _ => stack < 4

end Sys2Proof
end

