-- ==== Sys2Proof/Tests/Slice0.lean ====
section
/-! SUPPORT. Tests of the model: commands that are not well-formed, the manual's worked examples, and for every clause of every
statement a state and operands that meet its hypotheses together. -/

namespace Sys2Proof.Tests

open Sys2Proof Sys2Proof.Machine

set_option maxRecDepth 10000
set_option linter.unusedVariables false
set_option Elab.async false

/-! ### Terms that are not well-formed: one for each check -/

theorem test_refuses_array_2240 : (Instr.nop 2240 false).wellFormed = false := by decide
theorem test_takes_array_2239 : (Instr.nop 2239 false).wellFormed = true := by decide
theorem test_refuses_address_of_49_bits : (Instr.registerWrite (2 ^ 48) 8 0).wellFormed = false := by decide
theorem test_refuses_width_3 : (Instr.registerWrite 0 3 0).wellFormed = false := by decide
theorem test_refuses_die_2 : (Instr.ucieRetry 2).wellFormed = false := by decide
theorem test_refuses_sensor_3 : (Instr.dieSensorReading 3 0).wellFormed = false := by decide
theorem test_refuses_bank_10 : (Instr.handoverComplete 0 10).wellFormed = false := by decide
theorem test_refuses_owner_16 : (Instr.scpBankOwnWrite 0 0 16).wellFormed = false := by decide
theorem test_refuses_window_8 : (Instr.arrWinCfgWrite 0 8 0).wellFormed = false := by decide
theorem test_refuses_advance_of_20_bits : (Instr.windowAdvance 0 7 true (2 ^ 19)).wellFormed = false := by decide
theorem test_refuses_access_past_window : (Instr.sramWindowAccess 0 (.read (2 ^ 20) 1) []).wellFormed = false := by decide
theorem test_refuses_empty_write : (Instr.sramWindowAccess 0 (.write 0 []) []).wellFormed = false := by decide
theorem test_refuses_empty_read : (Instr.memoryRead 0 0 0 []).wellFormed = false := by decide
theorem test_refuses_unit_named_twice :
    (Instr.memoryRead 0 1 0 [⟨0, false⟩, ⟨0, true⟩]).wellFormed = false := by decide
theorem test_refuses_march_line_514 : (Instr.marchDone 0 [⟨0, 514⟩]).wellFormed = false := by decide
theorem test_refuses_stream_64 : (Instr.rakeDispatch 64).wellFormed = false := by decide
theorem test_refuses_message_of_33_bytes : (Instr.commit (List.replicate 33 0#8)).wellFormed = false := by decide
theorem test_refuses_expert_4096 : (Instr.resFetchStart 0 4096).wellFormed = false := by decide
theorem test_refuses_core_32 : (Instr.saltRun 32 0).wellFormed = false := by decide
theorem test_refuses_stage_64 : (Instr.admission 64).wellFormed = false := by decide
theorem test_refuses_shard_32768 : (Instr.applyPhase 32768).wellFormed = false := by decide
theorem test_refuses_short_block : (Instr.blockWrite 0 [0]).wellFormed = false := by decide
theorem test_refuses_stack_12 : (Instr.refresh 12).wellFormed = false := by decide
theorem test_refuses_bittern_4 : (Instr.refresh 0x104).wellFormed = false := by decide
theorem test_refuses_link_16 : (Instr.linkDown 16).wellFormed = false := by decide
theorem test_refuses_package_0xFF4D : (Instr.retransmitTimeout 0xFF4D 0).wellFormed = false := by decide
theorem test_refuses_packet_op_of_9_bits : (Instr.store { op := 256, dst := 0, src := 0 }).wellFormed = false := by decide
theorem test_refuses_unaligned_line : (Instr.tableEntryApply 64).wellFormed = false := by decide
theorem test_refuses_short_frame : (Instr.frameReceive { bytes := [] }).wellFormed = false := by decide
theorem test_refuses_peer_4 : (Instr.bulkWriteComplete 4).wellFormed = false := by decide
theorem test_refuses_start_facts_of_no_stack : (Instr.resetRelease 0 { failedStacks := [12] }).wellFormed = false := by decide
theorem test_refuses_nand_block : (Instr.nandWearLevel (.retire (2 ^ 16))).wellFormed = false := by decide
theorem test_refuses_lane_8 : (Instr.laserCalibration 0 8 0 0 false).wellFormed = false := by decide
theorem test_refuses_255_durations : (Instr.judgingWindowEnd 0 (List.replicate 255 0)).wellFormed = false := by decide

/-- The table gives no row any bits. -/
theorem test_no_word_spells_a_command : decodeTableWord 0 0 = none := by decide

/-! ### The manual's worked examples -/

/-- "One product into a running sum": 0x64 in a block with E8 0x7A times 0x4B with E8 0x7F. -/
theorem test_product_of_codes :
    (Lin.a32.encode (logProduct (LogFmt.l8.read 0x64 0x7A) (LogFmt.l8.read 0x4B 0x7F) 0x7A 0x7F).1).1 = 0x3FEAC0C7 := by decide +kernel

/-- The same product into 1,024.0. -/
theorem test_product_into_sum : (Lin.a32.encode (accumulate (a32 0x44800000) (a32 0x3FEAC0C7)).1).1 = 0x44803AB0 := by decide +kernel

/-- "Converting an A32 value to L8": 0.7 in a block whose largest magnitude is 3.3. -/
theorem test_a32_to_l8 : toLog .l8 (a32 0x3F333333) 0x7A = (0x64, Exc.none) := by decide +kernel
theorem test_largest_to_l8 : toLog .l8 (a32 0x40533333) (dynamicE8 .l8 [a32 0x40533333, a32 0x3F333333]).1 = (0x76, Exc.none) := by
  decide +kernel

/-- "Stochastic rounding to W16": 1 + 0.75 x 2^-9 under two draws. -/
theorem test_w16_rounds_up : (Lin.w16.encodeWith (shiftStochastic 0x1A2B) (a32 0x3F803000)).1 = 0x3E01 := by decide +kernel
theorem test_w16_stays : (Lin.w16.encodeWith (shiftStochastic 0x3000) (a32 0x3F803000)).1 = 0x3E00 := by decide +kernel

/-- "Addressing an accumulator buffer": array 1,563. -/
theorem test_accumulator_address : sramPlace 0x080061B80000 = some (1563, 0x80000) := by decide

/-- "Finding the array behind logical ID 1,563": the address of its spare map entry. -/
theorem test_spare_map_address : Reg.addr ⟨.DIE_SPARE_MAP, 1, 443⟩ = 0x0F8001010DD8 := by decide +kernel

/-- "Encoding four L8 ctiles": 40 non-zero codes take 160 bytes. -/
theorem test_ctile_of_40_codes :
    (encodeCtile 1 (List.replicate 40 1 ++ List.replicate 984 0) (List.replicate 32 0x7F)).map List.length = some 160 := by decide +kernel

/-- "One ADAMW element of an expert", with version 3: m1, v1 and w1. -/
def adamw : (Sys2Proof.Machine.Num × Exc) × (Sys2Proof.Machine.Num × Exc) × (Sys2Proof.Machine.Num × Exc) :=
  updateElement 1 { lr := .fin false 1 (-10), b1 := .fin false 7 (-3), b2 := .fin false 127 (-7), eps := .fin false 1 (-20), wd := .zero } 3
    (.fin false 1 (-1), Exc.none) (Lin.w16.decode 0x3D00) (Lin.m16.decode 0x3D80) (Lin.m16.decode 0x3B80)

theorem test_adamw_first_moment : (Lin.m16.encode adamw.2.1.1).1 = 0x3DF0 := by decide +kernel
theorem test_adamw_second_moment : (Lin.m16.encode adamw.2.2.1).1 = 0x3BBF := by decide +kernel
theorem test_adamw_master_kept : (Lin.w16.encodeWith (shiftStochastic 0x0A5C) (narrowA32 adamw.1.1).1).1 = 0x3D00 := by decide +kernel
theorem test_adamw_master_falls : (Lin.w16.encodeWith (shiftStochastic 0x2E10) (narrowA32 adamw.1.1).1).1 = 0x3CFF := by decide +kernel

/-- A package that runs and holds no casting. -/
def running : State := { State.reset with pins := { State.reset.pins with resetN := true } }

/-- "One line write on VLT9-2240-HC": two regions of six stacks each. -/
def twoRegions : State := (running.wr .MEM_IL_REGION 0 0 0x903F000090000000).wr .MEM_IL_REGION 1 0 0x9FC0000090000000

theorem test_line_of_region_1 : twoRegions.dplace 0x003612345600 = some ⟨9, 0x0308B600⟩ := by decide +kernel
theorem test_entry_of_region_0 : twoRegions.dplace 0x0035F0123454 = some ⟨5, 0x8FD585454⟩ := by decide +kernel
theorem test_default_interleave : running.dplace 0x003612345600 = some ⟨9, 0x481845600⟩ := by decide +kernel

/-- "An inbound queue that wraps": window 4, before and after the head's advance by 0x200. -/
def inbound : State :=
  ((((running.setFld ARR_WIN_CFG.enable 0 4 1).setFld ARR_WIN_CFG.base 0 4 0xB00).setFld ARR_WIN_CFG.size 0 4 384).setFld
    ARR_WIN_HEAD.pos 0 4 0x5F00).setFld ARR_WIN_TAIL.pos 0 4 0x1000

theorem test_queue_occupancy : inbound.winOcc 0 4 = 0x4F00 := by decide +kernel
theorem test_queue_wraps :
    (match exec (.windowAdvance 0 4 false 0x200) inbound with
      | .next t => (t.fld ARR_WIN_HEAD.pos 0 4, t.fld ARR_WIN_HEAD.lap 0 4, t.winOcc 0 4)
      | _ => (0, 0, 0)) = (0x100, 1, 0x5100) := by decide +kernel

/-! ### Witnesses: what the hypotheses of each clause ask for together can be had -/

/-- The bytes of a 32-byte command. -/
def cmd (l : List Nat) : List Byte := (l.map (BitVec.ofNat 8) ++ List.replicate 32 0#8).take 32

def fetch (l : List Nat) : Fetched := { bytes := cmd l, offset := 64, waiting := false }

/-- An array that runs, with a command at the head of its forward stream. -/
def seqOn : State := (running.setFld ARR_SEQ_CTRL.run 0 0 1).setFld ARR_STATUS.seq_state 0 0 1

def headed (l : List Nat) : State := seqOn.mapArray 0 fun x => { x with fwd := some (fetch l) }

/-- The same array with a command window of 64 bytes that holds one command. -/
def windowed (l : List Nat) : State :=
  ((((seqOn.setFld ARR_WIN_CFG.enable 0 0 1).setFld ARR_WIN_CFG.size 0 0 1).setFld ARR_WIN_HEAD.pos 0 0 32).sramWrite 0 0 (cmd l))

/-- The same array with a hold of a WAIT for window 3. -/
def held (n : Nat) : State := running.mapArray 0 fun x => { x with fwdHold := some { kind := .wait 3 n, offset := 96 } }

/-- A bank with a handover pending. -/
def handing : State := (running.setFld SCP_BANK_OWN.pending 0 9 1).mapArray 0 fun x => { x with handovers := [(9, 5)] }

/-- A window of 64 bytes at the last line, with its head at 32 and its tail where `tail` says. -/
def edge (tail : Nat) : State :=
  ((((running.setFld ARR_WIN_CFG.enable 0 7 1).setFld ARR_WIN_CFG.base 0 7 5119).setFld ARR_WIN_CFG.size 0 7 1).setFld ARR_WIN_HEAD.pos 0 7
    32).setFld ARR_WIN_TAIL.pos 0 7 tail

/-- A TILE of one 32 x 32 x 32 L4 product, its region at the end of the accumulator, with its pass and flags bytes. -/
def tileCmd (pass flags : Nat) : List Nat :=
  [1, 64 * pass, flags, 0, 7, 0, 0, 0, 0, 0, 0, 0, 0, 2, 0, 0, 32, 0, 0xE0, 1, 0, 4, 0, 32, 0x20, 4, 0, 32]

/-- Bank 0 in the sequencer's hands, bank 1 in the vector engine's, and a command at the head of the forward stream. -/
def owned (l : List Nat) : State := ((headed l).setFld SCP_BANK_OWN.cur_owner 0 0 ownSeq).setFld SCP_BANK_OWN.cur_owner 0 1 ownVec

def aJob (k : JobKind) (status : Nat) : Job :=
  { kind := k, backward := false, tileId := 7, offset := 64, accLine := 480, rows := 32, cols := 32, accumulates := false
    toVec := k == .dense, sums := [], helpers := [], poisoned := [], record := {}, cycles := 32, stalled := 0
    products := 0, status := status }

/-- An array with one job. -/
def working (k : JobKind) (status : Nat) : State :=
  (seqOn.setFld SPM_STATUS.state 0 0 1).mapArray 0 fun x => { x with jobs := [aJob k status] }

/-- A trailer that its window has just room for. -/
def trailing : State :=
  ((edge 32).setFld ARR_SEQ_CFG.trailer_window 0 0 7).mapArray 0 fun x =>
    { x with trailers := [{ bytes := List.replicate 16 1#8, stalled := 0, offset := 64, sparse := false }] }

/-- A VEC_COPY of no element in bank 1: its descriptors' strides are 1. -/
def vecCmd : List Nat := [2, 0, 0, 1, 0, 0, 0, 0, 0, 0x80, 0]

def vecOn : State :=
  ((owned vecCmd).sramWrite 0 0x8008 (cmd [1])).sramWrite 0 0x8028 (cmd [1])

def vecWaits : State := vecOn.mapArray 0 fun x => { x with fwd := some { bytes := cmd vecCmd, offset := 64, waiting := true } }

def vecRuns (advances : List (Nat × Bool × Nat)) (stop : Option Nat) : State :=
  seqOn.mapArray 0 fun x =>
    { x with vec := some { backward := false, vop := 0, offset := 64, advances := advances, poisonedAt := stop, written := [] } }

/-- Layer slot 0: two experts on two ranks, one choice a token, d = 32, L4, and one pool slot of one page. -/
def layered : State :=
  ((((running.wr .RX_LAYER_TABLE 0 0 0x0020000100020000).wr .RX_LAYER_TABLE 0 1 0x0000004000000002).wr .RX_LAYER_TABLE 0 2
    0x0000000001000000).wr .RX_LAYER_TABLE 0 3 0x0000000100000040).setFld SCP_BANK_OWN.cur_owner 0 0 ownExt

/-- An armed half of that layer, of one group. -/
def half0 : RakeHalf := { slot := 0, backward := false, half := 0, epoch := 5, groups := 1, cplArray := 0, cplWindow := 0 }

/-- Rake stream 63 on array 0 with a route block of one token at offset 0x40, whose one choice is absent. -/
def raking : State :=
  ((({ layered with rake := { layered.rake with halves := [half0] } } : State).setFld RAKE_STREAM_CFG.enable 63 0 1).sramWrite 0 0x40
    ((cmd [0, 2, 0, 1, 0, 4, 0, 0, 0, 5, 0, 0, 0, 6]).take 20 ++ [5#8] ++ List.replicate 11 0#8)).sramWrite 0 0x500 (List.replicate 4 0xFF#8)

/-- The same stream with that block submitted. -/
def dispatching : State :=
  raking.setStream 63
    { queue := [{ g := 0, half := 0, slot := 0, backward := false, epoch := 5, tokAddr := 0x200, tokScale := 0x400, tokens := 1
                  idxAddr := 0x500, placeAddr := 0x600, firstToken := 0, pitch := 0 }] }

/-- The layer with a half that has sent as many tokens of expert 1 as DROP allows. -/
def fullHalf : State :=
  { layered.wr .RX_LAYER_TABLE 0 0 0x0020080100020000 with rake := { layered.rake with halves := [{ half0 with sent := [(1, 64)] }] } }

def homeGroup : HomeGroup := { slot := 0, expert := 0, rank := 1, backward := false, seq := 0xFFFFFF }

/-- The same layer with experts of no page. -/
def pageless : State := layered.wr .RX_LAYER_TABLE 0 3 0x40

/-- Expert 1 of the layer in a residency state. -/
def resident (st : Nat) : State := pageless.setRes 1 st 0

/-- The sluice with a request at its head. -/
def sluiced (l : List Nat) : State := { layered with slu := [SluReq.parse (cmd l)] }

/-- Five values of a pair. -/
theorem eta5 {A B C D E : Type} (p : A × B × C × D × E) : p = (p.1, p.2.1, p.2.2.1, p.2.2.2.1, p.2.2.2.2) := rfl

/-- Bytes of a structure, with zeros behind them. -/
def rec (n : Nat) (l : List Nat) : List Byte := (l.map (BitVec.ofNat 8) ++ List.replicate n 0#8).take n

/-- A state with bytes, zeros left out, behind what its memory holds. -/
def stored (s : State) (key : Nat) (bs : List Byte) : State :=
  { s with mem := s.mem ++ ((bs.zipIdx key).filter fun c => c.1 != 0).map fun c => (c.2, c.1) }

/-- Stage slot 63: spans of 4 tokens, two micro-batches in flight, 32 chunks a pool, its queues and windows at window 7 of array 0. -/
def stageSlot : State :=
  let s := (((edge 32).wr .STG_ENTRY 63 0 0x0000023F00000100).wr .STG_ENTRY 63 1 4).wr .STG_ENTRY 63 3 0x0000002000000020
  [0, 1, 2, 3].foldl (fun (s : State) r =>
    ((s.wr .STG_QUEUE 63 (4 * r) 0x0007000010400000).wr .STG_QUEUE 63 (4 * r + 1) 1).wr .STG_QUEUE 63 (4 * r + 2) 0x100000) s

/-- The same stage in an armed step of one micro-batch. -/
def armed (x : Stage) : State :=
  let s := (stageSlot.setFld STG_STEP_STATUS.state 0 0 1).setStage 63 x
  { s with stg := { s.stg with mbs := 1 } }

/-- An entry of one span of 4 tokens in the queue's slot 0. -/
def entryHere : State := stored (armed {}) 0x4000015000 (rec 64 [0x40, 0, 0, 0, 0, 0, 0, 0, 0, 0, 0, 0, 1, 0, 0, 0, 0, 0, 0, 0, 4])

def request (n : Nat) : StkReq := { backward := false, recomputable := false, mb := 0, n := n, tag := 0 }

/-- A step in a state, decided by this package or by another one. -/
def stepIn (st root : Nat) : State :=
  (running.setFld STG_STEP_STATUS.state 0 0 st).setFld STG_ROOT.root 0 0 (if root = 0 then running.myId else running.myId + root)

/-- One shard of one element with id 5 on unit 3, and one layer of two shards: flags byte `f`, `n` replicas. -/
def shards (f n : Nat) : State :=
  let s := (((running.setFld TMP_SHARD_BASE.count 0 0 1).setFld TMP_LAYER_BASE.count 0 0 1).setFld TMP_LAYER_BASE.base 0 0
    0x1000).setFld STG_STEP_STATUS.state 0 0 1
  let s := stored s 0 (rec 128 ([f, 3, 0, 0, 0, 0, 0, 0, 5, 0, 0, 0, 0, 0, n, 0, 0, 0, 0, 0, 0, 0, 0, 0, 1, 0, 1] ++ List.replicate 22 0 ++
    [0, 1, 0, 0, 0, 0, 0, 0, 0, 2, 0, 0, 0, 0, 0, 0, 0, 3, 0, 0, 0, 0, 0, 0, 0, 4, 0, 0, 0, 0, 0, 0, 0, 5]))
  stored s 0x1000000000 (rec 64 ([0, 0, 2, 0, 0, 0, 0, 0, 0, 0, 0, 0, 0, 0, 0, 0] ++ [running.myId % 256, running.myId / 256]))

def entryOf (f n : Nat) : ShardEntry := ShardEntry.parse ((shards f n).getMem 0 128)

/-- The shard with what its unit keeps for it, in a phase. -/
def kept (f n ph : Nat) (v : Shard) : State := ((shards f n).setTshard 0 v).setPhase 0 ph

/-- An expert's empty segment at the landing slot. -/
def landed : State := stored (shards 0x12 1) 0x8000006000 (rec 64 [0x20, 2])

def fetched (d : Option (List Byte)) : Shard := { fetch := some { pkg := 0, addr := 0, bytes := 128, version := 0, left := 0, digest := d } }

/-- One protected megabyte at address 0, with its entries at 2 MiB. -/
def protect : State :=
  ((running.setFld MEM_CRC_BASE.valid 0 0 1).setFld MEM_CRC_SIZE.size 0 0 1).setFld MEM_CRC_TABLE.table 0 0 0x200000

/-- The same with the first block's entry of a block of zeros. -/
def protectedZeros : State := protect.setEntry 0x200000 (crc32c (List.replicate 1024 0#8))

/-- Physical ID 0, its links 0 and 15 up, and every package of the first 64 in its slice. -/
def linked : State :=
  (((((running.setFld FAB_PHYS_ID.set 0 0 1).setFld FAB_LINK_STATUS.state 0 0 lnkUp).setFld FAB_LINK_STATUS.state 15 0
    lnkUp).setFld FAB_LINK_STATUS.lanes 15 0 255).wr .FAB_SLICE_MAP 0 0 (BitVec.allOnes 64)).setFld FAB_ID.slice 0 0 0

/-- A packet from package 2 over link 15. -/
def packet (op n : Nat) : Packet :=
  { op := op, dst := 0, src := 2, gen := 15, seq := 0xFFFFFFFF, addr := if op = 5 then 8 else 128, payload := List.replicate n 0#8, link := 15 }

/-- The same package with the flows those packets come in. -/
def flowing : State :=
  { linked with fab := { linked.fab with inflows := [0, 2].map fun c => { src := 2, cls := c, gen := 15, expected := 0xFFFFFFFF } } }

def entryAt (line : Nat) : Entry :=
  { line := line, op := 2, func := 0, mask := 2 ^ 128 - 1, data := List.replicate 128 1#8, sources := [{ package := 0, requester := 0, seq := 0 }] }

def tabled (line : Nat) : State := { layered with fab := { layered.fab with table := [entryAt line] } }

/-- The table with that entry taken out. -/
def untabled : State := { tabled 0x10000 with
  fab := { (tabled 0x10000).fab with table := startNext 0x10000 ((tabled 0x10000).fab.table.erase (entryAt 0x10000)) } }

/-- The host port up, with host 0 as peer 0 in session 4. -/
def hosted (x : HostSession) : State :=
  let s := (running.setFld HP_STATUS.link 0 0 1).setFld HP_UDP_CFG.base 0 0 0x5000
  let s := ((s.wr .HP_SELF 0 0 0x8000000000000001).wr .HP_SELF 2 0 0x0A000001).wr .HP_SELF 3 0 0x5000000000000000
  let s := ((s.wr .HP_PEER 0 0 0x8000000000000002).wr .HP_PEER 0 2 0x0A000002).wr .HP_PEER 0 3 0x4000000000000000
  let s := ((s.wr .HP_GW_PEER 63 0 0x8000000000000002).wr .HP_GW_PEER 63 2 0x0A000002).wr .HP_GW_PEER 63 3 0x3FFE000000000000
  { s with host := { s.host with sessions := [x] }, start := { s.start with ready := true } }

def peer0 : HostSession := { peer := 0, gen := 1 }

def header (type channel session : Nat) : Header := { type := type, channel := channel, session := session }

def gram (h : Header) (pay : List Byte) : Datagram :=
  { mac := 2, ipv6 := false, ip := 0x0A000002, port := 0x4000, head := h, payload := pay }

def frameOf (h : Header) (pay : List Byte) : Frame :=
  { bytes := beBytes 6 1 ++ beBytes 6 2 ++ beBytes 2 0x0800 ++ ipPacket false 0x0A000002 0x0A000001 17 0 0 (beBytes 2 0x4000 ++
      beBytes 2 (0x5000 + h.channel) ++ beBytes 2 (40 + pay.length) ++ beBytes 2 0 ++ h.bytes pay) }

def clocked (mode : Nat) : State := running.setFld CLK_STATUS.mode 0 0 mode

/-- A running firmware. -/
def firmware : State := { running with hmk := { running.hmk with running := some 0 } }

/-- The layer's step with one partial norm of two come in, from this package's own shard. -/
def normed (p : List Partial) : State := { shards 0x10 1 with tmp := { (shards 0x10 1).tmp with partials := p } }

theorem witness_StepTakesFrontCommand_0 :
    ∃ (c : Instr) (rest : List Instr) (s : State),
    s.pending = c :: rest :=
  ⟨.gather, [], { running with pending := [.gather] }, by decide +kernel⟩

theorem witness_IdleStepIsOneCycle_0 :
    ∃ (s : State),
    s.pending = [] :=
  ⟨running, by decide +kernel⟩

theorem witness_IdleStepIsOneCycle_1 :
    ∃ (s : State),
    s.pending = [] ∧
    s.up = false ∧
    Memory.wf s.mem = true :=
  ⟨State.reset, by decide +kernel⟩

theorem witness_RegisterWriteByAccessCodes_0 :
    ∃ (addr : Nat) (r : Reg) (s : State),
    s.up = true ∧
    s.regAt false addr = some r ∧
    r.kind.hasOwnWrite = false :=
  ⟨0x0F0000308048, ⟨.FAB_EXC_CNT, 0, 0⟩, running, by decide +kernel⟩

theorem witness_RegisterWriteByAccessCodes_1 :
    ∃ (addr width : Nat) (s : State),
    s.up = true ∧
    (width ≠ 8 ∨ addr % 8 ≠ 0 ∨ s.regAt false addr = none) :=
  ⟨0x0F0000308048, 4, running, by decide +kernel⟩

theorem witness_FieldWriteByAccessCode_0 :
    ∃ (k : RegKind) (f : Fld),
    f ∈ k.fields :=
  ⟨.FAB_EXC_CNT, FAB_EXC_CNT.invalid, by decide +kernel⟩

theorem witness_FieldWriteByAccessCode_1 :
    ∃ (k : RegKind) (i : Nat),
    (∀ f ∈ k.fields, i < f.lo ∨ f.hi < i) :=
  ⟨.CLK_CTRL, 63, by decide +kernel⟩

theorem witness_HeldCommandsChangeNothing_0 :
    ∃ (c : Instr) (s : State),
    s.up = false ∧
    c.actsInReset = false :=
  ⟨.gather, State.reset, by decide +kernel⟩

theorem witness_HeldCommandsChangeNothing_1 :
    ∃ (c : Instr) (s : State),
    s.up = true ∧
    s.flag CST_STATE.pouring = true ∧
    c.writesClosed = true :=
  ⟨.ndcAdd 0, running.setFld CST_STATE.pouring 0 0 1, by decide +kernel⟩

theorem witness_HeldCommandsChangeNothing_2 :
    ∃ (c : Instr) (s : State),
    s.up = true ∧
    s.hmk.quiet = true ∧
    c.takesUpWork = true :=
  ⟨.gather, { running with hmk := { running.hmk with quiet := true } }, by decide +kernel⟩

theorem witness_HeldCommandsChangeNothing_3 :
    ∃ (c : Instr) (s : State),
    s.up = true ∧
    s.pwr.halted = true ∧
    c.ofArray = true :=
  ⟨.nop 0 false, { running with pwr := { running.pwr with halted := true } }, by decide +kernel⟩

def atPlainCommandsRun0 : State := windowed [7]

def atPlainCommandsRun0P : Nat :=
  atPlainCommandsRun0.fld ARR_WIN_TAIL.pos 0 (atPlainCommandsRun0.streamWindow 0 false)

def atPlainCommandsRun0Off : Nat :=
  atPlainCommandsRun0.winOffset 0 (atPlainCommandsRun0.streamWindow 0 false) atPlainCommandsRun0P 0

def atPlainCommandsRun0Bs : List Byte :=
  atPlainCommandsRun0.winBytes 0 (atPlainCommandsRun0.streamWindow 0 false) atPlainCommandsRun0P 32

def atPlainCommandsRun0U : State :=
  atPlainCommandsRun0.sramMeet 0 [(atPlainCommandsRun0Off, 32)]

theorem witness_PlainCommandsRun_0 :
    ∃ (a : Nat) (b : Bool) (s u : State) (w p off : Nat) (bs : List Byte),
    s.up = true ∧
    s.streamOpen a b = true ∧
    (s.array a).fetched b = none ∧
    s.winOn a (s.streamWindow a b) = true ∧
    32 ≤ s.winOcc a (s.streamWindow a b) ∧
    w = s.streamWindow a b ∧
    p = s.fld ARR_WIN_TAIL.pos a w ∧
    off = s.winOffset a w p 0 ∧
    bs = s.winBytes a w p 32 ∧
    s.stalls a [(off, 32)] = false ∧
    u = s.sramMeet a [(off, 32)] :=
  ⟨0, false, atPlainCommandsRun0, atPlainCommandsRun0U, atPlainCommandsRun0.streamWindow 0 false, atPlainCommandsRun0P,
    atPlainCommandsRun0Off, atPlainCommandsRun0Bs, by decide +kernel⟩

theorem witness_PlainCommandsRun_1 :
    ∃ (a : Nat) (b : Bool) (f : Fetched) (s : State),
    s.up = true ∧
    s.head a b 0 = some f ∧
    zeros f.bytes 1 31 = true :=
  ⟨0, false, fetch [0], headed [0], by decide +kernel⟩

theorem witness_PlainCommandsRun_2 :
    ∃ (a : Nat) (b : Bool) (f : Fetched) (s : State),
    s.up = true ∧
    s.head a b 4 = some f ∧
    zeros f.bytes 3 29 = true ∧
    byteAt f.bytes 1 ≤ 9 ∧
    byteAt f.bytes 2 ≤ 5 ∧
    s.flag SCP_BANK_OWN.pending a (byteAt f.bytes 1) = false ∧
    s.fld SCP_BANK_OWN.cur_owner a (byteAt f.bytes 1) ≠ byteAt f.bytes 2 :=
  ⟨0, false, fetch [4, 9, 5], headed [4, 9, 5], by decide +kernel⟩

theorem witness_PlainCommandsRun_3 :
    ∃ (a : Nat) (b : Bool) (f : Fetched) (s : State),
    s.up = true ∧
    s.head a b 5 = some f ∧
    zeros f.bytes 2 6 = true ∧
    zeros f.bytes 12 20 = true ∧
    byteAt f.bytes 1 ≤ 7 ∧
    (s.issue a b).winOcc a (byteAt f.bytes 1) < num f.bytes 8 4 :=
  ⟨0, false, fetch [5, 7, 0, 0, 0, 0, 0, 0, 1], headed [5, 7, 0, 0, 0, 0, 0, 0, 1], by decide +kernel⟩

theorem witness_PlainCommandsRun_4 :
    ∃ (a : Nat) (b : Bool) (f : Fetched) (s : State),
    s.up = true ∧
    s.head a b 7 = some f ∧
    zeros f.bytes 1 31 = true :=
  ⟨0, false, fetch [7], headed [7], by decide +kernel⟩

theorem witness_PlainCommandsRun_5 :
    ∃ (a : Nat) (b : Bool) (f : Fetched) (s : State),
    s.up = true ∧
    s.head a b 6 = some f ∧
    zeros f.bytes 1 7 = true ∧
    zeros f.bytes 24 8 = true :=
  ⟨0, false, fetch [6, 0, 0, 0, 0, 0, 0, 0, 8], headed [6, 0, 0, 0, 0, 0, 0, 0, 8], by decide +kernel⟩

theorem witness_PlainCommandsRun_6 :
    ∃ (a : Nat) (b : Bool) (f : Fetched) (s : State),
    s.up = true ∧
    s.head a b 0 = some f ∧
    zeros f.bytes 1 31 = false :=
  ⟨0, false, fetch [0, 1], headed [0, 1], by decide +kernel⟩

theorem witness_PlainCommandsRun_7 :
    ∃ (a : Nat) (b : Bool) (f : Fetched) (s : State),
    s.up = true ∧
    s.head a b 4 = some f ∧
    zeros f.bytes 3 29 = true ∧
    (9 < byteAt f.bytes 1 ∨ 5 < byteAt f.bytes 2 ∨ s.flag SCP_BANK_OWN.pending a (byteAt f.bytes 1) = true) :=
  ⟨0, false, fetch [4, 10, 5], headed [4, 10, 5], by decide +kernel⟩

theorem witness_PlainCommandsRun_8 :
    ∃ (a : Nat) (b : Bool) (f : Fetched) (s : State),
    s.up = true ∧
    s.head a b 5 = some f ∧
    zeros f.bytes 2 6 = true ∧
    zeros f.bytes 12 20 = true ∧
    7 < byteAt f.bytes 1 :=
  ⟨0, false, fetch [5, 8], headed [5, 8], by decide +kernel⟩

theorem witness_PlainCommandsRun_9 :
    ∃ (a : Nat) (b : Bool) (f : Fetched) (s : State),
    s.up = true ∧
    s.head a b 7 = some f ∧
    zeros f.bytes 1 31 = false :=
  ⟨0, false, fetch [7, 1], headed [7, 1], by decide +kernel⟩

theorem witness_PlainCommandsRun_10 :
    ∃ (a : Nat) (b : Bool) (f : Fetched) (s : State),
    s.up = true ∧
    s.head a b 6 = some f ∧
    (zeros f.bytes 1 7 = false ∨ zeros f.bytes 24 8 = false) :=
  ⟨0, false, fetch [6, 1], headed [6, 1], by decide +kernel⟩

theorem witness_PlainCommandsRun_11 :
    ∃ (a : Nat) (b : Bool) (f : Fetched) (s : State),
    s.up = true ∧
    s.head a b 4 = some f ∧
    zeros f.bytes 3 29 = false :=
  ⟨0, false, fetch [4, 0, 0, 1], headed [4, 0, 0, 1], by decide +kernel⟩

theorem witness_PlainCommandsRun_12 :
    ∃ (a : Nat) (b : Bool) (f : Fetched) (s : State),
    s.up = true ∧
    s.head a b 5 = some f ∧
    (zeros f.bytes 2 6 = false ∨ zeros f.bytes 12 20 = false) :=
  ⟨0, false, fetch [5, 0, 1], headed [5, 0, 1], by decide +kernel⟩

theorem witness_PlainCommandsRun_13 :
    ∃ (a : Nat) (b : Bool) (f : Fetched) (s : State),
    s.up = true ∧
    s.head a b 4 = some f ∧
    zeros f.bytes 3 29 = true ∧
    byteAt f.bytes 1 ≤ 9 ∧
    byteAt f.bytes 2 ≤ 5 ∧
    s.flag SCP_BANK_OWN.pending a (byteAt f.bytes 1) = false ∧
    s.fld SCP_BANK_OWN.cur_owner a (byteAt f.bytes 1) = byteAt f.bytes 2 :=
  ⟨0, false, fetch [4, 9, 4], headed [4, 9, 4], by decide +kernel⟩

theorem witness_PlainCommandsRun_14 :
    ∃ (a : Nat) (b : Bool) (f : Fetched) (s : State),
    s.up = true ∧
    s.head a b 5 = some f ∧
    zeros f.bytes 2 6 = true ∧
    zeros f.bytes 12 20 = true ∧
    byteAt f.bytes 1 ≤ 7 ∧
    num f.bytes 8 4 ≤ (s.issue a b).winOcc a (byteAt f.bytes 1) :=
  ⟨0, false, fetch [5, 7], headed [5, 7], by decide +kernel⟩

theorem witness_WaitsEnd_0 :
    ∃ (a w n off : Nat) (b : Bool) (id : Option Nat) (s : State),
    s.runs a = true ∧
    (s.array a).hold b = some ⟨.wait w n, off, id⟩ ∧
    n ≤ s.winOcc a w :=
  ⟨0, 3, 0, 96, false, none, held 0, by decide +kernel⟩

theorem witness_WaitsEnd_1 :
    ∃ (a w n off : Nat) (b : Bool) (id : Option Nat) (s : State),
    s.runs a = true ∧
    (s.array a).hold b = some ⟨.wait w n, off, id⟩ ∧
    s.winOcc a w < n ∧
    s.fld ARR_SEQ_CFG.wait_limit a ≠ 0 :=
  ⟨0, 3, 1, 96, false, none, (held 1).setFld ARR_SEQ_CFG.wait_limit 0 0 1, by decide +kernel⟩

theorem witness_SequencerControl_0 :
    ∃ (a : Nat) (s : State),
    s.runsAndTakes a = true :=
  ⟨2239, running, by decide +kernel⟩

theorem witness_SequencerControl_1 :
    ∃ (a : Nat) (s : State),
    s.runsAndTakes a = true :=
  ⟨2239, running, by decide +kernel⟩

theorem witness_SequencerControl_2 :
    ∃ (a : Nat) (s : State),
    s.runsAndTakes a = true :=
  ⟨2239, running, by decide +kernel⟩

theorem witness_SequencerControl_3 :
    ∃ (a : Nat) (s : State),
    s.runsAndTakes a = true ∧
    s.fld ARR_STATUS.seq_state a = seqError ∧
    s.fld VEC_STATUS.state a ≠ 4 :=
  ⟨0, running.setFld ARR_STATUS.seq_state 0 0 seqError, by decide +kernel⟩

theorem witness_SequencerControl_4 :
    ∃ (a : Nat) (v : Word) (s : State),
    s.runsAndTakes a = true ∧
    (s.fld ARR_STATUS.seq_state a = seqIdle ∨ s.fld ARR_STATUS.seq_state a = seqHalted) ∧
    bits v 10 8 ≠ bits v 2 0 :=
  ⟨0, 1, running, by decide +kernel⟩

theorem witness_SequencerControl_5 :
    ∃ (a : Nat) (v : Word) (s : State),
    s.runsAndTakes a = true ∧
    (s.fld ARR_STATUS.seq_state a ≠ seqIdle ∧ s.fld ARR_STATUS.seq_state a ≠ seqHalted ∨ bits v 10 8 = bits v 2 0) :=
  ⟨0, 0x101, running, by decide +kernel⟩

theorem witness_SequencerControl_6 :
    ∃ (a status id off : Nat),
    a < 2240 ∧
    status < 256 ∧
    id < 2 ^ 32 ∧
    off < 2 ^ 19 :=
  ⟨2239, 255, 0xFFFFFFFF, 0x7FFFF, by decide +kernel⟩

theorem witness_HandoversJudgedAndEnd_0 :
    ∃ (a b o : Nat) (s : State),
    s.runsAndTakes a = true ∧
    b ≤ 9 ∧
    o < 16 ∧
    (5 < o ∨ s.flag SCP_BANK_OWN.pending a b = true) :=
  ⟨0, 9, 6, running, by decide +kernel⟩

theorem witness_HandoversJudgedAndEnd_1 :
    ∃ (a b o : Nat) (s : State),
    s.runsAndTakes a = true ∧
    b ≤ 9 ∧
    o ≤ 5 ∧
    s.flag SCP_BANK_OWN.pending a b = false ∧
    s.fld SCP_BANK_OWN.cur_owner a b = o :=
  ⟨0, 9, 0, running.setFld SCP_BANK_OWN.cur_owner 0 9 0, by decide +kernel⟩

theorem witness_HandoversJudgedAndEnd_2 :
    ∃ (a b o : Nat) (s : State),
    s.runsAndTakes a = true ∧
    b ≤ 9 ∧
    o ≤ 5 ∧
    s.flag SCP_BANK_OWN.pending a b = false ∧
    s.fld SCP_BANK_OWN.cur_owner a b ≠ o :=
  ⟨0, 9, 5, running.setFld SCP_BANK_OWN.cur_owner 0 9 0, by decide +kernel⟩

theorem witness_HandoversJudgedAndEnd_3 :
    ∃ (a b o : Nat) (s : State),
    s.runs a = true ∧
    (s.array a).handovers.lookup b = some o ∧
    s.ownerBusy a b = false :=
  ⟨0, 9, 5, handing, by decide +kernel⟩

theorem witness_HandoversJudgedAndEnd_4 :
    ∃ (a b o : Nat) (s u : State),
    s.runs a = true ∧
    (s.array a).handovers.lookup b = some o ∧
    u = ((s.setFld SCP_BANK_OWN.pending a b 0).setFld SCP_BANK_OWN.drain_timeout a b 1).mapArray a (fun x =>
      { x with handovers := x.handovers.filter fun h => h.1 != b }) :=
  ⟨0, 9, 5, handing,
    ((handing.setFld SCP_BANK_OWN.pending 0 9 0).setFld SCP_BANK_OWN.drain_timeout 0 9 1).mapArray 0 (fun x =>
    { x with handovers := x.handovers.filter fun h => h.1 != 9 }),
    by decide +kernel⟩

theorem witness_SramWindowAccesses_0 :
    ∃ (a off : Nat) (data : List Byte) (s : State),
    s.up = true ∧
    s.arrayAnswers a false = true ∧
    s.pwr.halted = false ∧
    0 < data.length ∧
    off + data.length ≤ 0x50000 ∧
    (∀ b ∈ banksOf [(off, data.length)], s.owns a b ownExt = true ∧ s.bankStalls a b = false ∧ s.incoming a b ownExt = false) :=
  ⟨0, 0x4FFFF, [7], running.setFld SCP_BANK_OWN.cur_owner 0 9 ownExt, by decide +kernel⟩

theorem witness_SramWindowAccesses_1 :
    ∃ (a off n : Nat) (s : State),
    s.up = true ∧
    s.arrayAnswers a false = true ∧
    0 < n ∧
    off + n ≤ 0x50000 ∧
    (∀ b ∈ banksOf [(off, n)], s.owns a b ownExt = true ∧ s.bankStalls a b = false ∧ s.incoming a b ownExt = false) ∧
    (s.sramMeet a [(off, n)]).sramPoison a off n = false :=
  ⟨0, 0x4FFFF, 1, running.setFld SCP_BANK_OWN.cur_owner 0 9 ownExt, by decide +kernel⟩

theorem witness_SramWindowAccesses_2 :
    ∃ (a off b : Nat) (data : List Byte) (s : State),
    s.up = true ∧
    s.arrayAnswers a false = true ∧
    0 < data.length ∧
    off + data.length ≤ 0x50000 ∧
    banksOf [(off, data.length)] = [b] ∧
    s.owns a b ownExt = false ∧
    s.incoming a b ownExt = false :=
  ⟨0, 0x4FFFF, 9, [7], running.setFld SCP_BANK_OWN.cur_owner 0 9 ownSeq, by decide +kernel⟩

theorem witness_SramWindowAccesses_3 :
    ∃ (a : Nat) (s : State),
    s.up = true ∧
    s.arrayAnswers a false = false :=
  ⟨2240, running, by decide +kernel⟩

theorem witness_WindowsConfigureAndAdvance_0 :
    ∃ (a w n : Nat) (s : State),
    s.runsAndTakes a = true ∧
    w < 8 ∧
    n < 2 ^ 19 ∧
    s.winMay a w false n = true ∧
    s.fld ARR_WIN_HEAD.pos a w + n < s.winSize a w :=
  ⟨0, 7, 0, edge 0, by decide +kernel⟩

theorem witness_WindowsConfigureAndAdvance_1 :
    ∃ (a w n : Nat) (s : State),
    s.runsAndTakes a = true ∧
    w < 8 ∧
    n < 2 ^ 19 ∧
    s.winMay a w false n = true ∧
    s.winSize a w ≤ s.fld ARR_WIN_HEAD.pos a w + n :=
  ⟨0, 7, 32, edge 0, by decide +kernel⟩

theorem witness_WindowsConfigureAndAdvance_2 :
    ∃ (a w n : Nat) (s : State),
    s.runsAndTakes a = true ∧
    w < 8 ∧
    n < 2 ^ 19 ∧
    s.winMay a w true n = true :=
  ⟨0, 7, 32, edge 0, by decide +kernel⟩

theorem witness_WindowsConfigureAndAdvance_3 :
    ∃ (a w n : Nat) (s : State),
    s.runsAndTakes a = true ∧
    w < 8 ∧
    n < 2 ^ 19 ∧
    s.winMay a w false n = false :=
  ⟨0, 7, 64, edge 0, by decide +kernel⟩

theorem witness_WindowsConfigureAndAdvance_4 :
    ∃ (a w n : Nat) (s : State),
    s.runsAndTakes a = true ∧
    w < 8 ∧
    n < 2 ^ 19 ∧
    s.winMay a w true n = false :=
  ⟨0, 7, 32, edge 32, by decide +kernel⟩

theorem witness_WindowsConfigureAndAdvance_5 :
    ∃ (a w : Nat) (s : State),
    s.runsAndTakes a = true ∧
    w < 8 :=
  ⟨0, 7, running, by decide +kernel⟩

theorem witness_BankContentsRenewed_0 :
    ∃ (a b : Nat) (on : Bool) (s : State),
    s.runsAndTakes a = true ∧
    b ≤ 9 ∧
    (s.fld SCP_BANK_OWN.cur_owner a b = 0 ∨ s.fld SCP_BANK_OWN.cur_owner a b = ownMarch) ∧
    s.flag SCP_BANK_CFG.swizzle a b ≠ on :=
  ⟨0, 9, false, running.setFld SCP_BANK_OWN.cur_owner 0 9 0, by decide +kernel⟩

theorem witness_BankContentsRenewed_1 :
    ∃ (a b : Nat) (s : State),
    s.runsAndTakes a = true ∧
    b ≤ 9 ∧
    s.fld SCP_BANK_OWN.cur_owner a b ≠ 0 ∧
    s.fld SCP_BANK_OWN.cur_owner a b ≠ ownMarch :=
  ⟨0, 9, running.setFld SCP_BANK_OWN.cur_owner 0 9 1, by decide +kernel⟩

theorem witness_BankContentsRenewed_2 :
    ∃ (a b : Nat) (s : State),
    s.runs a = true ∧
    b ≤ 9 ∧
    s.flag SCP_BANK_CFG.clearing a b = true :=
  ⟨0, 9, running.setFld SCP_BANK_CFG.clearing 0 9 1, by decide +kernel⟩

theorem witness_BankContentsRenewed_3 :
    ∃ (a b : Nat) (v : Word) (s : State),
    s.runsAndTakes a = true ∧
    bit v 63 = true ∧
    bit v 56 = false ∧
    bits v 3 0 ≠ 0 ∧
    maskBanks (bits v 41 32) = [b] ∧
    s.owns a b ownMarch = true ∧
    (s.array a).march = none :=
  ⟨0, 9, 0x8000020000000001, running.setFld SCP_BANK_OWN.cur_owner 0 9 ownMarch, by decide +kernel⟩

theorem witness_BankContentsRenewed_4 :
    ∃ (a : Nat) (v : Word) (s : State),
    s.runsAndTakes a = true ∧
    bit v 63 = true ∧
    (s.array a).march.isSome = true :=
  ⟨0, 0x8000000000000000, running.mapArray 0 fun x => { x with march := some { banks := [9], borrow := none, phase := 2 } },
    by decide +kernel⟩

theorem witness_BankContentsRenewed_5 :
    ∃ (a : Nat) (v : Word) (s : State),
    s.runsAndTakes a = true ∧
    bit v 63 = true ∧
    (s.array a).march = none ∧
    bits v 3 0 = 0 :=
  ⟨0, 0x8000000000000000, running, by decide +kernel⟩

theorem witness_BankContentsRenewed_6 :
    ∃ (a b : Nat) (s : State),
    s.runs a = true ∧
    b ≤ 9 ∧
    (s.array a).march = some { banks := [b], borrow := none, phase := 2 } ∧
    (s.array a).held = [] :=
  ⟨0, 9, running.mapArray 0 fun x => { x with march := some { banks := [9], borrow := none, phase := 2 } }, by decide +kernel⟩

def atDenseTiles0 : State := owned (tileCmd 1 0)

def atDenseTiles0F : Fetched :=
  (Option.get (atDenseTiles0.head 0 false 1) (by decide +kernel))

def atDenseTiles0U : State :=
  atDenseTiles0.sramMeet 0 (TileCmd.parse atDenseTiles0F.bytes).reads

theorem witness_DenseTiles_0 :
    ∃ (a : Nat) (b : Bool) (f : Fetched) (s u : State) (c : TileCmd),
    s.up = true ∧
    s.head a b 1 = some f ∧
    c = TileCmd.parse f.bytes ∧
    c.sparse = false ∧
    c.frozen = false ∧
    firstFailure (c.checks ++ [(5, s.refuses a ownSeq c.reads), (0x28, s.wrongClass a b c.backward)]) = none ∧
    s.holdsBack a ownSeq c.reads = false ∧
    s.turnAllows a b = true ∧
    s.matrixFree a c.accLine c.mRows false c.toVec b = true ∧
    u = s.sramMeet a c.reads :=
  ⟨0, false, atDenseTiles0F, atDenseTiles0, atDenseTiles0U, TileCmd.parse atDenseTiles0F.bytes, by decide +kernel⟩

def atDenseTiles1 : State := owned (tileCmd 0 0)

def atDenseTiles1F : Fetched :=
  (Option.get (atDenseTiles1.head 0 false 1) (by decide +kernel))

theorem witness_DenseTiles_1 :
    ∃ (a code : Nat) (b : Bool) (f : Fetched) (s : State) (c : TileCmd),
    s.up = true ∧
    s.head a b 1 = some f ∧
    c = TileCmd.parse f.bytes ∧
    c.sparse = false ∧
    c.frozen = false ∧
    firstFailure (c.checks ++ [(5, s.refuses a ownSeq c.reads), (0x28, s.wrongClass a b c.backward)]) = some code :=
  ⟨0, 2, false, atDenseTiles1F, atDenseTiles1, TileCmd.parse atDenseTiles1F.bytes, by decide +kernel⟩

def atDenseTiles2 : State := owned (tileCmd 1 64)

def atDenseTiles2F : Fetched :=
  (Option.get (atDenseTiles2.head 0 false 1) (by decide +kernel))

theorem witness_DenseTiles_2 :
    ∃ (a : Nat) (b : Bool) (f : Fetched) (s : State) (c : TileCmd),
    s.up = true ∧
    s.head a b 1 = some f ∧
    c = TileCmd.parse f.bytes ∧
    c.frozen = true :=
  ⟨0, false, atDenseTiles2F, atDenseTiles2, TileCmd.parse atDenseTiles2F.bytes, by decide +kernel⟩

def atTileResults0 : State := working .dense 0

def atTileResults0J : Job :=
  (List.head ((atTileResults0.array 0).jobs) (by decide +kernel))

def atTileResults0W : Nat :=
  ((atTileResults0.accContention 0).writebackCycles atTileResults0J.rows).1

def atTileResults0U : State :=
  ((atTileResults0.accContention 0).writebackCycles atTileResults0J.rows).2

def atTileResults0W' : State × Record × Bool :=
  atTileResults0U.writeRegion 0 atTileResults0J.accLine atTileResults0J.rows atTileResults0J.accumulates atTileResults0J.sums

theorem witness_TileResults_0 :
    ∃ (a : Nat) (s u : State) (j : Job) (js : List Job) (W : Nat) (w : State × Record × Bool),
    s.runs a = true ∧
    (s.array a).jobs = j :: js ∧
    j.kind = .dense ∧
    (j.toVec = true → s.flag FBI_CFG.enable a = true ∨ (s.array a).tq.length < 8) ∧
    (W, u) = (s.accContention a).writebackCycles j.rows ∧
    w = u.writeRegion a j.accLine j.rows j.accumulates j.sums :=
  ⟨0, atTileResults0, atTileResults0U, atTileResults0J, (List.tail ((atTileResults0.array 0).jobs)), atTileResults0W, atTileResults0W',
    by refine ⟨?_, ?_, ?_, ?_, ?_, ?_⟩ <;> first | decide +kernel | rfl⟩

def atTileResults1 : State := working .stopped 6

def atTileResults1J : Job :=
  (List.head ((atTileResults1.array 0).jobs) (by decide +kernel))

theorem witness_TileResults_1 :
    ∃ (a : Nat) (s : State) (j : Job) (js : List Job),
    s.runs a = true ∧
    (s.array a).jobs = j :: js ∧
    j.kind = .stopped ∧
    j.sparse = false :=
  ⟨0, atTileResults1, atTileResults1J, (List.tail ((atTileResults1.array 0).jobs)), by decide +kernel⟩

def atTileResults2X : Trailer :=
  (List.head ((trailing.array 0).trailers) (by decide +kernel))

def atTileResults2Off : Nat :=
  trailing.winOffset 0 (trailing.fld ARR_SEQ_CFG.trailer_window 0) (trailing.fld ARR_WIN_HEAD.pos 0 (trailing.fld ARR_SEQ_CFG.trailer_window 0)) 0

theorem witness_TileResults_2 :
    ∃ (a w off : Nat) (s : State) (x : Trailer) (xs : List Trailer),
    s.runs a = true ∧
    (s.array a).trailers = x :: xs ∧
    w = s.fld ARR_SEQ_CFG.trailer_window a ∧
    s.winOn a w = true ∧
    16 ≤ s.winFree a w ∧
    off = s.winOffset a w (s.fld ARR_WIN_HEAD.pos a w) 0 ∧
    s.stalls a [(off, 16)] = false :=
  ⟨0, trailing.fld ARR_SEQ_CFG.trailer_window 0, atTileResults2Off, trailing, atTileResults2X, (List.tail ((trailing.array 0).trailers)),
    by decide +kernel⟩

def atTileResults3 : State := running.mapArray 0 fun x => { x with trailers := [{ bytes := List.replicate 16 1#8, stalled := 0, offset := 64, sparse := false }] }

def atTileResults3X : Trailer :=
  (List.head ((atTileResults3.array 0).trailers) (by decide +kernel))

def atTileResults3Xs : List Trailer :=
  (List.tail ((atTileResults3.array 0).trailers))

theorem witness_TileResults_3 :
    ∃ (a : Nat) (s : State) (x : Trailer) (xs : List Trailer),
    s.runs a = true ∧
    (s.array a).trailers = x :: xs ∧
    s.winOn a (s.fld ARR_SEQ_CFG.trailer_window a) = false :=
  ⟨0, atTileResults3, atTileResults3X, atTileResults3Xs, by decide +kernel⟩

def atReduceAddsSlots0 : State := owned [3, 1, 0, 0, 7, 0, 0, 0, 0, 0, 0, 0, 0, 0, 0, 0, 0, 0, 0xFF, 1, 0, 0, 0, 1, 0, 0, 0, 1]

def atReduceAddsSlots0F : Fetched :=
  (Option.get (atReduceAddsSlots0.head 0 false 3) (by decide +kernel))

def atReduceAddsSlots0U : State :=
  atReduceAddsSlots0.sramMeet 0 (((ReduceCmd.parse atReduceAddsSlots0F.bytes).spans.flatMap fun sp => (List.range (ReduceCmd.parse atReduceAddsSlots0F.bytes).mRows).map fun i => (sp.1 + i * 128, 4 * (ReduceCmd.parse atReduceAddsSlots0F.bytes).nCols)) ++
      regionSpans (ReduceCmd.parse atReduceAddsSlots0F.bytes).accLine (ReduceCmd.parse atReduceAddsSlots0F.bytes).mRows (ReduceCmd.parse atReduceAddsSlots0F.bytes).nCols)

theorem witness_ReduceAddsSlots_0 :
    ∃ (a : Nat) (b : Bool) (f : Fetched) (s u : State) (c : ReduceCmd),
    s.up = true ∧
    s.head a b 3 = some f ∧
    c = ReduceCmd.parse f.bytes ∧
    firstFailure (s.reduceChecks a c) = none ∧
    s.holdsBack a ownSeq c.spans = false ∧
    s.turnAllows a b = true ∧
    s.matrixFree a c.accLine c.mRows true false b = true ∧
    u = s.sramMeet a ((c.spans.flatMap fun sp => (List.range c.mRows).map fun i => (sp.1 + i * 128, 4 * c.nCols)) ++
      regionSpans c.accLine c.mRows c.nCols) ∧
    (∀ i j, i < c.mRows → j < c.nCols → (u.reduceWord a c i j).1.isSome = true) :=
  ⟨0, false, atReduceAddsSlots0F, atReduceAddsSlots0, atReduceAddsSlots0U, ReduceCmd.parse atReduceAddsSlots0F.bytes, rfl,
    by decide +kernel, rfl, by decide +kernel, by decide +kernel, by decide +kernel, by decide +kernel, rfl,
    by intro i j hi hj; obtain rfl : i = 0 := Nat.lt_one_iff.1 hi; obtain rfl : j = 0 := Nat.lt_one_iff.1 hj; decide +kernel⟩

def atSparseTiles0 : State := owned (tileCmd 1 1)

def atSparseTiles0F : Fetched :=
  (Option.get (atSparseTiles0.head 0 false 1) (by decide +kernel))

def atSparseTiles0U : State :=
  atSparseTiles0.sramMeet 0 [((TileCmd.parse atSparseTiles0F.bytes).sparseMeta % 2 ^ 19, 32)]

def atSparseTiles0D : SparseDesc :=
  SparseDesc.parse (atSparseTiles0U.sram 0 ((TileCmd.parse atSparseTiles0F.bytes).sparseMeta % 2 ^ 19) 32)

theorem witness_SparseTiles_0 :
    ∃ (a : Nat) (b : Bool) (f : Fetched) (s u : State) (c : TileCmd) (d : SparseDesc),
    s.up = true ∧
    s.head a b 1 = some f ∧
    c = TileCmd.parse f.bytes ∧
    c.sparse = true ∧
    c.frozen = false ∧
    s.holdsBack a ownSeq (s.sparseSpans a c) = false ∧
    u = s.sramMeet a [(c.sparseMeta % 2 ^ 19, 32)] ∧
    d = SparseDesc.parse (u.sram a (c.sparseMeta % 2 ^ 19) 32) :=
  ⟨0, false, atSparseTiles0F, atSparseTiles0, atSparseTiles0U, TileCmd.parse atSparseTiles0F.bytes, atSparseTiles0D, by decide +kernel⟩

def atSparseTiles1 : State := working .sparse 0

def atSparseTiles1J : Job :=
  (List.head ((atSparseTiles1.array 0).jobs) (by decide +kernel))

theorem witness_SparseTiles_1 :
    ∃ (a : Nat) (s : State) (j : Job) (js : List Job),
    s.runs a = true ∧
    (s.array a).jobs = j :: js ∧
    j.kind = .sparse ∧
    (j.toVec = true → s.flag FBI_CFG.enable a = true ∨ (s.array a).tq.length < 8) :=
  ⟨0, atSparseTiles1, atSparseTiles1J, (List.tail ((atSparseTiles1.array 0).jobs)), by decide +kernel⟩

def atSparseTiles2 : State := (working .stopped 6).mapArray 0 fun x => { x with jobs := [{ aJob .stopped 6 with sparse := true }] }

def atSparseTiles2J : Job :=
  (List.head ((atSparseTiles2.array 0).jobs) (by decide +kernel))

theorem witness_SparseTiles_2 :
    ∃ (a : Nat) (s : State) (j : Job) (js : List Job),
    s.runs a = true ∧
    (s.array a).jobs = j :: js ∧
    j.kind = .stopped ∧
    j.sparse = true ∧
    j.status ≠ 0 ∧
    j.status < 256 :=
  ⟨0, atSparseTiles2, atSparseTiles2J, (List.tail ((atSparseTiles2.array 0).jobs)), by decide +kernel⟩

def atSparseTiles3N : Nat :=
  bits (fieldWrite .SPM_CFG (running.rd .SPM_CFG 0) 0x100) SPM_CFG.rowsplit.hi SPM_CFG.rowsplit.lo

theorem witness_SparseTiles_3 :
    ∃ (a n : Nat) (v : Word) (s : State),
    s.runsAndTakes a = true ∧
    n = bits (fieldWrite .SPM_CFG (s.rd .SPM_CFG a) v) SPM_CFG.rowsplit.hi SPM_CFG.rowsplit.lo ∧
    8 ≤ n ∧
    n ≤ 256 :=
  ⟨0, atSparseTiles3N, 0x100, running, by decide +kernel⟩

def atSparseTiles4N : Nat :=
  bits (fieldWrite .SPM_CFG (running.rd .SPM_CFG 0) 0x101) SPM_CFG.rowsplit.hi SPM_CFG.rowsplit.lo

theorem witness_SparseTiles_4 :
    ∃ (a n : Nat) (v : Word) (s : State),
    s.runsAndTakes a = true ∧
    n = bits (fieldWrite .SPM_CFG (s.rd .SPM_CFG a) v) SPM_CFG.rowsplit.hi SPM_CFG.rowsplit.lo ∧
    (n < 8 ∨ 256 < n) :=
  ⟨0, atSparseTiles4N, 0x101, running, by decide +kernel⟩

def atVectorCommandsBegin0 : State := owned [2, 0x31, 0, 1]

def atVectorCommandsBegin0F : Fetched :=
  (Option.get (atVectorCommandsBegin0.head 0 false 2) (by decide +kernel))

def atVectorCommandsBegin0U : State :=
  atVectorCommandsBegin0.sramMeet 0 (inScratchpad (VecCmd.parse atVectorCommandsBegin0F.bytes).blockSpans)

theorem witness_VectorCommandsBegin_0 :
    ∃ (code : Nat) (row : Nat → Bool → Instr) (a : Nat) (b : Bool) (f : Fetched) (s u : State) (c : VecCmd),
    (code, row) ∈ vecRows ∧
    s.up = true ∧
    s.head a b 2 = some f ∧
    c = VecCmd.parse f.bytes ∧
    c.vop = code ∧
    s.vecHeld a c = false ∧
    u = s.sramMeet a (inScratchpad c.blockSpans) :=
  ⟨0x31, .vecPack, 0, false, atVectorCommandsBegin0F, atVectorCommandsBegin0, atVectorCommandsBegin0U,
    VecCmd.parse atVectorCommandsBegin0F.bytes, by simp [vecRows], rfl, by decide +kernel, rfl, by decide +kernel, by decide +kernel,
    rfl⟩

def atVectorGoesOnAndEnds0F : Fetched :=
  (Option.get (vecWaits.head 0 false 2) (by decide +kernel))

def atVectorGoesOnAndEnds0U : State :=
  vecWaits.sramMeet 0 (inScratchpad (VecCmd.parse atVectorGoesOnAndEnds0F.bytes).blockSpans)

def atVectorGoesOnAndEnds0T : State :=
  atVectorGoesOnAndEnds0U.vecBegin (atVectorGoesOnAndEnds0U.vecAt 0 (VecCmd.parse atVectorGoesOnAndEnds0F.bytes)) false atVectorGoesOnAndEnds0F.offset (atVectorGoesOnAndEnds0U.vecEntry 0 (VecCmd.parse atVectorGoesOnAndEnds0F.bytes)) (atVectorGoesOnAndEnds0U.vecLength 0 (VecCmd.parse atVectorGoesOnAndEnds0F.bytes))

theorem witness_VectorGoesOnAndEnds_0 :
    ∃ (a : Nat) (b : Bool) (f : Fetched) (s u t : State) (c : VecCmd),
    s.up = true ∧
    s.head a b 2 = some f ∧
    f.waiting = true ∧
    c = VecCmd.parse f.bytes ∧
    s.vecHeld a c = false ∧
    u = s.sramMeet a (inScratchpad c.blockSpans) ∧
    firstFailure (u.vecChecks a b c) = none ∧
    (c.tq = true → (u.vecEntry a c).isSome = true) ∧
    (u.vecAt a c).windowsReady u = true ∧
    (u.array a).vec = none ∧
    u.accOrderHolds (u.vecAt a c) = false ∧
    t = u.vecBegin (u.vecAt a c) b f.offset (u.vecEntry a c) (u.vecLength a c) ∧
    s.head a (!b) 2 = none ∧
    t.head a (!b) 2 = none :=
  ⟨0, false, atVectorGoesOnAndEnds0F, vecWaits, atVectorGoesOnAndEnds0U, atVectorGoesOnAndEnds0T,
    VecCmd.parse atVectorGoesOnAndEnds0F.bytes, by decide +kernel⟩

def atVectorGoesOnAndEnds1 : State := vecRuns [] none

def atVectorGoesOnAndEnds1J : VecJob :=
  (Option.get ((atVectorGoesOnAndEnds1.array 0).vec) (by decide +kernel))

def atVectorGoesOnAndEnds1U : State :=
  ((atVectorGoesOnAndEnds1.mapArray 0 fun x => { x with vec := none }).bump VEC_PERF_CMDS.count 0 0 1).setFld VEC_STATUS.pass 0 0 atVectorGoesOnAndEnds1J.pass

theorem witness_VectorGoesOnAndEnds_1 :
    ∃ (a : Nat) (s u : State) (j : VecJob),
    s.runs a = true ∧
    (s.array a).vec = some j ∧
    j.poisonedAt = none ∧
    j.advances = [] ∧
    u = ((s.mapArray a fun x => { x with vec := none }).bump VEC_PERF_CMDS.count a 0 1).setFld VEC_STATUS.pass a 0 j.pass :=
  ⟨0, atVectorGoesOnAndEnds1, atVectorGoesOnAndEnds1U, atVectorGoesOnAndEnds1J, by decide +kernel⟩

def atVectorGoesOnAndEnds2 : State := vecRuns [(7, true, 32)] none

def atVectorGoesOnAndEnds2J : VecJob :=
  (Option.get ((atVectorGoesOnAndEnds2.array 0).vec) (by decide +kernel))

def atVectorGoesOnAndEnds2U : State :=
  (((atVectorGoesOnAndEnds2.mapArray 0 fun x => { x with vec := none }).bump VEC_PERF_CMDS.count 0 0 1).setFld VEC_STATUS.pass 0 0 atVectorGoesOnAndEnds2J.pass).setFld
      VEC_STATUS.state 0 0 0

theorem witness_VectorGoesOnAndEnds_2 :
    ∃ (a w n : Nat) (tail : Bool) (s u : State) (j : VecJob),
    s.runs a = true ∧
    (s.array a).vec = some j ∧
    j.poisonedAt = none ∧
    j.advances = [(w, tail, n)] ∧
    s.winMay a w tail n = false ∧
    w < 8 ∧
    s.fld VEC_STATUS.state a ≠ 4 ∧
    u = (((s.mapArray a fun x => { x with vec := none }).bump VEC_PERF_CMDS.count a 0 1).setFld VEC_STATUS.pass a 0 j.pass).setFld
      VEC_STATUS.state a 0 0 :=
  ⟨0, 7, 32, true, atVectorGoesOnAndEnds2, atVectorGoesOnAndEnds2U, atVectorGoesOnAndEnds2J, by decide +kernel⟩

def atVectorGoesOnAndEnds3 : State := vecRuns [] (some 0)

def atVectorGoesOnAndEnds3J : VecJob :=
  (Option.get ((atVectorGoesOnAndEnds3.array 0).vec) (by decide +kernel))

theorem witness_VectorGoesOnAndEnds_3 :
    ∃ (a done : Nat) (s : State) (j : VecJob),
    s.runs a = true ∧
    (s.array a).vec = some j ∧
    j.poisonedAt = some done :=
  ⟨0, 0, atVectorGoesOnAndEnds3, atVectorGoesOnAndEnds3J, by decide +kernel⟩

theorem witness_VectorControlWrites_0 :
    ∃ (a : Nat) (s : State),
    s.runsAndTakes a = true :=
  ⟨2239, running, by decide +kernel⟩

theorem witness_VectorControlWrites_1 :
    ∃ (a : Nat) (s : State),
    s.runsAndTakes a = true ∧
    s.fld VEC_STATUS.state a = 0 ∧
    (s.array a).vec = none ∧
    (s.array a).tq = [] :=
  ⟨0, running, by decide +kernel⟩

theorem witness_VectorControlWrites_2 :
    ∃ (a : Nat) (s : State),
    s.runsAndTakes a = true ∧
    (s.fld VEC_STATUS.state a ≠ 0 ∨ (s.array a).tq ≠ []) :=
  ⟨0, running.setFld VEC_STATUS.state 0 0 2, by decide +kernel⟩

theorem witness_VectorControlWrites_3 :
    ∃ (a : Nat) (v : Word) (s : State),
    s.runsAndTakes a = true ∧
    (s.fld ARR_STATUS.seq_state a = seqIdle ∨ s.fld ARR_STATUS.seq_state a = seqHalted) ∧
    bit v 63 = false :=
  ⟨0, 0, running, by decide +kernel⟩

theorem witness_VectorControlWrites_4 :
    ∃ (a : Nat) (v : Word) (s : State),
    s.runsAndTakes a = true ∧
    (s.fld ARR_STATUS.seq_state a = seqIdle ∨ s.fld ARR_STATUS.seq_state a = seqHalted) ∧
    bit v 63 = true :=
  ⟨0, 0x8000000000000000, running, by decide +kernel⟩

theorem witness_VectorControlWrites_5 :
    ∃ (a : Nat) (s : State),
    s.runsAndTakes a = true ∧
    s.fld ARR_STATUS.seq_state a ≠ seqIdle ∧
    s.fld ARR_STATUS.seq_state a ≠ seqHalted :=
  ⟨0, seqOn, by decide +kernel⟩

def atRakeSubmissionQueued0L : Layer :=
  (Option.get (raking.layer (bits 0x40 39 32)) (by decide +kernel))

def atRakeSubmissionQueued0U : State :=
  (raking.memRead (0x080000000000 + raking.fld RAKE_STREAM_CFG.array 63 * 0x100000 + bits 0x40 18 0) 32 ownExt dieHub).1

def atRakeSubmissionQueued0Cells : List (Byte × Bool) :=
  (raking.memRead (0x080000000000 + raking.fld RAKE_STREAM_CFG.array 63 * 0x100000 + bits 0x40 18 0) 32 ownExt dieHub).2.2

def atRakeSubmissionQueued0Q : Submission :=
  (Option.get (routeHeader atRakeSubmissionQueued0L (atRakeSubmissionQueued0Cells.map (·.1)) (bits 0x40 63 48) (bits 0x40 47 47) (bits 0x40 39 32)) (by decide +kernel))

def atRakeSubmissionQueued0H : RakeHalf :=
  (Option.get (atRakeSubmissionQueued0U.halfOf (bits 0x40 39 32) atRakeSubmissionQueued0Q.backward (bits 0x40 47 47) atRakeSubmissionQueued0Q.epoch) (by decide +kernel))

def atRakeSubmissionQueued0W : State :=
  atRakeSubmissionQueued0U.mapHalf (bits 0x40 39 32) atRakeSubmissionQueued0Q.backward (bits 0x40 47 47) atRakeSubmissionQueued0Q.epoch (fun h₁ => { h₁ with submitted := h₁.submitted ++ [(bits 0x40 63 48)] })

theorem witness_RakeSubmissionQueued_0 :
    ∃ (n g half slot : Nat) (v : Word) (s u w : State) (l : Layer) (q : Submission) (h : RakeHalf) (cells : List (Byte × Bool)),
    s.takesWrites = true ∧
    n ≤ 63 ∧
    s.flag RAKE_STREAM_CFG.enable n = true ∧
    s.fld RAKE_STREAM_STATUS.state n ≠ 3 ∧
    g = bits v 63 48 ∧
    half = bits v 47 47 ∧
    slot = bits v 39 32 ∧
    s.layer slot = some l ∧
    bits v 46 40 = 0 ∧
    bits v 31 19 = 0 ∧
    bits v 18 0 % 32 = 0 ∧
    (s.stream n).queue.length < 16 ∧
    (s.stream n).arriving = [] ∧
    s.memRead (0x080000000000 + s.fld RAKE_STREAM_CFG.array n * 0x100000 + bits v 18 0) 32 ownExt dieHub = (u, .opened, cells) ∧
    cells.any (·.2) = false ∧
    routeHeader l (cells.map (·.1)) g half slot = some q ∧
    u.halfOf slot q.backward half q.epoch = some h ∧
    h.finished = false ∧
    g < h.groups ∧
    h.submitted.contains g = false ∧
    w = u.mapHalf slot q.backward half q.epoch (fun h => { h with submitted := h.submitted ++ [g] }) :=
  ⟨63, bits 0x40 63 48, bits 0x40 47 47, bits 0x40 39 32, 0x40, raking, atRakeSubmissionQueued0U, atRakeSubmissionQueued0W,
    atRakeSubmissionQueued0L, atRakeSubmissionQueued0Q, atRakeSubmissionQueued0H, atRakeSubmissionQueued0Cells, by decide +kernel⟩

def atRakeSubmissionQueued1L : Layer :=
  (Option.get (raking.layer (bits 1 39 32)) (by decide +kernel))

theorem witness_RakeSubmissionQueued_1 :
    ∃ (n : Nat) (v : Word) (s : State) (l : Layer),
    s.takesWrites = true ∧
    n ≤ 63 ∧
    s.flag RAKE_STREAM_CFG.enable n = true ∧
    s.fld RAKE_STREAM_STATUS.state n ≠ 3 ∧
    s.layer (bits v 39 32) = some l ∧
    (bits v 46 40 ≠ 0 ∨ bits v 31 19 ≠ 0 ∨ bits v 18 0 % 32 ≠ 0) :=
  ⟨63, 1, raking, atRakeSubmissionQueued1L, by decide +kernel⟩

def atRakeSubmissionQueued2L : Layer :=
  (Option.get (raking.layer (bits 0x40 39 32)) (by decide +kernel))

theorem witness_RakeSubmissionQueued_2 :
    ∃ (n : Nat) (v : Word) (s : State) (l : Layer),
    s.takesWrites = true ∧
    n ≤ 63 ∧
    s.flag RAKE_STREAM_CFG.enable n = true ∧
    s.fld RAKE_STREAM_STATUS.state n ≠ 3 ∧
    s.layer (bits v 39 32) = some l ∧
    bits v 46 40 = 0 ∧
    bits v 31 19 = 0 ∧
    bits v 18 0 % 32 = 0 :=
  ⟨63, 0x40, raking, atRakeSubmissionQueued2L, by decide +kernel⟩

def atRakeArmsAndStreams0L : Layer :=
  (Option.get (layered.layer (bits 0xFFFE000100000000 31 24)) (by decide +kernel))

def atRakeArmsAndStreams0U : State :=
  { layered with rake := { layered.rake with
      halves := layered.rake.halves ++ [{ slot := (bits 0xFFFE000100000000 31 24), backward := (bit 0xFFFE000100000000 22), half := (bits 0xFFFE000100000000 23 23), epoch := (bits 0xFFFE000100000000 63 48), groups := bits 0xFFFE000100000000 47 32, cplArray := bits 0xFFFE000100000000 15 4, cplWindow := bits 0xFFFE000100000000 2 0 }], decided := removeKey (decidedKey (bits 0xFFFE000100000000 31 24) (bit 0xFFFE000100000000 22) (bits 0xFFFE000100000000 23 23) (bits 0xFFFE000100000000 63 48)) layered.rake.decided, order := if atRakeArmsAndStreams0L.train && !(bit 0xFFFE000100000000 22) && bits 0xFFFE000100000000 47 32 != 0 then layered.rake.order.erase ((bits 0xFFFE000100000000 31 24), (bits 0xFFFE000100000000 23 23), (bits 0xFFFE000100000000 63 48)) ++ [((bits 0xFFFE000100000000 31 24), (bits 0xFFFE000100000000 23 23), (bits 0xFFFE000100000000 63 48))] else layered.rake.order } }

theorem witness_RakeArmsAndStreams_0 :
    ∃ (v : Word) (s u : State) (l : Layer) (slot half epoch : Nat) (b : Bool),
    s.takesWrites = true ∧
    slot = bits v 31 24 ∧
    b = bit v 22 ∧
    half = bits v 23 23 ∧
    epoch = bits v 63 48 ∧
    s.layer slot = some l ∧
    epoch ≠ 0xFFFF ∧
    s.cancelled epoch = false ∧
    s.halfOf slot b half epoch = none ∧
    u = { s with rake := { s.rake with
      halves := s.rake.halves ++ [{ slot := slot, backward := b, half := half, epoch := epoch, groups := bits v 47 32, cplArray := bits v 15 4, cplWindow := bits v 2 0 }], decided := removeKey (decidedKey slot b half epoch) s.rake.decided, order := if l.train && !b && bits v 47 32 != 0 then s.rake.order.erase (slot, half, epoch) ++ [(slot, half, epoch)] else s.rake.order } } :=
  ⟨0xFFFE000100000000, layered, atRakeArmsAndStreams0U, atRakeArmsAndStreams0L, bits 0xFFFE000100000000 31 24,
    bits 0xFFFE000100000000 23 23, bits 0xFFFE000100000000 63 48, bit 0xFFFE000100000000 22, by decide +kernel⟩

theorem witness_RakeArmsAndStreams_1 :
    ∃ (v : Word) (s : State),
    s.takesWrites = true ∧
    ((s.layer (bits v 31 24)).isSome = false ∨ bits v 63 48 = 0xFFFF ∨ s.cancelled (bits v 63 48) = true ∨
      (s.halfOf (bits v 31 24) (bit v 22) (bits v 23 23) (bits v 63 48)).isSome = true) :=
  ⟨0xFFFF000100000000, layered, by decide +kernel⟩

theorem witness_RakeArmsAndStreams_2 :
    ∃ (n : Nat) (v : Word) (s : State),
    s.takesWrites = true ∧
    n ≤ 63 ∧
    bit v 63 = true :=
  ⟨63, 0x8000000000000000, running, by decide +kernel⟩

theorem witness_RakeArmsAndStreams_3 :
    ∃ (n : Nat) (v : Word) (s : State),
    s.takesWrites = true ∧
    n ≤ 63 ∧
    bit v 63 = false :=
  ⟨63, 0, running, by decide +kernel⟩

def atRakeTakesChoices0Q : Submission :=
  (List.head ((dispatching.stream 63).queue) (by decide +kernel))

def atRakeTakesChoices0L : Layer :=
  (Option.get (dispatching.layer atRakeTakesChoices0Q.slot) (by decide +kernel))

def atRakeTakesChoices0H : RakeHalf :=
  (Option.get (dispatching.halfInWork atRakeTakesChoices0Q.slot atRakeTakesChoices0Q.backward) (by decide +kernel))

def atRakeTakesChoices0X : State :=
  (dispatching.sramSeen (dispatching.fld RAKE_STREAM_CFG.array 63) (atRakeTakesChoices0Q.reads atRakeTakesChoices0L)).1

theorem witness_RakeTakesChoices_0 :
    ∃ (n a : Nat) (s x : State) (l : Layer) (q : Submission) (rest : List Submission) (h : RakeHalf),
    s.working = true ∧
    (s.stream n).arriving = [] ∧
    (s.stream n).queue = q :: rest ∧
    s.fld RAKE_STREAM_STATUS.state n ≠ 3 ∧
    s.layer q.slot = some l ∧
    s.halfInWork q.slot q.backward = some h ∧
    h.is q.slot q.backward q.half q.epoch = true ∧
    s.submissionTurn l h q = true ∧
    a = s.fld RAKE_STREAM_CFG.array n ∧
    (∀ sp ∈ q.spans l, s.memGate (0x080000000000 + a * 0x100000 + sp.1) sp.2 ownExt = .opened) ∧
    s.sramSeen a (q.reads l) = (x, false) ∧
    (∀ m, m < q.tokens * l.topK → leNat (x.sram a (q.idxAddr + 4 * m) 4) < l.experts ∨
      leNat (x.sram a (q.idxAddr + 4 * m) 4) = 0xFFFFFFFF) :=
  ⟨63, dispatching.fld RAKE_STREAM_CFG.array 63, dispatching, atRakeTakesChoices0X, atRakeTakesChoices0L, atRakeTakesChoices0Q,
    (List.tail ((dispatching.stream 63).queue)), atRakeTakesChoices0H, by decide +kernel⟩

def atRakeTakesChoices2H : RakeHalf :=
  (Option.get (fullHalf.halfOf (({ g := 0, half := 0, slot := 0, backward := false, epoch := 5, tokAddr := 0, tokScale := 0, tokens := 1, idxAddr := 0, placeAddr := 0, firstToken := 0, pitch := 0 } : Submission)).slot (({ g := 0, half := 0, slot := 0, backward := false, epoch := 5, tokAddr := 0, tokScale := 0, tokens := 1, idxAddr := 0, placeAddr := 0, firstToken := 0, pitch := 0 } : Submission)).backward (({ g := 0, half := 0, slot := 0, backward := false, epoch := 5, tokAddr := 0, tokScale := 0, tokens := 1, idxAddr := 0, placeAddr := 0, firstToken := 0, pitch := 0 } : Submission)).half (({ g := 0, half := 0, slot := 0, backward := false, epoch := 5, tokAddr := 0, tokScale := 0, tokens := 1, idxAddr := 0, placeAddr := 0, firstToken := 0, pitch := 0 } : Submission)).epoch) (by decide +kernel))

theorem witness_RakeTakesChoices_2 :
    ∃ (e : Nat) (s : State) (l : Layer) (q : Submission) (h : RakeHalf),
    e ≠ 0xFFFFFFFF ∧
    l.drop = true ∧
    s.halfOf q.slot q.backward q.half q.epoch = some h ∧
    Sparse.get 0 h.sent e = l.cap :=
  ⟨1, fullHalf, Layer.parse (fullHalf.tableBytes .RX_LAYER_TABLE 0 8),
    ({ g := 0, half := 0, slot := 0, backward := false, epoch := 5, tokAddr := 0, tokScale := 0, tokens := 1, idxAddr := 0, placeAddr := 0, firstToken := 0, pitch := 0 } : Submission),
    atRakeTakesChoices2H, by decide +kernel⟩

def atNoticesAndReleases0L : Layer :=
  (Option.get (layered.layer (byteAt (cmd [1, 0, 0, 0, 1]) 1)) (by decide +kernel))

theorem witness_NoticesAndReleases_0 :
    ∃ (bs : List Byte) (s : State) (l : Layer) (e : Nat),
    s.up = true ∧
    bs.length = 32 ∧
    byteAt bs 0 = 1 ∧
    s.layer (byteAt bs 1) = some l ∧
    e = num bs 4 2 % 4096 ∧
    e < l.experts ∧
    l.eager = false ∧
    (s.expert l e).rests = false :=
  ⟨cmd [1, 0, 0, 0, 1], layered, atNoticesAndReleases0L, num (cmd [1, 0, 0, 0, 1]) 4 2 % 4096, by decide +kernel⟩

def atNoticesAndReleases1L : Layer :=
  (Option.get (layered.layer (byteAt (cmd [2, 0, 0, 0, 1]) 1)) (by decide +kernel))

theorem witness_NoticesAndReleases_1 :
    ∃ (bs : List Byte) (s : State) (l : Layer) (e p : Nat),
    s.up = true ∧
    bs.length = 32 ∧
    byteAt bs 0 = 2 ∧
    s.layer (byteAt bs 1) = some l ∧
    e = num bs 4 2 % 4096 ∧
    e < l.experts ∧
    p < l.ranks ∧
    p ≠ byteAt bs 3 % 64 ∧
    s.qm.ends.contains (byteAt bs 1, e, byteAt bs 2 / 2 % 2 == 1, byteAt bs 2 % 2, num bs 16 2, p) = false :=
  ⟨cmd [2, 0, 0, 0, 1], layered, atNoticesAndReleases1L, num (cmd [2, 0, 0, 0, 1]) 4 2 % 4096, 1, by decide +kernel⟩

def atNoticesAndReleases2 : State := { layered with qm := { layered.qm with groups := [homeGroup] } }

def atNoticesAndReleases2L : Layer :=
  (Option.get (atNoticesAndReleases2.layer homeGroup.slot) (by decide +kernel))

theorem witness_NoticesAndReleases_2 :
    ∃ (v : Word) (s : State) (l : Layer) (g : HomeGroup),
    s.takesWrites = true ∧
    g = { slot := bits v 63 56, expert := bits v 35 24, rank := bits v 55 50, backward := bit v 49, seq := bits v 23 0 } ∧
    s.layer g.slot = some l ∧
    s.qm.groups.contains g = true :=
  ⟨0x0004000000FFFFFF, atNoticesAndReleases2, atNoticesAndReleases2L, homeGroup, by decide +kernel⟩

theorem witness_NoticesAndReleases_3 :
    ∃ (v : Word) (s : State),
    s.takesWrites = true ∧
    s.qm.groups.contains { slot := bits v 63 56, expert := bits v 35 24, rank := bits v 55 50, backward := bit v 49, seq := bits v 23 0 } = false :=
  ⟨0x0004000000FFFFFF, layered, by decide +kernel⟩

def atNoticesAndReleases4 : State := layered.setDest { slot := 0, expert := 1, backward := false, occupied := [0xFFFFFF] }

def atNoticesAndReleases4D : Dest :=
  atNoticesAndReleases4.dest (byteAt (cmd [4, 0, 0, 0, 1, 0, 0, 0, 0xFF, 0xFF, 0xFF]) 1) (num (cmd [4, 0, 0, 0, 1, 0, 0, 0, 0xFF, 0xFF, 0xFF]) 4 2 % 4096) (byteAt (cmd [4, 0, 0, 0, 1, 0, 0, 0, 0xFF, 0xFF, 0xFF]) 2 / 2 % 2 == 1)

theorem witness_NoticesAndReleases_4 :
    ∃ (bs : List Byte) (s : State) (d : Dest),
    s.up = true ∧
    byteAt bs 0 = 4 ∧
    d = s.dest (byteAt bs 1) (num bs 4 2 % 4096) (byteAt bs 2 / 2 % 2 == 1) ∧
    d.occupied.contains (num bs 8 4 % 2 ^ 24) = true :=
  ⟨cmd [4, 0, 0, 0, 1, 0, 0, 0, 0xFF, 0xFF, 0xFF], atNoticesAndReleases4, atNoticesAndReleases4D, by decide +kernel⟩

theorem witness_ResidencyMoves_0 :
    ∃ (s : State),
    s.takesWrites = true :=
  ⟨layered, by decide +kernel⟩

def atResidencyMoves1 : State := { layered with qm := { layered.qm with waiting := [1] } }

def atResidencyMoves1L : Layer :=
  (Option.get (atResidencyMoves1.layer 0) (by decide +kernel))

def atResidencyMoves1P : Nat :=
  (Option.get (atResidencyMoves1.freePool atResidencyMoves1L) (by decide +kernel))

theorem witness_ResidencyMoves_1 :
    ∃ (slot e p : Nat) (s : State) (l : Layer),
    s.working = true ∧
    s.layer slot = some l ∧
    s.qm.waiting.contains (resKey slot e) = true ∧
    s.freePool l = some p :=
  ⟨0, 1, atResidencyMoves1P, atResidencyMoves1, atResidencyMoves1L, by decide +kernel⟩

def atResidencyMoves2 : State := { pageless with qm := { layered.qm with writeBacks := [(0, 1)] } }

def atResidencyMoves2L : Layer :=
  (Option.get (atResidencyMoves2.layer 0) (by decide +kernel))

def atResidencyMoves2U : State :=
  (({ atResidencyMoves2 with qm := { atResidencyMoves2.qm with writeBacks := atResidencyMoves2.qm.writeBacks.erase ((0, 1)) } } : State).copyMem (atResidencyMoves2L.poolAddr (atResidencyMoves2.res (atResidencyMoves2L.expertBase + 0)).2)
      (atResidencyMoves2.expert atResidencyMoves2L 0).image (atResidencyMoves2L.slotUnits * 4096)).1

def atResidencyMoves2Wl : Layer :=
  (Option.get (atResidencyMoves2U.layer (((0, 1)).2 / 4096)) (by decide +kernel))

theorem witness_ResidencyMoves_2 :
    ∃ (slot v : Nat) (s u : State) (l wl : Layer) (w : Nat × Nat),
    s.up = true ∧
    s.layer slot = some l ∧
    s.qm.writeBacks.find? (fun w => w.1 == resKey slot v) = some w ∧
    ({ s with qm := { s.qm with writeBacks := s.qm.writeBacks.erase w } } : State).copyMem (l.poolAddr (s.res (l.expertBase + v)).2)
      (s.expert l v).image (l.slotUnits * 4096) = (u, true) ∧
    u.layer (w.2 / 4096) = some wl :=
  ⟨0, 0, atResidencyMoves2, atResidencyMoves2U, atResidencyMoves2L, atResidencyMoves2Wl, (0, 1), by decide +kernel⟩

def atResidencyMoves3 : State := resident resFetching

def atResidencyMoves3L : Layer :=
  (Option.get (atResidencyMoves3.layer 0) (by decide +kernel))

def atResidencyMoves3U : State :=
  (atResidencyMoves3.copyMem (atResidencyMoves3.expert atResidencyMoves3L 1).image (atResidencyMoves3L.poolAddr (atResidencyMoves3.res (atResidencyMoves3L.expertBase + 1)).2) (atResidencyMoves3L.slotUnits * 4096)).1

theorem witness_ResidencyMoves_3 :
    ∃ (slot e : Nat) (s u : State) (l : Layer),
    s.up = true ∧
    s.layer slot = some l ∧
    e < l.experts ∧
    (s.res (l.expertBase + e)).1 = resFetching ∧
    s.copyMem (s.expert l e).image (l.poolAddr (s.res (l.expertBase + e)).2) (l.slotUnits * 4096) = (u, true) :=
  ⟨0, 1, atResidencyMoves3, atResidencyMoves3U, atResidencyMoves3L, by decide +kernel⟩

def atResidencyMoves4 : State := resident resFetching

def atResidencyMoves4L : Layer :=
  (Option.get (atResidencyMoves4.layer 0) (by decide +kernel))

theorem witness_ResidencyMoves_4 :
    ∃ (slot e : Nat) (s : State) (l : Layer),
    s.up = true ∧
    s.layer slot = some l ∧
    e < l.experts ∧
    (s.res (l.expertBase + e)).1 = resFetching :=
  ⟨0, 1, atResidencyMoves4, atResidencyMoves4L, by decide +kernel⟩

def atSluiceRequests0 : State := layered.sramWrite 0 0x1000 (cmd [1])

def atSluiceRequests0U : State :=
  (atSluiceRequests0.memRead (bits 0x080000001000 47 0) 32 ownExt dieHub).1

def atSluiceRequests0Cells : List (Byte × Bool) :=
  (atSluiceRequests0.memRead (bits 0x080000001000 47 0) 32 ownExt dieHub).2.2

theorem witness_SluiceRequests_0 :
    ∃ (v : Word) (s u : State) (cells : List (Byte × Bool)),
    s.takesWrites = true ∧
    bits v 47 0 % 32 = 0 ∧
    s.slu.length < 64 ∧
    s.sluWait = [] ∧
    s.memRead (bits v 47 0) 32 ownExt dieHub = (u, .opened, cells) ∧
    cells.any (·.2) = false ∧
    s.sluBad (cells.map (·.1)) = false :=
  ⟨0x080000001000, atSluiceRequests0, atSluiceRequests0U, atSluiceRequests0Cells, by decide +kernel⟩

def atSluiceRequests1U : State :=
  (layered.memRead (bits 0x080000001000 47 0) 32 ownExt dieHub).1

def atSluiceRequests1G : Gate :=
  (layered.memRead (bits 0x080000001000 47 0) 32 ownExt dieHub).2.1

def atSluiceRequests1Cells : List (Byte × Bool) :=
  (layered.memRead (bits 0x080000001000 47 0) 32 ownExt dieHub).2.2

theorem witness_SluiceRequests_1 :
    ∃ (v : Word) (s u : State) (cells : List (Byte × Bool)) (g : Gate),
    s.takesWrites = true ∧
    bits v 47 0 % 32 = 0 ∧
    s.slu.length < 64 ∧
    s.sluWait = [] ∧
    s.memRead (bits v 47 0) 32 ownExt dieHub = (u, g, cells) :=
  ⟨0x080000001000, layered, atSluiceRequests1U, atSluiceRequests1Cells, atSluiceRequests1G, by decide +kernel⟩

theorem witness_SluiceRequests_2 :
    ∃ (v : Word) (s : State),
    s.takesWrites = true ∧
    (bits v 47 0 % 32 ≠ 0 ∨ 64 ≤ s.slu.length + s.sluWait.length) :=
  ⟨0x080000001001, layered, by decide +kernel⟩

def atSluiceRequests3 : State := sluiced [1]

def atSluiceRequests3R : SluReq :=
  (List.head (atSluiceRequests3.slu) (by decide +kernel))

def atSluiceRequests3L : Layer :=
  (Option.get (atSluiceRequests3.layer atSluiceRequests3R.slot) (by decide +kernel))

def atSluiceRequests3U : State :=
  (atSluiceRequests3.memRead (atSluiceRequests3R.addr % 2 ^ 48) (atSluiceRequests3L.groupBytes atSluiceRequests3R.backward) ownExt dieHub).1

def atSluiceRequests3Cells : List (Byte × Bool) :=
  (atSluiceRequests3.memRead (atSluiceRequests3R.addr % 2 ^ 48) (atSluiceRequests3L.groupBytes atSluiceRequests3R.backward) ownExt dieHub).2.2

theorem witness_SluiceRequests_3 :
    ∃ (s u : State) (r : SluReq) (rs : List SluReq) (l : Layer) (cells : List (Byte × Bool)),
    s.working = true ∧
    s.sluWait = [] ∧
    s.slu = r :: rs ∧
    r.kind = 1 ∧
    s.layer r.slot = some l ∧
    s.memGate (winAddr r.array r.a) (l.groupBytes r.backward) ownExt = .opened ∧
    s.memGate (r.addr % 2 ^ 48) (l.groupBytes r.backward) ownExt = .opened ∧
    s.memRead (r.addr % 2 ^ 48) (l.groupBytes r.backward) ownExt dieHub = (u, .opened, cells) :=
  ⟨atSluiceRequests3, atSluiceRequests3U, atSluiceRequests3R, (List.tail (atSluiceRequests3.slu)), atSluiceRequests3L,
    atSluiceRequests3Cells, by decide +kernel⟩

def atSluiceRequests4 : State := sluiced [2, 0, 0, 1, 0, 0, 0, 0, 0, 0, 0, 0, 0, 4, 0, 0, 0, 5]

def atSluiceRequests4R : SluReq :=
  (List.head (atSluiceRequests4.slu) (by decide +kernel))

def atSluiceRequests4L : Layer :=
  (Option.get (atSluiceRequests4.layer atSluiceRequests4R.slot) (by decide +kernel))

def atSluiceRequests4U : State :=
  (atSluiceRequests4.sramSeen atSluiceRequests4R.array [(atSluiceRequests4R.c, 8 * atSluiceRequests4R.n)]).1

def atSluiceRequests4Rows : List (Nat × Nat) :=
  ((List.range atSluiceRequests4R.n).map fun t => (t, leNat (atSluiceRequests4U.sram atSluiceRequests4R.array (atSluiceRequests4R.c + 8 * t) 8))).filter (fun x => x.2 != emptyTag)

def atSluiceRequests4V : State :=
  (atSluiceRequests4U.sramSeen atSluiceRequests4R.array (atSluiceRequests4Rows.flatMap fun x => rowSpans atSluiceRequests4L atSluiceRequests4R x.1)).1

theorem witness_SluiceRequests_4 :
    ∃ (s u v : State) (r : SluReq) (rs : List SluReq) (l : Layer) (rows : List (Nat × Nat)),
    s.working = true ∧
    s.sluWait = [] ∧
    s.slu = r :: rs ∧
    r.kind = 2 ∧
    s.layer r.slot = some l ∧
    (∀ sp ∈ [(r.a, l.codeBytes r.backward), (r.b, l.d), (r.c, 256)], s.memGate (winAddr r.array sp.1) sp.2 ownExt = .opened) ∧
    s.sramSeen r.array [(r.c, 8 * r.n)] = (u, false) ∧
    rows = ((List.range r.n).map fun t => (t, leNat (u.sram r.array (r.c + 8 * t) 8))).filter (fun x => x.2 != emptyTag) ∧
    (∀ x ∈ rows, u.rowsToward (u.packageOf l (x.2 / 2 ^ 24 % 64)) +
      (rows.filter fun y => u.packageOf l (y.2 / 2 ^ 24 % 64) == u.packageOf l (x.2 / 2 ^ 24 % 64)).length ≤ 512) ∧
    v = (u.sramSeen r.array (rows.flatMap fun x => rowSpans l r x.1)).1 :=
  ⟨atSluiceRequests4, atSluiceRequests4U, atSluiceRequests4V, atSluiceRequests4R, (List.tail (atSluiceRequests4.slu)),
    atSluiceRequests4L, atSluiceRequests4Rows, by decide +kernel⟩

def atSluiceRequests5 : State := sluiced [3, 0, 0, 0, 0, 0, 0, 0, 0, 0, 0, 0, 0, 0, 0, 0, 0, 0, 0, 0, 4]

def atSluiceRequests5R : SluReq :=
  (List.head (atSluiceRequests5.slu) (by decide +kernel))

def atSluiceRequests5U : State :=
  (atSluiceRequests5.memRead (winAddr atSluiceRequests5R.array (gradientOff atSluiceRequests5R.a)) (32 + atSluiceRequests5R.len) ownExt dieHub).1

def atSluiceRequests5Cells : List (Byte × Bool) :=
  (atSluiceRequests5.memRead (winAddr atSluiceRequests5R.array (gradientOff atSluiceRequests5R.a)) (32 + atSluiceRequests5R.len) ownExt dieHub).2.2

def atSluiceRequests5Crc : Nat :=
  (if atSluiceRequests5R.len = 0 then 0 else crc32c ((atSluiceRequests5Cells.map (·.1)).drop 32))

theorem witness_SluiceRequests_5 :
    ∃ (s u : State) (r : SluReq) (rs : List SluReq) (cells : List (Byte × Bool)) (bs : List Byte) (crc line : Nat),
    s.working = true ∧
    s.sluWait = [] ∧
    s.slu = r :: rs ∧
    r.kind = 3 ∧
    s.memGate (winAddr r.array (gradientOff r.a)) (32 + r.len) ownExt = .opened ∧
    s.memRead (winAddr r.array (gradientOff r.a)) (32 + r.len) ownExt dieHub = (u, .opened, cells) ∧
    bs = cells.map (·.1) ∧
    crc = (if r.len = 0 then 0 else crc32c (bs.drop 32)) ∧
    line = segArriveAddr / 128 * 128 :=
  ⟨atSluiceRequests5, atSluiceRequests5U, atSluiceRequests5R, (List.tail (atSluiceRequests5.slu)), atSluiceRequests5Cells,
    atSluiceRequests5Cells.map (·.1), atSluiceRequests5Crc, segArriveAddr / 128 * 128, by decide +kernel⟩

theorem witness_RowsReturnEpochsCancel_0 :
    ∃ (s : State),
    s.up = true :=
  ⟨running, by decide +kernel⟩

theorem witness_RowsReturnEpochsCancel_1 :
    ∃ (bs : List Byte) (s : State),
    s.rake.rows = [bs] :=
  ⟨cmd [5], { layered with rake := { layered.rake with rows := [cmd [5]] } }, by decide +kernel⟩

def atRowsReturnEpochsCancel2L : Layer :=
  (Option.get (layered.layer (byteAt (cmd [5]) 1)) (by decide +kernel))

def atRowsReturnEpochsCancel2N : Nat :=
  (num (cmd [5]) 8 8) % 2 ^ 24 * atRowsReturnEpochsCancel2L.topK + (num (cmd [5]) 8 8) / 2 ^ 43 % 16

def atRowsReturnEpochsCancel2Nc : Nat :=
  atRowsReturnEpochsCancel2L.d * half2 (atRowsReturnEpochsCancel2L.fmtOf ((byteAt (cmd [5]) 2 / 2 % 2 == 1))) / 2

def atRowsReturnEpochsCancel2U : State :=
  (layered.putMem (retCodes atRowsReturnEpochsCancel2L ((byteAt (cmd [5]) 2 / 2 % 2 == 1)) atRowsReturnEpochsCancel2N) (((cmd [5]).drop 16).take atRowsReturnEpochsCancel2Nc) ownExt dieHub).putMem (retScales atRowsReturnEpochsCancel2L ((byteAt (cmd [5]) 2 / 2 % 2 == 1)) atRowsReturnEpochsCancel2N)
      (((cmd [5]).drop (16 + atRowsReturnEpochsCancel2Nc)).take (atRowsReturnEpochsCancel2L.d / 32)) ownExt dieHub

theorem witness_RowsReturnEpochsCancel_2 :
    ∃ (bs : List Byte) (s u : State) (l : Layer) (b : Bool) (tag n nc : Nat),
    byteAt bs 0 = 5 ∧
    s.layer (byteAt bs 1) = some l ∧
    b = (byteAt bs 2 / 2 % 2 == 1) ∧
    tag = num bs 8 8 ∧
    s.cancelled (tag / 2 ^ 48) = false ∧
    n = tag % 2 ^ 24 * l.topK + tag / 2 ^ 43 % 16 ∧
    nc = l.d * half2 (l.fmtOf b) / 2 ∧
    u = (s.putMem (retCodes l b n) ((bs.drop 16).take nc) ownExt dieHub).putMem (retScales l b n)
      ((bs.drop (16 + nc)).take (l.d / 32)) ownExt dieHub :=
  ⟨cmd [5], layered, atRowsReturnEpochsCancel2U, atRowsReturnEpochsCancel2L, (byteAt (cmd [5]) 2 / 2 % 2 == 1), num (cmd [5]) 8 8,
    atRowsReturnEpochsCancel2N, atRowsReturnEpochsCancel2Nc, by decide +kernel⟩

def atRowsReturnEpochsCancel3 : State := layered.wr .SLU_EPOCH_MAP 0 0 1

def atRowsReturnEpochsCancel3L : Layer :=
  (Option.get (atRowsReturnEpochsCancel3.layer (byteAt (cmd [5]) 1)) (by decide +kernel))

theorem witness_RowsReturnEpochsCancel_3 :
    ∃ (bs : List Byte) (s : State) (l : Layer) (b : Bool) (tag : Nat),
    byteAt bs 0 = 5 ∧
    s.layer (byteAt bs 1) = some l ∧
    b = (byteAt bs 2 / 2 % 2 == 1) ∧
    tag = num bs 8 8 ∧
    s.cancelled (tag / 2 ^ 48) = true :=
  ⟨cmd [5], atRowsReturnEpochsCancel3, atRowsReturnEpochsCancel3L, (byteAt (cmd [5]) 2 / 2 % 2 == 1), num (cmd [5]) 8 8,
    by decide +kernel⟩

theorem witness_RowsReturnEpochsCancel_4 :
    ∃ (s : State),
    s.takesWrites = true :=
  ⟨running, by decide +kernel⟩

theorem witness_RowsReturnEpochsCancel_5 :
    ∃ (s : State),
    s.takesWrites = true :=
  ⟨running, by decide +kernel⟩

def atSalterThreads0Started : Nat :=
  (255 &&& (255 - running.fld SALT_CTRL.run 31))

theorem witness_SalterThreads_0 :
    ∃ (core m started : Nat) (s : State),
    s.takesWrites = true ∧
    core ≤ 31 ∧
    m < 256 ∧
    started = (m &&& (255 - s.fld SALT_CTRL.run core)) :=
  ⟨31, 255, atSalterThreads0Started, running, by decide +kernel⟩

theorem witness_SalterThreads_1 :
    ∃ (core m : Nat) (s : State),
    s.takesWrites = true ∧
    core ≤ 31 ∧
    m < 256 :=
  ⟨31, 255, running, by decide +kernel⟩

def atSalterThreads2 : State := running.setFld SALT_STATUS.running 31 0 0x80

theorem witness_SalterThreads_2 :
    ∃ (core thread : Nat) (s u : State),
    s.up = true ∧
    core ≤ 31 ∧
    thread ≤ 7 ∧
    (s.fld SALT_STATUS.running core / 2 ^ thread % 2 = 1 ∨ s.fld SALT_STATUS.remote core / 2 ^ thread % 2 = 1) ∧
    u = s.saltHalt core (2 ^ thread) :=
  ⟨31, 7, atSalterThreads2, atSalterThreads2.saltHalt 31 (2 ^ 7), by decide +kernel⟩

theorem witness_PowerAndHeatReadings_0 :
    ∃ (s : State),
    s.up = true :=
  ⟨running, by decide +kernel⟩

def atPowerAndHeatReadings1P : Pwr :=
  { running.pwr with samples := runTake longWindow (runPush 0 running.pwr.samples) }

theorem witness_PowerAndHeatReadings_1 :
    ∃ (mw : Nat) (s : State) (p : Pwr),
    s.up = true ∧
    p = { s.pwr with samples := runTake longWindow (runPush mw s.pwr.samples) } :=
  ⟨0, running, atPowerAndHeatReadings1P, by decide +kernel⟩

def atPowerAndHeatReadings2U : State :=
  { running with pwr := { running.pwr with dies := Sparse.put 0 running.pwr.dies 2 115 } }

theorem witness_PowerAndHeatReadings_2 :
    ∃ (die celsius : Nat) (s u : State),
    s.up = true ∧
    die ≤ 2 ∧
    u = { s with pwr := { s.pwr with dies := Sparse.put 0 s.pwr.dies die celsius } } :=
  ⟨2, 115, running, atPowerAndHeatReadings2U, by decide +kernel⟩

theorem witness_StepArms_0 :
    ∃ (v : Word) (s : State) (m : Nat),
    s.takesWrites = true ∧
    (s.fld STG_STEP_STATUS.state = 0 ∨ s.fld STG_STEP_STATUS.state = 2) ∧
    bits v 31 16 ≠ 0 ∧
    m < 64 ∧
    (s.stageEntry m).valid = true :=
  ⟨0xFFFF0000, stageSlot, 63, by decide +kernel⟩

theorem witness_StepArms_1 :
    ∃ (v : Word) (s : State),
    s.takesWrites = true ∧
    ((s.fld STG_STEP_STATUS.state ≠ 0 ∧ s.fld STG_STEP_STATUS.state ≠ 2) ∨ bits v 31 16 = 0) :=
  ⟨0, stageSlot, by decide +kernel⟩

def atEntryArrives0E : StageEntry :=
  entryHere.stageEntry (bits 0xFC00000000000000 63 58)

def atEntryArrives0Q : QueueEntry :=
  entryHere.queueEntry (bits 0xFC00000000000000 63 58) (2 * b2n (bit 0xFC00000000000000 57))

def atEntryArrives0X : Stage :=
  entryHere.stage (bits 0xFC00000000000000 63 58)

def atEntryArrives0K : StgQueue :=
  (if (bit 0xFC00000000000000 57) then atEntryArrives0X.inBwd else atEntryArrives0X.inFwd)

def atEntryArrives0U : State :=
  (entryHere.memRead (atEntryArrives0Q.slotAddr (bits 0xFC00000000000000 23 0)) 64 ownExt dieHub).1

def atEntryArrives0Cells : List (Byte × Bool) :=
  (entryHere.memRead (atEntryArrives0Q.slotAddr (bits 0xFC00000000000000 23 0)) 64 ownExt dieHub).2.2

theorem witness_EntryArrives_0 :
    ∃ (v : Word) (s u : State) (e : StageEntry) (q : QueueEntry) (x : Stage) (slot seq : Nat) (b : Bool) (k : StgQueue) (cells : List (Byte × Bool)) (h : List Byte),
    s.takesWrites = true ∧
    s.stageHears = true ∧
    slot = bits v 63 58 ∧
    b = bit v 57 ∧
    seq = bits v 23 0 ∧
    e = s.stageEntry slot ∧
    q = s.queueEntry slot (2 * b2n b) ∧
    x = s.stage slot ∧
    k = (if b then x.inBwd else x.inFwd) ∧
    e.valid = true ∧
    q.valid = true ∧
    seq = k.next ∧
    s.memRead (q.slotAddr seq) 64 ownExt dieHub = (u, .opened, cells) ∧
    cells.any (·.2) = false ∧
    h = cells.map (·.1) ∧
    byteAt h 0 = 0x40 ∧
    byteAt h 1 % 2 = b2n b ∧
    u.fld STG_STEP_STATUS.state = 1 ∧
    num h 4 4 = u.fld STG_STEP_STATUS.step ∧
    spanOk k b e.spanTokens u.stg.mbs (num h 8 2) (num h 10 2 % 4096) (num h 12 2 % 8192) (num h 16 4 % 2 ^ 21) (num h 20 4 % 2 ^ 21)
      (x.inflight.find? fun i => i.mb == num h 8 2) = true :=
  ⟨0xFC00000000000000, entryHere, atEntryArrives0U, atEntryArrives0E, atEntryArrives0Q, atEntryArrives0X, bits 0xFC00000000000000 63 58,
    bits 0xFC00000000000000 23 0, bit 0xFC00000000000000 57, atEntryArrives0K, atEntryArrives0Cells, atEntryArrives0Cells.map (·.1),
    by decide +kernel⟩

theorem witness_EntryArrives_1 :
    ∃ (v : Word) (s : State),
    s.takesWrites = true ∧
    s.stageHears = true ∧
    bits v 23 0 ≠ (if bit v 57 then (s.stage (bits v 63 58)).inBwd else (s.stage (bits v 63 58)).inFwd).next :=
  ⟨0xFC00000000000001, entryHere, by decide +kernel⟩

def atStagePoolsMove0 : State := armed { arrivals := [{ q := 0, mb := 0, span := 0, spans := 1, tokens := 4 }] }

def atStagePoolsMove0A : Arrival :=
  (List.head (((atStagePoolsMove0.flushStage 63).stage 63).arrivals) (by decide +kernel))

def atStagePoolsMove0Rest : List Arrival :=
  (List.tail (((atStagePoolsMove0.flushStage 63).stage 63).arrivals))

def atStagePoolsMove0Q : QueueEntry :=
  (atStagePoolsMove0.flushStage 63).queueEntry 63 0

theorem witness_StagePoolsMove_0 :
    ∃ (slot : Nat) (s u : State) (e : StageEntry) (q : QueueEntry) (x : Stage) (a : Arrival) (rest : List Arrival),
    s.working = true ∧
    slot ≤ 63 ∧
    e = s.stageEntry slot ∧
    e.valid = true ∧
    s.fld STG_STEP_STATUS.state = 1 ∧
    u = s.flushStage slot ∧
    u.fld STG_STEP_STATUS.state = 1 ∧
    x = u.stage slot ∧
    x.records = [] ∧
    x.fwdReqs = [] ∧
    x.bwdReqs = [] ∧
    x.arrivals = a :: rest ∧
    a.span = 0 ∧
    u.mayAdmit slot e = true ∧
    q = u.queueEntry slot 0 ∧
    u.winMay q.array q.window false 32 = true :=
  ⟨63, atStagePoolsMove0, atStagePoolsMove0.flushStage 63, atStagePoolsMove0.stageEntry 63, atStagePoolsMove0Q,
    (atStagePoolsMove0.flushStage 63).stage 63, atStagePoolsMove0A, atStagePoolsMove0Rest, by decide +kernel⟩

def atStagePoolsMove1 : State := armed { fwdReqs := [request 32] }

def atStagePoolsMove1V : State :=
  (Option.get ((atStagePoolsMove1.flushStage 63).serve 63 (atStagePoolsMove1.stageEntry 63) (request 32)) (by decide +kernel))

theorem witness_StagePoolsMove_1 :
    ∃ (slot : Nat) (s u v : State) (e : StageEntry) (q : StkReq),
    s.working = true ∧
    slot ≤ 63 ∧
    e = s.stageEntry slot ∧
    e.valid = true ∧
    s.fld STG_STEP_STATUS.state = 1 ∧
    u = s.flushStage slot ∧
    (u.stage slot).fwdReqs = [q] ∧
    u.serve slot e q = some v ∧
    (v.stage slot).bwdReqs = [] ∧
    v.fld STG_STEP_STATUS.state = 1 :=
  ⟨63, atStagePoolsMove1, atStagePoolsMove1.flushStage 63, atStagePoolsMove1V, atStagePoolsMove1.stageEntry 63, request 32,
    by decide +kernel⟩

theorem witness_StagePoolsMove_2 :
    ∃ (slot n p k : Nat) (s : State) (e : StageEntry),
    (s.stage slot).stk.place e.stkChunks n = some (p, k) :=
  ⟨63, 32, 0, 0, stageSlot, stageSlot.stageEntry 63, by decide +kernel⟩

theorem witness_StagePoolsMove_3 :
    ∃ (slot : Nat) (s : State),
    s.up = true ∧
    slot ≤ 63 ∧
    (s.stageEntry slot).valid = true ∧
    s.fld STG_STEP_STATUS.state ≠ 1 :=
  ⟨63, stageSlot, by decide +kernel⟩

theorem witness_StagePoolsMove_4 :
    ∃ (slot : Nat) (s : State),
    s.takesWrites = true ∧
    slot ≤ 63 :=
  ⟨63, stageSlot, by decide +kernel⟩

def atCreditsAndChunksReturn0 : State := armed { inFwd := { given := 1 } }

def atCreditsAndChunksReturn0Q : QueueEntry :=
  atCreditsAndChunksReturn0.queueEntry (bits 0xFC00000000000000 63 58) (2 * b2n (bit 0xFC00000000000000 57))

def atCreditsAndChunksReturn0X : Stage :=
  atCreditsAndChunksReturn0.stage (bits 0xFC00000000000000 63 58)

def atCreditsAndChunksReturn0K : StgQueue :=
  (if (bit 0xFC00000000000000 57) then atCreditsAndChunksReturn0X.inBwd else atCreditsAndChunksReturn0X.inFwd)

theorem witness_CreditsAndChunksReturn_0 :
    ∃ (v : Word) (s : State) (q : QueueEntry) (x : Stage) (slot seq : Nat) (b : Bool) (k : StgQueue),
    s.takesWrites = true ∧
    s.stageHears = true ∧
    slot = bits v 63 58 ∧
    b = bit v 57 ∧
    seq = bits v 23 0 ∧
    q = s.queueEntry slot (2 * b2n b) ∧
    x = s.stage slot ∧
    k = (if b then x.inBwd else x.inFwd) ∧
    (s.stageEntry slot).valid = true ∧
    q.valid = true ∧
    seq = k.released ∧
    k.released ≠ k.given :=
  ⟨0xFC00000000000000, atCreditsAndChunksReturn0, atCreditsAndChunksReturn0Q, atCreditsAndChunksReturn0X, bits 0xFC00000000000000 63 58,
    bits 0xFC00000000000000 23 0, bit 0xFC00000000000000 57, atCreditsAndChunksReturn0K, by decide +kernel⟩

theorem witness_CreditsAndChunksReturn_1 :
    ∃ (v : Word) (s : State),
    s.takesWrites = true ∧
    s.stageHears = true ∧
    bits v 23 0 ≠ (if bit v 57 then (s.stage (bits v 63 58)).inBwd else (s.stage (bits v 63 58)).inFwd).released :=
  ⟨0xFC00000000000001, armed {}, by decide +kernel⟩

def atCreditsAndChunksReturn2 : State := armed {}

def atCreditsAndChunksReturn2Q : QueueEntry :=
  atCreditsAndChunksReturn2.queueEntry (byteAt (cmd [0x46, 63]) 1 % 64) (if ((byteAt (cmd [0x46, 63]) 2 % 2 == 1)) then 3 else 1)

def atCreditsAndChunksReturn2X : Stage :=
  atCreditsAndChunksReturn2.stage (byteAt (cmd [0x46, 63]) 1 % 64)

theorem witness_CreditsAndChunksReturn_2 :
    ∃ (bs : List Byte) (s : State) (q : QueueEntry) (x : Stage) (slot seq : Nat) (b : Bool),
    s.up = true ∧
    byteAt bs 0 = 0x46 ∧
    slot = byteAt bs 1 % 64 ∧
    b = (byteAt bs 2 % 2 == 1) ∧
    seq = num bs 4 4 % 2 ^ 24 ∧
    q = s.queueEntry slot (if b then 3 else 1) ∧
    x = s.stage slot ∧
    (s.stageEntry slot).valid = true ∧
    q.valid = true ∧
    seq = (if b then x.creditBwd else x.creditFwd) :=
  ⟨cmd [0x46, 63], atCreditsAndChunksReturn2, atCreditsAndChunksReturn2Q, atCreditsAndChunksReturn2X, byteAt (cmd [0x46, 63]) 1 % 64,
    num (cmd [0x46, 63]) 4 4 % 2 ^ 24, (byteAt (cmd [0x46, 63]) 2 % 2 == 1), by decide +kernel⟩

def atCreditsAndChunksReturn3 : State := armed { inflight := [{ mb := 0, spans := 1 }] }

def atCreditsAndChunksReturn3Q : StkReq :=
  { backward := bit 0xFC00008000000000 57, recomputable := bit 0xFC00008000000000 56, mb := bits 0xFC00008000000000 55 40, n := bits 0xFC00008000000000 39 34, tag := bits 0xFC00008000000000 15 0 }

def atCreditsAndChunksReturn3X : Stage :=
  atCreditsAndChunksReturn3.stage (bits 0xFC00008000000000 63 58)

theorem witness_CreditsAndChunksReturn_3 :
    ∃ (v : Word) (s : State) (q : StkReq) (x : Stage) (slot : Nat),
    s.takesWrites = true ∧
    s.stageHears = true ∧
    slot = bits v 63 58 ∧
    q = { backward := bit v 57, recomputable := bit v 56, mb := bits v 55 40, n := bits v 39 34, tag := bits v 15 0 } ∧
    x = s.stage slot ∧
    (s.stageEntry slot).valid = true ∧
    x.inflight.any (fun i => i.mb == q.mb) = true ∧
    x.trippedMb q.mb = false ∧
    1 ≤ q.n ∧
    q.n ≤ 32 ∧
    (if q.backward then x.bwdReqs else x.fwdReqs).length < 16 :=
  ⟨0xFC00008000000000, atCreditsAndChunksReturn3, atCreditsAndChunksReturn3Q, atCreditsAndChunksReturn3X, bits 0xFC00008000000000 63 58,
    by decide +kernel⟩

def atCreditsAndChunksReturn4 : State := armed { inflight := [{ mb := 0, spans := 1 }] }

def atCreditsAndChunksReturn4E : StageEntry :=
  atCreditsAndChunksReturn4.stageEntry (bits 0xFC00000000000000 63 58)

def atCreditsAndChunksReturn4X : Stage :=
  atCreditsAndChunksReturn4.stage (bits 0xFC00000000000000 63 58)

def atCreditsAndChunksReturn4I : InFlight :=
  (List.head (atCreditsAndChunksReturn4X.inflight) (by decide +kernel))

def atCreditsAndChunksReturn4Rest : List InFlight :=
  (List.tail (atCreditsAndChunksReturn4X.inflight))

theorem witness_CreditsAndChunksReturn_4 :
    ∃ (v : Word) (s : State) (e : StageEntry) (x : Stage) (i : InFlight) (rest : List InFlight) (slot : Nat),
    s.takesWrites = true ∧
    s.stageHears = true ∧
    slot = bits v 63 58 ∧
    e = s.stageEntry slot ∧
    e.valid = true ∧
    x = s.stage slot ∧
    x.inflight = i :: rest ∧
    i.mb = bits v 15 0 :=
  ⟨0xFC00000000000000, atCreditsAndChunksReturn4, atCreditsAndChunksReturn4E, atCreditsAndChunksReturn4X, atCreditsAndChunksReturn4I,
    atCreditsAndChunksReturn4Rest, bits 0xFC00000000000000 63 58, by decide +kernel⟩

def atCreditsAndChunksReturn5 : State := armed { inflight := [{ mb := 0, spans := 1 }] }

def atCreditsAndChunksReturn5X : Stage :=
  atCreditsAndChunksReturn5.stage (bits 0xFC00000000000001 63 58)

def atCreditsAndChunksReturn5I : InFlight :=
  (List.head (atCreditsAndChunksReturn5X.inflight) (by decide +kernel))

def atCreditsAndChunksReturn5Rest : List InFlight :=
  (List.tail (atCreditsAndChunksReturn5X.inflight))

theorem witness_CreditsAndChunksReturn_5 :
    ∃ (v : Word) (s : State) (x : Stage) (i : InFlight) (rest : List InFlight),
    s.takesWrites = true ∧
    s.stageHears = true ∧
    x = s.stage (bits v 63 58) ∧
    x.inflight = i :: rest ∧
    i.mb ≠ bits v 15 0 :=
  ⟨0xFC00000000000001, atCreditsAndChunksReturn5, atCreditsAndChunksReturn5X, atCreditsAndChunksReturn5I, atCreditsAndChunksReturn5Rest,
    by decide +kernel⟩

def atRootDecides0 : State := stepIn 1 0

def atRootDecides0U : State :=
  { atRootDecides0 with stg := { atRootDecides0.stg with doneFrom := atRootDecides0.stg.doneFrom ++ [(num (cmd [0x41]) 4 4, num (cmd [0x41]) 8 2)] } }

theorem witness_RootDecides_0 :
    ∃ (bs : List Byte) (s u : State),
    s.up = true ∧
    byteAt bs 0 = 0x41 ∧
    s.isRoot = true ∧
    s.stepDecided (num bs 4 4) (num bs 10 2) = false ∧
    s.stg.doneFrom.contains (num bs 4 4, num bs 8 2) = false ∧
    u = { s with stg := { s.stg with doneFrom := s.stg.doneFrom ++ [(num bs 4 4, num bs 8 2)] } } :=
  ⟨cmd [0x41], atRootDecides0, atRootDecides0U, by decide +kernel⟩

theorem witness_RootDecides_1 :
    ∃ (bs : List Byte) (s : State),
    s.up = true ∧
    byteAt bs 0 = 0x42 ∧
    s.isRoot = true ∧
    s.stepDecided (num bs 4 4) (num bs 10 2) = false ∧
    (∀ a ∈ s.stg.aborts, a.1 ≠ num bs 4 4) :=
  ⟨cmd [0x42], stepIn 1 0, by decide +kernel⟩

def atRootDecides2 : State := { stepIn 1 0 with stg := { (stepIn 1 0).stg with aborts := [(2 ^ 32 - 1, 0, 255, 255, 0)] } }

theorem witness_RootDecides_2 :
    ∃ (step pkg cause user attempt : Nat) (s t : State),
    s.stg.aborts = [(step, pkg, cause, user, attempt)] ∧
    step < 2 ^ 32 ∧
    cause < 256 ∧
    user < 256 ∧
    t = s.settleAborts :=
  ⟨2 ^ 32 - 1, 0, 255, 255, 0, atRootDecides2, atRootDecides2.settleAborts, by decide +kernel⟩

theorem witness_RootDecides_3 :
    ∃ (bs : List Byte) (s : State),
    s.up = true ∧
    byteAt bs 0 = 0x42 ∧
    s.isRoot = true ∧
    s.stepDecided (num bs 4 4) (num bs 10 2) = true ∧
    s.stg.decidedAt ≠ s.cycle :=
  ⟨cmd [0x42], { stepIn 1 0 with cycle := 1, stg := { (stepIn 1 0).stg with decided := [(0, 0)] } }, by decide +kernel⟩

def atRootDecides4 : State := stepIn 3 0

def atRootDecides4C : List Nat :=
  (if atRootDecides4.stg.clearedFrom.contains (num (cmd [0x44]) 8 2) then atRootDecides4.stg.clearedFrom else atRootDecides4.stg.clearedFrom ++ [num (cmd [0x44]) 8 2])

theorem witness_RootDecides_4 :
    ∃ (bs : List Byte) (s : State) (c : List Nat),
    s.up = true ∧
    byteAt bs 0 = 0x44 ∧
    s.isRoot = true ∧
    c = (if s.stg.clearedFrom.contains (num bs 8 2) then s.stg.clearedFrom else s.stg.clearedFrom ++ [num bs 8 2]) :=
  ⟨cmd [0x44], atRootDecides4, atRootDecides4C, by decide +kernel⟩

theorem witness_StepEndsAtPackage_0 :
    ∃ (bs : List Byte) (s : State),
    s.up = true ∧
    byteAt bs 0 = 0x43 :=
  ⟨cmd [0x43, 1], stepIn 1 1, by decide +kernel⟩

theorem witness_StepEndsAtPackage_1 :
    ∃ (s : State),
    s.takesWrites = true ∧
    s.fld STG_STEP_STATUS.state = 1 ∧
    s.isRoot = false :=
  ⟨stepIn 1 1, by decide +kernel⟩

theorem witness_StepEndsAtPackage_2 :
    ∃ (s : State),
    s.takesWrites = true ∧
    s.fld STG_STEP_STATUS.state ≠ 1 :=
  ⟨stepIn 2 1, by decide +kernel⟩

theorem witness_StepEndsAtPackage_3 :
    ∃ (v : Word) (s : State),
    s.takesWrites = true ∧
    s.fld STG_STEP_STATUS.state = 3 ∧
    bit v 0 = true ∧
    s.isRoot = false :=
  ⟨1, stepIn 3 1, by decide +kernel⟩

theorem witness_StepEndsAtPackage_4 :
    ∃ (bs : List Byte) (s : State),
    s.up = true ∧
    byteAt bs 0 = 0x45 ∧
    s.fld STG_STEP_STATUS.state = 4 :=
  ⟨cmd [0x45], stepIn 4 1, by decide +kernel⟩

def atSegmentsReduce0X : Nat :=
  (Option.get (landed.landingSlot (bits 0x50000 47 0)) (by decide +kernel)).1

def atSegmentsReduce0E : ShardEntry :=
  (Option.get (landed.landingSlot (bits 0x50000 47 0)) (by decide +kernel)).2.1

def atSegmentsReduce0Bank : Nat :=
  (Option.get (landed.landingSlot (bits 0x50000 47 0)) (by decide +kernel)).2.2.1

def atSegmentsReduce0R : Nat :=
  (Option.get (landed.landingSlot (bits 0x50000 47 0)) (by decide +kernel)).2.2.2

def atSegmentsReduce0Hd : State × List Byte × Bool :=
  landed.unitRead atSegmentsReduce0E.unit (bits 0x50000 47 0) 32

def atSegmentsReduce0Bd : State × List Byte × Bool :=
  atSegmentsReduce0Hd.1.unitRead atSegmentsReduce0E.unit (bits 0x50000 47 0 + 32) (if num atSegmentsReduce0Hd.2.1 16 4 = 4 * atSegmentsReduce0E.n then num atSegmentsReduce0Hd.2.1 16 4 else 0)

theorem witness_SegmentsReduce_0 :
    ∃ (v : Word) (s : State) (x bank r : Nat) (e : ShardEntry) (hd bd : State × List Byte × Bool),
    s.takesWrites = true ∧
    s.dieOpen [0, 1] = true ∧
    s.stageHears = true ∧
    s.landingSlot (bits v 47 0) = some (x, e, bank, r) ∧
    hd = s.unitRead e.unit (bits v 47 0) 32 ∧
    bd = hd.1.unitRead e.unit (bits v 47 0 + 32) (if num hd.2.1 16 4 = 4 * e.n then num hd.2.1 16 4 else 0) :=
  ⟨0x50000, landed, atSegmentsReduce0X, atSegmentsReduce0Bank, atSegmentsReduce0R, atSegmentsReduce0E, atSegmentsReduce0Hd,
    atSegmentsReduce0Bd, by decide +kernel⟩

theorem witness_SegmentsReduce_1 :
    ∃ (v : Word) (s : State),
    s.takesWrites = true ∧
    s.dieOpen [0, 1] = true ∧
    s.stageHears = true ∧
    s.landingSlot (bits v 47 0) = none :=
  ⟨0x50001, landed, by decide +kernel⟩

def atSegmentsReduce2 : State := kept 0x12 1 phCollect { segs := [{ step := 0, replica := 0, count := 1, empty := true }] }

def atSegmentsReduce2E : ShardEntry :=
  (Option.get (atSegmentsReduce2.shardEntry 0) (by decide +kernel))

def atSegmentsReduce2Segs : List Seg :=
  (atSegmentsReduce2.tshard 0).segsOf (atSegmentsReduce2.workStep 0) atSegmentsReduce2E.nRep

def atSegmentsReduce2P : State × Option Nat × List (Array Byte) :=
  atSegmentsReduce2.payloads atSegmentsReduce2E (atSegmentsReduce2.workStep 0) atSegmentsReduce2Segs

def atSegmentsReduce2G : List (Sys2Proof.Machine.Num × Exc) :=
  atSegmentsReduce2E.gradients atSegmentsReduce2Segs atSegmentsReduce2P.2.2

theorem witness_SegmentsReduce_2 :
    ∃ (x step : Nat) (s : State) (e : ShardEntry) (segs : List Seg) (p : State × Option Nat × List (Array Byte)) (g : List (Sys2Proof.Machine.Num × Exc)),
    s.working = true ∧
    s.shardEntry x = some e ∧
    e.owner = true ∧
    e.nRep ≠ 0 ∧
    s.shardWorks x = true ∧
    step = s.workStep x ∧
    segs = (s.tshard x).segsOf step e.nRep ∧
    e.nRep ≤ segs.length ∧
    (s.phase x = phIdle ∨ s.phase x = phCollect) ∧
    s.pathState ⟨.UST_TEMPER, e.unit⟩ ≠ tsDraining ∧
    (e.kind ≠ 2 ∨ (segs.map (·.count)).sum ≠ 0) ∧
    p = s.payloads e step segs ∧
    g = e.gradients segs p.2.2 :=
  ⟨0, atSegmentsReduce2.workStep 0, atSegmentsReduce2, atSegmentsReduce2E, atSegmentsReduce2Segs, atSegmentsReduce2P, atSegmentsReduce2G,
    by decide +kernel⟩

def atSegmentsReduce3 : State := shards 0x10 1

def atSegmentsReduce3Li : Nat :=
  (Option.get (atSegmentsReduce3.tlayerIndex (num (cmd [0x60, 0, 0, 0, 0, 0, 0, 0, 0, 0, 1]) 8 2)) (by decide +kernel))

def atSegmentsReduce3P : Partial :=
  { layer := atSegmentsReduce3Li, step := num (cmd [0x60, 0, 0, 0, 0, 0, 0, 0, 0, 0, 1]) 4 4, ordinal := num (cmd [0x60, 0, 0, 0, 0, 0, 0, 0, 0, 0, 1]) 10 2 % 8192, skip := byteAt (cmd [0x60, 0, 0, 0, 0, 0, 0, 0, 0, 0, 1]) 1 % 2 == 1, missing := byteAt (cmd [0x60, 0, 0, 0, 0, 0, 0, 0, 0, 0, 1]) 1 / 2 % 2 == 1, value := num (cmd [0x60, 0, 0, 0, 0, 0, 0, 0, 0, 0, 1]) 16 8 }

def atSegmentsReduce3W : State :=
  atSegmentsReduce3.putMem ((atSegmentsReduce3.tlayer atSegmentsReduce3Li).partials + 8 * atSegmentsReduce3P.ordinal) (leBytes 8 atSegmentsReduce3P.value) ownExt (unitDie ((atSegmentsReduce3.ownUnits (atSegmentsReduce3.tlayer atSegmentsReduce3Li)).headD 0))

theorem witness_SegmentsReduce_3 :
    ∃ (bs : List Byte) (s w : State) (li : Nat) (p : Partial),
    s.up = true ∧
    byteAt bs 0 = 0x60 ∧
    s.thisAttempt bs = true ∧
    s.tlayerIndex (num bs 8 2) = some li ∧
    p = { layer := li, step := num bs 4 4, ordinal := num bs 10 2 % 8192, skip := byteAt bs 1 % 2 == 1, missing := byteAt bs 1 / 2 % 2 == 1, value := num bs 16 8 } ∧
    s.tmp.partials.any (fun y => y.layer == li && y.step == p.step && y.ordinal == p.ordinal) = false ∧
    s.tmp.norms.any (fun y => y.1 == li && y.2.1 == p.step) = false ∧
    w = s.putMem ((s.tlayer li).partials + 8 * p.ordinal) (leBytes 8 p.value) ownExt (unitDie ((s.ownUnits (s.tlayer li)).headD 0)) ∧
    ((List.range (s.tlayer li).nShards).filterMap fun o => (w.tmp.partials ++ [p]).find? fun y =>
      y.layer == li && y.step == p.step && y.ordinal == o).length < (s.tlayer li).nShards :=
  ⟨cmd [0x60, 0, 0, 0, 0, 0, 0, 0, 0, 0, 1], atSegmentsReduce3, atSegmentsReduce3W, atSegmentsReduce3Li, atSegmentsReduce3P,
    by decide +kernel⟩

def atSegmentsReduce4 : State := kept 0x10 1 phIdle { late := [0] }

def atSegmentsReduce4E : ShardEntry :=
  (Option.get (atSegmentsReduce4.shardEntry 0) (by decide +kernel))

def atSegmentsReduce4Step : Nat :=
  (List.head ((atSegmentsReduce4.tshard 0).late) (by decide +kernel))

def atSegmentsReduce4Rest : List Nat :=
  (List.tail ((atSegmentsReduce4.tshard 0).late))

theorem witness_SegmentsReduce_4 :
    ∃ (x step : Nat) (rest : List Nat) (s : State) (e : ShardEntry),
    s.up = true ∧
    s.shardEntry x = some e ∧
    (s.tshard x).late = step :: rest ∧
    e.owner = true ∧
    (s.phase x = phIdle ∨ s.phase x = phCollect ∨ s.phase x = phDamaged) ∧
    ((s.tshard x).segsOf step e.nRep).length < e.nRep :=
  ⟨0, atSegmentsReduce4Step, atSegmentsReduce4Rest, atSegmentsReduce4, atSegmentsReduce4E, by decide +kernel⟩

def atShardsUpdate0N : Sys2Proof.Machine.Num :=
  (sqrt64 (sumTerms ((([{ layer := 0, step := 0, ordinal := 0, skip := false, missing := true, value := 0 }] : List Partial)).map (·.value)))).1

def atShardsUpdate0C : Sys2Proof.Machine.Num :=
  a32 (if (TLayer.parse []).ceil = 0 then running.fld TEMPER_NORM_CEIL.ceil else (TLayer.parse []).ceil)

theorem witness_ShardsUpdate_0 :
    ∃ (s : State) (l : TLayer) (ps : List Partial) (N C : Sys2Proof.Machine.Num),
    N = (sqrt64 (sumTerms (ps.map (·.value)))).1 ∧
    C = a32 (if l.ceil = 0 then s.fld TEMPER_NORM_CEIL.ceil else l.ceil) :=
  ⟨running, TLayer.parse [], ([{ layer := 0, step := 0, ordinal := 0, skip := false, missing := true, value := 0 }] : List Partial),
    atShardsUpdate0N, atShardsUpdate0C, by decide +kernel⟩

def atShardsUpdate1 : State := normed [{ layer := 0, step := 0, ordinal := 0, skip := false, missing := true, value := 0 }]

def atShardsUpdate1Li : Nat :=
  (Option.get (atShardsUpdate1.tlayerIndex (num (cmd [0x60, 0, 0, 0, 0, 0, 0, 0, 0, 0, 1]) 8 2)) (by decide +kernel))

def atShardsUpdate1P : Partial :=
  { layer := atShardsUpdate1Li, step := num (cmd [0x60, 0, 0, 0, 0, 0, 0, 0, 0, 0, 1]) 4 4, ordinal := num (cmd [0x60, 0, 0, 0, 0, 0, 0, 0, 0, 0, 1]) 10 2 % 8192, skip := byteAt (cmd [0x60, 0, 0, 0, 0, 0, 0, 0, 0, 0, 1]) 1 % 2 == 1, missing := byteAt (cmd [0x60, 0, 0, 0, 0, 0, 0, 0, 0, 0, 1]) 1 / 2 % 2 == 1, value := num (cmd [0x60, 0, 0, 0, 0, 0, 0, 0, 0, 0, 1]) 16 8 }

def atShardsUpdate1W : State :=
  atShardsUpdate1.putMem ((atShardsUpdate1.tlayer atShardsUpdate1Li).partials + 8 * atShardsUpdate1P.ordinal) (leBytes 8 atShardsUpdate1P.value) ownExt (unitDie ((atShardsUpdate1.ownUnits (atShardsUpdate1.tlayer atShardsUpdate1Li)).headD 0))

def atShardsUpdate1Mine : List Partial :=
  ((List.range (atShardsUpdate1.tlayer atShardsUpdate1Li).nShards).filterMap fun o => (atShardsUpdate1W.tmp.partials ++ [atShardsUpdate1P]).find? fun y =>
      y.layer == atShardsUpdate1Li && y.step == atShardsUpdate1P.step && y.ordinal == o)

def atShardsUpdate1J : (Sys2Proof.Machine.Num × Exc) × Option Nat :=
  atShardsUpdate1W.judgeNorm (atShardsUpdate1.tlayer atShardsUpdate1Li) atShardsUpdate1Mine

def atShardsUpdate1K : Sys2Proof.Machine.Num × Exc :=
  clipFactor (atShardsUpdate1.tlayer atShardsUpdate1Li) atShardsUpdate1J.1.1

def atShardsUpdate1V : State :=
  ((({ atShardsUpdate1W with tmp := { atShardsUpdate1W.tmp with partials := atShardsUpdate1W.tmp.partials ++ [atShardsUpdate1P] } } : State).ownUnits (atShardsUpdate1.tlayer atShardsUpdate1Li)).foldl (fun (a : State) u =>
      a.recordUnit u ((({} : Record).element atShardsUpdate1J.1.2).element (if atShardsUpdate1J.2.isNone then atShardsUpdate1K.2 else Exc.none)))
      { atShardsUpdate1W with tmp := { atShardsUpdate1W.tmp with partials := atShardsUpdate1W.tmp.partials ++ [atShardsUpdate1P] } })

theorem witness_ShardsUpdate_1 :
    ∃ (bs : List Byte) (s w v : State) (li norm : Nat) (p : Partial) (mine : List Partial) (j : (Sys2Proof.Machine.Num × Exc) × Option Nat) (k : Sys2Proof.Machine.Num × Exc),
    s.up = true ∧
    byteAt bs 0 = 0x60 ∧
    s.thisAttempt bs = true ∧
    s.tlayerIndex (num bs 8 2) = some li ∧
    p = { layer := li, step := num bs 4 4, ordinal := num bs 10 2 % 8192, skip := byteAt bs 1 % 2 == 1, missing := byteAt bs 1 / 2 % 2 == 1, value := num bs 16 8 } ∧
    s.tmp.partials.any (fun y => y.layer == li && y.step == p.step && y.ordinal == p.ordinal) = false ∧
    s.tmp.norms.any (fun y => y.1 == li && y.2.1 == p.step) = false ∧
    w = s.putMem ((s.tlayer li).partials + 8 * p.ordinal) (leBytes 8 p.value) ownExt (unitDie ((s.ownUnits (s.tlayer li)).headD 0)) ∧
    mine = ((List.range (s.tlayer li).nShards).filterMap fun o => (w.tmp.partials ++ [p]).find? fun y =>
      y.layer == li && y.step == p.step && y.ordinal == o) ∧
    mine.length = (s.tlayer li).nShards ∧
    j = w.judgeNorm (s.tlayer li) mine ∧
    k = clipFactor (s.tlayer li) j.1.1 ∧
    norm = toB64 j.1.1 ∧
    v = ((({ w with tmp := { w.tmp with partials := w.tmp.partials ++ [p] } } : State).ownUnits (s.tlayer li)).foldl (fun (a : State) u =>
      a.recordUnit u ((({} : Record).element j.1.2).element (if j.2.isNone then k.2 else Exc.none)))
      { w with tmp := { w.tmp with partials := w.tmp.partials ++ [p] } }) :=
  ⟨cmd [0x60, 0, 0, 0, 0, 0, 0, 0, 0, 0, 1], atShardsUpdate1, atShardsUpdate1W, atShardsUpdate1V, atShardsUpdate1Li,
    toB64 atShardsUpdate1J.1.1, atShardsUpdate1P, atShardsUpdate1Mine, atShardsUpdate1J, atShardsUpdate1K, by decide +kernel⟩

def atShardsUpdate3 : State := kept 0x10 1 phApply {}

def atShardsUpdate3E : ShardEntry :=
  (Option.get (atShardsUpdate3.shardEntry 0) (by decide +kernel))

theorem witness_ShardsUpdate_3 :
    ∃ (x : Nat) (s : State) (e : ShardEntry),
    s.working = true ∧
    s.shardEntry x = some e ∧
    s.phase x = phApply ∧
    (s.tshard x).applied = none :=
  ⟨0, atShardsUpdate3, atShardsUpdate3E, by decide +kernel⟩

def atShardsUpdate4 : State := kept 0x10 1 phApply { applied := some (1, 0, 0, 0) }

def atShardsUpdate4E : ShardEntry :=
  (Option.get (atShardsUpdate4.shardEntry 0) (by decide +kernel))

def atShardsUpdate4Version : Nat :=
  (Option.get ((atShardsUpdate4.tshard 0).applied) (by decide +kernel)).1

def atShardsUpdate4Plane : Nat :=
  (Option.get ((atShardsUpdate4.tshard 0).applied) (by decide +kernel)).2.1

def atShardsUpdate4N : Nat :=
  (Option.get ((atShardsUpdate4.tshard 0).applied) (by decide +kernel)).2.2.1

def atShardsUpdate4W : Nat :=
  (Option.get ((atShardsUpdate4.tshard 0).applied) (by decide +kernel)).2.2.2

def atShardsUpdate4B : State :=
  atShardsUpdate4.bump TMP_PERF_UPDATES.count 0 0 1

def atShardsUpdate4U : State :=
  (atShardsUpdate4B.replicaList atShardsUpdate4E).foldl (fun (a : State) r => if r.1 = a.myId then a else a.temperSend atShardsUpdate4E.unit r.1 atShardsUpdate4E.unit
      (stagedBytes atShardsUpdate4B.stg.attempts (atShardsUpdate4.workStep 0) atShardsUpdate4E.id atShardsUpdate4Version (atShardsUpdate4B.myId * 2 ^ 48 + atShardsUpdate4B.otherImage 0 atShardsUpdate4E) (atShardsUpdate4E.offPlane + atShardsUpdate4Plane))) atShardsUpdate4B

theorem witness_ShardsUpdate_4 :
    ∃ (x step version plane n w : Nat) (s b u : State) (e : ShardEntry),
    s.up = true ∧
    s.shardEntry x = some e ∧
    (s.tshard x).applied = some (version, plane, n, w) ∧
    s.phase x = phApply ∧
    step = s.workStep x ∧
    b = s.bump TMP_PERF_UPDATES.count 0 0 1 ∧
    u = (b.replicaList e).foldl (fun (a : State) r => if r.1 = a.myId then a else a.temperSend e.unit r.1 e.unit
      (stagedBytes b.stg.attempts step e.id version (b.myId * 2 ^ 48 + b.otherImage x e) (e.offPlane + plane))) b :=
  ⟨0, atShardsUpdate4.workStep 0, atShardsUpdate4Version, atShardsUpdate4Plane, atShardsUpdate4N, atShardsUpdate4W, atShardsUpdate4,
    atShardsUpdate4B, atShardsUpdate4U, atShardsUpdate4E, by decide +kernel⟩

def atShardsUpdate5 : State := shards 0x10 1

def atShardsUpdate5E : ShardEntry :=
  (Option.get (atShardsUpdate5.shardEntry (bits 0 14 0)) (by decide +kernel))

def atShardsUpdate5Base : Nat :=
  atShardsUpdate5.curImage (bits 0 14 0) atShardsUpdate5E

def atShardsUpdate5R : State × List Byte × Bool :=
  atShardsUpdate5.unitRead atShardsUpdate5E.unit (atShardsUpdate5Base + offMaster) (2 * atShardsUpdate5E.n)

def atShardsUpdate5D : List Byte × List Byte × Record :=
  atShardsUpdate5E.derive ((List.range atShardsUpdate5E.n).map (halfWords atShardsUpdate5R.2.1)).toArray

def atShardsUpdate5U : State :=
  ((((atShardsUpdate5R.1.recordUnit atShardsUpdate5E.unit atShardsUpdate5D.2.2).putMem (atShardsUpdate5Base + atShardsUpdate5E.offDir) atShardsUpdate5D.1 ownExt (unitDie atShardsUpdate5E.unit)).putMem (atShardsUpdate5Base + atShardsUpdate5E.offPlane) atShardsUpdate5D.2.1 ownExt
      (unitDie atShardsUpdate5E.unit)).putMem (atShardsUpdate5Base + 24) (leBytes 4 atShardsUpdate5D.2.1.length) ownExt (unitDie atShardsUpdate5E.unit))

theorem witness_ShardsUpdate_5 :
    ∃ (v : Word) (x base : Nat) (s u : State) (e : ShardEntry) (r : State × List Byte × Bool) (d : List Byte × List Byte × Record),
    s.takesWrites = true ∧
    s.dieOpen [0, 1] = true ∧
    x = bits v 14 0 ∧
    s.shardEntry x = some e ∧
    base = s.curImage x e ∧
    r = s.unitRead e.unit (base + offMaster) (2 * e.n) ∧
    d = e.derive ((List.range e.n).map (halfWords r.2.1)).toArray ∧
    u = ((((r.1.recordUnit e.unit d.2.2).putMem (base + e.offDir) d.1 ownExt (unitDie e.unit)).putMem (base + e.offPlane) d.2.1 ownExt
      (unitDie e.unit)).putMem (base + 24) (leBytes 4 d.2.1.length) ownExt (unitDie e.unit)) :=
  ⟨0, bits 0 14 0, atShardsUpdate5Base, atShardsUpdate5, atShardsUpdate5U, atShardsUpdate5E, atShardsUpdate5R, atShardsUpdate5D,
    by decide +kernel⟩

def atShardsUpdate6 : State := shards 0x10 1

def atShardsUpdate6Li : Nat :=
  (Option.get (atShardsUpdate6.tlayerIndex (num (cmd [0x61, 0, 0, 0, 0, 0, 0, 0, 0, 0, 1]) 8 2)) (by decide +kernel))

def atShardsUpdate6P : RatioPart :=
  { layer := atShardsUpdate6Li, step := num (cmd [0x61, 0, 0, 0, 0, 0, 0, 0, 0, 0, 1]) 4 4, ordinal := num (cmd [0x61, 0, 0, 0, 0, 0, 0, 0, 0, 0, 1]) 10 2 % 8192, skip := byteAt (cmd [0x61, 0, 0, 0, 0, 0, 0, 0, 0, 0, 1]) 1 % 2 == 1, u := num (cmd [0x61, 0, 0, 0, 0, 0, 0, 0, 0, 0, 1]) 16 8, w := num (cmd [0x61, 0, 0, 0, 0, 0, 0, 0, 0, 0, 1]) 24 8 }

theorem witness_ShardsUpdate_6 :
    ∃ (bs : List Byte) (s : State) (li : Nat) (p : RatioPart),
    s.up = true ∧
    byteAt bs 0 = 0x61 ∧
    s.thisAttempt bs = true ∧
    s.tlayerIndex (num bs 8 2) = some li ∧
    (s.tlayer li).leadPkg = s.myId ∧
    p = { layer := li, step := num bs 4 4, ordinal := num bs 10 2 % 8192, skip := byteAt bs 1 % 2 == 1, u := num bs 16 8, w := num bs 24 8 } ∧
    s.tmp.ratios.any (fun y => y.layer == li && y.step == p.step && y.ordinal == p.ordinal) = false ∧
    s.tmp.stopped.contains (li, p.step) = false ∧
    ((List.range (s.tlayer li).nShards).filterMap fun o => (s.tmp.ratios ++ [p]).find? fun y =>
      y.layer == li && y.step == p.step && y.ordinal == o).length < (s.tlayer li).nShards :=
  ⟨cmd [0x61, 0, 0, 0, 0, 0, 0, 0, 0, 0, 1], atShardsUpdate6, atShardsUpdate6Li, atShardsUpdate6P, by decide +kernel⟩

def atReplicasFollow0 : State := shards 0 1

def atReplicasFollow0X : Nat :=
  (Option.get (atReplicasFollow0.replicaOf (num (cmd [0x62, 0, 0, 0, 0, 0, 0, 0, 5]) 8 4)) (by decide +kernel)).1

def atReplicasFollow0E : ShardEntry :=
  (Option.get (atReplicasFollow0.replicaOf (num (cmd [0x62, 0, 0, 0, 0, 0, 0, 0, 5]) 8 4)) (by decide +kernel)).2

def atReplicasFollow0U : State :=
  atReplicasFollow0.setTshard atReplicasFollow0X { (atReplicasFollow0.tshard atReplicasFollow0X) with step := num (cmd [0x62, 0, 0, 0, 0, 0, 0, 0, 5]) 4 4 }

theorem witness_ReplicasFollow_0 :
    ∃ (bs : List Byte) (x : Nat) (s u : State) (e : ShardEntry),
    s.up = true ∧
    byteAt bs 0 = 0x62 ∧
    s.thisAttempt bs = true ∧
    s.replicaOf (num bs 8 4) = some (x, e) ∧
    s.phase x ≠ phDamaged ∧
    u = s.setTshard x { (s.tshard x) with step := num bs 4 4 } :=
  ⟨cmd [0x62, 0, 0, 0, 0, 0, 0, 0, 5], atReplicasFollow0X, atReplicasFollow0, atReplicasFollow0U, atReplicasFollow0E, by decide +kernel⟩

def atReplicasFollow1 : State := kept 0 1 phFetching (fetched none)

def atReplicasFollow1E : ShardEntry :=
  (Option.get (atReplicasFollow1.shardEntry 0) (by decide +kernel))

def atReplicasFollow1F : Fetch :=
  (Option.get ((atReplicasFollow1.tshard 0).fetch) (by decide +kernel))

theorem witness_ReplicasFollow_1 :
    ∃ (x : Nat) (s : State) (e : ShardEntry) (f : Fetch),
    s.up = true ∧
    s.shardEntry x = some e ∧
    (s.tshard x).fetch = some f ∧
    f.digest = none ∧
    f.left = 0 :=
  ⟨0, atReplicasFollow1, atReplicasFollow1E, atReplicasFollow1F, by decide +kernel⟩

theorem witness_ReplicasFollow_2 :
    ∃ (x : Nat) (entries : List (Nat × Nat)) (s : State) (e : ShardEntry) (f : Fetch),
    (∀ y ∈ entries, 1024 * y.1 + 1024 ≤ f.bytes → crc32c (s.getMem (s.otherImage x e + 1024 * y.1) 1024) = y.2) :=
  ⟨0, [], kept 0 1 phFetching (fetched none), entryOf 0 1, ({ pkg := 0, addr := 0, bytes := 1024, version := 0, left := 0 } : Fetch),
    by decide +kernel⟩

theorem witness_ReplicasFollow_3 :
    ∃ (x i crc : Nat) (s : State) (e : ShardEntry) (f : Fetch),
    1024 * i + 1024 ≤ f.bytes ∧
    crc32c (s.getMem (s.otherImage x e + 1024 * i) 1024) ≠ crc :=
  ⟨0, 0, 0, kept 0 1 phFetching (fetched none), entryOf 0 1, ({ pkg := 0, addr := 0, bytes := 1024, version := 0, left := 0 } : Fetch),
    by decide +kernel⟩

def atReplicasFollow4 : State := shards 0 1

def atReplicasFollow4X : Nat :=
  (Option.get (atReplicasFollow4.replicaOf (num (cmd [0x63, 0, 0, 0, 0, 0, 0, 0, 5]) 8 4)) (by decide +kernel)).1

def atReplicasFollow4E : ShardEntry :=
  (Option.get (atReplicasFollow4.replicaOf (num (cmd [0x63, 0, 0, 0, 0, 0, 0, 0, 5]) 8 4)) (by decide +kernel)).2

def atReplicasFollow4U : State :=
  atReplicasFollow4.setTshard atReplicasFollow4X { (atReplicasFollow4.tshard atReplicasFollow4X) with step := num (cmd [0x63, 0, 0, 0, 0, 0, 0, 0, 5]) 4 4 }

theorem witness_ReplicasFollow_4 :
    ∃ (bs : List Byte) (x : Nat) (s u : State) (e : ShardEntry),
    s.up = true ∧
    byteAt bs 0 = 0x63 ∧
    s.thisAttempt bs = true ∧
    s.replicaOf (num bs 8 4) = some (x, e) ∧
    s.phase x ≠ phDamaged ∧
    (s.replicaBusy x = false ∨ (s.tshard x).step = num bs 4 4) ∧
    s.refetching x = false ∧
    u = s.setTshard x { (s.tshard x) with step := num bs 4 4 } :=
  ⟨cmd [0x63, 0, 0, 0, 0, 0, 0, 0, 5], atReplicasFollow4X, atReplicasFollow4, atReplicasFollow4U, atReplicasFollow4E, by decide +kernel⟩

def atReplicasFollow5 : State := ((shards 0x10 2).setFld TMP_ASSAY_CFG.enable 0 0 1).setFld TMP_ASSAY_CFG.budget 0 0 1

def atReplicasFollow5U : State :=
  { atReplicasFollow5 with tmp := { atReplicasFollow5.tmp with
      visit := Sparse.put 0 atReplicasFollow5.tmp.visit 3 (0 + 1), digests := atReplicasFollow5.tmp.digests ++ [{ shard := 0, base := atReplicasFollow5.curImage 0 (Option.get ((((shards 0x10 2).setFld TMP_ASSAY_CFG.enable 0 0 1).setFld TMP_ASSAY_CFG.budget 0 0 1).shardEntry 0) (by decide +kernel)), ask := none }] } }

theorem witness_ReplicasFollow_5 :
    ∃ (n x : Nat) (s u : State) (e : ShardEntry),
    s.working = true ∧
    n ≤ 3 ∧
    s.flag TMP_ASSAY_CFG.enable = true ∧
    s.fld TMP_ASSAY_CFG.budget ≠ 0 ∧
    s.shardList.filter (fun x => x.2.owner && x.2.unit == n && x.2.nRep > 1) = [(x, e)] ∧
    u = { s with tmp := { s.tmp with
      visit := Sparse.put 0 s.tmp.visit n (x + 1), digests := s.tmp.digests ++ [{ shard := x, base := s.curImage x e, ask := none }] } } :=
  ⟨3, 0, atReplicasFollow5, atReplicasFollow5U,
    Option.get ((((shards 0x10 2).setFld TMP_ASSAY_CFG.enable 0 0 1).setFld TMP_ASSAY_CFG.budget 0 0 1).shardEntry 0) (by decide +kernel),
    by decide +kernel, by decide +kernel, by decide +kernel, by decide +kernel, by decide +kernel, rfl⟩

def atReplicasFollow6 : State := { shards 0x10 2 with tmp := { (shards 0x10 2).tmp with digests := [{ shard := 0, base := 0, ask := none }] } }

def atReplicasFollow6U : State :=
  { atReplicasFollow6 with tmp := { atReplicasFollow6.tmp with digests := [] } }

theorem witness_ReplicasFollow_6 :
    ∃ (base : Nat) (s u : State) (e : ShardEntry) (d : Digest),
    s.tmp.digests = [d] ∧
    d.ask = none ∧
    s.shardEntry d.shard = some e ∧
    base = d.base ∧
    u = { s with tmp := { s.tmp with digests := [] } } :=
  ⟨0, atReplicasFollow6, atReplicasFollow6U, entryOf 0x10 2, ({ shard := 0, base := 0, ask := none } : Digest), by decide +kernel⟩

theorem witness_ReplicasFollow_7 :
    ∃ (x base : Nat) (s : State) (d : Digest),
    s.tmp.digests = [d] ∧
    d.shard = x ∧
    d.base = base :=
  ⟨0, 0, { running with tmp := { running.tmp with digests := [{ shard := 0, base := 0, ask := none }] } },
    ({ shard := 0, base := 0, ask := none } : Digest), by decide +kernel⟩

def atReplicasFollow8 : State := shards 0 1

def atReplicasFollow8X : Nat :=
  (Option.get (atReplicasFollow8.replicaOf (num (cmd [0x64, 0, 0, 0, 0, 0, 0, 0, 5, 0, 0, 0, 1]) 8 4)) (by decide +kernel)).1

def atReplicasFollow8E : ShardEntry :=
  (Option.get (atReplicasFollow8.replicaOf (num (cmd [0x64, 0, 0, 0, 0, 0, 0, 0, 5, 0, 0, 0, 1]) 8 4)) (by decide +kernel)).2

theorem witness_ReplicasFollow_8 :
    ∃ (bs : List Byte) (x : Nat) (s : State) (e : ShardEntry),
    s.up = true ∧
    byteAt bs 0 = 0x64 ∧
    s.replicaOf (num bs 8 4) = some (x, e) ∧
    (s.fld TMP_SHARD_STATE.version x ≠ num bs 12 4 ∨ s.phase x = phDamaged) :=
  ⟨cmd [0x64, 0, 0, 0, 0, 0, 0, 0, 5, 0, 0, 0, 1], atReplicasFollow8X, atReplicasFollow8, atReplicasFollow8E, by decide +kernel⟩

def atReplicasFollow9 : State := shards 0 1

def atReplicasFollow9X : Nat :=
  (Option.get (atReplicasFollow9.replicaOf (num (rec 32 [0x64, 0, 0, 0, 0, 0, 0, 0, 5, 0, 0, 0, 0, 0, 0, 0, 0, 0, 0, 0, 0, 0, 0, 0, 0, 0x20]) 8 4)) (by decide +kernel)).1

def atReplicasFollow9E : ShardEntry :=
  (Option.get (atReplicasFollow9.replicaOf (num (rec 32 [0x64, 0, 0, 0, 0, 0, 0, 0, 5, 0, 0, 0, 0, 0, 0, 0, 0, 0, 0, 0, 0, 0, 0, 0, 0, 0x20]) 8 4)) (by decide +kernel)).2

theorem witness_ReplicasFollow_9 :
    ∃ (bs : List Byte) (x : Nat) (s : State) (e : ShardEntry),
    s.up = true ∧
    byteAt bs 0 = 0x64 ∧
    s.replicaOf (num bs 8 4) = some (x, e) ∧
    s.fld TMP_SHARD_STATE.version x = num bs 12 4 ∧
    s.phase x ≠ phDamaged :=
  ⟨rec 32 [0x64, 0, 0, 0, 0, 0, 0, 0, 5, 0, 0, 0, 0, 0, 0, 0, 0, 0, 0, 0, 0, 0, 0, 0, 0, 0x20], atReplicasFollow9X, atReplicasFollow9,
    atReplicasFollow9E, by decide +kernel⟩

def atReplicasFollow10 : State := { shards 0 1 with tmp := { (shards 0 1).tmp with digests := [{ shard := 0, base := 0, ask := some [] }] } }

def atReplicasFollow10G : State × Option (List Byte) :=
  ({ atReplicasFollow10 with tmp := { atReplicasFollow10.tmp with digests := [] } } : State).imageDigest (entryOf 0 1) (({ shard := 0, base := 0, ask := some [] } : Digest)).base

theorem witness_ReplicasFollow_10 :
    ∃ (s : State) (e : ShardEntry) (d : Digest) (bs : List Byte) (g : State × Option (List Byte)),
    s.tmp.digests = [d] ∧
    d.ask = some bs ∧
    s.shardEntry d.shard = some e ∧
    g = ({ s with tmp := { s.tmp with digests := [] } } : State).imageDigest e d.base :=
  ⟨atReplicasFollow10, entryOf 0 1, ({ shard := 0, base := 0, ask := some [] } : Digest), [], atReplicasFollow10G, by decide +kernel,
    by decide +kernel, by decide +kernel, rfl⟩

def atReplicasFollow11 : State := shards 0 1

def atReplicasFollow11Y : State :=
  atReplicasFollow11.assayMismatch 0 (entryOf 0 1) (num ([]) 12 4)

theorem witness_ReplicasFollow_11 :
    ∃ (bs : List Byte) (x : Nat) (s y : State) (e : ShardEntry),
    y = s.assayMismatch x e (num bs 12 4) :=
  ⟨[], 0, atReplicasFollow11, atReplicasFollow11Y, entryOf 0 1, by decide +kernel⟩

def atReplicasFollow12 : State := kept 0 1 phFetching (fetched ((shards 0 1).imageDigest (entryOf 0 1) 0x20000).2)

def atReplicasFollow12E : ShardEntry :=
  (Option.get (atReplicasFollow12.shardEntry 0) (by decide +kernel))

def atReplicasFollow12F : Fetch :=
  (Option.get ((atReplicasFollow12.tshard 0).fetch) (by decide +kernel))

def atReplicasFollow12Digest : List Byte :=
  (Option.get (atReplicasFollow12F.digest) (by decide +kernel))

def atReplicasFollow12U : State :=
  (atReplicasFollow12.endFetch 0 atReplicasFollow12E (atReplicasFollow12F.heard true) ([])).1

def atReplicasFollow12Base : Nat :=
  atReplicasFollow12U.otherImage 0 atReplicasFollow12E

def atReplicasFollow12W : State :=
  atReplicasFollow12U.setPhase 0 (if (atReplicasFollow12U.tshard 0).reason ≠ 0 then phUnchanged else phIdle)

def atReplicasFollow12G : State × Option (List Byte) :=
  atReplicasFollow12W.imageDigest atReplicasFollow12E atReplicasFollow12Base

theorem witness_ReplicasFollow_12 :
    ∃ (x base : Nat) (ok : Bool) (entries : List (Nat × Nat)) (s u w : State) (e : ShardEntry) (f : Fetch) (digest : List Byte) (g : State × Option (List Byte)),
    s.up = true ∧
    s.shardEntry x = some e ∧
    (s.tshard x).fetch = some f ∧
    f.digest = some digest ∧
    f.left = 0 ∧
    s.endFetch x e (f.heard ok) entries = (u, some true) ∧
    base = u.otherImage x e ∧
    w = u.setPhase x (if (u.tshard x).reason ≠ 0 then phUnchanged else phIdle) ∧
    g = w.imageDigest e base :=
  ⟨0, atReplicasFollow12Base, true, [], atReplicasFollow12, atReplicasFollow12U, atReplicasFollow12W, atReplicasFollow12E,
    atReplicasFollow12F, atReplicasFollow12Digest, atReplicasFollow12G, rfl, by decide +kernel, by decide +kernel, by decide +kernel,
    by decide +kernel, by decide +kernel, rfl, rfl, rfl⟩

def atMemoryAccesses0D : Dplace :=
  (Option.get (running.dplace 1023) (by decide +kernel))

theorem witness_MemoryAccesses_0 :
    ∃ (addr len : Nat) (s : State) (d : Dplace),
    s.up = true ∧
    s.dramOpen addr len = true ∧
    pieces addr len = [(addr, len)] ∧
    s.dplace addr = some d ∧
    s.crcRange addr = none ∧
    s.meetErrors (eccWords addr len) = s :=
  ⟨1023, 1, running, atMemoryAccesses0D, by decide +kernel⟩

def atMemoryAccesses1K : Nat :=
  (Option.get (running.dkey 1023) (by decide +kernel))

theorem witness_MemoryAccesses_1 :
    ∃ (addr k : Nat) (data : List Byte) (s : State),
    s.up = true ∧
    s.dramOpen addr data.length = true ∧
    pieces addr data.length = [(addr, data.length)] ∧
    s.dkey addr = some k ∧
    s.crcRange addr = none :=
  ⟨1023, atMemoryAccesses1K, [7], running, by decide +kernel⟩

theorem witness_MemoryAccesses_2 :
    ∃ (s : State),
    s.up = true :=
  ⟨running, by decide +kernel⟩

def atBlockEntriesFollowData0R : CrcRange :=
  (Option.get (protect.crcRange 0) (by decide +kernel))

def atBlockEntriesFollowData0K : Nat :=
  (Option.get (protect.dkey 0) (by decide +kernel))

def atBlockEntriesFollowData0E : Nat :=
  (Option.get (protect.dkey (atBlockEntriesFollowData0R.entry 0)) (by decide +kernel))

theorem witness_BlockEntriesFollowData_0 :
    ∃ (addr k e : Nat) (data : List Byte) (s : State) (r : CrcRange),
    s.up = true ∧
    data.length = 1024 ∧
    addr % 1024 = 0 ∧
    s.dramOpen addr 1024 = true ∧
    s.crcRange addr = some r ∧
    s.dkey addr = some k ∧
    s.dkey (r.entry addr) = some e ∧
    (e + 4 ≤ k ∨ k + 1024 ≤ e) :=
  ⟨0, atBlockEntriesFollowData0K, atBlockEntriesFollowData0E, List.replicate 1024 0#8, protect, atBlockEntriesFollowData0R,
    by decide +kernel⟩

def atBlockEntriesFollowData1R : CrcRange :=
  (Option.get (protectedZeros.crcRange 896) (by decide +kernel))

def atBlockEntriesFollowData1J : Nat :=
  (896 - atBlockEntriesFollowData1R.base) % 1024 / 128

def atBlockEntriesFollowData1K : Nat :=
  (Option.get (protectedZeros.dkey 0) (by decide +kernel))

def atBlockEntriesFollowData1E : Nat :=
  (Option.get (protectedZeros.dkey (atBlockEntriesFollowData1R.entry 0)) (by decide +kernel))

theorem witness_BlockEntriesFollowData_1 :
    ∃ (addr blk j k e : Nat) (data : List Byte) (s : State) (r : CrcRange),
    s.up = true ∧
    data.length = 128 ∧
    addr % 128 = 0 ∧
    s.dramOpen addr 128 = true ∧
    s.crcRange addr = some r ∧
    s.crcRange (addr + 127) = some r ∧
    (addr - r.base) % 128 = 0 ∧
    j = (addr - r.base) % 1024 / 128 ∧
    addr = blk + 128 * j ∧
    s.dkey blk = some k ∧
    s.dkey addr = some (k + 128 * j) ∧
    (∀ i ∈ List.range 4, s.dbad (addr + 32 * i) = false) ∧
    s.dkey (r.entry blk) = some e ∧
    (e + 4 ≤ k ∨ k + 1024 ≤ e) ∧
    s.entryWord (r.entry blk) = crc32c (s.dbytes blk 1024) ∧
    s.meetErrors (eccWords addr 128) = s :=
  ⟨896, 0, atBlockEntriesFollowData1J, atBlockEntriesFollowData1K, atBlockEntriesFollowData1E, List.replicate 128 1#8, protectedZeros,
    atBlockEntriesFollowData1R, by decide +kernel⟩

def atBlockEntriesFollowData2R : CrcRange :=
  (Option.get (protect.crcRange 0) (by decide +kernel))

theorem witness_BlockEntriesFollowData_2 :
    ∃ (addr : Nat) (s : State) (r : CrcRange),
    s.up = true ∧
    addr % 1024 = 0 ∧
    s.dramOpen addr 1024 = true ∧
    s.crcRange addr = some r ∧
    (s.dkey addr).isSome = true ∧
    (∀ i ∈ List.range 1024, s.dbad (addr + i) = false) ∧
    s.meetErrors (eccWords addr 1024) = s ∧
    s.meetErrors (eccWords (r.entry addr) 4) = s ∧
    s.dbad (r.entry addr) = false :=
  ⟨0, protect, atBlockEntriesFollowData2R, by decide +kernel⟩

theorem witness_CrcFollowsChange_0 :
    ∃ (old new : List Byte),
    old.length = new.length :=
  ⟨[1], [2], by decide +kernel⟩

theorem witness_MemoryUpkeep_0 :
    ∃ (i : Nat) (s : State),
    s.up = true ∧
    i < s.part.stacks :=
  ⟨11, running, by decide +kernel⟩

theorem witness_MemoryUpkeep_1 :
    ∃ (b : Nat) (s : State),
    s.up = true ∧
    b < 4 :=
  ⟨3, running, by decide +kernel⟩

theorem witness_MemoryUpkeep_2 :
    ∃ (stack : Nat) (s : State),
    s.up = true ∧
    stack < s.part.stacks ∧
    stack < 0x100 :=
  ⟨11, running, by decide +kernel⟩

theorem witness_MemoryUpkeep_3 :
    ∃ (s : State),
    s.up = true :=
  ⟨running, by decide +kernel⟩

theorem witness_MemoryUpkeep_4 :
    ∃ (stack : Nat) (s : State),
    s.up = true ∧
    stack < s.part.stacks :=
  ⟨11, running, by decide +kernel⟩

theorem witness_MemoryUpkeep_5 :
    ∃ (stack : Nat) (s : State),
    s.up = true ∧
    stack < 4 :=
  ⟨3, running, by decide +kernel⟩

def atMemoryUpkeep6 : State := (running.setFld MEM_SCRUB_CFG.hbm_en 0 0 1).setFld MEM_SCRUB_CFG.hbm_budget 0 0 1

theorem witness_MemoryUpkeep_6 :
    ∃ (stack pos : Nat) (s : State),
    s.up = true ∧
    s.scrubOn stack = true ∧
    pos = Sparse.get 0 s.dram.scrub stack :=
  ⟨11, Sparse.get 0 atMemoryUpkeep6.dram.scrub 11, atMemoryUpkeep6, by decide +kernel⟩

def atMemoryUpkeep7 : State := running.setFld OBS_BG_CFG.scp_scrub 0 0 1

def atMemoryUpkeep7U : State :=
  (atMemoryUpkeep7.bump OBS_PERF_SCP_SCRUB.count 0 0 1).bump OBS_PERF_SCP_LATE.count 0 0 (if false then 1 else 0)

theorem witness_MemoryUpkeep_7 :
    ∃ (a off w : Nat) (late : Bool) (s u : State),
    s.up = true ∧
    s.flag OBS_BG_CFG.scp_scrub = true ∧
    s.arrayAnswers a true = true ∧
    off < 0x50000 ∧
    s.fld SCP_BANK_OWN.cur_owner a (off / 0x8000) ≠ ownMarch ∧
    s.flag SCP_BANK_CFG.clearing a (off / 0x8000) = false ∧
    w < 8 ∧
    s.upsets = [] ∧
    u = (s.bump OBS_PERF_SCP_SCRUB.count 0 0 1).bump OBS_PERF_SCP_LATE.count 0 0 (if late then 1 else 0) :=
  ⟨2239, 0x4FFFF, 7, false, atMemoryUpkeep7, atMemoryUpkeep7U, by decide +kernel⟩

theorem witness_RepairAndTest_0 :
    ∃ (i op : Nat) (c : Instr) (s u : State),
    s.takesWrites = true ∧
    s.dieOpen [s.part.positions.getD i 0 / 6] = true ∧
    i < s.part.stacks ∧
    (op, c) ∈ [(1, Instr.writeWrapperInstruction i), (2, .shiftDataRegister i), (3, .sppr i), (4, .hppr i)] ∧
    u = s.setFld HBM_TEST_CTRL.op i 0 op :=
  ⟨11, 1, .writeWrapperInstruction 11, running, running.setFld HBM_TEST_CTRL.op 11 0 1, by decide +kernel⟩

def atRepairAndTest1 : State := { running with dram := { running.dram with testing := [(11, 3)] } }

def atRepairAndTest1U : State :=
  ({ atRepairAndTest1 with dram := { atRepairAndTest1.dram with testing := atRepairAndTest1.dram.testing.filter fun t => t.1 != 11 } } : State).testStatus 11 2 0

theorem witness_RepairAndTest_1 :
    ∃ (i op : Nat) (s u : State),
    s.up = true ∧
    s.dram.testing.find? (fun t => t.1 == i) = some (i, op) ∧
    u = ({ s with dram := { s.dram with testing := s.dram.testing.filter fun t => t.1 != i } } : State).testStatus i 2 0 :=
  ⟨11, 3, atRepairAndTest1, atRepairAndTest1U, by decide +kernel⟩

def atRepairAndTest2 : State := { running with dram := { running.dram with testing := [(11, 3)] } }

def atRepairAndTest2U : State :=
  { atRepairAndTest2 with dram := { atRepairAndTest2.dram with testing := atRepairAndTest2.dram.testing.filter fun t => t.1 != 11 } }

theorem witness_RepairAndTest_2 :
    ∃ (i op : Nat) (s u : State),
    s.up = true ∧
    s.dram.testing.find? (fun t => t.1 == i) = some (i, op) ∧
    u = { s with dram := { s.dram with testing := s.dram.testing.filter fun t => t.1 != i } } :=
  ⟨11, 3, atRepairAndTest2, atRepairAndTest2U, by decide +kernel⟩

theorem witness_DeterminismAndQuench_0 :
    ∃ (v : Word) (s : State) (n d : Nat),
    s.takesWrites = true ∧
    d = bits v 63 63 ∧
    n = bits v 31 0 :=
  ⟨1, running, bits 1 31 0, bits 1 63 63, by decide +kernel⟩

theorem witness_DeterminismAndQuench_1 :
    ∃ (v : Word) (s : State),
    s.takesWrites = true ∧
    bit v 62 = false ∧
    s.flag OBS_QUENCH_STATUS.held = false :=
  ⟨0, running, by decide +kernel⟩

theorem witness_DeterminismAndQuench_2 :
    ∃ (sources entry : Nat) (s : State),
    s.obs.trigger = some (sources, entry) ∧
    s.obs.latching = [] ∧
    s.flag OBS_QUENCH_STATUS.held = false ∧
    sources < 32 ∧
    entry < 4 ∧
    s.clk.place < 30720 :=
  ⟨31, 3, { running with obs := { running.obs with trigger := some (31, 3) } }, by decide +kernel⟩

theorem witness_DeterminismAndQuench_3 :
    ∃ (d : Nat) (s : State),
    s.obs.trigger = none ∧
    s.obs.latching = [(1, d)] :=
  ⟨4, { running with obs := { running.obs with latching := [(1, 4)] } }, by decide +kernel⟩

theorem witness_DeterminismAndQuench_4 :
    ∃ (sources entry : Nat) (s : State),
    s.obs.trigger = some (sources, entry) ∧
    s.obs.latching = [] ∧
    s.flag OBS_QUENCH_STATUS.held = true :=
  ⟨4, 0, { running.setFld OBS_QUENCH_STATUS.held 0 0 1 with obs := { running.obs with trigger := some (4, 0) } }, by decide +kernel⟩

theorem witness_DeterminismAndQuench_5 :
    ∃ (s : State),
    s.takesWrites = true :=
  ⟨running, by decide +kernel⟩

theorem witness_LinksTrainAndFail_0 :
    ∃ (l peer : Nat) (s : State),
    s.up = true ∧
    l ≤ 15 ∧
    peer ≠ 0xFFFF ∧
    s.flag FAB_PHYS_ID.set = true :=
  ⟨15, 1, linked, by decide +kernel⟩

theorem witness_LinksTrainAndFail_1 :
    ∃ (l : Nat) (s u : State),
    s.up = true ∧
    l ≤ 15 ∧
    s.linkUp l = true ∧
    u = s.bump FAB_LINK_PERF_RETRY.count l 0 1 :=
  ⟨15, linked, linked.bump FAB_LINK_PERF_RETRY.count 15 0 1, by decide +kernel⟩

def atLinksTrainAndFail2 : State := { linked with fab := { linked.fab with badLanes := [120, 121, 122] } }

def atLinksTrainAndFail2U : State :=
  { atLinksTrainAndFail2 with fab := { atLinksTrainAndFail2.fab with badLanes := atLinksTrainAndFail2.fab.badLanes ++ [8 * 15 + 7] } }

theorem witness_LinksTrainAndFail_2 :
    ∃ (l lane : Nat) (s u : State),
    s.up = true ∧
    l ≤ 15 ∧
    lane ≤ 7 ∧
    s.linkUp l = true ∧
    s.fab.badLanes.contains (8 * l + lane) = false ∧
    s.fld FAB_LINK_STATUS.lanes l / 2 ^ lane % 2 = 1 ∧
    u = { s with fab := { s.fab with badLanes := s.fab.badLanes ++ [8 * l + lane] } } ∧
    4 ≤ (u.goodLanes l).length :=
  ⟨15, 7, atLinksTrainAndFail2, atLinksTrainAndFail2U, by decide +kernel⟩

theorem witness_LinksTrainAndFail_3 :
    ∃ (l : Nat) (s : State),
    s.up = true ∧
    l ≤ 15 ∧
    s.fld FAB_LINK_STATUS.state l ≠ 0 :=
  ⟨15, linked, by decide +kernel⟩

def atPacketsArrive0U : State :=
  linked.countArrival (({ op := 1, dst := 1, src := 2, hops := 4, link := 15 } : Packet))

def atPacketsArrive0Target : Nat :=
  (Option.get (atPacketsArrive0U.heading (({ op := 1, dst := 1, src := 2, hops := 4, link := 15 } : Packet)).dst) (by decide +kernel))

theorem witness_PacketsArrive_0 :
    ∃ (p q : Packet) (s u : State) (target l : Nat) (picks : List ((Nat × Nat × Nat × Nat) × Nat)),
    s.up = true ∧
    s.linkUp p.link = true ∧
    packetGood p = true ∧
    p.dst ≠ s.physId ∧
    u = s.countArrival p ∧
    u.heading p.dst = some target ∧
    target ≠ s.physId ∧
    p.hops < 5 ∧
    u.forwardLink p target = some (l, q, picks) ∧
    p.slice = s.fld FAB_ID.slice :=
  ⟨({ op := 1, dst := 1, src := 2, hops := 4, link := 15 } : Packet), ({ op := 1, dst := 1, src := 2, hops := 4, link := 15 } : Packet),
    linked, atPacketsArrive0U, atPacketsArrive0Target, 0, [((2, 1, 0, 63), 0)], rfl, by decide +kernel, by decide +kernel,
    by decide +kernel, rfl, by decide +kernel, by decide +kernel, by decide +kernel, rfl, by decide +kernel⟩

def atPacketsArrive1F : InFlow :=
  (Option.get (flowing.inflow ({ (packet 5 16) with op := 5 }).src 0) (by decide +kernel))

def atPacketsArrive1U : State :=
  flowing.countArrival ({ (packet 5 16) with op := 5 })

def atPacketsArrive1V : State :=
  (atPacketsArrive1U.setInflow { atPacketsArrive1F with expected := seqNext ({ (packet 5 16) with op := 5 }).seq, queue := [({ (packet 5 16) with op := 5 })] }).setInflow
      { atPacketsArrive1F with expected := seqNext ({ (packet 5 16) with op := 5 }).seq, inTable := atPacketsArrive1F.inTable ++ [({ (packet 5 16) with op := 5 }).seq] }

theorem witness_PacketsArrive_1 :
    ∃ (op : Nat) (c : Instr) (p q : Packet) (s u v : State) (f : InFlow),
    s.up = true ∧
    (op, c) ∈ [(1, Instr.loadReq p), (2, .store p), (3, .atomic p), (4, .swap p), (5, .cas p)] ∧
    q = { p with op := op } ∧
    s.linkUp q.link = true ∧
    packetGood q = true ∧
    q.dst = s.physId ∧
    q.transit = false ∧
    s.inSlice q.src = true ∧
    s.flag CST_STATE.pouring = false ∧
    isRegister q.addr = false ∧
    (op ≤ 3 ∨ q.addr % 8 = 0) ∧
    s.inflow q.src 0 = some f ∧
    f.gen = q.gen ∧
    f.expected = q.seq ∧
    q.seq < 2 ^ 32 ∧
    f.held = [] ∧
    f.queue = [] ∧
    s.fab.portWaits = [] ∧
    s.tableTakes q (sourceOf q) = true ∧
    u = s.countArrival q ∧
    v = (u.setInflow { f with expected := seqNext q.seq, queue := [q] }).setInflow
      { f with expected := seqNext q.seq, inTable := f.inTable ++ [q.seq] } :=
  ⟨5, .cas (packet 5 16), packet 5 16, { (packet 5 16) with op := 5 }, flowing, atPacketsArrive1U, atPacketsArrive1V, atPacketsArrive1F,
    by decide +kernel⟩

def atPacketsArrive2F : InFlow :=
  (Option.get (flowing.inflow ({ (packet 0x11 64) with op := 0x11 }).src 2) (by decide +kernel))

def atPacketsArrive2U : State :=
  flowing.countArrival ({ (packet 0x11 64) with op := 0x11 })

def atPacketsArrive2V : State :=
  (atPacketsArrive2U.setInflow { atPacketsArrive2F with expected := seqNext ({ (packet 0x11 64) with op := 0x11 }).seq, queue := [({ (packet 0x11 64) with op := 0x11 })] }).setInflow { atPacketsArrive2F with expected := seqNext ({ (packet 0x11 64) with op := 0x11 }).seq, queue := [] }

theorem witness_PacketsArrive_2 :
    ∃ (op : Nat) (c : Instr) (p q : Packet) (effect : State → State) (s u v : State) (f : InFlow),
    s.up = true ∧
    (op, c, effect) ∈ [(0x11, Instr.msg p, fun a : State => a.deliver p.addr p.payload),
      (0x12, .bcast p, fun a => a.takeBroadcast p.src p.payload), (0x13, .linkNotice p, fun a => a.takeNotice p.src p.payload)] ∧
    q = { p with op := op } ∧
    s.linkUp q.link = true ∧
    packetGood q = true ∧
    q.dst = s.physId ∧
    q.transit = false ∧
    s.inSlice q.src = true ∧
    s.inflow q.src 2 = some f ∧
    f.gen = q.gen ∧
    f.expected = q.seq ∧
    q.seq < 2 ^ 32 ∧
    f.held = [] ∧
    f.queue = [] ∧
    u = s.countArrival q ∧
    v = (u.setInflow { f with expected := seqNext q.seq, queue := [q] }).setInflow { f with expected := seqNext q.seq, queue := [] } :=
  ⟨0x11, .msg (packet 0x11 64), packet 0x11 64, { (packet 0x11 64) with op := 0x11 },
    fun a : State => a.deliver (packet 0x11 64).addr (packet 0x11 64).payload, flowing, atPacketsArrive2U, atPacketsArrive2V,
    atPacketsArrive2F, rfl, List.Mem.head _, rfl, by decide +kernel, by decide +kernel, by decide +kernel, rfl, by decide +kernel,
    by decide +kernel, by decide +kernel, by decide +kernel, by decide +kernel, rfl, rfl, rfl, rfl⟩

def atFlowsCarryRequests0 : State := { linked with fab := { linked.fab with reqQ := [ { op := 1, dst := 1, requester := 0, addr := 0 } ] } }

def atFlowsCarryRequests0R : Request :=
  (List.head (atFlowsCarryRequests0.fab.reqQ) (by decide +kernel))

def atFlowsCarryRequests0U : State :=
  { atFlowsCarryRequests0 with fab := { atFlowsCarryRequests0.fab with reqQ := ((List.tail (atFlowsCarryRequests0.fab.reqQ))) } }

theorem witness_FlowsCarryRequests_0 :
    ∃ (s u : State) (r : Request) (rest : List Request),
    s.up = true ∧
    s.fab.reqQ = r :: rest ∧
    u = { s with fab := { s.fab with reqQ := rest } } ∧
    s.mayGo [] r = true ∧
    (r.op ≠ 0x12 ∨ r.dst ≠ 0xFFFF) ∧
    s.target r ≠ s.physId ∧
    s.hasRoom (s.target r) (opClass r.op) = true :=
  ⟨atFlowsCarryRequests0, atFlowsCarryRequests0U, atFlowsCarryRequests0R, (List.tail (atFlowsCarryRequests0.fab.reqQ)), by decide +kernel⟩

def atFlowsCarryRequests1 : State := { linked with fab := { linked.fab with flows := [{ dst := 2, cls := 0, unacked := [{ packet := packet 1 0, again := 0, backward := false }] }] } }

def atFlowsCarryRequests1U : Unacked :=
  (List.head ((atFlowsCarryRequests1.flow 2 0).unacked) (by decide +kernel))

def atFlowsCarryRequests1Us : List Unacked :=
  (List.tail ((atFlowsCarryRequests1.flow 2 0).unacked))

theorem witness_FlowsCarryRequests_1 :
    ∃ (peer cls : Nat) (s : State) (f : Flow) (u : Unacked) (us : List Unacked),
    s.up = true ∧
    f = s.flow peer cls ∧
    f.unacked = u :: us :=
  ⟨2, 0, atFlowsCarryRequests1, atFlowsCarryRequests1.flow 2 0, atFlowsCarryRequests1U, atFlowsCarryRequests1Us, by decide +kernel⟩

def atFlowsCarryRequests2 : State := { linked with fab := { linked.fab with flows := [{ dst := 2, cls := 0, unacked := [{ packet := packet 1 0, again := 0, backward := false }] }] } }

def atFlowsCarryRequests2Q : Packet :=
  { (({ packet 0x10 0 with func := 0 } : Packet)) with op := 0x10 }

def atFlowsCarryRequests2F : Flow :=
  atFlowsCarryRequests2.flow atFlowsCarryRequests2Q.src 0

def atFlowsCarryRequests2U : State :=
  (atFlowsCarryRequests2.countArrival atFlowsCarryRequests2Q).setFlow
      { atFlowsCarryRequests2F with unacked := atFlowsCarryRequests2F.unacked.filter fun u => !(seqLe u.packet.seq atFlowsCarryRequests2Q.seq) }

def atFlowsCarryRequests2V : State :=
  (atFlowsCarryRequests2F.unacked.filter fun x => seqLe x.packet.seq atFlowsCarryRequests2Q.seq).foldl
      (fun a x => if x.packet.op = 2 ∨ x.packet.op = 3 then a.threadAnswered x.packet.requester else a) atFlowsCarryRequests2U

theorem witness_FlowsCarryRequests_2 :
    ∃ (p q : Packet) (s u v : State) (f : Flow),
    s.up = true ∧
    q = { p with op := 0x10 } ∧
    s.linkUp q.link = true ∧
    packetGood q = true ∧
    q.dst = s.physId ∧
    q.transit = false ∧
    s.inSlice q.src = true ∧
    q.func = 0 ∧
    f = s.flow q.src 0 ∧
    f.failed = [] ∧
    f.unacked.any (fun u => seqLe u.packet.seq q.seq) = true ∧
    u = (s.countArrival q).setFlow
      { f with unacked := f.unacked.filter fun u => !(seqLe u.packet.seq q.seq) } ∧
    v = (f.unacked.filter fun x => seqLe x.packet.seq q.seq).foldl
      (fun a x => if x.packet.op = 2 ∨ x.packet.op = 3 then a.threadAnswered x.packet.requester else a) u :=
  ⟨({ packet 0x10 0 with func := 0 } : Packet), atFlowsCarryRequests2Q, atFlowsCarryRequests2, atFlowsCarryRequests2U,
    atFlowsCarryRequests2V, atFlowsCarryRequests2F, by decide +kernel⟩

def atFlowsCarryRequests3 : State := { linked with fab := { linked.fab with inflows := [{ src := 2, cls := 1, gen := 15, expected := 0xFFFFFFFF }], awaiting := [({ packet 1 0 with dst := 2 }, 0)] } }

def atFlowsCarryRequests3Q : Packet :=
  { (({ packet 0x08 128 with mask := 15 } : Packet)) with op := 0x08 }

def atFlowsCarryRequests3F : InFlow :=
  (Option.get (atFlowsCarryRequests3.inflow atFlowsCarryRequests3Q.src 1) (by decide +kernel))

def atFlowsCarryRequests3A : Packet :=
  (Option.get (atFlowsCarryRequests3.fab.awaiting.find? (fun x => x.1.dst == atFlowsCarryRequests3Q.src && x.1.requester == atFlowsCarryRequests3Q.requester && x.1.addr == atFlowsCarryRequests3Q.addr && (x.1.op == 1) == (0x08 == 8))) (by decide +kernel)).1

def atFlowsCarryRequests3Stream : Nat :=
  (Option.get (atFlowsCarryRequests3.fab.awaiting.find? (fun x => x.1.dst == atFlowsCarryRequests3Q.src && x.1.requester == atFlowsCarryRequests3Q.requester && x.1.addr == atFlowsCarryRequests3Q.addr && (x.1.op == 1) == (0x08 == 8))) (by decide +kernel)).2

def atFlowsCarryRequests3U : State :=
  atFlowsCarryRequests3.countArrival atFlowsCarryRequests3Q

def atFlowsCarryRequests3V : State :=
  (atFlowsCarryRequests3U.setInflow { atFlowsCarryRequests3F with expected := seqNext atFlowsCarryRequests3Q.seq, queue := [atFlowsCarryRequests3Q] }).setInflow { atFlowsCarryRequests3F with expected := seqNext atFlowsCarryRequests3Q.seq, queue := [] }

def atFlowsCarryRequests3W : State :=
  ({ atFlowsCarryRequests3V with fab := { atFlowsCarryRequests3V.fab with awaiting := atFlowsCarryRequests3V.fab.awaiting.erase (atFlowsCarryRequests3A, atFlowsCarryRequests3Stream) } } : State).threadAnswered atFlowsCarryRequests3A.requester

theorem witness_FlowsCarryRequests_3 :
    ∃ (op : Nat) (c : Instr) (p q a : Packet) (stream : Nat) (s u v w : State) (f : InFlow),
    s.up = true ∧
    (op, c) ∈ [(0x08, Instr.loadData p), (0x09, .oldValue p)] ∧
    q = { p with op := op } ∧
    s.linkUp q.link = true ∧
    packetGood q = true ∧
    q.dst = s.physId ∧
    q.transit = false ∧
    s.inSlice q.src = true ∧
    s.inflow q.src 1 = some f ∧
    f.gen = q.gen ∧
    f.expected = q.seq ∧
    q.seq < 2 ^ 32 ∧
    f.held = [] ∧
    f.queue = [] ∧
    s.fab.awaiting.find? (fun x => x.1.dst == q.src && x.1.requester == q.requester && x.1.addr == q.addr && (x.1.op == 1) == (op == 8)) =
      some (a, stream) ∧
    u = s.countArrival q ∧
    v = (u.setInflow { f with expected := seqNext q.seq, queue := [q] }).setInflow { f with expected := seqNext q.seq, queue := [] } ∧
    w = ({ v with fab := { v.fab with awaiting := v.fab.awaiting.erase (a, stream) } } : State).threadAnswered a.requester :=
  ⟨0x08, (.loadData { packet 0x08 128 with mask := 15 } : Instr), ({ packet 0x08 128 with mask := 15 } : Packet), atFlowsCarryRequests3Q,
    atFlowsCarryRequests3A, atFlowsCarryRequests3Stream, atFlowsCarryRequests3, atFlowsCarryRequests3U, atFlowsCarryRequests3V,
    atFlowsCarryRequests3W, atFlowsCarryRequests3F, by decide +kernel⟩

def atFlowsCarryRequests4 : State := { linked with fab := { linked.fab with awaiting := [({ packet 1 0 with dst := 2 }, 0)] } }

def atFlowsCarryRequests4F : Flow :=
  atFlowsCarryRequests4.flow ({ (packet 0x0A 0) with op := 0x0A }).src 0

def atFlowsCarryRequests4U : State :=
  atFlowsCarryRequests4.countArrival ({ (packet 0x0A 0) with op := 0x0A })

def atFlowsCarryRequests4V : State :=
  atFlowsCarryRequests4U.setFlow { atFlowsCarryRequests4F with failed := atFlowsCarryRequests4F.failed ++ [(({ (packet 0x0A 0) with op := 0x0A }).seq, ({ (packet 0x0A 0) with op := 0x0A }).func % 16)] }

theorem witness_FlowsCarryRequests_4 :
    ∃ (p q : Packet) (s u v : State) (f : Flow),
    s.up = true ∧
    q = { p with op := 0x0A } ∧
    s.linkUp q.link = true ∧
    packetGood q = true ∧
    q.dst = s.physId ∧
    q.transit = false ∧
    s.inSlice q.src = true ∧
    f = s.flow q.src 0 ∧
    u = s.countArrival q ∧
    v = u.setFlow { f with failed := f.failed ++ [(q.seq, q.func % 16)] } :=
  ⟨packet 0x0A 0, { (packet 0x0A 0) with op := 0x0A }, atFlowsCarryRequests4, atFlowsCarryRequests4U, atFlowsCarryRequests4V,
    atFlowsCarryRequests4F, by decide +kernel⟩

def atFlowsCarryRequests5 : State := { linked with fab := { linked.fab with fences := [{ id := 1, requester := 0, backward := false, recorded := [] }] } }

def atFlowsCarryRequests5F : Fence :=
  (Option.get (atFlowsCarryRequests5.fab.fences.find? (fun f => f.id == 1)) (by decide +kernel))

theorem witness_FlowsCarryRequests_5 :
    ∃ (id : Nat) (s : State) (f : Fence),
    s.up = true ∧
    s.fab.fences.find? (fun f => f.id == id) = some f :=
  ⟨1, atFlowsCarryRequests5, atFlowsCarryRequests5F, by decide +kernel⟩

def atTableAppliesInOrder0 : State := tabled 0x10000

def atTableAppliesInOrder0Cells : List (Byte × Bool) :=
  (untabled.meetAtomic (entryAt 0x10000)).peekLine 0x10000

def atTableAppliesInOrder0Out : List (Option Byte) × Nat × List Byte × List Exc :=
  applyEntry (entryAt 0x10000) atTableAppliesInOrder0Cells

def atTableAppliesInOrder0V : State :=
  (if atTableAppliesInOrder0Out.1.any (·.isSome) then (((((untabled.meetAtomic (entryAt 0x10000)).mapWindow (fun w => { w with poisoned := (tabled 0x10000).obs.window.poisoned }) : State)).mendAtomic (entryAt 0x10000)).memWrite 0x10000 atTableAppliesInOrder0Out.1 (ownerOf (((entryAt 0x10000).sources.map (·.requester)).headD 0)) ((((untabled.meetAtomic (entryAt 0x10000)).mapWindow (fun w => { w with poisoned := (tabled 0x10000).obs.window.poisoned }) : State)).entryDie (entryAt 0x10000))).1
      else (((untabled.meetAtomic (entryAt 0x10000)).mapWindow (fun w => { w with poisoned := (tabled 0x10000).obs.window.poisoned }) : State)).idleAtomic (entryAt 0x10000))

theorem witness_TableAppliesInOrder_0 :
    ∃ (line : Nat) (s u m v : State) (e : Entry) (cells : List (Byte × Bool)) (out : List (Option Byte) × Nat × List Byte × List Exc),
    s.up = true ∧
    s.fab.table.find? (fun e => e.line == line) = some e ∧
    s.entryTurn e = true ∧
    e.op ≠ 1 ∧
    s.memGate line 128 (ownerOf ((e.sources.map (·.requester)).headD 0)) = .opened ∧
    u = { s with fab := { s.fab with table := startNext line (s.fab.table.erase e) } } ∧
    cells = (u.meetAtomic e).peekLine line ∧
    out = applyEntry e cells ∧
    m = (u.meetAtomic e).mapWindow (fun w => { w with poisoned := s.obs.window.poisoned }) ∧
    v = (if out.1.any (·.isSome) then ((m.mendAtomic e).memWrite line out.1 (ownerOf ((e.sources.map (·.requester)).headD 0)) (m.entryDie e)).1
      else m.idleAtomic e) :=
  ⟨0x10000, atTableAppliesInOrder0, untabled,
    ((untabled.meetAtomic (entryAt 0x10000)).mapWindow (fun w => { w with poisoned := (tabled 0x10000).obs.window.poisoned }) : State),
    atTableAppliesInOrder0V, entryAt 0x10000, atTableAppliesInOrder0Cells, atTableAppliesInOrder0Out, by decide +kernel⟩

def atTableAppliesInOrder1 : State := tabled 0x080000000000

def atTableAppliesInOrder1A : Nat :=
  (Option.get (sramPlace 0x080000000000) (by decide +kernel)).1

def atTableAppliesInOrder1Off : Nat :=
  (Option.get (sramPlace 0x080000000000) (by decide +kernel)).2

theorem witness_TableAppliesInOrder_1 :
    ∃ (line a off : Nat) (s : State) (e : Entry) (src : Source),
    s.up = true ∧
    s.fab.table.find? (fun e => e.line == line) = some e ∧
    sramPlace line = some (a, off) ∧
    s.pwr.halted = false ∧
    e.op = 2 ∧
    e.mask = 2 ^ 128 - 1 ∧
    e.data.length = 128 ∧
    e.sources = [src] ∧
    s.memGate line 128 (ownerOf src.requester) = .opened ∧
    s.fab.inflows = [] :=
  ⟨0x080000000000, atTableAppliesInOrder1A, atTableAppliesInOrder1Off, atTableAppliesInOrder1, entryAt 0x080000000000,
    ({ package := 0, requester := 0, seq := 0 } : Source), by decide +kernel⟩

theorem witness_TableAppliesInOrder_2 :
    ∃ (s : State),
    s.up = true :=
  ⟨running, by decide +kernel⟩

theorem witness_TableAppliesInOrder_3 :
    ∃ (pkg : Nat) (levels : List Nat) (s : State),
    s.up = true ∧
    levels.length = 4 ∧
    pkg ≠ s.physId :=
  ⟨1, [0, 15, 0, 15], linked, by decide +kernel⟩

theorem witness_TableAppliesInOrder_4 :
    ∃ (s : State),
    s.up = true :=
  ⟨linked, by decide +kernel⟩

def atTableAppliesInOrder5 : State := { linked with fab := { linked.fab with gathered := [(1, packet 0x12 32)] } }

def atTableAppliesInOrder5P : Nat × Packet :=
  (List.head (atTableAppliesInOrder5.fab.gathered.filter (fun g => g.1 == 1)) (by decide +kernel))

def atTableAppliesInOrder5Ps : List (Nat × Packet) :=
  (List.tail (atTableAppliesInOrder5.fab.gathered.filter (fun g => g.1 == 1)))

theorem witness_TableAppliesInOrder_5 :
    ∃ (f : Nat) (s : State) (p : Nat × Packet) (ps : List (Nat × Packet)),
    s.up = true ∧
    s.fab.gathered.filter (fun g => g.1 == f) = p :: ps :=
  ⟨1, atTableAppliesInOrder5, atTableAppliesInOrder5P, atTableAppliesInOrder5Ps, by decide +kernel⟩

theorem witness_EpochsAndUnits_0 :
    ∃ (s : State),
    s.takesWrites = true :=
  ⟨running, by decide +kernel⟩

theorem witness_EpochsAndUnits_1 :
    ∃ (s : State) (a n : Nat) (v : Word),
    s.up = true ∧
    s.flag FAB_EPOCH.pending = true ∧
    s.outstanding = false ∧
    s.fab.staged = [(a, v)] ∧
    Reg.ofAddr a = some ⟨.FAB_REMAP, n, 0⟩ :=
  ⟨{ running.setFld FAB_EPOCH.pending 0 0 1 with fab := { running.fab with staged := [(Reg.addr ⟨.FAB_REMAP, 0, 0⟩, 1)] } },
    Reg.addr ⟨.FAB_REMAP, 0, 0⟩, 0, 1, by decide +kernel⟩

theorem witness_EpochsAndUnits_2 :
    ∃ (s : State),
    s.up = true ∧
    s.flag FAB_EPOCH.pending = true :=
  ⟨running.setFld FAB_EPOCH.pending 0 0 1, by decide +kernel⟩

theorem witness_EpochsAndUnits_3 :
    ∃ (s : State),
    s.takesWrites = true ∧
    s.flag CST_STATE.configured = false :=
  ⟨running, by decide +kernel⟩

theorem witness_EpochsAndUnits_4 :
    ∃ (s : State),
    s.takesWrites = true ∧
    s.flag CST_STATE.configured = true :=
  ⟨running.setFld CST_STATE.configured 0 0 1, by decide +kernel⟩

def atEpochsAndUnits5R : Reg :=
  (Option.get (Reg.ofAddr (Reg.addr ⟨.UST_LINK, 15, 0⟩)) (by decide +kernel))

def atEpochsAndUnits5U : UnitId :=
  (Option.get (atEpochsAndUnits5R.unit) (by decide +kernel))

theorem witness_EpochsAndUnits_5 :
    ∃ (addr : Nat) (s : State) (r : Reg) (u : UnitId),
    s.up = true ∧
    Reg.ofAddr addr = some r ∧
    r.unit = some u ∧
    s.present u = true :=
  ⟨Reg.addr ⟨.UST_LINK, 15, 0⟩, running, atEpochsAndUnits5R, atEpochsAndUnits5U, by decide +kernel⟩

def atEpochsAndUnits6 : State := running.wr .UST_LINK 15 0 0x1108000000000000

def atEpochsAndUnits6R : Reg :=
  (Option.get (Reg.ofAddr (Reg.addr ⟨.UST_LINK, 15, 0⟩)) (by decide +kernel))

def atEpochsAndUnits6U : UnitId :=
  (Option.get (atEpochsAndUnits6R.unit) (by decide +kernel))

theorem witness_EpochsAndUnits_6 :
    ∃ (addr : Nat) (s : State) (r : Reg) (u : UnitId),
    s.up = true ∧
    Reg.ofAddr addr = some r ∧
    r.unit = some u ∧
    s.present u = true ∧
    s.tableState u = 1 ∧
    s.pathState u = 1 ∧
    s.workInFlight u = false :=
  ⟨Reg.addr ⟨.UST_LINK, 15, 0⟩, atEpochsAndUnits6, atEpochsAndUnits6R, atEpochsAndUnits6U, by decide +kernel⟩

theorem witness_HostTransport_0 :
    ∃ (f : Frame) (s : State),
    s.up = true ∧
    s.fld HP_STATUS.link = 1 ∧
    s.readFrame f = .discarded :=
  ⟨({ bytes := [] } : Frame), hosted peer0, by decide +kernel⟩

def atHostTransport1 : State := hosted peer0

def atHostTransport1U : State :=
  atHostTransport1.bump HP_PERF_RX_FRAMES.count 0 0 (if (frameOf (header 4 0 0) []).fcs then 1 else 0)

def atHostTransport1N : Nat :=
  (Option.get (atHostTransport1U.peerAt (gram (header 4 0 0) [])) (by decide +kernel))

theorem witness_HostTransport_1 :
    ∃ (f : Frame) (s u : State) (d : Datagram) (n : Nat),
    s.up = true ∧
    s.fld HP_STATUS.link = 1 ∧
    s.readFrame f = .datagram d ∧
    d.head.type = 4 ∧
    d.head.channel = 0 ∧
    d.head.session ≠ 0xFFFF ∧
    u = s.bump HP_PERF_RX_FRAMES.count 0 0 (if f.fcs then 1 else 0) ∧
    u.peerAt d = some n :=
  ⟨frameOf (header 4 0 0) [], atHostTransport1, atHostTransport1U, gram (header 4 0 0) [], atHostTransport1N, by decide +kernel⟩

def atHostTransport2 : State := hosted peer0

def atHostTransport2U : State :=
  atHostTransport2.bump HP_PERF_RX_FRAMES.count 0 0 (if (frameOf (header 5 0 4) []).fcs then 1 else 0)

def atHostTransport2N : Nat :=
  (Option.get (atHostTransport2U.peerAt (gram (header 5 0 4) [])) (by decide +kernel))

def atHostTransport2X : HostSession :=
  (Option.get (atHostTransport2U.session atHostTransport2N) (by decide +kernel))

theorem witness_HostTransport_2 :
    ∃ (f : Frame) (s u : State) (d : Datagram) (n : Nat) (x : HostSession),
    s.up = true ∧
    s.fld HP_STATUS.link = 1 ∧
    s.readFrame f = .datagram d ∧
    d.head.type = 5 ∧
    d.head.channel = 0 ∧
    u = s.bump HP_PERF_RX_FRAMES.count 0 0 (if f.fcs then 1 else 0) ∧
    u.peerAt d = some n ∧
    u.session n = some x ∧
    x.value = d.head.session ∧
    d.head.session ≠ 0xFFFF :=
  ⟨frameOf (header 5 0 4) [], atHostTransport2, atHostTransport2U, gram (header 5 0 4) [], atHostTransport2N, atHostTransport2X,
    by decide +kernel⟩

def atHostTransport3 : State := hosted peer0

def atHostTransport3U : State :=
  atHostTransport3.bump HP_PERF_RX_FRAMES.count 0 0 (if (frameOf (header 2 3 4) []).fcs then 1 else 0)

def atHostTransport3N : Nat :=
  (Option.get (atHostTransport3U.peerAt (gram (header 2 3 4) [])) (by decide +kernel))

def atHostTransport3X : HostSession :=
  (Option.get (atHostTransport3U.session atHostTransport3N) (by decide +kernel))

theorem witness_HostTransport_3 :
    ∃ (f : Frame) (s u : State) (d : Datagram) (n c : Nat) (x : HostSession),
    s.up = true ∧
    s.fld HP_STATUS.link = 1 ∧
    s.readFrame f = .datagram d ∧
    c = d.head.channel ∧
    (s.start.ready = true ∨ c = 0) ∧
    u = s.bump HP_PERF_RX_FRAMES.count 0 0 (if f.fcs then 1 else 0) ∧
    u.peerAt d = some n ∧
    u.session n = some x ∧
    x.value = d.head.session ∧
    d.head.session ≠ 0xFFFF :=
  ⟨frameOf (header 2 3 4) [], atHostTransport3, atHostTransport3U, gram (header 2 3 4) [], atHostTransport3N,
    (gram (header 2 3 4) []).head.channel, atHostTransport3X, by decide +kernel⟩

def atHostTransport4 : State := hosted { peer0 with evt := { unacked := [(0, [], 0)] } }

def atHostTransport4X : HostSession :=
  (Option.get (atHostTransport4.session 0) (by decide +kernel))

theorem witness_HostTransport_4 :
    ∃ (peer c a n : Nat) (pay : List Byte) (s : State) (x : HostSession),
    s.up = true ∧
    s.session peer = some x ∧
    c < 4 ∧
    (x.chan c).unacked = [(a, pay, n)] :=
  ⟨0, 3, 0, 0, [], atHostTransport4, atHostTransport4X, by decide +kernel⟩

def atHostTransport5 : State := hosted { peer0 with cmd := { commits := 1 } }

def atHostTransport5X : HostSession :=
  (Option.get (atHostTransport5.session 0) (by decide +kernel))

def atHostTransport5Y : HostSession :=
  atHostTransport5X.setChan 1 { atHostTransport5X.chan 1 with commits := 0 }

theorem witness_HostTransport_5 :
    ∃ (peer c : Nat) (s : State) (x y : HostSession),
    s.up = true ∧
    s.session peer = some x ∧
    (x.chan c).commits ≠ 0 ∧
    y = x.setChan c { x.chan c with commits := 0 } :=
  ⟨0, 1, atHostTransport5, atHostTransport5X, atHostTransport5Y, by decide +kernel⟩

def atHostTransport6 : State := { (hosted peer0).setFld HP_EVT_CFG.enable 0 0 1 with evt := { (hosted peer0).evt with queue := [{ cls := 1, code := 1, package := 0, unit := 0, lost := 0, record := 0, time := 0, step := 0, info := 0 }] } }

def atHostTransport6X : HostSession :=
  (Option.get (atHostTransport6.session (atHostTransport6.fld HP_EVT_CFG.sink)) (by decide +kernel))

def atHostTransport6Q : List EventRec :=
  atHostTransport6.evt.queue.map (fun r => if (atHostTransport6.evt.queue.take 32).any (fun y => y.record == r.record) then { r with sent := true } else r)

theorem witness_HostTransport_6 :
    ∃ (s : State) (x : HostSession) (now q : List EventRec),
    s.up = true ∧
    s.flag HP_EVT_CFG.enable = true ∧
    s.start.ready = true ∧
    s.session (s.fld HP_EVT_CFG.sink) = some x ∧
    x.evt.unacked = [] ∧
    s.evt.queue ≠ [] ∧
    now = s.evt.queue.take 32 ∧
    q = s.evt.queue.map (fun r => if now.any (fun y => y.record == r.record) then { r with sent := true } else r) :=
  ⟨atHostTransport6, atHostTransport6X, atHostTransport6.evt.queue.take 32, atHostTransport6Q, by decide +kernel⟩

theorem witness_HostTransport_7 :
    ∃ (s : State),
    s.up = true ∧
    s.fld HP_STATUS.link ≠ 0 :=
  ⟨hosted peer0, by decide +kernel⟩

theorem witness_HostTransport_8 :
    ∃ (s : State),
    s.up = true ∧
    s.host.linkLost = true :=
  ⟨{ running with host := { running.host with linkLost := true } }, by decide +kernel⟩

def atHostMessages0 : State := hosted peer0

def atHostMessages0U : State :=
  atHostMessages0.bump HP_PERF_RX_FRAMES.count 0 0 (if (frameOf (header 1 1 4) []).fcs then 1 else 0)

def atHostMessages0N : Nat :=
  (Option.get (atHostMessages0U.peerAt (gram (header 1 1 4) [])) (by decide +kernel))

def atHostMessages0X : HostSession :=
  (Option.get (atHostMessages0U.session atHostMessages0N) (by decide +kernel))

def atHostMessages0V : State :=
  atHostMessages0U.setSession (atHostMessages0X.setChan (gram (header 1 1 4) []).head.channel { atHostMessages0X.chan (gram (header 1 1 4) []).head.channel with rx := seqNext (gram (header 1 1 4) []).head.seq })

theorem witness_HostMessages_0 :
    ∃ (f : Frame) (s u v : State) (d : Datagram) (n : Nat) (x : HostSession),
    s.up = true ∧
    s.fld HP_STATUS.link = 1 ∧
    s.readFrame f = .datagram d ∧
    d.head.type = 1 ∧
    d.head.session ≠ 0xFFFF ∧
    u = s.bump HP_PERF_RX_FRAMES.count 0 0 (if f.fcs then 1 else 0) ∧
    u.peerAt d = some n ∧
    u.session n = some x ∧
    x.value = d.head.session ∧
    (x.chan d.head.channel).unacked = [] ∧
    d.head.seq = (x.chan d.head.channel).rx ∧
    (x.chan d.head.channel).commits + x.waiting d.head.channel < 256 ∧
    v = u.setSession (x.setChan d.head.channel { x.chan d.head.channel with rx := seqNext d.head.seq }) :=
  ⟨frameOf (header 1 1 4) [], atHostMessages0, atHostMessages0U, atHostMessages0V, gram (header 1 1 4) [], atHostMessages0N,
    atHostMessages0X, by decide +kernel⟩

def atHostMessages1 : State := hosted { peer0 with bulkItems := [{ seq := 0, id := 0, tag := 0, done := false }] }

def atHostMessages1X : HostSession :=
  (Option.get (atHostMessages1.session 0) (by decide +kernel))

theorem witness_HostMessages_1 :
    ∃ (peer : Nat) (s : State) (x : HostSession) (b : BulkItem),
    s.up = true ∧
    s.session peer = some x ∧
    x.bulkItems = [b] ∧
    x.cmdWait = [] ∧
    s.bulkOpen b.id = false ∧
    s.host.failed.lookup b.id = none :=
  ⟨0, atHostMessages1, atHostMessages1X, ({ seq := 0, id := 0, tag := 0, done := false } : BulkItem), by decide +kernel⟩

def atHostMessages2 : State := (hosted peer0).setFld FAB_CFG.gateway 0 0 1

def atHostMessages2Len : Nat :=
  num (gram (header 1 2 0xFFFF) (0x14#8 :: List.replicate 31 0#8)).payload 16 4

theorem witness_HostMessages_2 :
    ∃ (f : Frame) (s : State) (d : Datagram) (g len : Nat),
    s.up = true ∧
    s.flag FAB_CFG.gateway = true ∧
    s.fld HP_STATUS.link = 1 ∧
    s.start.ready = true ∧
    s.readFrame f = .datagram d ∧
    d.head.session = 0xFFFF ∧
    d.head.channel = 2 ∧
    d.head.type = 1 ∧
    g < 64 ∧
    (s.farGateway g).valid = true ∧
    (s.farGateway g).ipv6 = d.ipv6 ∧
    (s.farGateway g).ip = d.ip ∧
    (s.farGateway g).port + 2 = d.port ∧
    byteAt d.payload 0 = 0x14 ∧
    len = num d.payload 16 4 ∧
    d.payload.length = 32 + len :=
  ⟨frameOf (header 1 2 0xFFFF) (0x14#8 :: List.replicate 31 0#8), atHostMessages2,
    gram (header 1 2 0xFFFF) (0x14#8 :: List.replicate 31 0#8), 63, atHostMessages2Len, by decide +kernel⟩

theorem witness_ResetAndSideband_0 :
    ∃ (n : Nat) (c : Instr) (s : State),
    (n, c) ∈ [(1, Instr.sbResetNAssert), (2, .sbPwrOkLow)] ∧
    s.pins.pwrOk = true ∧
    s.pins.resetN = true :=
  ⟨1, .sbResetNAssert, running, by decide +kernel⟩

theorem witness_ResetAndSideband_2 :
    ∃ (s : State),
    s.pins.pwrOk = true ∧
    s.pins.resetN = false :=
  ⟨State.reset, by decide +kernel⟩

theorem witness_ResetAndSideband_3 :
    ∃ (s : State),
    s.up = true :=
  ⟨running, by decide +kernel⟩

theorem witness_ResetAndSideband_4 :
    ∃ (s : State),
    s.up = true :=
  ⟨running, by decide +kernel⟩

theorem witness_ResetAndSideband_5 :
    ∃ (o : Nat) (s : State),
    s.pins.pwrOk = true ∧
    0x10 ≤ o ∧
    o ≤ 0x51 :=
  ⟨0x51, running, by decide +kernel⟩

theorem witness_ResetAndSideband_6 :
    ∃ (address : Nat) (s : State),
    address ≠ 0x58 + s.pins.straps % 4 :=
  ⟨0, running, by decide +kernel⟩

theorem witness_ClocksFollowReference_0 :
    ∃ (s : State),
    s.up = true :=
  ⟨running, by decide +kernel⟩

theorem witness_ClocksFollowReference_1 :
    ∃ (s : State),
    s.up = true ∧
    s.flag CLK_STATUS.judging = true :=
  ⟨running.setFld CLK_STATUS.judging 0 0 1, by decide +kernel⟩

theorem witness_ClocksFollowReference_2 :
    ∃ (s : State),
    s.up = true ∧
    s.fld CLK_STATUS.mode = 0 ∧
    s.start.clock = 1 :=
  ⟨{ clocked 0 with start := { running.start with clock := 1 } }, by decide +kernel⟩

theorem witness_ClocksFollowReference_3 :
    ∃ (s : State),
    s.up = true ∧
    s.fld CLK_STATUS.mode = 1 :=
  ⟨clocked 1, by decide +kernel⟩

theorem witness_ClocksFollowReference_4 :
    ∃ (s : State),
    s.up = true ∧
    s.fld CLK_STATUS.mode = 1 :=
  ⟨clocked 1, by decide +kernel⟩

theorem witness_ClocksFollowReference_5 :
    ∃ (s : State),
    s.up = true :=
  ⟨running, by decide +kernel⟩

theorem witness_ClocksFollowReference_6 :
    ∃ (s : State),
    s.up = true ∧
    s.fld CLK_STATUS.mode = 2 ∧
    s.flag CLK_STATUS.holdover_expired = false :=
  ⟨clocked 2, by decide +kernel⟩

theorem witness_ClocksFollowReference_7 :
    ∃ (s : State),
    s.takesWrites = true :=
  ⟨running, by decide +kernel⟩

def atClocksFollowReference8 : State := { running with clk := { running.clk with test := some true } }

def atClocksFollowReference8U : State :=
  (atClocksFollowReference8.mapClk fun c => { c with test := none })

theorem witness_ClocksFollowReference_8 :
    ∃ (on : Bool) (s u : State),
    s.clk.test = some on ∧
    u = (s.mapClk fun c => { c with test := none }) :=
  ⟨true, atClocksFollowReference8, atClocksFollowReference8U, by decide +kernel⟩

theorem witness_ClocksFollowReference_9 :
    ∃ (s : State),
    s.up = true ∧
    s.fld CLK_STATUS.mode = 4 ∧
    s.clk.leaving = true ∧
    s.clk.locked = false :=
  ⟨{ clocked 4 with clk := { running.clk with leaving := true } }, by decide +kernel⟩

theorem witness_ClocksFollowReference_10 :
    ∃ (s : State),
    s.up = true ∧
    s.fld CLK_STATUS.mode = 4 ∧
    s.clk.locked = true :=
  ⟨{ clocked 4 with clk := { running.clk with locked := true } }, by decide +kernel⟩

theorem witness_ClocksFollowReference_11 :
    ∃ (s : State),
    s.up = true ∧
    s.start.running = true ∧
    s.start.ready = false ∧
    s.start.clock = 0 :=
  ⟨{ running with start := { running.start with running := true } }, by decide +kernel⟩

def atHallmarkOperations0N : Nat :=
  (Option.get (firmware.hmk.running) (by decide +kernel))

theorem witness_HallmarkOperations_0 :
    ∃ (op : Nat) (c : Instr) (s : State) (n : Nat),
    s.up = true ∧
    (op, c) ∈ [(1, Instr.storeCast), (3, .storeFw)] ∧
    s.hmk.job = none ∧
    s.hmk.running = some n ∧
    s.hmk.nand.wornOut = false :=
  ⟨1, .storeCast, firmware, atHallmarkOperations0N, by decide +kernel⟩

def atHallmarkOperations1 : State := { firmware with hmk := { firmware.hmk with cast0 := { valid := true } } }

def atHallmarkOperations1N : Nat :=
  (Option.get (atHallmarkOperations1.hmk.running) (by decide +kernel))

theorem witness_HallmarkOperations_1 :
    ∃ (s : State) (n : Nat),
    s.up = true ∧
    s.hmk.job = none ∧
    s.hmk.running = some n ∧
    (s.hmk.cast (s.fld HMK_ARG0.slot)).valid = true :=
  ⟨atHallmarkOperations1, atHallmarkOperations1N, by decide +kernel⟩

theorem witness_HallmarkOperations_2 :
    ∃ (c : Instr) (s : State),
    s.up = true ∧
    c ∈ [Instr.confirmFw, .hallmarkRead, .key, .attest] ∧
    s.hmk.job.isSome = true :=
  ⟨.key, { firmware with hmk := { firmware.hmk with job := some { op := 1, slot := 0 } } }, by decide +kernel⟩

def atHallmarkOperations3N : Nat :=
  (Option.get (firmware.hmk.running) (by decide +kernel))

theorem witness_HallmarkOperations_3 :
    ∃ (s : State) (n : Nat),
    s.up = true ∧
    s.hmk.job = none ∧
    s.hmk.running = some n ∧
    s.hmk.startFailures < 3 :=
  ⟨firmware, atHallmarkOperations3N, by decide +kernel⟩

def atHallmarkOperations4H : Hmk :=
  ((fun h => { h with keyEpoch := 1 } : Hmk → Hmk)) running.hmk

theorem witness_HallmarkOperations_4 :
    ∃ (kind : Nat) (f : Hmk → Hmk) (s : State) (h : Hmk),
    h = f s.hmk ∧
    h.copying.contains kind = false :=
  ⟨recKeys, (fun h => { h with keyEpoch := 1 } : Hmk → Hmk), running, atHallmarkOperations4H, by decide +kernel⟩

def atHallmarkOperations5 : State := (running.setFld HMK_ARG0.partition 0 0 2).setFld HMK_ARG1.length 0 0 4096

def atHallmarkOperations5Off : Nat :=
  atHallmarkOperations5.fld HMK_ARG1.offset * 4096

theorem witness_HallmarkOperations_5 :
    ∃ (s : State) (p n off addr : Nat),
    s.up = true ∧
    s.hmk.job = none ∧
    p = s.fld HMK_ARG0.partition ∧
    (p = 1 ∨ p = 2) ∧
    addr = s.fld HMK_ARG0.addr ∧
    n = s.fld HMK_ARG1.length ∧
    off = s.fld HMK_ARG1.offset * 4096 ∧
    n ≠ 0 ∧
    off + n ≤ partSize p ∧
    addr % 4096 = 0 ∧
    s.inHbm addr n = true ∧
    s.nandReadable p (s.fld HMK_ARG0.slot) off n = true :=
  ⟨atHallmarkOperations5, atHallmarkOperations5.fld HMK_ARG0.partition, atHallmarkOperations5.fld HMK_ARG1.length,
    atHallmarkOperations5Off, atHallmarkOperations5.fld HMK_ARG0.addr, by decide +kernel⟩

def atHallmarkOperations6 : State := stored firmware 0 (rec 64 [0x4B, 1, 3, 0, 1])

def atHallmarkOperations6N : Nat :=
  (Option.get (atHallmarkOperations6.hmk.running) (by decide +kernel))

def atHallmarkOperations6U : State :=
  (atHallmarkOperations6.hbmRead (atHallmarkOperations6.fld HMK_ARG0.addr) 64).1

def atHallmarkOperations6R : List Byte :=
  (atHallmarkOperations6.hbmRead (atHallmarkOperations6.fld HMK_ARG0.addr) 64).2.1

theorem witness_HallmarkOperations_6 :
    ∃ (s u : State) (n addr slot : Nat) (r : List Byte),
    s.up = true ∧
    s.hmk.job = none ∧
    s.hmk.running = some n ∧
    addr = s.fld HMK_ARG0.addr ∧
    addr % 4096 = 0 ∧
    s.inHbm addr 64 = true ∧
    s.hbmRead addr 64 = (u, r, false) ∧
    byteAt r 0 = 0x4B ∧
    byteAt r 1 = 1 ∧
    slot = byteAt r 2 ∧
    slot ≤ 3 ∧
    byteAt r 3 = 0 ∧
    zeros r 40 24 = true ∧
    num r 4 4 = 1 ∧
    u.hmk.keyEpoch = 0 ∧
    (∀ k ∈ u.hmk.keys, k.valid = false) ∧
    (u.hmk.keys.getD slot {}).revoked = false :=
  ⟨atHallmarkOperations6, atHallmarkOperations6U, atHallmarkOperations6N, atHallmarkOperations6.fld HMK_ARG0.addr,
    byteAt atHallmarkOperations6R 2, atHallmarkOperations6R, by decide +kernel⟩

theorem witness_HallmarkOperations_7 :
    ∃ (op kind : Nat) (s : State),
    (op, kind) ∈ [(opConfirm, recFirmware), (opKey, recKeys)] ∧
    s.hmk.job = some { op := op, slot := 0 } ∧
    s.hmk.copying.contains kind = false :=
  ⟨6, recKeys, { running with hmk := { running.hmk with job := some { op := 6, slot := 0 } } }, by decide +kernel⟩

def atHallmarkOperations8U : State :=
  (firmware.hbmRead (firmware.fld HMK_ARG0.addr) 32).1

def atHallmarkOperations8Nonce : List Byte :=
  (firmware.hbmRead (firmware.fld HMK_ARG0.addr) 32).2.1

def atHallmarkOperations8R : List Byte :=
  atHallmarkOperations8U.report atHallmarkOperations8Nonce atHallmarkOperations8U.nanos

theorem witness_HallmarkOperations_8 :
    ∃ (s u : State) (addr : Nat) (nonce r : List Byte),
    s.up = true ∧
    s.hmk.job = none ∧
    addr = s.fld HMK_ARG0.addr ∧
    addr % 4096 = 0 ∧
    s.inHbm addr 3629 = true ∧
    s.hbmRead addr 32 = (u, nonce, false) ∧
    r = u.report nonce u.nanos :=
  ⟨firmware, atHallmarkOperations8U, firmware.fld HMK_ARG0.addr, atHallmarkOperations8Nonce, atHallmarkOperations8R, rfl,
    by decide +kernel, rfl, by decide +kernel, by decide +kernel, by decide +kernel, rfl⟩

def atHallmarkOperations9 : State := { firmware with poison := [0] }

def atHallmarkOperations9U : State :=
  (atHallmarkOperations9.hbmRead (atHallmarkOperations9.fld HMK_ARG0.addr) 32).1

def atHallmarkOperations9Nonce : List Byte :=
  (atHallmarkOperations9.hbmRead (atHallmarkOperations9.fld HMK_ARG0.addr) 32).2.1

theorem witness_HallmarkOperations_9 :
    ∃ (s u : State) (addr : Nat) (nonce : List Byte),
    s.up = true ∧
    s.hmk.job = none ∧
    addr = s.fld HMK_ARG0.addr ∧
    addr % 4096 = 0 ∧
    s.inHbm addr 3629 = true ∧
    s.hbmRead addr 32 = (u, nonce, true) :=
  ⟨atHallmarkOperations9, atHallmarkOperations9U, atHallmarkOperations9.fld HMK_ARG0.addr, atHallmarkOperations9Nonce, by decide +kernel⟩

theorem witness_HallmarkUpkeep_0 :
    ∃ (p : Nat) (s : State),
    s.up = true ∧
    s.hmk.nand.map.any (fun m => m.1 == p) = true :=
  ⟨0, { running with hmk := { running.hmk with nand := { running.hmk.nand with map := [(0, 0)] } } }, by decide +kernel⟩

def atHallmarkUpkeep1N : Nand :=
  { running.hmk.nand with bad := insertKey 16383 running.hmk.nand.bad, used := running.hmk.nand.used.filter (· != 16383), fill := if running.hmk.nand.openBlock = 16383 then 64 else running.hmk.nand.fill }

theorem witness_HallmarkUpkeep_1 :
    ∃ (b : Nat) (s : State) (n : Nand),
    s.up = true ∧
    b < 16384 ∧
    s.hmk.nand.bad.contains b = false ∧
    n = { s.hmk.nand with bad := insertKey b s.hmk.nand.bad, used := s.hmk.nand.used.filter (· != b), fill := if s.hmk.nand.openBlock = b then 64 else s.hmk.nand.fill } :=
  ⟨16383, running, atHallmarkUpkeep1N, by decide +kernel⟩

def atHallmarkUpkeep2 : State := { running with hmk := { running.hmk with laser := [(135, { bias := 88, maxCode := 100, hours := 0, drift := 0, calHours := 0 })] } }

def atHallmarkUpkeep2Code : Nat :=
  (if (atHallmarkUpkeep2.laser (8 * 16 + 7)).bias < min 100 (atHallmarkUpkeep2.laser (8 * 16 + 7)).maxCode then (atHallmarkUpkeep2.laser (8 * 16 + 7)).bias + 1 else (atHallmarkUpkeep2.laser (8 * 16 + 7)).bias - 1)

theorem witness_HallmarkUpkeep_2 :
    ∃ (port lane bias code : Nat) (s : State) (old : Lane),
    s.up = true ∧
    port ≤ 16 ∧
    lane ≤ 7 ∧
    s.hmk.nand.broken = [] ∧
    old = s.laser (8 * port + lane) ∧
    min bias old.maxCode ≠ old.bias ∧
    code = (if old.bias < min bias old.maxCode then old.bias + 1 else old.bias - 1) ∧
    10 * code < 9 * old.maxCode :=
  ⟨16, 7, 100, atHallmarkUpkeep2Code, atHallmarkUpkeep2, atHallmarkUpkeep2.laser (8 * 16 + 7), by decide +kernel⟩

theorem witness_HallmarkUpkeep_3 :
    ∃ (s : State),
    s.up = true :=
  ⟨running, by decide +kernel⟩

theorem witness_LinearFormatsRoundTrip_0 :
    ∃ (F : Lin) (b : Nat),
    F ∈ [Lin.a32, Lin.m16, Lin.w16] ∧
    b < 2 ^ F.width :=
  ⟨Lin.a32, 2 ^ 32 - 1, List.Mem.head _, by decide +kernel⟩

theorem witness_LogCodesRoundTrip_0 :
    ∃ (f : LogFmt) (code e8 : Nat),
    e8 < 255 ∧
    code < (if f = .l4 then 16 else 256) :=
  ⟨.l4, 15, 254, by decide +kernel⟩

theorem witness_RunningSumsStayA32_0 :
    ∃ (b : Nat),
    b < 2 ^ 32 :=
  ⟨2 ^ 32 - 1, by decide +kernel⟩

theorem witness_StepKeepsSound_0 :
    ∃ (p : Part) (s : State) (t : State), s.Sound p ∧ step s = .next t :=
  ⟨running.part, { running with pending := [.gather] }, running.settle running, ⟨rfl, rfl, fun k i j h => State.rd_fused _ k i j h⟩, rfl⟩

end Sys2Proof.Tests
end

section
/-! SUPPORT. Scope: the front of the queue, totality of the commands, register writes by access codes. -/

namespace Sys2Proof.Machine

/-! ### A step on a waiting command -/

theorem step_of_pending_cons {c : Instr} {rest : List Instr} {s : State} (h : s.pending = c :: rest) :
    step s = exec c { s with pending := rest } := by
  simp only [step, h]

/-! ### What a command can answer -/

/-- Power, the board and the I2C bus act on a package held in reset too, so their effect is not guarded (R373, R428). -/
theorem exec_of_actsInReset {c : Instr} (s : State) (h : c.actsInReset = true) : ∃ t, exec c s = .next (s.settle t) := by
  cases c
  case sbPwrOkLow | sbResetNAssert | resetRelease | i2cTransfer | sbPwrOkRaise => exact ⟨_, rfl⟩
  all_goals cases h

/-- Every other command acts on a running package alone (R428). -/
theorem exec_of_not_actsInReset {c : Instr} (s : State) (h : c.actsInReset = false) : ∃ t, exec c s = live s t := by
  cases c
  case sbPwrOkLow | sbResetNAssert | resetRelease | i2cTransfer | sbPwrOkRaise => cases h
  all_goals exact ⟨_, rfl⟩

/-- A command answers the state as it was or a settled one. -/
theorem exec_next (c : Instr) (s : State) : ∃ u, exec c s = .next u ∧ (u = s ∨ ∃ t, u = s.settle t) := by
  cases h : c.actsInReset
  · obtain ⟨t, ht⟩ := exec_of_not_actsInReset s h
    obtain ⟨u, hu, rfl | rfl⟩ := live_next s t
    · exact ⟨u, ht.trans hu, .inl rfl⟩
    · exact ⟨_, ht.trans hu, .inr ⟨t, rfl⟩⟩
  · obtain ⟨t, ht⟩ := exec_of_actsInReset s h
    exact ⟨_, ht, .inr ⟨t, rfl⟩⟩

/-! ### What a write does to one field -/

/-- What a write of `n` leaves in a field that held `o`, by the field's access code (R12, R465). -/
def Fld.leaves (f : Fld) (o n : Nat) : Nat :=
  match f.acc with
  | .rw => n
  | .ro | .wo => o
  | .w1s => o ||| n
  | .w1c => if f.count then (if n = f.top then 0 else o) else o - (o &&& n)

/-- Two fields that share no bit. -/
def Fld.Apart (f g : Fld) : Prop := f.hi < g.lo ∨ g.hi < f.lo

theorem Fld.Apart.symm {f g : Fld} (h : f.Apart g) : g.Apart f := Or.symm h

theorem Fld.ok_iff {f : Fld} : f.ok = true ↔ f.lo ≤ f.hi ∧ f.hi < 64 := by simp [Fld.ok]

/-- A write of a field leaves the word as it is or replaces the field's own bits. -/
theorem Fld.write_eq_or (f : Fld) (old new : Word) :
    f.write old new = old ∨ ∃ v, f.write old new = setBits old f.hi f.lo v := by
  unfold Fld.write
  cases f.acc
  case rw | w1s => exact .inr ⟨_, rfl⟩
  case ro | wo => exact .inl rfl
  case w1c =>
    cases f.count
    · exact .inr ⟨_, rfl⟩
    · by_cases ht : bits new f.hi f.lo = f.top
      · exact .inr ⟨0, by simp [ht]⟩
      · exact .inl (by simp [ht])

/-- Bits outside the field written read as before. -/
theorem Fld.bits_write_outside {f : Fld} (hf : f.ok = true) (old new : Word) {hi lo : Nat} (hlo : lo ≤ hi)
    (h : hi < f.lo ∨ f.hi < lo) : bits (f.write old new) hi lo = bits old hi lo := by
  obtain ⟨h1, h2⟩ := Fld.ok_iff.mp hf
  obtain e | ⟨v, e⟩ := f.write_eq_or old new
  · rw [e]
  · rw [e]
    rcases h with h | h
    · exact bits_setBits_below old f.hi f.lo v hi lo h1 h2 h hlo
    · exact bits_setBits_above old f.hi f.lo v hi lo h1 h2 h

/-- A field reads what its access code leaves in it. -/
theorem Fld.bits_write_same {f : Fld} (hf : f.ok = true) (old new : Word) :
    bits (f.write old new) f.hi f.lo = f.leaves (bits old f.hi f.lo) (bits new f.hi f.lo) := by
  obtain ⟨h1, h2⟩ := Fld.ok_iff.mp hf
  have ho := bits_lt old f.hi f.lo
  have hn := bits_lt new f.hi f.lo
  have put : ∀ v < 2 ^ (f.hi - f.lo + 1), bits (setBits old f.hi f.lo v) f.hi f.lo = v := fun v hv => by
    rw [bits_setBits_same old f.hi f.lo v h1 h2, Nat.mod_eq_of_lt hv]
  unfold Fld.write Fld.leaves
  cases f.acc
  case rw => exact put _ hn
  case ro | wo => rfl
  case w1s => exact put _ (Nat.or_lt_two_pow ho hn)
  case w1c =>
    cases f.count
    · exact put _ (Nat.lt_of_le_of_lt (Nat.sub_le _ _) ho)
    · by_cases ht : bits new f.hi f.lo = f.top
      · simpa [ht] using put 0 (Nat.two_pow_pos _)
      · simp [ht]

/-! ### What a write does to a register -/

/-- Bits outside every field written read as before. -/
theorem bits_foldl_write_outside {l : List Fld} (new : Word) {hi lo : Nat} (hlo : lo ≤ hi) (ok : ∀ f ∈ l, f.ok = true)
    (h : ∀ f ∈ l, hi < f.lo ∨ f.hi < lo) (old : Word) : bits (l.foldl (fun w f => f.write w new) old) hi lo = bits old hi lo := by
  induction l generalizing old with
  | nil => rfl
  | cons g l ih =>
    rw [List.forall_mem_cons] at ok h
    rw [List.foldl_cons, ih ok.2 h.2, Fld.bits_write_outside ok.1 old new hlo h.1]

/-- Where no two fields share a bit, each reads what its own access code leaves in it. -/
theorem bits_foldl_write_mem {l : List Fld} (new : Word) (ok : ∀ f ∈ l, f.ok = true) (apart : l.Pairwise Fld.Apart) {f : Fld}
    (hf : f ∈ l) (old : Word) :
    bits (l.foldl (fun w f => f.write w new) old) f.hi f.lo = f.leaves (bits old f.hi f.lo) (bits new f.hi f.lo) := by
  have hlo : f.lo ≤ f.hi := (Fld.ok_iff.mp (ok f hf)).1
  induction l generalizing old with
  | nil => cases hf
  | cons g l ih =>
    rw [List.forall_mem_cons] at ok
    obtain ⟨hg, apart⟩ := List.pairwise_cons.mp apart
    rw [List.foldl_cons]
    rcases List.mem_cons.mp hf with rfl | hf
    · rw [bits_foldl_write_outside new hlo ok.2 hg, Fld.bits_write_same ok.1]
    · rw [ih ok.2 apart hf, Fld.bits_write_outside ok.1 old new hlo (hg f hf).symm]

/-- Every field of every register lies in its word. -/
theorem RegKind.fields_ok (k : RegKind) : ∀ f ∈ k.fields, f.ok = true := by
  cases k <;> decide

/-- No two fields of a register share a bit. -/
theorem RegKind.fields_apart (k : RegKind) : k.fields.Pairwise Fld.Apart := by
  unfold Fld.Apart
  cases k <;> decide

theorem bit_eq_bits (w : Word) (i : Nat) : bit w i = decide (bits w i i = 1) := by
  simp [bit, bits, BitVec.getLsbD, Nat.testBit_eq_decide_div_mod_eq]

theorem bits_fieldWrite_of_mem {k : RegKind} {f : Fld} (hf : f ∈ k.fields) (old new : Word) :
    bits (fieldWrite k old new) f.hi f.lo = f.leaves (bits old f.hi f.lo) (bits new f.hi f.lo) :=
  bits_foldl_write_mem new k.fields_ok k.fields_apart hf old

theorem bit_fieldWrite_of_reserved {k : RegKind} {i : Nat} (h : ∀ f ∈ k.fields, i < f.lo ∨ f.hi < i) (old new : Word) :
    bit (fieldWrite k old new) i = bit old i := by
  rw [bit_eq_bits, bit_eq_bits, fieldWrite, bits_foldl_write_outside new le_rfl k.fields_ok h]

/-! ### Registers of an array during the thermal halt (R34) -/

/-- The exception counts of array `a`: a register of an array with no write rule of its own (R72). -/
def exceptionCounts (a : Nat) : Reg := ⟨.ARR_EXC_CNT, a, 0⟩

/-- After the halt at 115 °C the arrays' state is held: a write of the counts completes and clears nothing. -/
theorem State.regWrite_exceptionCounts_halted {s : State} (a : Nat) (v : Word) (h : s.pwr.halted = true) :
    s.regWrite (exceptionCounts a) v = s :=
  State.onArray_halted a (fun s => s.plainWrite (exceptionCounts a) v) h

/-- A 64-bit write completes with OK where a register answers, and has that register's effect (R11). -/
theorem exec_registerWrite_of_regAt {s : State} {addr : Nat} {r : Reg} (v : Word) (up : s.up = true)
    (h : s.regAt false addr = some r) :
    exec (.registerWrite addr 8 v) s = .next (s.settle { s.regWrite r v with compl := (.ok, []) }) := by
  refine (live_up up).trans ?_
  simp [State.registerWrite, State.accessWrite, h]

/-- A package out of reset, halted for heat, with one row counted as empty in array 0. -/
def haltedWithCount : State :=
  { pins := { resetN := true }, pwr := { halted := true }, regs := [(regKey .ARR_EXC_CNT 0 0, 1)] }

theorem haltedWithCount_regAt : haltedWithCount.regAt false 0x0F4000000108 = some (exceptionCounts 0) := by decide +kernel

end Sys2Proof.Machine
end

section
open Sys2Proof.Machine

/-- Settles O5: each command's effect ends in `State.settle`, which keeps the queue and the fuses and leaves memory canonical. -/
theorem everyCommandGoesOn : Obligations.EveryCommandGoesOn := by
  intro c s
  obtain ⟨u, hu, rfl | ⟨t, rfl⟩⟩ := exec_next c s
  · exact ⟨u, hu, rfl, rfl, id⟩
  · exact ⟨_, hu, State.settle_pending s t, State.settle_part s t, fun _ => State.wf_settle s t⟩

/-- Refutes O6: after the thermal halt (R34) a register of an array takes no write, though the write completes with OK. Clearing the
count of empty rows of array 0 leaves it at 1, where its access code alone would leave 0. -/
theorem not_registerWriteByAccessCodes : ¬ Obligations.RegisterWriteByAccessCodes := by
  intro ⟨byCodes, _⟩
  have hw := byCodes 0x0F4000000108 0xFFFF (exceptionCounts 0) haltedWithCount rfl haltedWithCount_regAt rfl
  rw [exec_registerWrite_of_regAt _ rfl haltedWithCount_regAt, State.regWrite_exceptionCounts_halted 0 _ rfl] at hw
  injection hw with hw
  have hcount : (1 : Sys2Proof.Word) = 0 := congrArg (State.rd · .ARR_EXC_CNT) hw
  exact absurd hcount (by decide)

/-- Settles O7: a register's fields lie in the word and share no bit, so the writes of the other fields leave each field to its own
access code, and no write reaches a reserved bit. -/
theorem fieldWriteByAccessCode : Obligations.FieldWriteByAccessCode :=
  ⟨fun _ _ old new hf => bits_fieldWrite_of_mem hf old new, fun _ _ old new h => bit_fieldWrite_of_reserved h old new⟩

/-- Settles O1, by the arm of `step` for a queue that is not empty. -/
theorem stepTakesFrontCommand : Obligations.StepTakesFrontCommand := fun _ _ _ h => step_of_pending_cons h

end

section
/-! SUPPORT. Package: accesses through the SRAM window (R36, R78, R90), power samples and sensor readings (R31, R32, R34). -/

namespace Sys2Proof.Machine

@[simp] theorem State.fld_settle (s t : State) (h : t.part = s.part) (f : Fld) (i j : Nat) : (s.settle t).fld f i j = t.fld f i j := by
  simp only [State.fld, State.rd_settle s t h]

/-! ### What an access to array SRAM leaves alone (R78) -/

@[simp] theorem State.setBytes_regs (s : State) (k : Nat) (bs : List Byte) : (s.setBytes k bs).regs = s.regs := by
  induction bs generalizing s k with
  | nil => rfl
  | cons b bs ih => simp [State.setBytes, ih]

@[simp] theorem State.settleWords_regs (s : State) (on : Nat → Bool) : (s.settleWords on).regs = s.regs :=
  foldl_keeps State.regs _ (fun s u => by split <;> rfl) _ _

@[simp] theorem State.writeWords_regs (s : State) (k : Nat) (bs : List Byte) : (s.writeWords k bs).regs = s.regs := by
  simp [State.writeWords]

@[simp] theorem State.sramMeet_regs (s : State) (a : Nat) (spans : List (Nat × Nat)) : (s.sramMeet a spans).regs = s.regs :=
  foldl_keeps State.regs _ (fun s u => by unfold State.meetWord; split <;> rfl) _ _

@[simp] theorem State.sramMeet_mem (s : State) (a : Nat) (spans : List (Nat × Nat)) : (s.sramMeet a spans).mem = s.mem :=
  foldl_keeps State.mem _ (fun s u => by unfold State.meetWord; split <;> rfl) _ _

@[simp] theorem State.violate_mem (s : State) (a : Nat) (banks : List Nat) : (s.violate a banks).mem = s.mem :=
  foldl_keeps State.mem _ (fun s b => State.setFld_mem s _ a b 1) _ _

/-! ### Which banks refuse or hold an access (R90, R92, R99) -/

/-- An owner of every bank under some spans is refused by none. -/
theorem State.refusing_of_owns {s : State} {a code : Nat} {spans : List (Nat × Nat)}
    (h : ∀ b ∈ banksOf spans, s.owns a b code = true) : s.refusing a code spans = [] :=
  List.filter_eq_nil_iff.mpr fun b hb => by simp [h b hb]

/-- The one bank under some spans refuses a requester that neither owns it nor is to own it. -/
theorem State.refusing_of_not_owns {s : State} {a b code : Nat} {spans : List (Nat × Nat)} (hb : banksOf spans = [b])
    (ho : s.owns a b code = false) (hi : s.incoming a b code = false) : s.refusing a code spans = [b] := by
  simp [State.refusing, hb, ho, hi]

/-- Nothing holds back an access whose banks are neither in handover to its requester nor stalled. -/
theorem State.holdsBack_eq_false {s : State} {a code : Nat} {spans : List (Nat × Nat)}
    (hs : ∀ b ∈ banksOf spans, s.bankStalls a b = false) (hi : ∀ b ∈ banksOf spans, s.incoming a b code = false) :
    s.holdsBack a code spans = false := by
  simpa [State.holdsBack, State.awaits, State.stalls] using ⟨hi, hs⟩

/-! ### How an EXT access ends (R36, R90, R92, R372) -/

/-- An array that does not answer is an address error (R28, R372). -/
theorem State.sramAccess_unanswered {s : State} {a : Nat} (x : Access) (errors : List MemError)
    (ha : s.arrayAnswers a false = false) : s.sramAccess a x errors = { s with compl := (.addrErr, []) } := by
  simp [State.sramAccess, ha]

section
variable {s : State} {a : Nat} {x : Access} (errors : List MemError) (ha : s.arrayAnswers a false = true)
  (pos : 0 < (accessSpan x).2) (hx : (accessSpan x).1 + (accessSpan x).2 ≤ 0x50000)
include ha pos hx

/-- An access to the scratchpad that a bank refuses ends with OWN_ERR, and sets violation. -/
theorem State.sramAccess_refused (hr : s.refusing a ownExt [accessSpan x] ≠ []) :
    s.sramAccess a x errors = { (s.violate a (s.refusing a ownExt [accessSpan x])) with compl := (.ownErr, []) } := by
  have low : ¬ (accessSpan x).1 ≥ 0x80000 := by omega
  simp [State.sramAccess, windowSpan, ha, hx, low, hr]

/-- An access to the scratchpad by the owner of its banks is performed where nothing seals or holds it. -/
theorem State.sramAccess_performed (hs : s.sealed x = false)
    (hb : ∀ b ∈ banksOf [accessSpan x], s.owns a b ownExt = true ∧ s.bankStalls a b = false ∧ s.incoming a b ownExt = false) :
    s.sramAccess a x errors = s.sramPerform a x errors := by
  have low : ¬ (accessSpan x).1 ≥ 0x80000 := by omega
  have owned : s.refusing a ownExt [accessSpan x] = [] := State.refusing_of_owns fun b h => (hb b h).1
  have free : s.holdsBack a ownExt [accessSpan x] = false :=
    State.holdsBack_eq_false (fun b h => (hb b h).2.1) fun b h => (hb b h).2.2
  simp [State.sramAccess, windowSpan, ha, hx, low, owned, hs, free]

end

/-- An access without new errors meets those that stand; one of no poisoned word returns its bytes. -/
theorem State.sramPerform_read_clean {s : State} {a off n : Nat} (h : (s.sramMeet a [(off, n)]).sramPoison a off n = false) :
    s.sramPerform a (.read off n) [] = { s.sramMeet a [(off, n)] with compl := (.ok, s.sram a off n) } := by
  have clean : (unitsOf 8 (sramKey a off) n).filter (s.sramMeet a [(off, n)]).isPoisoned = [] :=
    List.filter_eq_nil_iff.mpr fun u hu => by simpa using List.any_eq_false.mp h u hu
  have data : (s.sramMeet a [(off, n)]).sram a off n = s.sram a off n := by simp [State.sram, State.bytes, State.byte]
  simp [State.sramPerform, State.strikeSram, clean, data]

/-- A write without new errors writes its bytes. -/
theorem State.sramPerform_write (s : State) (a off : Nat) (data : List Byte) :
    s.sramPerform a (.write off data) [] = { s.writeWords (sramKey a off) data with compl := (.ok, []) } := rfl

/-! ### The throttle (R31, R32) -/

/-- A change of the throttle shows it in both dies' registers and counts its steps; its beginning is an event besides. -/
theorem State.calm_applyThrottle (s : State) (old : Nat) :
    State.Calm ((((s.setFld DIE_PWR_STATUS.throttle 0 0 s.pwr.throttle).setFld DIE_PWR_STATUS.throttle 1 0 s.pwr.throttle).bump
      OBS_PERF_THROTTLE_DOWN.count 0 0 (2 * (s.pwr.throttle - old))).bump OBS_PERF_THROTTLE_UP.count 0 0
      (2 * (old - s.pwr.throttle))) (s.applyThrottle old) :=
  State.Calm.ite (State.calm_raise _ _ _ _ _) (State.Calm.refl _)

@[simp] theorem State.applyThrottle_pwr (s : State) (old : Nat) : (s.applyThrottle old).pwr = s.pwr := by
  simp [(s.calm_applyThrottle old).pwr]

@[simp] theorem State.applyThrottle_mem (s : State) (old : Nat) : (s.applyThrottle old).mem = s.mem := by
  simp [(s.calm_applyThrottle old).mem]

@[simp] theorem State.applyThrottle_arr (s : State) (old : Nat) : (s.applyThrottle old).arr = s.arr := by
  simp [(s.calm_applyThrottle old).arr]

@[simp] theorem State.applyThrottle_part (s : State) (old : Nat) : (s.applyThrottle old).part = s.part := by
  simp [(s.calm_applyThrottle old).part]

/-- Both dies' registers show the throttle. -/
theorem State.fld_applyThrottle (s : State) (old : Nat) {d : Nat} (hd : d < 2) :
    (s.applyThrottle old).fld DIE_PWR_STATUS.throttle d = s.pwr.throttle % 16 := by
  have shown : ((s.setFld DIE_PWR_STATUS.throttle 0 0 s.pwr.throttle).setFld DIE_PWR_STATUS.throttle 1 0 s.pwr.throttle).fld
      DIE_PWR_STATUS.throttle d = s.pwr.throttle % 16 := by
    match d, hd with
    | 0, _ =>
      rw [State.fld, State.rd_setFld_key _ _ _ _ _ _ _ _ (by decide)]
      exact State.fld_setFld_same _ _ _ _ _ rfl rfl rfl
    | 1, _ => exact State.fld_setFld_same _ _ _ _ _ rfl rfl rfl
  rw [← shown, State.fld, State.fld, (s.calm_applyThrottle old).rd _ _ _ rfl (by omega) (by decide),
    State.rd_bump_kind _ _ _ _ _ _ _ _ (by decide) (by decide) (by decide) (by omega) (by decide),
    State.rd_bump_kind _ _ _ _ _ _ _ _ (by decide) (by decide) (by decide) (by omega) (by decide)]

/-- The power unit after a sample: the throttle for power moves by the windows' means, that for heat by the hottest reading. -/
def State.sampled (s : State) (p : Pwr) : Pwr :=
  { p with
    power := (throttleStep p.over p.under p.power p.restPower).1
    restPower := (throttleStep p.over p.under p.power p.restPower).2
    thermal := (throttleStep (s.hottest ≥ 100) (s.hottest ≤ 95) p.thermal p.restThermal).1
    restThermal := (throttleStep (s.hottest ≥ 100) (s.hottest ≤ 95) p.thermal p.restThermal).2 }

/-- A sample of package power moves the power unit, leaves memory and arrays alone, and applies the throttle. -/
theorem State.powerSample_eq_applyThrottle (s : State) (mw : Nat) :
    ∃ (u : State) (old : Nat), s.powerSample mw = u.applyThrottle old ∧ u.part = s.part ∧ u.mem = s.mem ∧ u.arr = s.arr ∧
      u.pwr = s.sampled { s.pwr with samples := runTake longWindow (runPush mw s.pwr.samples) } :=
  let p : Pwr := s.sampled { s.pwr with samples := runTake longWindow (runPush mw s.pwr.samples) }
  let v : State := { s with pwr := p }
  let w : State := v.fresh.2.setFld DIE_PWR_STATUS.power 0 0 v.fresh.1.toNat
  ⟨w.fresh.2.setFld DIE_PWR_STATUS.power 1 0 w.fresh.1.toNat, s.pwr.throttle, rfl, by simp [w, v], by simp [w, v], by simp [w, v],
    by simp [w, v, p]⟩

/-! ### Sensor readings (R34) -/

/-- The hottest reading depends on the dies' last readings and the stacks' registers alone. -/
theorem State.hottest_congr {s t : State} (hp : t.part = s.part) (hd : t.pwr.dies = s.pwr.dies)
    (hr : ∀ k i, k = .HBM_STK_TEMP ∨ k = .BIT_STK_TEMP → i < 65536 → t.rd k i = s.rd k i) : t.hottest = s.hottest := by
  have few : s.part.stacks < 65536 := by unfold Part.stacks; split <;> decide
  have hbm : ∀ i ∈ List.range s.part.stacks, t.fld HBM_STK_TEMP.temp i = s.fld HBM_STK_TEMP.temp i := fun i hi =>
    congrArg (bits · _ _) (hr .HBM_STK_TEMP i (.inl rfl) ((List.mem_range.mp hi).trans few))
  have bit : ∀ b ∈ List.range 4, t.fld BIT_STK_TEMP.temp b = s.fld BIT_STK_TEMP.temp b := fun b hb =>
    congrArg (bits · _ _) (hr .BIT_STK_TEMP b (.inr rfl) ((List.mem_range.mp hb).trans (by decide)))
  rw [State.hottest, State.temperatures, hp, hd, List.map_congr_left hbm, List.map_congr_left bit, State.hottest,
    State.temperatures]

/-- SB_THERM_N follows the hottest reading; its assertion raises ALERT and an event besides. -/
theorem State.calm_syncTherm (s : State) :
    State.Calm { s with pins := { s.pins with thermN := !(s.hottest ≥ 105) } } s.syncTherm :=
  State.Calm.ite (((State.Calm.refl _).alarm 2).trans (State.calm_raise _ _ _ _ _)) (State.Calm.refl _)

/-- The halt holds the arrays, asserts SB_FAULT_N and is counted; its event and quench change nothing else. -/
theorem State.calm_thermalHalt {s : State} (h : s.pwr.halted = false) :
    State.Calm ((({ s with pwr := { s.pwr with halted := true } } : State).assertFault).bump HMK_LIFE_THERMAL_HALTS.count 0 0 1)
      s.thermalHalt := by
  simpa [State.thermalHalt, h] using (State.calm_raise _ 4 3 0xFFFF 0).trans (State.calm_quench _ srcThermal 0)

/-- A package halted for heat is not halted again. -/
theorem State.thermalHalt_halted {s : State} (h : s.pwr.halted = true) : s.thermalHalt = s := by simp [State.thermalHalt, h]

@[simp] theorem State.assertFault_part (s : State) : s.assertFault.part = s.part := rfl
@[simp] theorem State.assertFault_pwr (s : State) : s.assertFault.pwr = s.pwr := rfl
@[simp] theorem State.assertFault_pins (s : State) : s.assertFault.pins = { s.pins with faultN := false } := rfl

/-- What the halt does, were the package halted before or not. -/
theorem State.thermalHalt_spec (s : State) :
    s.thermalHalt.part = s.part ∧ s.thermalHalt.pwr = { s.pwr with halted := true } ∧
      s.thermalHalt.pins = { s.pins with faultN := s.pwr.halted && s.pins.faultN } ∧
      ∀ i, i < 65536 → s.thermalHalt.rd .DIE_PWR_STATUS i = s.rd .DIE_PWR_STATUS i := by
  cases h : s.pwr.halted
  · have calm := State.calm_thermalHalt h
    refine ⟨by simp [calm.part], by simp [calm.pwr], by simp [calm.pins], fun i hi => ?_⟩
    rw [calm.rd _ _ _ rfl hi (by decide),
      State.rd_bump_kind _ _ _ _ _ _ _ _ (by decide) (by decide) (by decide) hi (by decide)]
    rfl
  · rw [State.thermalHalt_halted h]
    exact ⟨rfl, by rw [← h], rfl, fun _ _ => rfl⟩

/-- A die's reading is kept, and a compute die's shown in its register. -/
def State.keepReading (s : State) (die celsius : Nat) : State :=
  let u : State := { s with pwr := { s.pwr with dies := Sparse.put 0 s.pwr.dies die celsius } }
  if die < 2 then u.setFld DIE_PWR_STATUS.temp_max die 0 (min celsius 255) else u

@[simp] theorem State.keepReading_part (s : State) (die celsius : Nat) : (s.keepReading die celsius).part = s.part := by
  unfold State.keepReading; split <;> simp

@[simp] theorem State.keepReading_pins (s : State) (die celsius : Nat) : (s.keepReading die celsius).pins = s.pins := by
  unfold State.keepReading; split <;> simp

@[simp] theorem State.keepReading_pwr (s : State) (die celsius : Nat) :
    (s.keepReading die celsius).pwr = { s.pwr with dies := Sparse.put 0 s.pwr.dies die celsius } := by
  unfold State.keepReading; split <;> simp

/-- The register that shows a die's reading is none of those that the hottest reading is taken from. -/
theorem State.hottest_keepReading (s : State) (die celsius : Nat) :
    (s.keepReading die celsius).hottest =
      ({ s with pwr := { s.pwr with dies := Sparse.put 0 s.pwr.dies die celsius } } : State).hottest := by
  refine State.hottest_congr (by simp) (by simp) fun k i hk hi => ?_
  have other : k ≠ .DIE_PWR_STATUS := by rcases hk with rfl | rfl <;> decide
  unfold State.keepReading
  split
  · exact State.rd_setFld_kind _ _ _ _ _ _ _ _ other (by omega) (by decide) hi (by decide)
  · rfl

theorem State.fld_keepReading (s : State) {die : Nat} (celsius : Nat) (h : die < 2) :
    (s.keepReading die celsius).fld DIE_PWR_STATUS.temp_max die = min celsius 255 := by
  have there : DIE_PWR_STATUS.temp_max.kind.inRange die 0 = true := by
    simp [RegKind.inRange, DIE_PWR_STATUS.temp_max, RegKind.shape, h]
  rw [State.keepReading, if_pos h, State.fld_setFld_same _ _ _ _ _ there rfl rfl]
  exact Nat.mod_eq_of_lt (show min celsius 255 < 256 by omega)

/-- SB_THERM_N follows the hottest reading, the new one among them; the event of its assertion touches neither the power unit nor
the reading shown. -/
theorem State.keepReading_syncTherm (s : State) (die celsius : Nat) :
    (s.keepReading die celsius).syncTherm.part = s.part ∧
      (s.keepReading die celsius).syncTherm.pwr = { s.pwr with dies := Sparse.put 0 s.pwr.dies die celsius } ∧
      (s.keepReading die celsius).syncTherm.pins = { s.pins with
        thermN := !(({ s with pwr := { s.pwr with dies := Sparse.put 0 s.pwr.dies die celsius } } : State).hottest ≥ 105) } ∧
      (die < 2 → (s.keepReading die celsius).syncTherm.fld DIE_PWR_STATUS.temp_max die = min celsius 255) := by
  have calm := (s.keepReading die celsius).calm_syncTherm
  refine ⟨by simp [calm.part], by simp [calm.pwr], by simp [calm.pins, s.hottest_keepReading die celsius], fun hd => ?_⟩
  rw [← s.fld_keepReading celsius hd]
  exact congrArg (bits · _ _) (calm.rd .DIE_PWR_STATUS die 0 rfl (by omega) (by decide))

/-- A reading of one of the three dies is kept, then moves SB_THERM_N, and halts the arrays from 115 °C on. -/
theorem State.dieReading_eq (s : State) {die : Nat} (celsius : Nat) (h : die ≤ 2) :
    s.dieReading die celsius = if 115 ≤ celsius then (s.keepReading die celsius).syncTherm.thermalHalt
      else (s.keepReading die celsius).syncTherm := by
  simp [State.dieReading, State.keepReading, Nat.not_lt.mpr h]

end Sys2Proof.Machine
end

section
open Sys2Proof.Machine

/-- Settles O13: the banks under the span decide whether the access is performed or refused; an access performed changes the bytes it
writes alone. -/
theorem sramWindowAccesses : Obligations.SramWindowAccesses := by
  refine ⟨?write, ?read, ?refused, ?unanswered⟩
  case write =>
    intro a off data s up ha hh pos hoff hb
    have hs : s.sealed (.write off data) = false := by simp [State.sealed, hh]
    have performed := State.sramAccess_performed [] (x := .write off data) ha pos hoff hs hb
    rw [State.sramPerform_write] at performed
    refine ⟨_, live_up up, ?_⟩
    rw [performed]
    refine ⟨rfl, by simp, fun i hi => ?_, fun k hk => ?_⟩
    all_goals
      rw [State.byte_settle]
      refine (State.byte_writeWords s _ _ _).trans ?_
    · rw [if_pos (by omega), Nat.add_sub_cancel_left]
    · rw [if_neg (by omega)]
  case read =>
    intro a off n s up ha pos hoff hb clean
    have hs : s.sealed (.read off n) = false := by simp [State.sealed]
    have performed := State.sramAccess_performed [] (x := .read off n) ha pos hoff hs hb
    rw [State.sramPerform_read_clean clean] at performed
    refine ⟨_, live_up up, ?_⟩
    rw [performed]
    exact ⟨rfl, by simp, fun k => by simp [State.byte, Memory.get_canonical]⟩
  case refused =>
    intro a off b data s up ha pos hoff hb ho hi
    have refusing : s.refusing a ownExt [(off, data.length)] = [b] := State.refusing_of_not_owns hb ho hi
    have refused := State.sramAccess_refused [] (x := .write off data) ha pos hoff (by simp [accessSpan, refusing])
    rw [show accessSpan (.write off data) = (off, data.length) from rfl, refusing] at refused
    refine ⟨_, live_up up, ?_⟩
    rw [refused]
    exact ⟨rfl, rfl, fun k => by simp [State.byte, Memory.get_canonical]⟩
  case unanswered =>
    intro a x s up ha
    rw [← State.sramAccess_unanswered x [] ha]
    exact live_up up

/-- Settles O31: the throttle, SB_THERM_N and the halt follow from the readings, and the events they raise touch none of them. -/
theorem powerAndHeatReadings : Obligations.PowerAndHeatReadings := by
  refine ⟨?retry, ?sample, ?reading⟩
  case retry => exact fun die s up => live_up up
  case sample =>
    rintro mw s p up rfl
    obtain ⟨u, old, applied, part, mem, arr, pwr⟩ := s.powerSample_eq_applyThrottle mw
    refine ⟨_, live_up up, ?_⟩
    rw [applied]
    refine ⟨by simp [pwr, State.sampled], by simp [pwr, State.sampled], by simp [pwr, State.sampled], fun d hd => ?_,
      by simp [mem], by simp [arr]⟩
    simpa [part] using u.fld_applyThrottle old hd
  case reading =>
    rintro die celsius s u up hdie rfl
    refine ⟨_, live_up up, ?_⟩
    rw [s.dieReading_eq celsius hdie]
    obtain ⟨part, pwr, pins, temp⟩ := s.keepReading_syncTherm die celsius
    split
    case isTrue hot =>
      obtain ⟨hpart, hpwr, hpins, hrd⟩ := (s.keepReading die celsius).syncTherm.thermalHalt_spec
      refine ⟨by simp [hpwr, pwr], fun hd => ?_, by simp [hpins, pins], fun _ => by simp [hpwr],
        fun cool => absurd hot cool.not_ge, fun _ on => by simp [hpins, pwr, on]⟩
      rw [State.fld_settle _ _ (hpart.trans part), ← temp hd]
      exact congrArg (bits · _ _) (hrd die (by omega))
    case isFalse cool =>
      refine ⟨by simp [pwr], fun hd => ?_, by simp [pins], fun hot => absurd hot cool, fun _ => by simp [pwr, pins],
        fun hot => absurd hot cool⟩
      rw [State.fld_settle _ _ part, temp hd]

end

section
/-! SUPPORT. Number formats: encodings by their fields (R49 to R52), the running sum's 27-bit field (R57), the thresholds of the log
formats at the antilogs (R56, R66). -/

namespace Sys2Proof.Machine

/-! ### Encodings of a linear format by sign, exponent field and fraction (R49) -/

/-- The encoding with sign `s`, exponent field `e` and fraction `f`. -/
def Lin.pack (F : Lin) (s : Bool) (e f : Nat) : Nat := F.signBit s + e * 2 ^ F.fw + f

theorem Lin.signBit_eq (F : Lin) (s : Bool) : F.signBit s = s.toNat * 2 ^ F.ew * 2 ^ F.fw := by
  cases s <;> simp [Lin.signBit, pow_add]

theorem Lin.emax_eq (F : Lin) : F.emax = ((2 ^ F.ew : Nat) : Int) - 2 - F.bias := by simp [Lin.emax]

theorem Lin.infinity_eq_pack (F : Lin) (s : Bool) : F.infinity s = F.pack s (2 ^ F.ew - 1) 0 := rfl

/-- Every encoding is one of a sign, an exponent field and a fraction. -/
theorem Lin.exists_pack {F : Lin} {b : Nat} (h : b < 2 ^ F.width) :
    ∃ s e f, e < 2 ^ F.ew ∧ f < 2 ^ F.fw ∧ b = F.pack s e f := by
  refine ⟨decide (b / 2 ^ F.fw / 2 ^ F.ew = 1), b / 2 ^ F.fw % 2 ^ F.ew, b % 2 ^ F.fw, Nat.mod_lt _ (by positivity),
    Nat.mod_lt _ (by positivity), ?_⟩
  have hs : b / 2 ^ F.fw / 2 ^ F.ew < 2 := by
    rw [Nat.div_div_eq_div_mul, Nat.div_lt_iff_lt_mul (by positivity)]
    exact h.trans_eq (by rw [Lin.width]; ring)
  have sign : (decide (b / 2 ^ F.fw / 2 ^ F.ew = 1)).toNat = b / 2 ^ F.fw / 2 ^ F.ew := by
    generalize b / 2 ^ F.fw / 2 ^ F.ew = d at hs ⊢
    interval_cases d <;> rfl
  rw [Lin.pack, Lin.signBit_eq, sign, ← Nat.add_mul, Nat.div_add_mod', Nat.div_add_mod']

section
variable {F : Lin} {e f : Nat} (s : Bool) (he : e < 2 ^ F.ew) (hf : f < 2 ^ F.fw)
include he hf

theorem Lin.pack_lt_width : F.pack s e f < 2 ^ F.width := by
  have hs : s.toNat ≤ 1 := s.toNat_le
  have hse : s.toNat * 2 ^ F.ew + e + 1 ≤ 2 * 2 ^ F.ew := by nlinarith
  calc F.pack s e f = (s.toNat * 2 ^ F.ew + e) * 2 ^ F.fw + f := by rw [Lin.pack, Lin.signBit_eq, Nat.add_mul]
    _ < (s.toNat * 2 ^ F.ew + e + 1) * 2 ^ F.fw := by rw [Nat.add_one_mul]; omega
    _ ≤ 2 * 2 ^ F.ew * 2 ^ F.fw := Nat.mul_le_mul_right _ hse
    _ = 2 ^ F.width := by rw [Lin.width]; ring

omit he in
theorem Lin.pack_div_fraction : F.pack s e f / 2 ^ F.fw = s.toNat * 2 ^ F.ew + e := by
  rw [Lin.pack, Lin.signBit_eq, ← Nat.add_mul, Nat.add_comm, Nat.add_mul_div_right _ _ (by positivity), Nat.div_eq_of_lt hf,
    Nat.zero_add]

theorem Lin.pack_exponent : F.pack s e f / 2 ^ F.fw % 2 ^ F.ew = e := by
  rw [Lin.pack_div_fraction s hf, Nat.mul_add_mod', Nat.mod_eq_of_lt he]

omit he in
theorem Lin.pack_fraction : F.pack s e f % 2 ^ F.fw = f := by
  rw [Lin.pack, Lin.signBit_eq, ← Nat.add_mul, Nat.mul_add_mod', Nat.mod_eq_of_lt hf]

theorem Lin.pack_sign : (F.pack s e f / 2 ^ (F.ew + F.fw) % 2 == 1) = s := by
  rw [Nat.add_comm F.ew, pow_add, ← Nat.div_div_eq_div_mul, Lin.pack_div_fraction s hf, Nat.add_comm,
    Nat.add_mul_div_right _ _ (by positivity), Nat.div_eq_of_lt he]
  cases s <;> rfl

/-- The value of an encoding, by its fields (R49, R51, R52). -/
theorem Lin.decode_pack : F.decode (F.pack s e f) =
    if e = 2 ^ F.ew - 1 then (if f = 0 then .inf s else .nan)
    else if e = 0 then (if F.sub ∧ f ≠ 0 then .fin s f (F.emin - F.fw) else .zero)
    else .fin s (2 ^ F.fw + f) ((e : Int) - F.bias - F.fw) := by
  simp only [Lin.decode, Lin.pack_exponent s he hf, Lin.pack_fraction s hf, Lin.pack_sign s he hf]

end

theorem Lin.decode_normal {F : Lin} (s : Bool) {e f : Nat} (h0 : 0 < e) (he : e < 2 ^ F.ew - 1) (hf : f < 2 ^ F.fw) :
    F.decode (F.pack s e f) = .fin s (2 ^ F.fw + f) ((e : Int) - F.bias - F.fw) := by
  rw [Lin.decode_pack s (by omega) hf, if_neg he.ne, if_neg h0.ne']

/-! ### Values that a linear format holds are written exactly (R50, R53) -/

theorem quantise_same_unit (narrow : Nat → Nat → Nat) (m : Nat) (e : Int) : quantise narrow m e e = m := by
  simp [quantise]

theorem log2_significand {w f : Nat} (h : f < 2 ^ w) : Nat.log2 (2 ^ w + f) = w :=
  (Nat.log2_eq_iff (by positivity)).mpr ⟨Nat.le_add_right _ _, by rw [pow_succ]; omega⟩

theorem Lin.encode_zero (F : Lin) : F.encode .zero = (0, Exc.none) := rfl

/-- A normal value of the format is written by its exponent field and fraction. -/
theorem Lin.encode_normal {F : Lin} (s : Bool) {e f : Nat} (h0 : 0 < e) (he : e < 2 ^ F.ew - 1) (hf : f < 2 ^ F.fw) :
    F.encode (.fin s (2 ^ F.fw + f) ((e : Int) - F.bias - F.fw)) = (F.pack s e f, Exc.none) := by
  have lg : ((F.fw : Nat) : Int) + ((e : Int) - F.bias - F.fw) = e - F.bias := by omega
  have unit : (if F.sub then max ((e : Int) - F.bias - F.fw) (F.emin - F.fw) else (e : Int) - F.bias - F.fw) =
      (e : Int) - F.bias - F.fw := by
    split
    · exact max_eq_left (by rw [Lin.emin]; omega)
    · rfl
  have le_emax : ¬ (e : Int) - F.bias > F.emax := by rw [Lin.emax_eq]; omega
  have ge_emin : ¬ (e : Int) - F.bias < F.emin := by rw [Lin.emin]; omega
  simp [Lin.encode, Lin.encodeWith, log2_significand hf, lg, unit, quantise_same_unit, le_emax, ge_emin, Lin.pack]

/-- A subnormal value is written by its fraction where the format keeps subnormals (R52). -/
theorem Lin.encode_subnormal {F : Lin} (s : Bool) {f : Nat} (hew : 0 ≠ 2 ^ F.ew - 1) (hsub : F.sub = true) (h0 : f ≠ 0)
    (hf : f < 2 ^ F.fw) : F.encode (.fin s f (F.emin - F.fw)) = (F.pack s 0 f, Exc.none) := by
  have hlg : (Nat.log2 f : Int) < F.fw := by exact_mod_cast (Nat.log2_lt h0).mpr hf
  have unit : max ((Nat.log2 f : Int) + (F.emin - F.fw) - F.fw) (F.emin - F.fw) = F.emin - F.fw := max_eq_right (by omega)
  have lt_emin : (Nat.log2 f : Int) + (F.emin - F.fw) < F.emin := by omega
  have le_emax : ¬ (Nat.log2 f : Int) + (F.emin - F.fw) > F.emax := by
    rw [Lin.emin] at lt_emin
    rw [Lin.emax_eq, Lin.emin]
    omega
  simp [Lin.encode, Lin.encodeWith, h0, hsub, unit, quantise_same_unit, le_emax, lt_emin, Lin.pack]

/-! ### The running sum (R57) -/

/-- A value that an A32 encoding holds. -/
def IsA32 (x : Num) : Prop := ∃ c, c < 2 ^ 32 ∧ x = a32 c

theorem isA32_a32 {b : Nat} (h : b < 2 ^ 32) : IsA32 (a32 b) := ⟨b, h, rfl⟩
theorem isA32_nan : IsA32 .nan := ⟨Lin.a32.canonicalNan, by decide, by decide⟩
theorem isA32_zero : IsA32 .zero := ⟨0, by decide, by decide⟩
theorem isA32_inf (s : Bool) : IsA32 (.inf s) := by
  cases s
  · exact ⟨Lin.a32.infinity false, by decide, by decide⟩
  · exact ⟨Lin.a32.infinity true, by decide, by decide⟩

theorem Lin.a32_maxFinite_lt (s : Bool) : Lin.a32.maxFinite s < 2 ^ 32 := by cases s <;> decide

/-- A 24-bit significand within the exponent range is an A32 value (R49). -/
theorem isA32_normal (s : Bool) {m : Nat} {u : Int} (h1 : 2 ^ 23 ≤ m) (h2 : m < 2 ^ 24) (hlo : -126 ≤ u + 23) (hhi : u + 23 ≤ 127) :
    IsA32 (.fin s m u) := by
  obtain ⟨e, he⟩ : ∃ e : Nat, u = (e : Int) - 127 - 23 := ⟨(u + 150).toNat, by omega⟩
  obtain ⟨f, rfl⟩ := Nat.exists_eq_add_of_le h1
  have le : e < 2 ^ 8 - 1 := by omega
  have lf : f < 2 ^ 23 := by omega
  rw [he]
  exact ⟨Lin.a32.pack s e f, Lin.pack_lt_width (F := Lin.a32) s (le.trans (by decide)) lf,
    (Lin.decode_normal (F := Lin.a32) s (by omega) le lf).symm⟩

/-- Saturation and the zero rule leave a 24-bit significand an A32 value. -/
theorem isA32_finish24 (s : Bool) {m : Nat} (u : Int) (h1 : 2 ^ 23 ≤ m) (h2 : m < 2 ^ 24) : IsA32 (finish24 s m u).1 := by
  unfold finish24
  split
  · exact isA32_a32 (Lin.a32_maxFinite_lt s)
  · split
    · exact isA32_zero
    · exact isA32_normal s h1 h2 (by omega) (by omega)

/-- A number shifted right to `w + 1` bits has exactly these. -/
theorem shiftRight_log2_bounds {m w : Nat} (h0 : m ≠ 0) (h : w ≤ Nat.log2 m) :
    2 ^ w ≤ m >>> (Nat.log2 m - w) ∧ m >>> (Nat.log2 m - w) < 2 ^ (w + 1) := by
  rw [Nat.shiftRight_eq_div_pow, Nat.le_div_iff_mul_le (by positivity), Nat.div_lt_iff_lt_mul (by positivity), ← pow_add, ← pow_add]
  rw [show w + (m.log2 - w) = m.log2 by omega, show w + 1 + (m.log2 - w) = m.log2 + 1 by omega]
  exact ⟨Nat.log2_self_le h0, Nat.lt_log2_self⟩

/-- A number shifted left to `w + 1` bits has exactly these. -/
theorem shiftLeft_log2_bounds {m w : Nat} (h0 : m ≠ 0) (h : Nat.log2 m ≤ w) :
    2 ^ w ≤ m <<< (w - Nat.log2 m) ∧ m <<< (w - Nat.log2 m) < 2 ^ (w + 1) := by
  rw [Nat.shiftLeft_eq]
  have lo := Nat.mul_le_mul_right (2 ^ (w - m.log2)) (Nat.log2_self_le h0)
  have hi := Nat.mul_lt_mul_of_pos_right (Nat.lt_log2_self (n := m)) (Nat.two_pow_pos (w - m.log2))
  rw [← pow_add, show m.log2 + (w - m.log2) = w by omega] at lo
  rw [← pow_add, show m.log2 + 1 + (w - m.log2) = w + 1 by omega] at hi
  exact ⟨lo, hi⟩

/-- An operand enters the running sum with a significand of 24 bits. -/
theorem sig24_bounds {m : Nat} (e : Int) (h0 : m ≠ 0) : 2 ^ 23 ≤ (sig24 m e).1 ∧ (sig24 m e).1 < 2 ^ 24 := by
  unfold sig24
  dsimp only
  split
  case isTrue h =>
    rw [show ((m.log2 : Int) - 23).toNat = m.log2 - 23 by omega]
    exact shiftRight_log2_bounds h0 (by omega)
  case isFalse h =>
    rw [show (-((m.log2 : Int) - 23)).toNat = 23 - m.log2 by omega]
    exact shiftLeft_log2_bounds h0 (by omega)

/-- Three guard bits rounded off a 27-bit field leave 24 bits, or the next power of two. -/
theorem shiftNearest_field_bounds {x : Nat} (h1 : 2 ^ 26 ≤ x) (h2 : x < 2 ^ 27) :
    2 ^ 23 ≤ shiftNearest x 3 ∧ shiftNearest x 3 ≤ 2 ^ 24 := by
  simp only [shiftNearest, Nat.shiftRight_eq_div_pow]
  split <;> omega

/-- A field `f` of unit 2^(`ub` − 3) brought to 27 bits: its 27 bits, and the unit of its upper 24 (R57). -/
def field27 (f : Nat) (ub : Int) : Nat × Int :=
  if Nat.log2 f ≥ 27 then (f >>> (Nat.log2 f - 26), ub + ((Nat.log2 f : Int) - 26))
  else (f <<< (26 - Nat.log2 f), ub - ((26 - Nat.log2 f : Nat) : Int))

/-- The end of an addition (R57): the field brought to 27 bits, rounded to 24, saturated. -/
def finishField (s : Bool) (f : Nat) (ub : Int) : Num × Exc :=
  if f = 0 then (.zero, Exc.none)
  else if shiftNearest (field27 f ub).1 3 = 2 ^ 24 then finish24 s (2 ^ 23) ((field27 f ub).2 + 1)
  else finish24 s (shiftNearest (field27 f ub).1 3) (field27 f ub).2

theorem field27_bounds {f : Nat} (ub : Int) (h0 : f ≠ 0) : 2 ^ 26 ≤ (field27 f ub).1 ∧ (field27 f ub).1 < 2 ^ 27 := by
  unfold field27
  split
  · exact shiftRight_log2_bounds h0 (by omega)
  · exact shiftLeft_log2_bounds h0 (by omega)

theorem isA32_finishField (s : Bool) (f : Nat) (ub : Int) : IsA32 (finishField s f ub).1 := by
  unfold finishField
  split
  case isTrue => exact isA32_zero
  case isFalse h0 =>
    obtain ⟨lo, hi⟩ := field27_bounds ub h0
    obtain ⟨lo, hi⟩ := shiftNearest_field_bounds lo hi
    split
    · exact isA32_finish24 s _ le_rfl (by decide)
    · exact isA32_finish24 s _ lo (by omega)

/-- Two non-zero operands meet in one field, which is then finished. -/
theorem accumulate_fin_fin (sa sp : Bool) {ma mp : Nat} (ea ep : Int) (ha : ma ≠ 0) (hp : mp ≠ 0) :
    ∃ s f ub, accumulate (.fin sa ma ea) (.fin sp mp ep) = finishField s f ub := by
  simp only [accumulate, if_neg ha, if_neg hp]
  exact ⟨_, _, _, rfl⟩

/-- Whatever is added to an A32 value, the sum is one. -/
theorem isA32_accumulate {acc : Num} (p : Num) (h : IsA32 acc) : IsA32 (accumulate acc p).1 := by
  cases acc with
  | nan => exact isA32_nan
  | inf s =>
    cases p with
    | nan => exact isA32_nan
    | fin => exact h
    | inf u =>
      by_cases hs : s = u
      · simpa [accumulate, hs] using isA32_inf u
      · simpa [accumulate, hs] using isA32_nan
  | fin sa ma ea =>
    cases p with
    | nan => exact isA32_nan
    | inf u => exact isA32_inf u
    | fin sp mp ep =>
      by_cases hp : mp = 0
      · by_cases ha : ma = 0
        · simpa [accumulate, hp, ha] using isA32_zero
        · simpa [accumulate, hp, ha] using h
      · by_cases ha : ma = 0
        · obtain ⟨lo, hi⟩ := sig24_bounds ep hp
          simpa [accumulate, hp, ha] using isA32_finish24 sp (sig24 mp ep).2 lo hi
        · obtain ⟨s, f, ub, sum⟩ := accumulate_fin_fin sa sp ea ep ha hp
          exact sum ▸ isA32_finishField s f ub

/-! ### Log codes under one scale (R47, R48, R56, R65, R66) -/

theorem log2_antilog (k : Nat) : Nat.log2 (antilog k) = 23 := by
  unfold antilog
  split <;> decide

theorem antilog_ne_zero (k : Nat) : antilog k ≠ 0 := fun h => absurd (log2_antilog k) (by rw [h]; decide)

/-- The significand of `k` eighths of an octave as a conversion compares it with the thresholds (R66): rounded to odd at 11 fraction
bits. -/
def antilog11 (k : Nat) : Nat := shiftOdd (antilog k) 12

theorem quantise_antilog (k : Nat) (e : Int) : quantise shiftOdd (antilog k) (e - 23) (e - 11) = antilog11 k := by
  have dropped : (e - 11 - (e - 23)).toNat = 12 := by omega
  simp only [quantise, show ¬ e - 11 ≤ e - 23 by omega, if_false, dropped, antilog11]

/-- No antilog meets a threshold. -/
theorem antilog11_not_threshold (f : LogFmt) {k : Nat} (hk : k < 8) :
    f.thresholds.any (fun t => 2 * t = antilog11 k - 2 ^ 11) = false := by
  cases f <;> interval_cases k <;> decide

/-- An antilog passes as many thresholds as its exponent has whole steps of the format. -/
theorem thresholds_below_antilog (f : LogFmt) {k n : Nat} (hk : k < 8) (hstep : f.steps * k = 8 * n) :
    (f.thresholds.filter (fun t => 2 * t < antilog11 k - 2 ^ 11)).length = n := by
  obtain rfl : n = f.steps * k / 8 := by omega
  cases f <;> interval_cases k <;> revert hstep <;> decide

/-- The value of code `c` is converted to code `c` under the scale it was read with. -/
theorem toLog_val (f : LogFmt) (s : Bool) {t c : Int} (e8 : Nat) (ht : f.steps * t = 8 * (c - f.bias)) (h0 : 0 < c)
    (hc : c ≤ f.cmax) : toLog f ((LogVal.val s t).num e8) e8 = (f.withSign s c.toNat, Exc.none) := by
  obtain ⟨k, hk⟩ : ∃ k : Nat, t % 8 = k := ⟨(t % 8).toNat, by omega⟩
  have k8 : k < 8 := by omega
  have split_t : t = 8 * (t / 8) + k := by omega
  have steps_k : (f.steps : Int) * k = 8 * (c - f.bias - f.steps * (t / 8)) := by
    rw [split_t] at ht
    linarith
  obtain ⟨n, hn⟩ : 8 ∣ f.steps * k := by exact_mod_cast Dvd.intro _ steps_k.symm
  have code : f.bias + f.steps * (t / 8) + n = c := by
    have : (f.steps : Int) * k = 8 * n := by exact_mod_cast hn
    linarith
  have scale : t / 8 - 23 + ((e8 : Int) - 127) + 127 - e8 = t / 8 - 23 := by omega
  have octave : ((23 : Nat) : Int) + (t / 8 - 23) = t / 8 := by omega
  simp only [LogVal.num, toLog, hk, Int.toNat_natCast, if_neg (antilog_ne_zero k), log2_antilog, scale, octave, quantise_antilog,
    antilog11_not_threshold f k8, thresholds_below_antilog f k8 hn, Bool.false_eq_true, false_and, if_false, code,
    if_neg hc.not_gt, if_neg h0.not_ge]

theorem toLog_zero (f : LogFmt) (e8 : Nat) : toLog f .zero e8 = (0, Exc.none) := rfl

/-- An 8-bit code read (R47, R48), the exponent by the eighths of the format's step. -/
theorem LogFmt.read_byte {f : LogFmt} (hf : f ≠ .l4) (code : Nat) {e8 : Nat} (he : e8 ≠ 0xFF) :
    f.read code e8 =
      if code % 128 = 0 then (if code / 128 % 2 == 1 then .nan else .zero)
      else if code % 128 = 127 then .inf (code / 128 % 2 == 1)
      else .val (code / 128 % 2 == 1) ((8 / f.steps : Nat) * ((code % 128 : Nat) - 64)) := by
  cases f with
  | l4 => exact absurd rfl hf
  | l8 | g8 => simp [LogFmt.read, he, LogFmt.steps]

/-- A code is its sign over its lower bits. -/
theorem LogFmt.withSign_split (f : LogFmt) {code n : Nat} (hn : n = if f = .l4 then 8 else 128) (h : code < 2 * n) :
    f.withSign (code / n % 2 == 1) (code % n) = code := by
  have parts := Nat.div_add_mod code n
  have top : code / n < 2 := (Nat.div_lt_iff_lt_mul (by split at hn <;> omega)).mpr h
  rw [LogFmt.withSign, ← hn]
  generalize code / n = q at parts top ⊢
  interval_cases q <;> simp at parts ⊢ <;> omega

/-- Both 8-bit formats have the same codes (R47, R48); they differ in the eighths of a step. -/
theorem LogFmt.byte_constants {f : LogFmt} (hf : f ≠ .l4) :
    f.canonicalNan = 128 ∧ f.bias = 64 ∧ f.cmax = 126 ∧ f.steps * (8 / f.steps) = 8 := by
  cases f with
  | l4 => exact absurd rfl hf
  | l8 | g8 => decide

/-- What a code reads as under a scale that is not void: a NaN, an infinity, zero, or a finite code's sign and eighths. -/
theorem LogFmt.read_cases (f : LogFmt) {code e8 : Nat} (he : e8 ≠ 0xFF) (hcode : code < if f = .l4 then 16 else 256) :
    (f.read code e8 = .nan ∧ code = f.canonicalNan) ∨
    (∃ s, f.read code e8 = .inf s ∧ f ≠ .l4 ∧ code = f.withSign s 127) ∨
    (f.read code e8 = .zero ∧ code = 0) ∨
    ∃ s t, ∃ c : Nat, f.read code e8 = .val s t ∧ f.steps * t = 8 * ((c : Int) - f.bias) ∧ 0 < c ∧ c ≤ f.cmax ∧
      code = f.withSign s c := by
  by_cases hf : f = .l4
  · subst hf
    have lt : code < 16 := hcode
    by_cases nan : code = 8
    · exact .inl ⟨by simp [LogFmt.read, he, nan], nan⟩
    by_cases zero : code % 8 = 0
    · exact .inr (.inr (.inl ⟨by simp [LogFmt.read, he, nan, zero], by omega⟩))
    refine .inr (.inr (.inr ⟨code / 8 % 2 == 1, 8 * ((code % 8 : Nat) - 4), code % 8,
      by simp only [LogFmt.read, he, nan, zero, if_false], ?_, Nat.pos_of_ne_zero zero, ?_, ?_⟩))
    · simp [LogFmt.steps, LogFmt.bias]
    · simp only [LogFmt.cmax]; omega
    · exact (LogFmt.withSign_split .l4 rfl lt).symm
  · have sign := f.withSign_split (n := 128) (by simp [hf]) (by simpa [hf] using hcode)
    have read := LogFmt.read_byte hf code he
    obtain ⟨nan, bias, cmax, steps⟩ := LogFmt.byte_constants hf
    by_cases low : code % 128 = 0
    · by_cases hs : code / 128 % 2 = 1
      · refine .inl ⟨by simp [read, low, hs], ?_⟩
        rw [nan, ← sign]; simp [LogFmt.withSign, low, hs, hf]
      · refine .inr (.inr (.inl ⟨by simp [read, low, hs], ?_⟩))
        rw [← sign]; simp [LogFmt.withSign, low, hs]
    by_cases high : code % 128 = 127
    · exact .inr (.inl ⟨_, by rw [read, if_neg low, if_pos high], hf, by rw [← high, sign]⟩)
    · refine .inr (.inr (.inr ⟨_, _, code % 128, by rw [read, if_neg low, if_neg high], ?_, Nat.pos_of_ne_zero low, by omega,
        sign.symm⟩))
      rw [← mul_assoc, bias]
      exact_mod_cast congrArg (· * (((code % 128 : Nat) : Int) - 64)) (congrArg Nat.cast steps)

end Sys2Proof.Machine
end

section
open Sys2Proof.Machine

/-- Settles O60: an addition ends with a 24-bit significand that is saturated, or with a special value or an operand kept. -/
theorem runningSumsStayA32 : Obligations.RunningSumsStayA32 := fun _ p hb => isA32_accumulate p (isA32_a32 hb)

/-- Settles O58, by the fields of the encoding; it holds of every linear format with an exponent field. -/
theorem linearFormatsRoundTrip : Obligations.LinearFormatsRoundTrip := by
  intro F b hF hb
  have hew : 0 ≠ 2 ^ F.ew - 1 := by fin_cases hF <;> decide
  obtain ⟨s, e, f, he, hf, rfl⟩ := Lin.exists_pack hb
  rw [Lin.pack_exponent s he hf, Lin.pack_fraction s hf, Lin.decode_pack s he hf]
  by_cases special : e = 2 ^ F.ew - 1
  · by_cases h0 : f = 0
    · simp [special, h0, hew.symm, Lin.encode, Lin.encodeWith, Lin.infinity_eq_pack]
    · simp [special, h0, Lin.encode, Lin.encodeWith]
  by_cases small : e = 0
  · subst small
    by_cases kept : F.sub ∧ f ≠ 0
    · simp [special, kept, Lin.encode_subnormal s hew kept.1 kept.2 hf]
    · have dropped : F.sub = false ∨ f = 0 := by simpa [or_iff_not_imp_left] using kept
      simp [special, kept, dropped, Lin.encode_zero]
  · simp [special, small, Lin.encode_normal s (Nat.pos_of_ne_zero small) (by omega) hf]

/-- Settles O59: the scale cancels, and the antilogs lie between the thresholds as their exponents do. -/
theorem logCodesRoundTrip : Obligations.LogCodesRoundTrip := by
  intro f code e8 he hcode
  rcases f.read_cases he.ne hcode with ⟨read, rfl⟩ | ⟨s, read, hf, rfl⟩ | ⟨read, rfl⟩ | ⟨s, t, c, read, ht, h0, hc, rfl⟩
  · simp [LogFmt.num, read, LogVal.num, toLog]
  · simp [LogFmt.num, read, LogVal.num, toLog, hf]
  · rw [LogFmt.num, read, LogVal.num, toLog_zero]
  · rw [LogFmt.num, read, toLog_val f s e8 ht (by omega) (by omega), Int.toNat_natCast]

end

section
/-! SUPPORT. Arrays: what the updates of an array's state and registers leave to be read, and when a command of an array acts. -/

namespace Sys2Proof.Machine

/-! ### When a command of an array acts -/

theorem Part.arrays_le (p : Part) : p.arrays ≤ 2240 := by unfold Part.arrays; split <;> decide

/-- An array that answers is one of the part's (R4). -/
theorem State.lt_of_arrayAnswers {s : State} {a : Nat} {mgmt : Bool} (h : s.arrayAnswers a mgmt = true) : a < 2240 := by
  simp only [State.arrayAnswers, Bool.and_eq_true, decide_eq_true_eq] at h
  exact h.1.1.trans_le s.part.arrays_le

theorem State.lt_of_runs {s : State} {a : Nat} (h : s.runs a = true) : a < 2240 :=
  State.lt_of_arrayAnswers (State.runs_iff.mp h).2.1

theorem State.lt_of_runsAndTakes {s : State} {a : Nat} (h : s.runsAndTakes a = true) : a < 2240 :=
  State.lt_of_arrayAnswers (State.runsAndTakes_iff.mp h).2.2.2.1

section
variable {c : Instr} {s t : State} {a : Nat} {f : State → State}

/-- A command of a running package leaves what its effect is. -/
theorem exec_next_of_live {u : State} (hc : exec c s = live s u) (up : s.up = true) (hu : u = t) : exec c s = .next (s.settle t) :=
  hu ▸ hc.trans (live_up up)

/-- A command of an array that runs leaves what its effect on the array is. -/
theorem exec_next_of_onArray (hc : exec c s = live s (s.onArray a f)) (h : s.runs a = true) (ht : f s = t) :
    exec c s = .next (s.settle t) := by
  obtain ⟨up, answers, cool⟩ := State.runs_iff.mp h
  exact exec_next_of_live hc up ((State.onArray_on a f answers cool).trans ht)

/-- A write of a register of an array that takes writes leaves what its effect on the array is. -/
theorem exec_next_of_arrayWritten (hc : exec c s = live s (s.arrayWritten a f)) (h : s.runsAndTakes a = true) (ht : f s = t) :
    exec c s = .next (s.settle t) :=
  exec_next_of_live hc (State.runsAndTakes_iff.mp h).1 ((State.arrayWritten_on a f h).trans ht)

end

/-! ### What updates leave of the array's hidden state -/

@[simp] theorem State.array_wr (s : State) (k : RegKind) (i j : Nat) (v : Word) (a : Nat) : (s.wr k i j v).array a = s.array a := by
  simp [State.array]

@[simp] theorem State.array_setFld (s : State) (f : Fld) (i j v a : Nat) : (s.setFld f i j v).array a = s.array a := by
  simp [State.array]

@[simp] theorem State.array_mapArray (s : State) (a : Nat) (f : Arr → Arr) : (s.mapArray a f).array a = f (s.array a) :=
  Sparse.get_put_same _ _ _ _

@[simp] theorem State.array_settle (s t : State) (a : Nat) : (s.settle t).array a = t.array a := rfl

/-! ### What updates leave of the registers -/

theorem State.rd_congr {s t : State} (hp : t.part = s.part) (hr : t.regs = s.regs) (k : RegKind) (i j : Nat) :
    t.rd k i j = s.rd k i j := by
  simp [State.rd, hp, hr]

@[simp] theorem State.fld_mapArray (s : State) (a : Nat) (g : Arr → Arr) (f : Fld) (i j : Nat) :
    (s.mapArray a g).fld f i j = s.fld f i j := rfl

@[simp] theorem State.sramMeet_part (s : State) (a : Nat) (spans : List (Nat × Nat)) : (s.sramMeet a spans).part = s.part :=
  foldl_keeps State.part _ (fun s u => by unfold State.meetWord; split <;> rfl) _ _

@[simp] theorem State.rd_sramMeet (s : State) (a : Nat) (spans : List (Nat × Nat)) (k : RegKind) (i j : Nat) :
    (s.sramMeet a spans).rd k i j = s.rd k i j := State.rd_congr (by simp) (by simp) k i j

/-- A field of another kind of register reads as before. -/
theorem State.fld_wr_kind (s : State) {f : Fld} {k : RegKind} {i j i' j' : Nat} (v : Word) (h : f.kind ≠ k) (hi : i < 65536)
    (hj : j < 65536) (hi' : i' < 65536) (hj' : j' < 65536) : (s.wr k i j v).fld f i' j' = s.fld f i' j' :=
  congrArg (bits · f.hi f.lo) (State.rd_wr_kind s k f.kind i j i' j' v h hi hj hi' hj')

/-- A field of another kind of register reads as before. -/
theorem State.fld_setFld_kind (s : State) {f g : Fld} {i j i' j' : Nat} (v : Nat) (h : g.kind ≠ f.kind) (hi : i < 65536)
    (hj : j < 65536) (hi' : i' < 65536) (hj' : j' < 65536) : (s.setFld f i j v).fld g i' j' = s.fld g i' j' :=
  State.fld_wr_kind s _ h hi hj hi' hj'

/-- A register's second index fits its place in the key. -/
theorem RegKind.n2_le (k : RegKind) : k.shape.n2 ≤ 65536 := by
  cases k <;> decide

/-- A field of a register that every array has and a write can change. -/
def Fld.ofArrays (f : Fld) : Bool := f.kind.shape.n1 == 2240 && !f.kind.fused && f.ok

/-- A field of a register of arrays, and another of another register or of other bits. -/
def Fld.separate (f g : Fld) : Bool := f.ofArrays && g.ok && (g.kind != f.kind || f.hi < g.lo || g.hi < f.lo)

section
variable (s : State) {f g : Fld} {a j : Nat} (v : Nat) (ha : a < 2240) (hj : j < f.kind.shape.n2)
include ha hj

theorem Fld.inRange_of_ofArrays (h : f.ofArrays = true) : f.kind.inRange a j = true := by
  simp only [Fld.ofArrays, Bool.and_eq_true, beq_iff_eq] at h
  obtain ⟨⟨n1, -⟩, -⟩ := h
  simp [RegKind.inRange, n1, ha, hj]

/-- A field of an array reads what was put into it. -/
theorem State.fld_setFld_self (h : f.ofArrays = true) : (s.setFld f a j v).fld f a j = v % 2 ^ (f.hi - f.lo + 1) := by
  have range := Fld.inRange_of_ofArrays ha hj h
  simp only [Fld.ofArrays, Bool.and_eq_true, Bool.not_eq_true'] at h
  obtain ⟨⟨-, fused⟩, ok⟩ := h
  exact State.fld_setFld_same s f a j v range fused ok

/-- A field of an array reads what was put into it, where it fits. -/
theorem State.fld_setFld_fits (h : f.ofArrays = true) (fits : v < 2 ^ (f.hi - f.lo + 1)) : (s.setFld f a j v).fld f a j = v :=
  (s.fld_setFld_self v ha hj h).trans (Nat.mod_eq_of_lt fits)

/-- Another field of the same array reads as before. -/
theorem State.fld_setFld_separate (h : f.separate g = true) : (s.setFld f a j v).fld g a j = s.fld g a j := by
  simp only [Fld.separate, Bool.and_eq_true, Bool.or_eq_true, bne_iff_ne, decide_eq_true_eq, or_assoc] at h
  obtain ⟨⟨hf, okg⟩, apart⟩ := h
  have range := Fld.inRange_of_ofArrays ha hj hf
  simp only [Fld.ofArrays, Bool.and_eq_true, Bool.not_eq_true'] at hf
  obtain ⟨⟨-, fused⟩, ok⟩ := hf
  by_cases same : g.kind = f.kind
  · exact State.fld_setFld_apart s f g a j v range fused same ok okg (apart.resolve_left fun other => other same)
  · have kj : j < 65536 := hj.trans_le f.kind.n2_le
    exact State.fld_setFld_kind s v same (by omega) kj (by omega) kj

end

/-- A window of a stream is one of the array's eight (R96, R164). -/
theorem State.streamWindow_lt (s : State) (a : Nat) (b : Bool) : s.streamWindow a b < 8 := by
  unfold State.streamWindow
  split <;> exact bits_lt _ _ _

/-- A command's issue writes its window's tail alone of the registers (R79). -/
theorem State.fld_issue (s : State) {a : Nat} (b : Bool) {f : Fld} {j : Nat} (h : f.kind ≠ .ARR_WIN_TAIL) (ha : a < 65536)
    (hj : j < 65536) : (s.issue a b).fld f a j = s.fld f a j := by
  have hw := s.streamWindow_lt a b
  simp only [State.issue, State.winMove, if_true]
  exact State.fld_wr_kind s _ h ha (by omega) ha hj

theorem State.flag_issue (s : State) {a : Nat} (b : Bool) {f : Fld} {j : Nat} (h : f.kind ≠ .ARR_WIN_TAIL) (ha : a < 65536)
    (hj : j < 65536) : (s.issue a b).flag f a j = s.flag f a j := by
  rw [State.flag, s.fld_issue b h ha hj, State.flag]

/-! ### The lowest failing check (R81, R108) -/

theorem firstFailure_eq_none {l : List (Nat × Bool)} : firstFailure l = none ↔ ∀ c ∈ l, c.2 = false := by
  induction l with
  | nil => simp [firstFailure]
  | cons c l ih =>
    obtain ⟨n, bad⟩ := c
    rw [List.forall_mem_cons, ← ih, firstFailure]
    cases firstFailure l <;> cases bad <;> simp

theorem firstFailure_single (n : Nat) (bad : Bool) : firstFailure [(n, bad)] = if bad then some n else none := rfl

/-- Of two checks in the order of their codes the first that fails is reported. -/
theorem firstFailure_pair {m n : Nat} (h : m ≤ n) (p q : Bool) :
    firstFailure [(m, p), (n, q)] = if p then some m else if q then some n else none := by
  cases p <;> cases q <;> simp [firstFailure, h]

end Sys2Proof.Machine
end

section
/-! SUPPORT. The sequencer: a command at the head of its stream issues or is rejected (R79, R80, R91, R108); its failures (R106). -/

namespace Sys2Proof.Machine

/-! ### Fetch (R79) -/

/-- What becomes of the 32 bytes fetched, their errors met: rejected as poisoned or as BAD_OPCODE, or in the stream's slot. -/
def State.takeCommand (s : State) (a : Nat) (b : Bool) (off : Nat) (bs : List Byte) : State :=
  let known := !(s.sramPoison a off 8) && (byteAt bs 0 == 1 || byteAt bs 0 == 3)
  let id := if known then num bs 4 4 else 0
  let flags := if byteAt bs 0 = 1 then byteAt bs 2 / 16 % 4 else 2 * b2n b
  if s.sramPoison a off 32 then
    (((if known then s.pushTrailer a off false (trailerBytes id 6 Exc.none flags 0 0) else s).seqReject a b 6 id off).syncSeq a)
  else if byteAt bs 0 ≥ 8 then (s.seqReject a b 1 0 off).syncSeq a
  else (s.mapArray a fun x => x.setFetched b (some { bytes := bs, offset := off, waiting := false })).syncSeq a

@[simp] theorem State.winBytes_sramMeet (s : State) (a : Nat) (spans : List (Nat × Nat)) (a' w p n : Nat) :
    (s.sramMeet a spans).winBytes a' w p n = s.winBytes a' w p n := by
  simp [State.winBytes, State.winOffset, State.winSize, State.byte, State.fld]

/-- An open stream with an empty slot takes the command at the tail of its window. -/
theorem State.commandFetch_eq_takeCommand {s : State} {a : Nat} {b : Bool} (opened : s.streamOpen a b = true)
    (empty : (s.array a).fetched b = none) (on : s.winOn a (s.streamWindow a b) = true)
    (filled : 32 ≤ s.winOcc a (s.streamWindow a b)) {w p off : Nat} (hw : w = s.streamWindow a b)
    (hp : p = s.fld ARR_WIN_TAIL.pos a w) (hoff : off = s.winOffset a w p 0) (serves : s.stalls a [(off, 32)] = false) :
    s.commandFetch a b = (s.sramMeet a [(off, 32)]).takeCommand a b off (s.winBytes a w p 32) := by
  subst hw hp hoff
  simp only [State.commandFetch, opened, empty, on, serves, not_lt.mpr filled, State.winBytes_sramMeet, Bool.not_true,
    Bool.false_eq_true, Option.isSome_none, or_self, if_false]
  rfl

section
variable {s : State} {a off : Nat} {b : Bool} {bs : List Byte}

theorem State.takeCommand_slot (clean : s.sramPoison a off 32 = false) (op : byteAt bs 0 < 8) :
    s.takeCommand a b off bs =
      (s.mapArray a fun x => x.setFetched b (some { bytes := bs, offset := off, waiting := false })).syncSeq a := by
  simp [State.takeCommand, clean, op]

theorem State.takeCommand_badOpcode (clean : s.sramPoison a off 32 = false) (op : 8 ≤ byteAt bs 0) :
    s.takeCommand a b off bs = (s.seqReject a b 1 0 off).syncSeq a := by
  simp [State.takeCommand, clean, op]

theorem State.takeCommand_unknown (first : s.sramPoison a off 8 = true) (poisoned : s.sramPoison a off 32 = true) :
    s.takeCommand a b off bs = (s.seqReject a b 6 0 off).syncSeq a := by
  simp [State.takeCommand, first, poisoned]

theorem State.takeCommand_tile (first : s.sramPoison a off 8 = false) (poisoned : s.sramPoison a off 32 = true)
    (tile : byteAt bs 0 = 1) :
    s.takeCommand a b off bs = ((s.pushTrailer a off false
      (trailerBytes (num bs 4 4) 6 Exc.none (byteAt bs 2 / 16 % 4) 0 0)).seqReject a b 6 (num bs 4 4) off).syncSeq a := by
  simp [State.takeCommand, first, poisoned, tile]

end

/-! ### Plain commands (R80, R91, R108) -/

/-- A command at the head of a stream lies in an array that answers. -/
theorem State.lt_of_head {s : State} {a op : Nat} {b : Bool} {f : Fetched} (h : s.head a b op = some f) : a < 2240 := by
  have opened : s.streamOpen a b = true := by
    unfold State.head at h
    split at h
    · assumption
    · cases h
  simp only [State.streamOpen, Bool.and_eq_true] at opened
  obtain ⟨⟨⟨⟨⟨⟨⟨⟨-, answers⟩, -⟩, -⟩, -⟩, -⟩, -⟩, -⟩, -⟩ := opened
  exact State.lt_of_arrayAnswers answers

section
variable {s : State} {a op : Nat} {b : Bool} {f : Fetched} {checks : List Byte → List (Nat × Bool)} {go : State → Fetched → State}
  (hh : s.head a b op = some f)
include hh

theorem State.plainIssue_issued (pass : firstFailure (checks f.bytes) = none) :
    s.plainIssue a b op checks go = (go (s.issue a b) f).syncSeq a := by
  simp [State.plainIssue, hh, pass]

theorem State.plainIssue_rejected {code : Nat} (fails : firstFailure (checks f.bytes) = some code) :
    s.plainIssue a b op checks go = (s.seqReject a b code 0 f.offset).syncSeq a := by
  simp [State.plainIssue, hh, fails]

end

/-! ### Handovers (R91 to R93) -/

section
variable {s : State} {a b o : Nat}

theorem State.requestHandover_rejected (h : 5 < o ∨ s.flag SCP_BANK_OWN.pending a b = true) :
    s.requestHandover a b o = (s.setFld SCP_BANK_OWN.rejected a b 1, .rejected) := by
  simp [State.requestHandover, h]

variable (ho : o ≤ 5) (idle : s.flag SCP_BANK_OWN.pending a b = false) (ha : a < 2240) (hb : b ≤ 9)
include ho idle ha hb

/-- The new owner is entered first, which does not change the present one. -/
theorem State.requestHandover_taken :
    s.requestHandover a b o =
      if s.fld SCP_BANK_OWN.cur_owner a b = o then (s.setFld SCP_BANK_OWN.new_owner a b o, .atOnce)
      else (((s.setFld SCP_BANK_OWN.new_owner a b o).setFld SCP_BANK_OWN.pending a b 1).mapArray a fun x =>
        { x with handovers := x.handovers ++ [(b, o)] }, .pending) := by
  have present : (s.setFld SCP_BANK_OWN.new_owner a b o).fld SCP_BANK_OWN.cur_owner a b = s.fld SCP_BANK_OWN.cur_owner a b :=
    s.fld_setFld_separate o ha (Nat.lt_succ_of_le hb) (by decide)
  simp [State.requestHandover, idle, Nat.not_lt.mpr ho, present]

theorem State.requestHandover_atOnce (cur : s.fld SCP_BANK_OWN.cur_owner a b = o) :
    s.requestHandover a b o = (s.setFld SCP_BANK_OWN.new_owner a b o, .atOnce) := by
  rw [State.requestHandover_taken ho idle ha hb, if_pos cur]

theorem State.requestHandover_pending (cur : s.fld SCP_BANK_OWN.cur_owner a b ≠ o) :
    s.requestHandover a b o = (((s.setFld SCP_BANK_OWN.new_owner a b o).setFld SCP_BANK_OWN.pending a b 1).mapArray a fun x =>
      { x with handovers := x.handovers ++ [(b, o)] }, .pending) := by
  rw [State.requestHandover_taken ho idle ha hb, if_neg cur]

end

/-! ### Failures (R106) -/

/-- The event of a failure leaves the array and its registers as the failure made them. -/
theorem State.calm_seqFail (s : State) (a status id off : Nat) :
    State.Calm ((((((s.setFld ARR_STATUS.seq_state a 0 seqError).setFld ARR_STATUS.seq_err a 0 status).setFld
      ARR_ERR_INFO.tile_id a 0 id).setFld ARR_ERR_INFO.cmd_offset a 0 off).mapArray a fun x => { x with fwd := none, bwd := none }))
      (s.seqFail a status id off) := by
  unfold State.seqFail
  refine State.Calm.trans ?_ (State.calm_raise _ _ _ _ _)
  exact State.Calm.ite ((State.Calm.refl _).ofObs _) (State.Calm.refl _)

section
variable (s : State) {a status id off : Nat} (ha : a < 2240)
include ha

/-- A failure shows ERROR with its status, and its command's identity and place. -/
theorem State.fld_seqFail {f : Fld} (h : f.kind.ofEvents = false) :
    (s.seqFail a status id off).fld f a = ((((s.setFld ARR_STATUS.seq_state a 0 seqError).setFld ARR_STATUS.seq_err a 0 status).setFld
      ARR_ERR_INFO.tile_id a 0 id).setFld ARR_ERR_INFO.cmd_offset a 0 off).fld f a :=
  congrArg (bits · f.hi f.lo) ((s.calm_seqFail a status id off).rd f.kind a 0 h (by omega) (by decide))

theorem State.seqFail_seq_state : (s.seqFail a status id off).fld ARR_STATUS.seq_state a = seqError :=
  (s.fld_seqFail ha (by decide)).trans <| (State.fld_setFld_separate _ _ ha (by decide) (by decide)).trans <|
    (State.fld_setFld_separate _ _ ha (by decide) (by decide)).trans <|
      (State.fld_setFld_separate _ _ ha (by decide) (by decide)).trans <|
        State.fld_setFld_fits _ _ ha (by decide) (by decide) (by decide)

theorem State.seqFail_seq_err (fits : status < 256) : (s.seqFail a status id off).fld ARR_STATUS.seq_err a = status :=
  (s.fld_seqFail ha (by decide)).trans <| (State.fld_setFld_separate _ _ ha (by decide) (by decide)).trans <|
    (State.fld_setFld_separate _ _ ha (by decide) (by decide)).trans <| State.fld_setFld_fits _ _ ha (by decide) (by decide) fits

theorem State.seqFail_tile_id (fits : id < 2 ^ 32) : (s.seqFail a status id off).fld ARR_ERR_INFO.tile_id a = id :=
  (s.fld_seqFail ha (by decide)).trans <| (State.fld_setFld_separate _ _ ha (by decide) (by decide)).trans <|
    State.fld_setFld_fits _ _ ha (by decide) (by decide) fits

theorem State.seqFail_cmd_offset (fits : off < 2 ^ 19) : (s.seqFail a status id off).fld ARR_ERR_INFO.cmd_offset a = off :=
  (s.fld_seqFail ha (by decide)).trans <| State.fld_setFld_fits _ _ ha (by decide) (by decide) fits

end

@[simp] theorem State.seqFail_mem (s : State) (a status id off : Nat) : (s.seqFail a status id off).mem = s.mem := by
  simp [(s.calm_seqFail a status id off).mem]

@[simp] theorem State.seqFail_part (s : State) (a status id off : Nat) : (s.seqFail a status id off).part = s.part := by
  simp [(s.calm_seqFail a status id off).part]

/-- What was fetched is dropped, to be fetched again (R106). -/
@[simp] theorem State.array_seqFail (s : State) (a status id off : Nat) :
    (s.seqFail a status id off).array a = { s.array a with fwd := none, bwd := none } := by
  rw [State.array, (s.calm_seqFail a status id off).arr]
  exact (State.array_mapArray _ _ _).trans (by simp)

end Sys2Proof.Machine
end

section
open Sys2Proof.Machine

/-- Settles O10: the WAIT's hold ends by its window's occupancy, or by its limit with status 7. -/
theorem waitsEnd : Obligations.WaitsEnd := by
  refine ⟨?satisfied, ?timeout⟩
  case satisfied =>
    intro a w n off b id s runs hold reached
    exact exec_next_of_onArray rfl runs (by simp [State.waitSatisfied, hold, reached])
  case timeout =>
    intro a w n off b id s runs hold short limit
    exact exec_next_of_onArray rfl runs (by simp [State.waitTimeout, hold, short.not_ge, limit])

/-- Settles O11: the control writes by their effects, and a failure by its writes, which its event leaves as they are. -/
theorem sequencerControl : Obligations.SequencerControl := by
  refine ⟨?run, ?stop, ?halt, ?clear, ?configure, ?ignored, ?failure⟩
  case run => exact fun a s takes => exec_next_of_arrayWritten rfl takes rfl
  case stop => exact fun a s takes => exec_next_of_arrayWritten rfl takes rfl
  case halt => exact fun a s takes => exec_next_of_arrayWritten rfl takes rfl
  case clear =>
    intro a s takes error vec
    exact exec_next_of_arrayWritten rfl takes (by simp [State.seqClear, error, vec])
  case configure =>
    intro a v s takes still other
    exact exec_next_of_arrayWritten rfl takes (if_neg (by tauto))
  case ignored => exact fun a v s takes ignored => exec_next_of_arrayWritten rfl takes (if_pos ignored)
  case failure =>
    intro a status id off s ha hs hid hoff
    refine ⟨s.seqFail_seq_state ha, s.seqFail_seq_err ha hs, s.seqFail_tile_id ha hid, s.seqFail_cmd_offset ha hoff, ?_, ?_, ?_⟩
    all_goals simp

/-- Settles O12: a request is judged by the bank's entry, which the entry of its new owner leaves as it is; both ends of a handover by
their effects. -/
theorem handoversJudgedAndEnd : Obligations.HandoversJudgedAndEnd := by
  refine ⟨?rejected, ?atOnce, ?pending, ?complete, ?abandoned⟩
  case rejected =>
    intro a b o s takes hb ho reject
    refine exec_next_of_arrayWritten rfl takes ?_
    rw [if_neg (Nat.not_lt.mpr hb), Nat.mod_eq_of_lt ho, State.requestHandover_rejected reject]
  case atOnce =>
    intro a b o s takes hb ho idle cur
    refine exec_next_of_arrayWritten rfl takes ?_
    rw [if_neg (Nat.not_lt.mpr hb), Nat.mod_eq_of_lt (by omega),
      State.requestHandover_atOnce ho idle (State.lt_of_runsAndTakes takes) hb cur]
  case pending =>
    intro a b o s takes hb ho idle cur
    refine exec_next_of_arrayWritten rfl takes ?_
    rw [if_neg (Nat.not_lt.mpr hb), Nat.mod_eq_of_lt (by omega),
      State.requestHandover_pending ho idle (State.lt_of_runsAndTakes takes) hb cur]
  case complete =>
    intro a b o s runs incoming drained
    exact exec_next_of_onArray rfl runs (by simp [State.completeHandover, incoming, drained])
  case abandoned =>
    rintro a b o s u runs incoming rfl
    exact exec_next_of_onArray rfl runs (by simp only [State.abandonHandover, incoming])

/-- Settles O9: the bytes at the tail enter the slot or are rejected; a plain command issues where none of its checks fails, and the
entry of its issue touches no bank, so an OWN is judged as at its check. -/
theorem plainCommandsRun : Obligations.PlainCommandsRun := by
  refine ⟨?fetch, ?nop, ?own, ?wait, ?fence, ?signal, ?nopBad, ?ownRange, ?waitRange, ?fenceBad, ?signalBad, ?ownBad, ?waitBad,
    ?ownAtOnce, ?waitAtOnce⟩
  case fetch =>
    rintro a b s u up opened empty on filled w p off bs hw hp hoff rfl serves rfl
    have fetch := State.commandFetch_eq_takeCommand opened empty on filled hw hp hoff serves
    exact ⟨fun clean op => exec_next_of_live rfl up (fetch.trans (State.takeCommand_slot clean op)),
      fun clean op => exec_next_of_live rfl up (fetch.trans (State.takeCommand_badOpcode clean op)),
      fun first poisoned => exec_next_of_live rfl up (fetch.trans (State.takeCommand_unknown first poisoned)),
      fun first poisoned tile => exec_next_of_live rfl up (fetch.trans (State.takeCommand_tile first poisoned tile))⟩
  case nopBad | fenceBad =>
    intro a b f s up head bad
    exact exec_next_of_live rfl up (State.plainIssue_rejected head (by simp [firstFailure_single, bad]))
  case nop | fence =>
    intro a b f s up head zero
    exact exec_next_of_live rfl up (State.plainIssue_issued head (by simp [firstFailure_single, zero]))
  case signal =>
    intro a b f s up head zero1 zero24
    exact exec_next_of_live rfl up (State.plainIssue_issued head (by simp [firstFailure_single, zero1, zero24]))
  case signalBad =>
    intro a b f s up head bad
    exact exec_next_of_live rfl up (State.plainIssue_rejected head (by simpa [firstFailure_single, or_iff_not_imp_left] using bad))
  case ownRange =>
    intro a b f s up head zero bad
    exact exec_next_of_live rfl up (State.plainIssue_rejected head (by simpa [firstFailure_pair, zero, or_iff_not_imp_left] using bad))
  case ownBad =>
    intro a b f s up head bad
    exact exec_next_of_live rfl up (State.plainIssue_rejected head (by simp [firstFailure_pair, bad]))
  case waitRange =>
    intro a b f s up head zero2 zero12 bad
    exact exec_next_of_live rfl up (State.plainIssue_rejected head (by simp [firstFailure_pair, zero2, zero12, bad]))
  case waitBad =>
    intro a b f s up head bad
    exact exec_next_of_live rfl up (State.plainIssue_rejected head (by simpa [firstFailure_pair, or_iff_not_imp_left] using bad))
  case wait =>
    intro a b f s up head zero2 zero12 window short
    refine exec_next_of_live rfl up ((State.plainIssue_issued head (by simp [firstFailure_pair, zero2, zero12, window])).trans ?_)
    simp [short.not_ge]
  case waitAtOnce =>
    intro a b f s up head zero2 zero12 window reached
    refine exec_next_of_live rfl up ((State.plainIssue_issued head (by simp [firstFailure_pair, zero2, zero12, window])).trans ?_)
    simp [reached]
  case own =>
    intro a b f s up head zero hb ho idle cur
    have ha := State.lt_of_head head
    have stillIdle : (s.issue a b).flag SCP_BANK_OWN.pending a (byteAt f.bytes 1) = false :=
      (s.flag_issue b (by decide) (by omega) (by omega)).trans idle
    have owner : (s.issue a b).fld SCP_BANK_OWN.cur_owner a (byteAt f.bytes 1) = s.fld SCP_BANK_OWN.cur_owner a (byteAt f.bytes 1) :=
      s.fld_issue b (by decide) (by omega) (by omega)
    refine exec_next_of_live rfl up ((State.plainIssue_issued head (by simp [firstFailure_pair, zero, hb, ho, idle])).trans ?_)
    rw [State.requestHandover_pending ho stillIdle ha hb (owner ▸ cur)]
  case ownAtOnce =>
    intro a b f s up head zero hb ho idle cur
    have ha := State.lt_of_head head
    have stillIdle : (s.issue a b).flag SCP_BANK_OWN.pending a (byteAt f.bytes 1) = false :=
      (s.flag_issue b (by decide) (by omega) (by omega)).trans idle
    have owner : (s.issue a b).fld SCP_BANK_OWN.cur_owner a (byteAt f.bytes 1) = s.fld SCP_BANK_OWN.cur_owner a (byteAt f.bytes 1) :=
      s.fld_issue b (by decide) (by omega) (by omega)
    refine exec_next_of_live rfl up ((State.plainIssue_issued head (by simp [firstFailure_pair, zero, hb, ho, idle])).trans ?_)
    rw [State.requestHandover_atOnce ho stillIdle ha hb (owner.trans cur)]

end

section
/-! SUPPORT. Windows and banks of an array (R96, R97, R99, R102 to R105). -/

namespace Sys2Proof.Machine

/-! ### Advances of a window's head and tail (R97) -/

section
variable {s : State} {a w n : Nat}

theorem State.advanceWrite_allowed {tail : Bool} (hw : w < 8) (hn : n < 2 ^ 19) (may : s.winMay a w tail n = true) :
    s.advanceWrite a w tail n = s.winMove a w tail n := by
  rw [State.advanceWrite, if_neg (by omega), Nat.mod_eq_of_lt hn, State.winAdvance, if_pos may]

theorem State.advanceWrite_refused {tail : Bool} (hw : w < 8) (hn : n < 2 ^ 19) (may : s.winMay a w tail n = false) :
    s.advanceWrite a w tail n = s.setFld (if tail then ARR_WIN_CFG.underflow else ARR_WIN_CFG.overflow) a w 1 := by
  rw [State.advanceWrite, if_neg (by omega), Nat.mod_eq_of_lt hn, State.winAdvance, if_neg (by simp [may])]

/-- A head that does not reach its window's end keeps its lap bit. -/
theorem State.winMove_head_within (h : s.fld ARR_WIN_HEAD.pos a w + n < s.winSize a w) :
    s.winMove a w false n = s.setFld ARR_WIN_HEAD.pos a w (s.fld ARR_WIN_HEAD.pos a w + n) :=
  congrArg (s.wr .ARR_WIN_HEAD a w) (if_neg h.not_ge)

/-- A head that reaches its window's end goes on at its begin, with the lap bit toggled. -/
theorem State.rd_winMove_head_wraps (ha : a < 2240) (hw : w < 8) (h : s.winSize a w ≤ s.fld ARR_WIN_HEAD.pos a w + n) :
    (s.winMove a w false n).rd .ARR_WIN_HEAD a w =
      setBits (setBits (s.rd .ARR_WIN_HEAD a w) 18 0 (s.fld ARR_WIN_HEAD.pos a w + n - s.winSize a w)) 63 63
        (1 - s.fld ARR_WIN_HEAD.lap a w) :=
  (State.rd_wr_same s _ a w _ (Fld.inRange_of_ofArrays (f := ARR_WIN_HEAD.pos) ha hw (by decide)) rfl).trans (if_pos h)

theorem State.fld_pos_winMove_head_wraps (ha : a < 2240) (hw : w < 8) (h : s.winSize a w ≤ s.fld ARR_WIN_HEAD.pos a w + n) :
    (s.winMove a w false n).fld ARR_WIN_HEAD.pos a w = (s.fld ARR_WIN_HEAD.pos a w + n - s.winSize a w) % 2 ^ 19 :=
  (congrArg (bits · 18 0) (State.rd_winMove_head_wraps ha hw h)).trans <|
    (bits_setBits_below _ 63 63 _ 18 0 (by decide) (by decide) (by decide) (by decide)).trans
      (bits_setBits_same _ 18 0 _ (by decide) (by decide))

theorem State.fld_lap_winMove_head_wraps (ha : a < 2240) (hw : w < 8) (h : s.winSize a w ≤ s.fld ARR_WIN_HEAD.pos a w + n) :
    (s.winMove a w false n).fld ARR_WIN_HEAD.lap a w = 1 - s.fld ARR_WIN_HEAD.lap a w :=
  (congrArg (bits · 63 63) (State.rd_winMove_head_wraps ha hw h)).trans <|
    (bits_setBits_same _ 63 63 _ (by decide) (by decide)).trans (Nat.mod_eq_of_lt (by omega))

end

@[simp] theorem State.winMove_part (s : State) (a w : Nat) (tail : Bool) (n : Nat) : (s.winMove a w tail n).part = s.part := by
  simp [State.winMove]

@[simp] theorem State.winMove_mem (s : State) (a w : Nat) (tail : Bool) (n : Nat) : (s.winMove a w tail n).mem = s.mem := by
  simp [State.winMove]

/-- The move of a head writes its register alone. -/
theorem State.rd_winMove_head_kind (s : State) {a w : Nat} (n : Nat) {k : RegKind} {i j : Nat} (h : k ≠ .ARR_WIN_HEAD) (ha : a < 65536)
    (hw : w < 65536) (hi : i < 65536) (hj : j < 65536) : (s.winMove a w false n).rd k i j = s.rd k i j :=
  State.rd_wr_kind s _ k a w i j _ h ha hw hi hj

/-! ### A window's configuration (R96, R97) -/

/-- A configuration that holds R96. -/
def State.WinFits (s : State) (a w : Nat) : Prop :=
  s.fld ARR_WIN_CFG.base a w < 5120 ∧ 1 ≤ s.fld ARR_WIN_CFG.size a w ∧
    s.fld ARR_WIN_CFG.base a w + s.fld ARR_WIN_CFG.size a w ≤ 5120

/-- A window with a new configuration and both positions 0. -/
def State.winReset (s : State) (a w : Nat) (v : Word) : State :=
  ((s.wr .ARR_WIN_CFG a w (fieldWrite .ARR_WIN_CFG (s.rd .ARR_WIN_CFG a w) v)).wr .ARR_WIN_HEAD a w 0).wr .ARR_WIN_TAIL a w 0

/-- A window whose configuration breaks R96. -/
def State.winDisable (s : State) (a w : Nat) : State := (s.setFld ARR_WIN_CFG.enable a w 0).setFld ARR_WIN_CFG.cfg_err a w 1

theorem State.winConfigure_cases (s : State) (a w : Nat) (v : Word) :
    s.winConfigure a w v = s.winReset a w v ∧ (s.winReset a w v).WinFits a w ∨
      s.winConfigure a w v = (s.winReset a w v).winDisable a w := by
  unfold State.winConfigure
  dsimp only
  split
  case isTrue fits =>
    obtain ⟨base, size, -, sum⟩ := fits
    exact .inl ⟨rfl, base, size, sum⟩
  case isFalse => exact .inr rfl

@[simp] theorem State.winConfigure_part (s : State) (a w : Nat) (v : Word) : (s.winConfigure a w v).part = s.part := by
  obtain ⟨e, -⟩ | e := s.winConfigure_cases a w v <;> simp [e, State.winReset, State.winDisable]

@[simp] theorem State.winConfigure_mem (s : State) (a w : Nat) (v : Word) : (s.winConfigure a w v).mem = s.mem := by
  obtain ⟨e, -⟩ | e := s.winConfigure_cases a w v <;> simp [e, State.winReset, State.winDisable]

section
variable (s : State) {a w : Nat} (ha : a < 2240) (hw : w < 8)
include ha hw

theorem State.rd_winDisable_kind {k : RegKind} (h : k ≠ .ARR_WIN_CFG) : (s.winDisable a w).rd k a w = s.rd k a w := by
  have ka : a < 65536 := by omega
  have kw : w < 65536 := by omega
  rw [State.winDisable, State.rd_setFld_kind _ _ _ _ _ _ _ _ h ka kw ka kw, State.rd_setFld_kind _ _ _ _ _ _ _ _ h ka kw ka kw]

theorem State.rd_head_winReset (v : Word) : (s.winReset a w v).rd .ARR_WIN_HEAD a w = 0 := by
  rw [State.winReset, State.rd_wr_kind _ _ _ _ _ _ _ _ (by decide) (by omega) (by omega) (by omega) (by omega)]
  exact State.rd_wr_same _ _ a w _ (Fld.inRange_of_ofArrays (f := ARR_WIN_HEAD.pos) ha hw (by decide)) rfl

theorem State.rd_tail_winReset (v : Word) : (s.winReset a w v).rd .ARR_WIN_TAIL a w = 0 :=
  State.rd_wr_same _ _ a w _ (Fld.inRange_of_ofArrays (f := ARR_WIN_TAIL.pos) ha hw (by decide)) rfl

/-- A write of the configuration sets both positions to 0 with equal laps. -/
theorem State.rd_head_winConfigure (v : Word) : (s.winConfigure a w v).rd .ARR_WIN_HEAD a w = 0 := by
  obtain ⟨e, -⟩ | e := s.winConfigure_cases a w v
  · rw [e, s.rd_head_winReset ha hw]
  · rw [e, State.rd_winDisable_kind _ ha hw (by decide), s.rd_head_winReset ha hw]

theorem State.rd_tail_winConfigure (v : Word) : (s.winConfigure a w v).rd .ARR_WIN_TAIL a w = 0 := by
  obtain ⟨e, -⟩ | e := s.winConfigure_cases a w v
  · rw [e, s.rd_tail_winReset ha hw]
  · rw [e, State.rd_winDisable_kind _ ha hw (by decide), s.rd_tail_winReset ha hw]

theorem State.fld_enable_winDisable : (s.winDisable a w).fld ARR_WIN_CFG.enable a w = 0 :=
  (State.fld_setFld_separate _ _ ha hw (by decide)).trans (State.fld_setFld_self _ _ ha hw (by decide))

theorem State.fld_cfg_err_winDisable : (s.winDisable a w).fld ARR_WIN_CFG.cfg_err a w = 1 :=
  State.fld_setFld_self _ _ ha hw (by decide)

theorem State.winConfigure_disables {v : Word} (h : ¬ (s.winConfigure a w v).WinFits a w) :
    (s.winConfigure a w v).fld ARR_WIN_CFG.enable a w = 0 ∧ (s.winConfigure a w v).fld ARR_WIN_CFG.cfg_err a w = 1 := by
  obtain ⟨e, fits⟩ | e := s.winConfigure_cases a w v
  · exact absurd (e ▸ fits) h
  · rw [e]
    exact ⟨State.fld_enable_winDisable _ ha hw, State.fld_cfg_err_winDisable _ ha hw⟩

end

/-- A window with both positions 0 and equal laps holds nothing. -/
theorem State.winOcc_eq_zero {s : State} {a w : Nat} (head : s.rd .ARR_WIN_HEAD a w = 0) (tail : s.rd .ARR_WIN_TAIL a w = 0) :
    s.winOcc a w = 0 := by
  simp only [State.winOcc, State.fld, ARR_WIN_HEAD.pos, ARR_WIN_TAIL.pos, ARR_WIN_HEAD.lap, ARR_WIN_TAIL.lap, head, tail, if_true,
    Nat.sub_self]

/-! ### Zeros over a span (R99, R102) -/

/-- Of a sparse map from which some keys are taken, the others read as before. -/
theorem Sparse.get_filter {α : Type} (d : α) (m : List (Nat × α)) (p : Nat → Bool) (k : Nat) :
    Sparse.get d (m.filter fun c => p c.1) k = if p k then Sparse.get d m k else d := by
  induction m with
  | nil => simp [Sparse.get]
  | cons c m ih =>
    obtain ⟨a, v⟩ := c
    by_cases here : a = k
    · subst here
      by_cases keep : p a <;> simp [keep, Sparse.get, ih]
    · by_cases keep : p a <;> simp [keep, Sparse.get, ih, here]

theorem State.byte_zeroSpan (s : State) (key n k : Nat) :
    (s.zeroSpan key n).byte k = if key ≤ k ∧ k < key + n then 0 else s.byte k := by
  refine (Sparse.get_filter _ _ (fun j => !(key ≤ j && j < key + n)) k).trans ?_
  by_cases inside : key ≤ k ∧ k < key + n
  · simp [inside, unlisted]
  · simp only [inside, if_false]
    exact if_pos (by simp; omega)

@[simp] theorem State.zeroBank_part (s : State) (a b : Nat) : (s.zeroBank a b).part = s.part := rfl
@[simp] theorem State.zeroBank_evt (s : State) (a b : Nat) : (s.zeroBank a b).evt = s.evt := rfl
@[simp] theorem State.array_zeroBank (s : State) (a b a' : Nat) : (s.zeroBank a b).array a' = s.array a' := rfl
@[simp] theorem State.fld_zeroBank (s : State) (a b : Nat) (f : Fld) (i j : Nat) : (s.zeroBank a b).fld f i j = s.fld f i j := rfl

@[simp] theorem State.byte_setFld (s : State) (f : Fld) (i j v k : Nat) : (s.setFld f i j v).byte k = s.byte k := by simp [State.byte]
@[simp] theorem State.byte_mapArray (s : State) (a : Nat) (f : Arr → Arr) (k : Nat) : (s.mapArray a f).byte k = s.byte k := by
  simp [State.byte]

section
variable (s : State) (a b : Nat)

theorem State.byte_zeroBank_inside {i : Nat} (h : i < 0x8000) : (s.zeroBank a b).byte (bankKey a b + i) = 0 :=
  (s.byte_zeroSpan _ _ _).trans (if_pos (by omega))

theorem State.byte_zeroBank_outside {k : Nat} (h : k < bankKey a b ∨ bankKey a b + 0x8000 ≤ k) : (s.zeroBank a b).byte k = s.byte k :=
  (s.byte_zeroSpan _ _ _).trans (if_neg (by omega))

end

/-! ### The swizzle (R99) -/

section
variable {s : State} {a b : Nat} {on : Bool}

theorem State.swizzleWrite_heeded (hb : b ≤ 9)
    (owner : s.fld SCP_BANK_OWN.cur_owner a b = 0 ∨ s.fld SCP_BANK_OWN.cur_owner a b = ownMarch)
    (change : s.flag SCP_BANK_CFG.swizzle a b ≠ on) :
    s.swizzleWrite a b on =
      ((s.setFld SCP_BANK_CFG.swizzle a b (b2n on)).zeroBank a b).setFld SCP_BANK_CFG.clearing a b 1 :=
  if_neg (by rintro (h | ⟨h0, h5⟩ | h); exacts [by omega, owner.elim h0 h5, change h])

theorem State.swizzleWrite_ignored (none : s.fld SCP_BANK_OWN.cur_owner a b ≠ 0)
    (march : s.fld SCP_BANK_OWN.cur_owner a b ≠ ownMarch) : s.swizzleWrite a b on = s :=
  if_pos (.inr (.inl ⟨none, march⟩))

end

/-! ### March runs (R102 to R105) -/

theorem setBits_bits_self (w : Word) (hi lo : Nat) : setBits w hi lo (bits w hi lo) = w := by
  have le : bits w hi lo * 2 ^ lo ≤ w.toNat :=
    (Nat.mul_le_mul_right _ (Nat.mod_le _ _)).trans (Nat.div_mul_le_self _ _)
  simp only [setBits, Nat.mod_eq_of_lt (bits_lt w hi lo), Nat.sub_add_cancel le, BitVec.ofNat_toNat, BitVec.setWidth_eq]

/-- A bit that is set stays when it is set. -/
theorem setBits_of_bit {w : Word} {i : Nat} (h : bit w i = true) : setBits w i i 1 = w := by
  rw [bit_eq_bits, decide_eq_true_eq] at h
  rw [← h, setBits_bits_self]

section
variable {s : State} {a b : Nat} {v : Word} (start : bit v 63 = true)
include start

theorem State.marchWrite_destructive (mode : bit v 56 = false) (background : bits v 3 0 ≠ 0) (banks : maskBanks (bits v 41 32) = [b])
    (owned : s.owns a b ownMarch = true) (idle : (s.array a).march = none) :
    s.marchWrite a v =
      (((s.wr .MARCH_CTRL a 0 (fieldWrite .MARCH_CTRL (s.rd .MARCH_CTRL a) v)).setFld MARCH_STATUS.state a 0 2).setFld
        MARCH_STATUS.reason a 0 0).mapArray a fun x => { x with march := some { banks := [b], borrow := none, phase := 2 } } := by
  simp [State.marchWrite, start, mode, background, banks, owned, idle]

theorem State.marchWrite_running (running : (s.array a).march.isSome = true) : s.marchWrite a v = s.marchRefuse a 1 := by
  simp [State.marchWrite, start, running]

theorem State.marchWrite_noBackground (idle : (s.array a).march = none) (background : bits v 3 0 = 0) :
    s.marchWrite a v = s.marchRefuse a 2 := by
  simp [State.marchWrite, start, idle, background]

end

/-- Nothing waits at the banks. -/
theorem State.grantHeld_of_held_nil {s : State} {a : Nat} (h : (s.array a).held = []) :
    s.grantHeld a = s.mapArray a fun x => { x with held := [] } := by
  simp [State.grantHeld, h]

/-- What a destructive run over bank `b` shows at its end, with no line failing; `old` names the banks found unrepairable before. -/
def State.marchPassed (s : State) (a b old : Nat) : State :=
  ((((((s.mapArray a fun x => { x with march := none }).zeroBank a b).setFld MARCH_STATUS.state a 0 5).setFld MARCH_STATUS.reason a 0
    0).setFld MARCH_STATUS.failed_banks a 0 0).setFld MARCH_STATUS.unrepairable a 0 old).setFld MARCH_STATUS.new_repairs a 0 0

theorem State.marchDone_destructive_clean {s : State} {a b phase : Nat}
    (run : (s.array a).march = some { banks := [b], borrow := none, phase := phase }) :
    ∃ old, s.marchDone a [] = (s.marchPassed a b old).grantHeld a := by
  simp only [State.marchDone, run, List.filter_nil, List.map_nil, List.isEmpty_nil, Bool.not_true, List.filter_false, List.foldl_nil,
    List.foldl_cons, if_true]
  exact ⟨_, rfl⟩

@[simp] theorem State.marchPassed_part (s : State) (a b old : Nat) : (s.marchPassed a b old).part = s.part := by
  simp [State.marchPassed]

section
variable (s : State) {a : Nat} (b old : Nat) (ha : a < 2240)
include ha

theorem State.marchPassed_state : (s.marchPassed a b old).fld MARCH_STATUS.state a = 5 :=
  (State.fld_setFld_separate _ _ ha (by decide) (by decide)).trans <|
    (State.fld_setFld_separate _ _ ha (by decide) (by decide)).trans <|
      (State.fld_setFld_separate _ _ ha (by decide) (by decide)).trans <|
        (State.fld_setFld_separate _ _ ha (by decide) (by decide)).trans <| State.fld_setFld_self _ _ ha (by decide) (by decide)

theorem State.marchPassed_failed_banks : (s.marchPassed a b old).fld MARCH_STATUS.failed_banks a = 0 :=
  (State.fld_setFld_separate _ _ ha (by decide) (by decide)).trans <|
    (State.fld_setFld_separate _ _ ha (by decide) (by decide)).trans <| State.fld_setFld_self _ _ ha (by decide) (by decide)

theorem State.marchPassed_new_repairs : (s.marchPassed a b old).fld MARCH_STATUS.new_repairs a = 0 :=
  State.fld_setFld_self _ _ ha (by decide) (by decide)

end

end Sys2Proof.Machine
end

section
open Sys2Proof.Machine

/-- Settles O14: an advance that R97 allows writes its position's register alone; a configuration that breaks R96 is switched off after
it is entered. -/
theorem windowsConfigureAndAdvance : Obligations.WindowsConfigureAndAdvance := by
  refine ⟨?within, ?wraps, ?tail, ?overflow, ?underflow, ?configure⟩
  case within =>
    intro a w n s takes hw hn may fits
    exact exec_next_of_arrayWritten rfl takes ((State.advanceWrite_allowed hw hn may).trans (State.winMove_head_within fits))
  case wraps =>
    intro a w n s takes hw hn may wraps
    have ha := State.lt_of_runsAndTakes takes
    refine ⟨_, exec_next_of_arrayWritten rfl takes (State.advanceWrite_allowed hw hn may), ?_, ?_, ?_, ?_⟩
    · rw [State.fld_settle _ _ (by simp), State.fld_pos_winMove_head_wraps ha hw wraps]
    · rw [State.fld_settle _ _ (by simp), State.fld_lap_winMove_head_wraps ha hw wraps]
    · simp
    · intro k i j hk hi hj
      rw [State.rd_settle _ _ (by simp), State.rd_winMove_head_kind s n hk (by omega) (by omega) hi hj]
  case tail => exact fun a w n s takes hw hn may => exec_next_of_arrayWritten rfl takes (State.advanceWrite_allowed hw hn may)
  case overflow | underflow =>
    exact fun a w n s takes hw hn may => exec_next_of_arrayWritten rfl takes (State.advanceWrite_refused hw hn may)
  case configure =>
    intro a w v s takes hw
    have ha := State.lt_of_runsAndTakes takes
    refine ⟨_, exec_next_of_arrayWritten rfl takes (if_neg (by omega)), ?_⟩
    have head : (s.settle (s.winConfigure a w v)).rd .ARR_WIN_HEAD a w = 0 := by
      rw [State.rd_settle _ _ (by simp), s.rd_head_winConfigure ha hw]
    have tail : (s.settle (s.winConfigure a w v)).rd .ARR_WIN_TAIL a w = 0 := by
      rw [State.rd_settle _ _ (by simp), s.rd_tail_winConfigure ha hw]
    refine ⟨head, tail, State.winOcc_eq_zero head tail, by simp, ?_⟩
    simp only [State.fld_settle _ _ (s.winConfigure_part a w v)]
    exact s.winConfigure_disables ha hw

/-- Settles O15: a renewed bank reads zero; a run starts or is refused by R105's tests, taken in order. -/
theorem bankContentsRenewed : Obligations.BankContentsRenewed := by
  refine ⟨?swizzle, ?ignored, ?cleared, ?start, ?running, ?noBackground, ?done⟩
  case swizzle =>
    intro a b on s takes hb owner change
    have ha := State.lt_of_runsAndTakes takes
    have kb : b < 10 := by omega
    refine ⟨_, exec_next_of_arrayWritten rfl takes (State.swizzleWrite_heeded hb owner change), ?_, ?_, fun i hi => ?_, fun k hk => ?_⟩
    · rw [State.flag, State.fld_settle _ _ (by simp), State.fld_setFld_separate _ _ ha kb (by decide), State.fld_zeroBank,
        State.fld_setFld_self _ _ ha kb (by decide)]
      cases on <;> rfl
    · rw [State.flag, State.fld_settle _ _ (by simp), State.fld_setFld_self _ _ ha kb (by decide)]
      rfl
    · rw [State.byte_settle, State.byte_setFld, State.byte_zeroBank_inside _ _ _ hi]
    · rw [State.byte_settle, State.byte_setFld, State.byte_zeroBank_outside _ _ _ hk, State.byte_setFld]
  case ignored =>
    exact fun a b on s takes hb none march => exec_next_of_arrayWritten rfl takes (State.swizzleWrite_ignored none march)
  case cleared =>
    intro a b s runs hb clearing
    exact exec_next_of_onArray rfl runs (if_neg (by simp [clearing, hb]))
  case start =>
    intro a b v s takes start mode background banks owned idle
    refine exec_next_of_arrayWritten rfl takes ?_
    rw [setBits_of_bit start, State.marchWrite_destructive start mode background banks owned idle]
  case running =>
    intro a v s takes start running
    refine exec_next_of_arrayWritten rfl takes ?_
    rw [setBits_of_bit start, State.marchWrite_running start running]
  case noBackground =>
    intro a v s takes start idle background
    refine exec_next_of_arrayWritten rfl takes ?_
    rw [setBits_of_bit start, State.marchWrite_noBackground start idle background]
  case done =>
    intro a b s runs hb run held
    have ha := State.lt_of_runs runs
    obtain ⟨old, done⟩ := State.marchDone_destructive_clean run
    have held : ((s.marchPassed a b old).array a).held = [] := by simpa [State.marchPassed] using held
    rw [State.grantHeld_of_held_nil held] at done
    refine ⟨_, exec_next_of_onArray rfl runs done, ?_, ?_, ?_, ?_, ?_, fun i hi => ?_, fun k hk => ?_⟩
    · simp [State.marchPassed]
    · exact (State.fld_settle _ _ (by simp) _ _ _).trans (s.marchPassed_state b old ha)
    · exact (State.fld_settle _ _ (by simp) _ _ _).trans (s.marchPassed_failed_banks b old ha)
    · exact (State.fld_settle _ _ (by simp) _ _ _).trans (s.marchPassed_new_repairs b old ha)
    · simp [State.marchPassed]
    · simp [State.marchPassed, State.byte_zeroBank_inside, hi]
    · simp [State.marchPassed, State.byte_zeroBank_outside, hk]

end

section
/-! SUPPORT. What the end of a TILE or REDUCE leaves as it was: the holds of FENCE and SIGNAL that look again, the turn, the events of its
elements (R71, R80, R86, R87, R106, R165). -/

namespace Sys2Proof.Machine

/-! ### What the sequencer's own state, its failures and its holds leave alone -/

/-- Between two states of an array the fused values, the memory with its poison, the trailers that wait and the tile named in
`ARR_STATUS` are the same. -/
structure State.KeepsTile (a : Nat) (s t : State) : Prop where
  part : t.part = s.part
  mem : t.mem = s.mem
  poison : t.poison = s.poison
  trailers : (t.array a).trailers = (s.array a).trailers
  curTile : t.fld ARR_STATUS.cur_tile a = s.fld ARR_STATUS.cur_tile a

namespace State.KeepsTile

variable {a : Nat} {s t u : State}

theorem refl (a : Nat) (s : State) : KeepsTile a s s := ⟨rfl, rfl, rfl, rfl, rfl⟩

theorem trans (h : KeepsTile a s t) (g : KeepsTile a t u) : KeepsTile a s u :=
  ⟨g.part.trans h.part, g.mem.trans h.mem, g.poison.trans h.poison, g.trailers.trans h.trailers, g.curTile.trans h.curTile⟩

theorem ite {c : Prop} [Decidable c] (h : KeepsTile a s t) (g : KeepsTile a s u) : KeepsTile a s (if c then t else u) := by
  split <;> assumption

/-- An update of an array's hidden state that leaves its trailers. -/
theorem mapArray (s : State) {a : Nat} {f : Arr → Arr} (h : ∀ x, (f x).trailers = x.trailers) : KeepsTile a s (s.mapArray a f) :=
  ⟨by simp, by simp, by simp, by simp [h], rfl⟩

/-- An update outside the registers, the arrays and the memory. -/
theorem ofOther (hp : t.part = s.part) (hm : t.mem = s.mem) (hn : t.poison = s.poison) (ha : t.arr = s.arr) (hr : t.regs = s.regs) :
    KeepsTile a s t :=
  ⟨hp, hm, hn, by simp [State.array, ha], congrArg (bits · _ _) (State.rd_congr hp hr _ _ _)⟩

section
variable (ha : a < 2240)
include ha

theorem ofCalm (h : State.Calm s t) : KeepsTile a s t :=
  ⟨h.part, h.mem, h.poison, by simp [State.array, h.arr], congrArg (bits · _ _) (h.rd _ a 0 rfl (by omega) (by decide))⟩

/-- A write of another register. -/
theorem wr (s : State) {k : RegKind} {i j : Nat} (v : Word) (h : k ≠ .ARR_STATUS) (hi : i < 65536) (hj : j < 65536) :
    KeepsTile a s (s.wr k i j v) :=
  ⟨by simp, by simp, by simp, by simp, State.fld_wr_kind s v h.symm hi hj (by omega) (by decide)⟩

theorem setFld (s : State) {f : Fld} {i : Nat} (v : Nat) (h : f.kind ≠ .ARR_STATUS) (hi : i < 65536) :
    KeepsTile a s (s.setFld f i 0 v) :=
  wr ha s _ h hi (by decide)

/-- A write of another field of `ARR_STATUS`. -/
theorem setFld_status (s : State) {f : Fld} (v : Nat) (hj : 0 < f.kind.shape.n2) (h : f.separate ARR_STATUS.cur_tile = true) :
    KeepsTile a s (s.setFld f a 0 v) :=
  ⟨by simp, by simp, by simp, by simp, s.fld_setFld_separate v ha hj h⟩

theorem bump (s : State) {f : Fld} {i : Nat} (n : Nat) (h : f.kind ≠ .ARR_STATUS) (hi : i < 65536) : KeepsTile a s (s.bump f i 0 n) :=
  ite (refl a s) (setFld ha s _ h hi)

/-- The sequencer's state follows what it holds and executes. -/
theorem syncSeq (s : State) : KeepsTile a s (s.syncSeq a) := by
  have queue : KeepsTile a s (s.syncQueue a) := wr ha s _ (by decide) (by omega) (by decide)
  have halt : ∀ u : State, KeepsTile a u
      ((u.setFld ARR_SEQ_CTRL.run a 0 0).mapArray a fun x => { x with halting := false, halted := true }) := fun u =>
    (setFld ha u 0 (by decide) (by omega)).trans (mapArray _ fun _ => rfl)
  have shown : ∀ (u : State) (v : Nat),
      KeepsTile a u (if u.fld ARR_STATUS.seq_state a = seqError then u else u.setFld ARR_STATUS.seq_state a 0 v) := fun u v =>
    ite (refl a u) (setFld_status ha u v (by decide) (by decide))
  unfold State.syncSeq
  dsimp only
  split
  · exact (queue.trans (halt _)).trans (shown _ _)
  · exact queue.trans (shown _ _)

theorem seqFail (s : State) (status id off : Nat) : KeepsTile a s (s.seqFail a status id off) := by
  refine KeepsTile.trans ?_ (ofCalm ha (s.calm_seqFail a status id off))
  refine KeepsTile.trans ?_ (mapArray _ fun _ => rfl)
  refine KeepsTile.trans ?_ (setFld ha _ _ (by decide) (by omega))
  refine KeepsTile.trans ?_ (setFld ha _ _ (by decide) (by omega))
  exact (setFld_status ha s _ (by decide) (by decide)).trans (setFld_status ha _ _ (by decide) (by decide))

theorem endFenceHold (s : State) (b : Bool) (h : Hold) (e : FenceEnd) : KeepsTile a s (s.endFenceHold a b h e) := by
  have freed : KeepsTile a s (s.mapArray a fun x => x.setHold b none) := mapArray s fun x => by cases b <;> rfl
  refine KeepsTile.trans ?_ (syncSeq ha _)
  refine freed.trans ?_
  cases e with
  | done =>
    cases h.kind with
    | signal => exact ofOther rfl rfl rfl rfl rfl
    | own | wait | fence => exact refl a _
  | failed | timeout => exact seqFail ha _ _ _ _

/-- What issuing a fence does to the package: nothing, or it takes the failures it reports and is counted or entered (R331, R332). -/
theorem fenceIssue (s : State) (requester : Nat) (b : Bool) : KeepsTile a s (s.fenceIssue requester b).2 := by
  have taken : KeepsTile a s (s.takeUnreported requester b).2 := ofOther rfl rfl rfl rfl rfl
  unfold State.fenceIssue
  split
  · exact refl a s
  · dsimp only
    split
    · have counted : KeepsTile a _ ((s.takeUnreported requester b).2.bump FAB_PERF_FENCES.count 0 0 1) :=
        bump ha _ _ (by decide) (by decide)
      exact taken.trans counted
    · exact taken.trans (ofOther rfl rfl rfl rfl rfl)

/-- A hold of FENCE or SIGNAL that looks again ends, is held on, or has its fence entered (R80, R331). -/
theorem pollHold (s : State) (b : Bool) : KeepsTile a s (s.pollHold a b) := by
  unfold State.pollHold
  split
  · exact refl a s
  split
  · exact refl a s
  rename_i h _
  split
  -- an OWN and a WAIT do not end so, and a fence in progress ends elsewhere
  iterate 3 exact refl a s
  · split
    · have fence := fenceIssue ha s a b
      split <;> rename_i e <;> rw [e] at fence
      · exact fence
      · exact fence.trans (endFenceHold ha _ b h _)
      · exact fence.trans (mapArray _ fun x => by cases b <;> rfl)
    · exact refl a s

theorem pollHolds (s : State) : KeepsTile a s (s.pollHolds a) :=
  ((pollHold ha s false).trans (pollHold ha _ true)).trans (syncSeq ha _)

theorem sat (s : State) {f : Fld} {i : Nat} (n : Nat) (h : f.kind ≠ .ARR_STATUS) (hi : i < 65536) : KeepsTile a s (s.sat f i 0 n) :=
  ite (refl a s) (setFld ha s _ h hi)

/-- The turn and its counts follow an issue (R165, R171). -/
theorem takeTurn (s : State) (b ofB : Bool) : KeepsTile a s (s.takeTurn a b ofB) := by
  have counted : KeepsTile a s (s.bump (if ofB then FBI_PERF_BWD.count else FBI_PERF_FWD.count) a 0 1) :=
    bump ha s _ (by cases ofB <;> decide) (by omega)
  have turned : ∀ (u : State) (v n : Nat), KeepsTile a u ((u.setFld FBI_STATUS.turn a 0 v).setFld FBI_STATUS.count a 0 n) := fun u v n =>
    (setFld ha u v (by decide) (by omega)).trans (setFld ha _ n (by decide) (by omega))
  exact counted.trans (ite (refl a _) (ite (turned _ _ _) (turned _ _ _)))

/-- A VEC on the accumulator banks waits for the writes of a region (R101). -/
theorem accContention (s : State) : KeepsTile a s (s.accContention a) := by
  have taken : KeepsTile a s s.fresh.2 := ofOther rfl rfl rfl rfl rfl
  exact ite (taken.trans (bump ha _ _ (by decide) (by omega))) (refl a s)

/-- An issue moves its window's tail and frees its slot (R79). -/
theorem issue (s : State) (b : Bool) : KeepsTile a s (s.issue a b) := by
  have hw := s.streamWindow_lt a b
  have moved : KeepsTile a s (s.winMove a (s.streamWindow a b) true 32) := wr ha s _ (by decide) (by omega) (by omega)
  exact moved.trans (mapArray (f := fun x => x.setFetched b none) _ fun x => by cases b <;> rfl)

/-- A command's events stand below the tile's identity in `ARR_STATUS` (R71). -/
theorem orEvents (s : State) (x : Exc) : KeepsTile a s (s.wr .ARR_STATUS a 0 (s.rd .ARR_STATUS a ||| x.setWidth 64)) := by
  refine ⟨by simp, by simp, by simp, by simp, ?_⟩
  have low : (x.toNat % 2 ^ 64) >>> 20 = 0 := by rw [Nat.shiftRight_eq_div_pow]; omega
  rw [State.fld, State.fld, ARR_STATUS.cur_tile, State.rd_wr_same _ _ _ _ _ (by simp [RegKind.inRange, RegKind.shape, ha]) rfl]
  simp only [bits, BitVec.toNat_or, ← Nat.shiftRight_eq_div_pow, Nat.shiftRight_or_distrib, BitVec.toNat_setWidth]
  rw [low, Nat.or_zero]

/-- A command's events are counted (R71 to R73, R447). -/
theorem record (s : State) (r : Record) : KeepsTile a s (s.record a r) := by
  have counted : ∀ u : State, KeepsTile a u ((((u.sat ARR_EXC_CNT.invalid a 0 r.invalid).sat ARR_EXC_CNT.overflow a 0 r.overflow).sat
      ARR_EXC_CNT.underflow a 0 r.underflow).sat ARR_EXC_CNT.empty_rows a 0 r.emptyRows) := fun u =>
    (sat ha u _ (by decide) (by omega)).trans <| (sat ha _ _ (by decide) (by omega)).trans <|
      (sat ha _ _ (by decide) (by omega)).trans (sat ha _ _ (by decide) (by omega))
  exact ((orEvents ha s r.bits).trans (counted _)).trans (ofOther rfl rfl rfl rfl rfl)

end

end State.KeepsTile

/-! ### Numbers in bytes (R10) -/

theorem leNat_leBytes (n v : Nat) : leNat (leBytes n v) = v % 256 ^ n := by
  induction n generalizing v with
  | zero => simp [leBytes, leNat, Nat.mod_one]
  | succ n ih => rw [leBytes, leNat, ih, pow_succ', Nat.mod_mul, BitVec.toNat_ofNat]

theorem leNat_lt (l : List Byte) : leNat l < 256 ^ l.length := by
  induction l with
  | nil => simp [leNat]
  | cons b l ih =>
    have hb := b.isLt
    rw [leNat, List.length_cons, pow_succ]
    omega

theorem length_leBytes (n v : Nat) : (leBytes n v).length = n := by
  induction n generalizing v with
  | zero => rfl
  | succ n ih => simp [leBytes, ih]

theorem num_lt (bs : List Byte) (off n : Nat) : num bs off n < 256 ^ n :=
  (leNat_lt _).trans_le (Nat.pow_le_pow_right (by decide) (by simp))

/-! ### Words of memory written one after the other (R85, R87) -/

/-- The 32-bit word at a memory key. -/
def State.word (s : State) (k : Nat) : BitVec 32 := BitVec.ofNat 32 (leNat (s.bytes k 4))

theorem State.word_congr {s t : State} {k : Nat} (h : ∀ j, k ≤ j → j < k + 4 → t.byte j = s.byte j) : t.word k = s.word k := by
  have same : t.bytes k 4 = s.bytes k 4 := List.map_congr_left fun i hi => h _ (by omega) (by have := List.mem_range.mp hi; omega)
  rw [State.word, same, State.word]

theorem State.byte_of_mem {s t : State} (h : t.mem = s.mem) (k : Nat) : t.byte k = s.byte k := by rw [State.byte, h, State.byte]

theorem State.accWord_of_mem {s t : State} (h : t.mem = s.mem) (a off : Nat) : t.accWord a off = s.accWord a off :=
  State.word_congr fun j _ _ => State.byte_of_mem h j

@[simp] theorem State.accWord_settle (s t : State) (a off : Nat) : (s.settle t).accWord a off = t.accWord a off :=
  State.word_congr fun j _ _ => State.byte_settle s t j

theorem State.word_setBytes (s : State) (k : Nat) (v : BitVec 32) : (s.setBytes k (leBytes 4 v.toNat)).word k = v := by
  have written : (s.setBytes k (leBytes 4 v.toNat)).bytes k 4 = leBytes 4 v.toNat := by
    refine List.ext_getElem (by simp [State.bytes, length_leBytes]) fun i hi _ => ?_
    have hi : i < 4 := by simpa [State.bytes] using hi
    simp [State.bytes, State.byte_setBytes, length_leBytes, hi]
  rw [State.word, written, leNat_leBytes, Nat.mod_eq_of_lt (show v.toNat < 256 ^ 4 from v.isLt), BitVec.ofNat_toNat, BitVec.setWidth_eq]

/-- Between two states memory has changed in these words alone, and they hold these values. -/
structure State.Writes (cells : List (Nat × BitVec 32)) (s t : State) : Prop where
  word : ∀ c ∈ cells, t.word c.1 = c.2
  byte : ∀ k, (∀ c ∈ cells, k < c.1 ∨ c.1 + 4 ≤ k) → t.byte k = s.byte k

namespace State.Writes

variable {l m : List (Nat × BitVec 32)} {s t u : State}

theorem nil (s : State) : Writes [] s s := ⟨by simp, fun _ _ => rfl⟩

theorem setBytes (s : State) (k : Nat) (v : BitVec 32) : Writes [(k, v)] s (s.setBytes k (leBytes 4 v.toNat)) := by
  refine ⟨by simp [s.word_setBytes], fun j hj => ?_⟩
  have outside := hj _ (List.mem_singleton_self _)
  rw [State.byte_setBytes, length_leBytes, if_neg (by omega)]

theorem ofMem (h : Writes l s t) (hm : u.mem = t.mem) : Writes l s u := by
  have same := State.byte_of_mem hm
  exact ⟨fun c hc => (State.word_congr fun j _ _ => same j).trans (h.word c hc), fun k hk => (same k).trans (h.byte k hk)⟩

/-- Words written later leave those written before, where they lie apart. -/
theorem append (h : Writes l s t) (g : Writes m t u) (apart : ∀ c ∈ l, ∀ d ∈ m, c.1 + 4 ≤ d.1 ∨ d.1 + 4 ≤ c.1) :
    Writes (l ++ m) s u := by
  refine ⟨fun c hc => ?_, fun k hk => ?_⟩
  · rcases List.mem_append.mp hc with hc | hc
    · refine (State.word_congr fun j lo hi => g.byte j fun d hd => ?_).trans (h.word c hc)
      have := apart c hc d hd
      omega
    · exact g.word c hc
  · rw [g.byte k fun c hc => hk c (List.mem_append_right _ hc), h.byte k fun c hc => hk c (List.mem_append_left _ hc)]

/-- Steps that each write words of their own, apart from those of the steps before. -/
theorem foldl_range {f : State → Nat → State} {cells : Nat → List (Nat × BitVec 32)} {n : Nat}
    (step : ∀ s i, i < n → Writes (cells i) s (f s i))
    (apart : ∀ i j, i < j → j < n → ∀ c ∈ cells i, ∀ d ∈ cells j, c.1 + 4 ≤ d.1 ∨ d.1 + 4 ≤ c.1) (s : State) :
    Writes ((List.range n).flatMap cells) s ((List.range n).foldl f s) := by
  induction n with
  | zero => exact nil s
  | succ n ih =>
    rw [List.range_succ, List.flatMap_append, List.foldl_append, List.flatMap_singleton]
    refine (ih (fun s i hi => step s i (by omega)) fun i j hij hj => apart i j hij (by omega)).append (step _ n (by omega)) ?_
    intro c hc d hd
    obtain ⟨i, hi, hc⟩ := List.mem_flatMap.mp hc
    exact apart i n (List.mem_range.mp hi) (by omega) c hc d hd

end State.Writes

/-! ### A row of a region (R85, R87) -/

/-- The memory key of a region's word. -/
def cellKey (a accLine i j : Nat) : Nat := sramKey a (accBase + regionWord accLine i j)

theorem cellKey_apart (a accLine : Nat) {i j i' j' : Nat} (hj : j < 32) (hj' : j' < 32) (h : i < i' ∨ i = i' ∧ j < j') :
    cellKey a accLine i j + 4 ≤ cellKey a accLine i' j' := by
  simp only [cellKey, sramKey, regionWord]
  omega

/-- The words of the first `n` columns of a row. -/
def rowCells (a accLine : Nat) (v : Nat → Nat → BitVec 32) (n i : Nat) : List (Nat × BitVec 32) :=
  (List.range n).flatMap fun j => [(cellKey a accLine i j, v i j)]

theorem mem_rowCells {a accLine : Nat} {v : Nat → Nat → BitVec 32} {n i : Nat} {c : Nat × BitVec 32} :
    c ∈ rowCells a accLine v n i ↔ ∃ j, j < n ∧ c = (cellKey a accLine i j, v i j) := by
  simp [rowCells]

theorem State.writes_writeRow (s : State) (a accLine : Nat) (v : Nat → Nat → BitVec 32) {n : Nat} (i : Nat) (hn : n ≤ 32) :
    State.Writes (rowCells a accLine v n i) s (s.writeRow a accLine i ((List.range n).map fun j => (j, v i j))) := by
  refine State.Writes.ofMem (t := (List.range n).foldl (fun s j => s.setBytes (cellKey a accLine i j) (leBytes 4 (v i j).toNat)) s) ?_ ?_
  · refine State.Writes.foldl_range (fun s j _ => State.Writes.setBytes s _ _) (fun j j' lt hj' c hc d hd => ?_) s
    obtain rfl := List.mem_singleton.mp hc
    obtain rfl := List.mem_singleton.mp hd
    exact .inl (cellKey_apart a accLine (by omega) (by omega) (.inr ⟨rfl, lt⟩))
  · simp [State.writeRow, List.foldl_map, cellKey]

/-- The first `n` columns of the first `m` rows of a region, written row by row. -/
def State.writeRows (s : State) (a accLine : Nat) (v : Nat → Nat → BitVec 32) (n m : Nat) : State :=
  (List.range m).foldl (fun s i => s.writeRow a accLine i ((List.range n).map fun j => (j, v i j))) s

theorem State.writes_writeRows (s : State) (a accLine : Nat) (v : Nat → Nat → BitVec 32) {n : Nat} (m : Nat) (hn : n ≤ 32) :
    State.Writes ((List.range m).flatMap (rowCells a accLine v n)) s (s.writeRows a accLine v n m) := by
  refine State.Writes.foldl_range (fun s i _ => s.writes_writeRow a accLine v i hn) (fun i i' lt _ c hc d hd => ?_) s
  obtain ⟨j, hj, rfl⟩ := mem_rowCells.mp hc
  obtain ⟨j', hj', rfl⟩ := mem_rowCells.mp hd
  exact .inl (cellKey_apart a accLine (by omega) (by omega) (.inl lt))

/-- Every word of the region holds its value. -/
theorem State.accWord_writeRows (s : State) (a accLine : Nat) (v : Nat → Nat → BitVec 32) {n m i j : Nat} (hn : n ≤ 32) (hi : i < m)
    (hj : j < n) : (s.writeRows a accLine v n m).accWord a (regionWord accLine i j) = v i j :=
  (s.writes_writeRows a accLine v m hn).word (cellKey a accLine i j, v i j)
    (List.mem_flatMap.mpr ⟨i, List.mem_range.mpr hi, mem_rowCells.mpr ⟨j, hj, rfl⟩⟩)

/-- No other byte changes. -/
theorem State.byte_writeRows (s : State) (a accLine : Nat) (v : Nat → Nat → BitVec 32) {n m k : Nat} (hn : n ≤ 32)
    (h : ∀ i j, i < m → j < n → k < cellKey a accLine i j ∨ cellKey a accLine i j + 4 ≤ k) :
    (s.writeRows a accLine v n m).byte k = s.byte k := by
  refine (s.writes_writeRows a accLine v m hn).byte k fun c hc => ?_
  obtain ⟨i, hi, hc⟩ := List.mem_flatMap.mp hc
  obtain ⟨j, hj, rfl⟩ := mem_rowCells.mp hc
  exact h i j (List.mem_range.mp hi) hj

/-! ### What writes of a region leave alone: the registers and the arrays' hidden state -/

@[simp] theorem State.setBytes_part (s : State) (k : Nat) (bs : List Byte) : (s.setBytes k bs).part = s.part := by
  induction bs generalizing s k with
  | nil => rfl
  | cons b bs ih => simp [State.setBytes, ih]

@[simp] theorem State.setBytes_arr (s : State) (k : Nat) (bs : List Byte) : (s.setBytes k bs).arr = s.arr := by
  induction bs generalizing s k with
  | nil => rfl
  | cons b bs ih => simp [State.setBytes, ih]

@[simp] theorem State.settleWords_part (s : State) (on : Nat → Bool) : (s.settleWords on).part = s.part :=
  foldl_keeps State.part _ (fun s u => by split <;> rfl) _ _

@[simp] theorem State.settleWords_arr (s : State) (on : Nat → Bool) : (s.settleWords on).arr = s.arr :=
  foldl_keeps State.arr _ (fun s u => by split <;> rfl) _ _

section
variable (s : State) (a accLine : Nat)

@[simp] theorem State.writeRow_part (i : Nat) (ws : List (Nat × BitVec 32)) : (s.writeRow a accLine i ws).part = s.part :=
  (State.settleWords_part _ _).trans (foldl_keeps State.part _ (fun _ _ => State.setBytes_part _ _ _) _ _)

@[simp] theorem State.writeRow_regs (i : Nat) (ws : List (Nat × BitVec 32)) : (s.writeRow a accLine i ws).regs = s.regs :=
  (State.settleWords_regs _ _).trans (foldl_keeps State.regs _ (fun _ _ => State.setBytes_regs _ _ _) _ _)

@[simp] theorem State.writeRow_arr (i : Nat) (ws : List (Nat × BitVec 32)) : (s.writeRow a accLine i ws).arr = s.arr :=
  (State.settleWords_arr _ _).trans (foldl_keeps State.arr _ (fun _ _ => State.setBytes_arr _ _ _) _ _)

variable (v : Nat → Nat → BitVec 32) (n m : Nat)

@[simp] theorem State.writeRows_part : (s.writeRows a accLine v n m).part = s.part :=
  foldl_keeps State.part _ (fun _ _ => State.writeRow_part _ _ _ _ _) _ _

@[simp] theorem State.writeRows_regs : (s.writeRows a accLine v n m).regs = s.regs :=
  foldl_keeps State.regs _ (fun _ _ => State.writeRow_regs _ _ _ _ _) _ _

@[simp] theorem State.writeRows_arr : (s.writeRows a accLine v n m).arr = s.arr :=
  foldl_keeps State.arr _ (fun _ _ => State.writeRow_arr _ _ _ _ _) _ _

@[simp] theorem State.fld_writeRows (f : Fld) (i j : Nat) : (s.writeRows a accLine v n m).fld f i j = s.fld f i j :=
  congrArg (bits · f.hi f.lo) (State.rd_congr (by simp) (by simp) _ _ _)

@[simp] theorem State.array_writeRows (a' : Nat) : (s.writeRows a accLine v n m).array a' = s.array a' := by simp [State.array]

end

@[simp] theorem State.array_sramMeet (s : State) (a : Nat) (spans : List (Nat × Nat)) (a' : Nat) :
    (s.sramMeet a spans).array a' = s.array a' :=
  foldl_keeps (State.array · a') _ (fun s u => by unfold State.meetWord; split <;> rfl) _ _

end Sys2Proof.Machine
end

section
/-! SUPPORT. The results of tiles: write-back, trailers and REDUCE (R78, R85 to R87, R95, R97). -/

namespace Sys2Proof.Machine

/-! ### Write-back and trailers (R85, R86, R147) -/

section
variable {s : State} {a : Nat} {j : Job} {js : List Job} (jobs : (s.array a).jobs = j :: js)
include jobs

/-- The oldest dense tile writes its region back and ends with its trailer, unless a full tile queue holds it back. -/
theorem State.tileWriteback_dense (kind : j.kind = .dense)
    (room : j.toVec = true → s.flag FBI_CFG.enable a = true ∨ (s.array a).tq.length < 8) {W : Nat} {u : State}
    {w : State × Record × Bool} (hW : (W, u) = (s.accContention a).writebackCycles j.rows)
    (hw : w = u.writeRegion a j.accLine j.rows j.accumulates j.sums) :
    s.tileWriteback a = (if j.toVec then w.1.appendTq a j (j.record.join w.2.1).bits else w.1).finishJob a j w.2.1
      (if w.2.2 then 6 else 0) (j.cycles + W) := by
  have free : ¬ (j.toVec = true ∧ (!s.flag FBI_CFG.enable a) = true ∧ (s.array a).tq.length ≥ 8) := by
    rintro ⟨vec, off, full⟩
    rcases room vec with on | short
    · simp [on] at off
    · omega
  subst hw
  simp only [State.tileWriteback, jobs, kind, if_neg free, ← hW]

/-- A tile stopped by a poisoned operand ends without a write-back. -/
theorem State.tileWriteback_stopped (kind : j.kind = .stopped) (dense : j.sparse = false) :
    s.tileWriteback a = s.finishJob a j (cellsRecord j.sums) j.status j.cycles := by
  simp [State.tileWriteback, jobs, kind, dense]

end

section
variable {s : State} {a : Nat} {x : Trailer} {xs : List Trailer} (trailers : (s.array a).trailers = x :: xs)
include trailers

theorem State.trailerWrite_entered {w off : Nat} (hw : w = s.fld ARR_SEQ_CFG.trailer_window a) (on : s.winOn a w = true)
    (room : 16 ≤ s.winFree a w) (hoff : off = s.winOffset a w (s.fld ARR_WIN_HEAD.pos a w) 0) (serves : s.stalls a [(off, 16)] = false) :
    s.trailerWrite a =
      (((s.sramWrite a off x.final).winMove a w false 16).mapArray a fun y => { y with trailers := xs }).pollHolds a := by
  subst hw hoff
  simp [State.trailerWrite, trailers, on, serves, Nat.not_lt.mpr room]

theorem State.trailerWrite_dropped (off : s.winOn a (s.fld ARR_SEQ_CFG.trailer_window a) = false) :
    s.trailerWrite a =
      ((s.mapArray a fun y => { y with trailers := xs }).seqFail a 4 (num x.bytes 0 4) x.offset).pollHolds a := by
  simp [State.trailerWrite, trailers, off]

end

/-- A trailer's bytes are all that its writing changes of memory (R86, R95). -/
theorem State.byte_trailer_entered (s : State) {a : Nat} (ha : a < 2240) (w off : Nat) (x : Trailer) (xs : List Trailer) {k : Nat}
    (hk : k < sramKey a off ∨ sramKey a off + x.final.length ≤ k) :
    ((((s.sramWrite a off x.final).winMove a w false 16).mapArray a fun y => { y with trailers := xs }).pollHolds a).byte k = s.byte k := by
  rw [State.byte, (State.KeepsTile.pollHolds ha _).mem, State.mapArray_mem, State.winMove_mem]
  exact (s.byte_writeWords _ _ k).trans (if_neg (by omega))

/-! ### REDUCE (R87) -/

/-- The package as a REDUCE finds it once it has issued: the slots' and the region's errors met, the tail moved on, the turn taken. -/
def State.reduceStart (s : State) (a : Nat) (b : Bool) (c : ReduceCmd) : State :=
  (((s.issue a b).setFld ARR_STATUS.cur_tile a 0 c.tileId).takeTurn a b b).accContention a

/-- One row of a REDUCE, its words formed from the package `s0` at the start. -/
def State.reduceRow (s0 : State) (a : Nat) (c : ReduceCmd) (acc : State × Record × Bool) (i : Nat) : State × Record × Bool :=
  let (s, r, bad) := acc
  let res := (List.range c.nCols).map fun j => (j, s0.reduceWord a c i j)
  let s := s.writeRow a c.accLine i (res.filterMap fun x => x.2.1.map fun v => (x.1, v))
  let s := (res.filter fun x => x.2.1.isNone).foldl (fun s x => s.setPoison (accUnit a (regionWord c.accLine i x.1))) s
  (s, res.foldl (fun r x => r.element x.2.2) r, bad || res.any fun x => x.2.1.isNone)

/-- The end of a REDUCE whose words are written: its events, its trailer, and ERROR where it met a poisoned word. -/
def State.reduceEnd (a : Nat) (b : Bool) (f : Fetched) (c : ReduceCmd) (p : State × Record × Bool) : State :=
  let u := (((p.1.record a p.2.1).noteTrailerExc p.2.1.bits).bump ARR_PERF_TILES.count a 0 1).fresh
  let t := u.2.pushTrailer a f.offset false
    (trailerBytes c.tileId (if p.2.2 then 6 else 0) p.2.1.bits (2 * b2n b) (c.slots * c.mRows * 2 + u.1.toNat % 65536) 0)
  (if p.2.2 then t.seqFail a 6 c.tileId f.offset else t).pollHolds a

/-- A REDUCE carried out, the errors of its words met. -/
def State.reduceRun (s : State) (a : Nat) (b : Bool) (f : Fetched) (c : ReduceCmd) : State :=
  State.reduceEnd a b f c ((List.range c.mRows).foldl ((s.reduceStart a b c).reduceRow a c) (s.reduceStart a b c, {}, false))

/-- A REDUCE that passes its checks, with its turn and the region free, is carried out at its issue. -/
theorem State.reduceIssue_carried {s u : State} {a : Nat} {b : Bool} {f : Fetched} {c : ReduceCmd} (head : s.head a b 3 = some f)
    (hc : c = ReduceCmd.parse f.bytes) (pass : firstFailure (s.reduceChecks a c) = none) (serves : s.holdsBack a ownSeq c.spans = false)
    (turn : s.turnAllows a b = true) (free : s.matrixFree a c.accLine c.mRows true false b = true)
    (hu : u = s.sramMeet a ((c.spans.flatMap fun sp => (List.range c.mRows).map fun i => (sp.1 + i * 128, 4 * c.nCols)) ++
      regionSpans c.accLine c.mRows c.nCols)) :
    s.reduceIssue a b = u.reduceRun a b f c := by
  subst hc hu
  simp only [State.reduceIssue, head, pass, serves, turn, free, Bool.not_true, Bool.false_eq_true, or_self, if_false]
  rfl

theorem State.reduceStart_keeps (s : State) {a : Nat} (ha : a < 2240) (b : Bool) (c : ReduceCmd) :
    State.KeepsTile a ((s.issue a b).setFld ARR_STATUS.cur_tile a 0 c.tileId) (s.reduceStart a b c) :=
  (State.KeepsTile.takeTurn ha _ b b).trans (State.KeepsTile.accContention ha _)

theorem State.reduceStart_curTile (s : State) {a : Nat} (ha : a < 2240) (b : Bool) {c : ReduceCmd} (fits : c.tileId < 2 ^ 32) :
    (s.reduceStart a b c).fld ARR_STATUS.cur_tile a = c.tileId :=
  (s.reduceStart_keeps ha b c).curTile.trans (State.fld_setFld_fits _ _ ha (by decide) (by decide) fits)

section
variable (s : State) {a : Nat} (ha : a < 2240) (b : Bool) (c : ReduceCmd)
include ha

theorem State.reduceStart_part : (s.reduceStart a b c).part = s.part := by
  rw [(s.reduceStart_keeps ha b c).part, State.setFld_part, (State.KeepsTile.issue ha s b).part]

theorem State.reduceStart_mem : (s.reduceStart a b c).mem = s.mem := by
  rw [(s.reduceStart_keeps ha b c).mem, State.setFld_mem, (State.KeepsTile.issue ha s b).mem]

theorem State.reduceStart_poison : (s.reduceStart a b c).poison = s.poison := by
  rw [(s.reduceStart_keeps ha b c).poison, State.setFld_poison, (State.KeepsTile.issue ha s b).poison]

theorem State.reduceStart_trailers : ((s.reduceStart a b c).array a).trailers = (s.array a).trailers := by
  rw [(s.reduceStart_keeps ha b c).trailers, State.array_setFld, (State.KeepsTile.issue ha s b).trailers]

end

/-- A word's sum depends on memory and its poison alone. -/
theorem State.reduceWord_congr {s t : State} (hm : t.mem = s.mem) (hp : t.poison = s.poison) (a : Nat) (c : ReduceCmd) (i j : Nat) :
    t.reduceWord a c i j = s.reduceWord a c i j := by
  have poisoned : ∀ k, t.isPoisoned k = s.isPoisoned k := fun k => by simp [State.isPoisoned, hp]
  have read : ∀ off n, t.sram a off n = s.sram a off n := fun off n => by simp [State.sram, State.bytes, State.byte, hm]
  have clean : ∀ off n, t.sramPoison a off n = s.sramPoison a off n := fun off n => by
    simp only [State.sramPoison, funext poisoned]
  simp only [State.reduceWord, State.accWord, poisoned, read, clean]

/-- A word's sum, where no poisoned word stands in its way. -/
def State.reduceValue (s : State) (a : Nat) (c : ReduceCmd) (i j : Nat) : BitVec 32 := (s.reduceWord a c i j).1.getD 0

theorem State.reduceWord_eq_some {s : State} {a : Nat} {c : ReduceCmd} {i j : Nat} (h : (s.reduceWord a c i j).1.isSome = true) :
    (s.reduceWord a c i j).1 = some (s.reduceValue a c i j) := by
  obtain ⟨v, hv⟩ := Option.isSome_iff_exists.mp h
  rw [State.reduceValue, hv, Option.getD_some]

section
variable {s0 : State} {a : Nat} {c : ReduceCmd}

/-- A row with no poisoned word writes every word of it. -/
theorem State.reduceRow_clean {i : Nat} (clean : ∀ j, j < c.nCols → (s0.reduceWord a c i j).1.isSome = true) (s : State) (r : Record) :
    ∃ r', s0.reduceRow a c (s, r, false) i =
      (s.writeRow a c.accLine i ((List.range c.nCols).map fun j => (j, s0.reduceValue a c i j)), r', false) := by
  have formed : ∀ x ∈ (List.range c.nCols).map fun j => (j, s0.reduceWord a c i j),
      x.2.1 = some (s0.reduceValue a c i x.1) := by
    intro x hx
    obtain ⟨j, hj, rfl⟩ := List.mem_map.mp hx
    exact State.reduceWord_eq_some (clean j (List.mem_range.mp hj))
  have words : ((List.range c.nCols).map fun j => (j, s0.reduceWord a c i j)).filterMap (fun x => x.2.1.map fun v => (x.1, v)) =
      (List.range c.nCols).map fun j => (j, s0.reduceValue a c i j) := by
    rw [List.filterMap_map, ← List.filterMap_eq_map]
    refine List.filterMap_congr fun j hj => ?_
    simp [State.reduceWord_eq_some (clean j (List.mem_range.mp hj))]
  have none : ((List.range c.nCols).map fun j => (j, s0.reduceWord a c i j)).filter (fun x => x.2.1.isNone) = [] :=
    List.filter_eq_nil_iff.mpr fun x hx => by simp [formed x hx]
  have any : ((List.range c.nCols).map fun j => (j, s0.reduceWord a c i j)).any (fun x => x.2.1.isNone) = false :=
    List.any_eq_false.mpr fun x hx => by simp [formed x hx]
  exact ⟨((List.range c.nCols).map fun j => (j, s0.reduceWord a c i j)).foldl (fun r x => r.element x.2.2) r,
    by simp only [State.reduceRow, words, none, any, List.foldl_nil, Bool.or_false]⟩

theorem State.reduceRows_clean {m : Nat} (clean : ∀ i j, i < m → j < c.nCols → (s0.reduceWord a c i j).1.isSome = true) (s : State) :
    ∃ r, (List.range m).foldl (s0.reduceRow a c) (s, {}, false) =
      (s.writeRows a c.accLine (s0.reduceValue a c) c.nCols m, r, false) := by
  induction m with
  | zero => exact ⟨{}, rfl⟩
  | succ m ih =>
    obtain ⟨r, rows⟩ := ih fun i j hi => clean i j (by omega)
    rw [State.writeRows, List.range_succ, List.foldl_append, List.foldl_append, rows]
    exact State.reduceRow_clean (fun j hj => clean m j (by omega) hj) _ r

end

/-- A region that passes the checks of R87 has at most 32 columns. -/
theorem State.nCols_le_of_reduceChecks {s : State} {a : Nat} {c : ReduceCmd} (pass : firstFailure (s.reduceChecks a c) = none) :
    c.nCols ≤ 32 := by
  have shape := firstFailure_eq_none.mp pass _ (List.mem_cons_self ..)
  simp only [Bool.or_eq_false_iff, decide_eq_false_iff_not, not_lt] at shape
  obtain ⟨⟨-, cols⟩, -⟩ := shape
  omega

/-- A REDUCE's events are recorded and counted, and its cycles take a free value. -/
theorem State.KeepsTile.reduceCounted {a : Nat} (ha : a < 2240) (s : State) (r : Record) :
    State.KeepsTile a s (((s.record a r).noteTrailerExc r.bits).bump ARR_PERF_TILES.count a 0 1).fresh.2 := by
  have recorded : State.KeepsTile a s ((s.record a r).noteTrailerExc r.bits) :=
    (State.KeepsTile.record ha s r).trans (State.KeepsTile.ofOther rfl rfl rfl rfl rfl)
  generalize (s.record a r).noteTrailerExc r.bits = u at recorded ⊢
  have counted : State.KeepsTile a u (u.bump ARR_PERF_TILES.count a 0 1) := State.KeepsTile.bump ha u 1 (by decide) (by omega)
  exact (recorded.trans counted).trans (State.KeepsTile.ofOther rfl rfl rfl rfl rfl)

/-! ### The end of a clean REDUCE: its trailer, with the memory and the tile named as they are -/

section
variable {a : Nat} (ha : a < 2240) (b : Bool) (f : Fetched) (c : ReduceCmd) (s : State) (r : Record)
include ha

/-- Between a clean REDUCE's last word and its end stands the trailer alone. -/
theorem State.reduceEnd_keeps : ∃ u t, State.KeepsTile a s u ∧
    State.KeepsTile a (u.pushTrailer a f.offset false t) (State.reduceEnd a b f c (s, r, false)) :=
  ⟨_, _, State.KeepsTile.reduceCounted ha s r, State.KeepsTile.pollHolds ha _⟩

theorem State.reduceEnd_part : (State.reduceEnd a b f c (s, r, false)).part = s.part := by
  obtain ⟨u, t, counted, polled⟩ := State.reduceEnd_keeps ha b f c s r
  exact polled.part.trans counted.part

theorem State.reduceEnd_mem : (State.reduceEnd a b f c (s, r, false)).mem = s.mem := by
  obtain ⟨u, t, counted, polled⟩ := State.reduceEnd_keeps ha b f c s r
  exact polled.mem.trans counted.mem

theorem State.reduceEnd_curTile : (State.reduceEnd a b f c (s, r, false)).fld ARR_STATUS.cur_tile a = s.fld ARR_STATUS.cur_tile a := by
  obtain ⟨u, t, counted, polled⟩ := State.reduceEnd_keeps ha b f c s r
  exact polled.curTile.trans counted.curTile

theorem State.reduceEnd_trailers :
    ((State.reduceEnd a b f c (s, r, false)).array a).trailers.length = (s.array a).trailers.length + 1 := by
  obtain ⟨u, t, counted, polled⟩ := State.reduceEnd_keeps ha b f c s r
  rw [← counted.trailers, polled.trailers]
  simp [State.pushTrailer]

end

section
variable {s : State} {a : Nat} (ha : a < 2240) (b : Bool) (f : Fetched) {c : ReduceCmd}
  (clean : ∀ i j, i < c.mRows → j < c.nCols → (s.reduceWord a c i j).1.isSome = true)
include ha clean

/-- A clean REDUCE writes each word's sum, formed from what its start left as it was. -/
theorem State.reduceRun_clean : ∃ r, s.reduceRun a b f c =
    State.reduceEnd a b f c ((s.reduceStart a b c).writeRows a c.accLine (s.reduceValue a c) c.nCols c.mRows, r, false) := by
  have same : ∀ i j, (s.reduceStart a b c).reduceWord a c i j = s.reduceWord a c i j :=
    State.reduceWord_congr (s.reduceStart_mem ha b c) (s.reduceStart_poison ha b c) a c
  have value : (s.reduceStart a b c).reduceValue a c = s.reduceValue a c := by
    funext i j
    rw [State.reduceValue, same, State.reduceValue]
  obtain ⟨r, rows⟩ := State.reduceRows_clean (fun i j hi hj => (same i j).symm ▸ clean i j hi hj) (s.reduceStart a b c)
  exact ⟨r, by rw [State.reduceRun, rows, value]⟩

theorem State.reduceRun_part : (s.reduceRun a b f c).part = s.part := by
  obtain ⟨r, run⟩ := State.reduceRun_clean ha b f clean
  rw [run, State.reduceEnd_part ha, State.writeRows_part, s.reduceStart_part ha]

theorem State.reduceRun_curTile (fits : c.tileId < 2 ^ 32) : (s.reduceRun a b f c).fld ARR_STATUS.cur_tile a = c.tileId := by
  obtain ⟨r, run⟩ := State.reduceRun_clean ha b f clean
  rw [run, State.reduceEnd_curTile ha, State.fld_writeRows, s.reduceStart_curTile ha b fits]

theorem State.reduceRun_trailers : ((s.reduceRun a b f c).array a).trailers.length = (s.array a).trailers.length + 1 := by
  obtain ⟨r, run⟩ := State.reduceRun_clean ha b f clean
  rw [run, State.reduceEnd_trailers ha, State.array_writeRows, s.reduceStart_trailers ha]

variable (cols : c.nCols ≤ 32)
include cols

/-- Each word of the region becomes its sum. -/
theorem State.reduceRun_accWord {i j : Nat} (hi : i < c.mRows) (hj : j < c.nCols) :
    some ((s.reduceRun a b f c).accWord a (regionWord c.accLine i j)) = (s.reduceWord a c i j).1 := by
  obtain ⟨r, run⟩ := State.reduceRun_clean ha b f clean
  rw [run, State.accWord_of_mem (State.reduceEnd_mem ha b f c _ r), State.accWord_writeRows _ _ _ _ cols hi hj,
    State.reduceWord_eq_some (clean i j hi hj)]

/-- No byte outside the region's words changes. -/
theorem State.reduceRun_byte {k : Nat}
    (h : ∀ i j, i < c.mRows → j < c.nCols → k < cellKey a c.accLine i j ∨ cellKey a c.accLine i j + 4 ≤ k) :
    (s.reduceRun a b f c).byte k = s.byte k := by
  obtain ⟨r, run⟩ := State.reduceRun_clean ha b f clean
  rw [run, State.byte_of_mem (State.reduceEnd_mem ha b f c _ r), State.byte_writeRows _ _ _ _ cols h,
    State.byte_of_mem (s.reduceStart_mem ha b c)]

end

end Sys2Proof.Machine
end

section
open Sys2Proof.Machine

/-- Settles O17: a job ends by its kind; the trailer's bytes are the only write of memory, whatever its end lets the waiting commands
do. -/
theorem tileResults : Obligations.TileResults := by
  refine ⟨?dense, ?stopped, ?entered, ?dropped⟩
  case dense =>
    intro a s u j js W w runs jobs kind room hW hw
    exact exec_next_of_onArray rfl runs (State.tileWriteback_dense jobs kind room hW hw)
  case stopped =>
    intro a s j js runs jobs kind dense
    exact exec_next_of_onArray rfl runs (State.tileWriteback_stopped jobs kind dense)
  case entered =>
    intro a w off s x xs runs trailers hw on room hoff serves
    have entered := exec_next_of_onArray (c := .trailerWrite a) rfl runs (State.trailerWrite_entered trailers hw on room hoff serves)
    refine ⟨entered, fun t ht k hk => ?_⟩
    rw [entered] at ht
    cases ht
    rw [State.byte_settle, s.byte_trailer_entered (State.lt_of_runs runs) w off x xs hk]
  case dropped =>
    intro a s x xs runs trailers off
    exact exec_next_of_onArray rfl runs (State.trailerWrite_dropped trailers off)

/-- Settles O18: the words of a region lie apart, so each of them holds its sum after the last is written, and neither the issue before
nor the events, the trailer and the holds after them change memory. -/
theorem reduceAddsSlots : Obligations.ReduceAddsSlots := by
  intro a b f s u c up head hc pass serves turn free hu clean
  have ha := State.lt_of_head head
  have cols := State.nCols_le_of_reduceChecks pass
  have fits : c.tileId < 2 ^ 32 := hc ▸ num_lt f.bytes 4 4
  have part : (u.reduceRun a b f c).part = s.part := by rw [State.reduceRun_part ha b f clean, hu, State.sramMeet_part]
  refine ⟨_, exec_next_of_live rfl up (State.reduceIssue_carried head hc pass serves turn free hu), ?tile, ?trailer,
    fun i j hi hj => ?word, fun k hk => ?rest⟩
  case tile => rw [State.fld_settle _ _ part, State.reduceRun_curTile ha b f clean fits]
  case trailer => rw [State.array_settle, State.reduceRun_trailers ha b f clean, hu, State.array_sramMeet]
  case word => rw [State.accWord_settle, State.reduceRun_accWord ha b f clean cols hi hj]
  case rest =>
    rw [State.byte_settle, State.reduceRun_byte ha b f clean cols hk, hu]
    exact State.byte_of_mem (s.sramMeet_mem _ _) k

end

section
/-! SUPPORT. What the sequencer does by itself after a command's end: the holds that look again, ERROR and its own registers (R80, R106,
R107, R331). -/

namespace Sys2Proof.Machine

/-- The registers that the sequencer's state, its failures and its fences write. -/
def RegKind.ofSequencer : RegKind → Bool
  | .ARR_STATUS | .TQ_STATUS | .ARR_SEQ_CTRL | .ARR_ERR_INFO | .FAB_PERF_FENCES => true
  | k => k.ofEvents

/-- An array's hidden state without what the sequencer holds of its own: the commands fetched, the holds and a halt. -/
def Arr.atRest (x : Arr) : Arr :=
  { x with fwd := none, bwd := none, fwdHold := none, bwdHold := none, halting := false, halted := false }

/-- Between two states of an array the sequencer alone has acted: the rest of its hidden state and all registers but the sequencer's are
the same, and ERROR stays where it was shown. -/
structure State.KeepsWork (a : Nat) (s t : State) : Prop where
  array : (t.array a).atRest = (s.array a).atRest
  rd : ∀ k i j, k.ofSequencer = false → i < 65536 → j < 65536 → t.rd k i j = s.rd k i j
  error : s.fld ARR_STATUS.seq_state a = seqError → t.fld ARR_STATUS.seq_state a = seqError

namespace State.KeepsWork

variable {a : Nat} {s t u : State}

theorem refl (a : Nat) (s : State) : KeepsWork a s s := ⟨rfl, fun _ _ _ _ _ _ => rfl, id⟩

theorem trans (h : KeepsWork a s t) (g : KeepsWork a t u) : KeepsWork a s u :=
  ⟨g.array.trans h.array, fun k i j hk hi hj => (g.rd k i j hk hi hj).trans (h.rd k i j hk hi hj), g.error ∘ h.error⟩

theorem jobs (h : KeepsWork a s t) : (t.array a).jobs = (s.array a).jobs :=
  (congrArg Arr.jobs h.array :)

theorem tq (h : KeepsWork a s t) : (t.array a).tq = (s.array a).tq :=
  (congrArg Arr.tq h.array :)

theorem trailers (h : KeepsWork a s t) : (t.array a).trailers = (s.array a).trailers :=
  (congrArg Arr.trailers h.array :)

theorem mapArray (s : State) {a : Nat} {f : Arr → Arr} (h : ∀ x, (f x).atRest = x.atRest) : KeepsWork a s (s.mapArray a f) :=
  ⟨by rw [State.array_mapArray, h], fun _ _ _ _ _ _ => rfl, id⟩

/-- An update outside the registers and the arrays. -/
theorem ofOther (hp : t.part = s.part) (ha : t.arr = s.arr) (hr : t.regs = s.regs) : KeepsWork a s t := by
  have rd := State.rd_congr hp hr
  exact ⟨by rw [State.array, ha, State.array], fun k i j _ _ _ => rd k i j, fun h => by rw [State.fld, rd, ← h, State.fld]⟩

section
variable (ha : a < 2240)
include ha

/-- A write of a register of the sequencer other than `ARR_STATUS`. -/
theorem wr (s : State) {k : RegKind} {i j : Nat} (v : Word) (own : k.ofSequencer = true) (h : k ≠ .ARR_STATUS) (hi : i < 65536)
    (hj : j < 65536) : KeepsWork a s (s.wr k i j v) := by
  refine ⟨by simp, fun k' i' j' hk' hi' hj' => ?_, fun e => ?_⟩
  · exact State.rd_wr_kind s k k' i j i' j' v (fun same => by simp [same, own] at hk') hi hj hi' hj'
  · exact (State.fld_wr_kind s v h.symm hi hj (by omega) (by decide)).trans e

/-- A write of a field of `ARR_STATUS` that leaves ERROR shown. -/
theorem setFld_status (s : State) {f : Fld} (v : Nat) (h : f.kind = .ARR_STATUS)
    (error : s.fld ARR_STATUS.seq_state a = seqError → (s.setFld f a 0 v).fld ARR_STATUS.seq_state a = seqError) :
    KeepsWork a s (s.setFld f a 0 v) := by
  refine ⟨by simp, fun k i j hk hi hj => ?_, error⟩
  exact State.rd_setFld_kind s f k a 0 v i j (fun same => by rw [same, h] at hk; cases hk) (by omega) (by decide) hi hj

/-- The sequencer's state follows what it holds and executes, but for ERROR, which stays. -/
theorem syncSeq (s : State) : KeepsWork a s (s.syncSeq a) := by
  have queue : KeepsWork a s (s.syncQueue a) := wr ha s _ rfl (by decide) (by omega) (by decide)
  have halt : ∀ u : State, KeepsWork a u
      ((u.setFld ARR_SEQ_CTRL.run a 0 0).mapArray a fun x => { x with halting := false, halted := true }) := fun u =>
    (wr ha u _ rfl (by decide) (by omega) (by decide)).trans (mapArray _ fun _ => rfl)
  have shown : ∀ (u : State) (v : Nat),
      KeepsWork a u (if u.fld ARR_STATUS.seq_state a = seqError then u else u.setFld ARR_STATUS.seq_state a 0 v) := fun u v => by
    split
    · exact refl a u
    · rename_i other
      exact setFld_status ha u v rfl fun h => absurd h other
  unfold State.syncSeq
  dsimp only
  split
  · exact (queue.trans (halt _)).trans (shown _ _)
  · exact queue.trans (shown _ _)

theorem seqFail (s : State) (status id off : Nat) : KeepsWork a s (s.seqFail a status id off) := by
  have calm := s.calm_seqFail a status id off
  refine ⟨by rw [State.array_seqFail]; rfl, fun k i j hk hi hj => ?_, fun _ => s.seqFail_seq_state ha⟩
  have events : k.ofEvents = false := by cases k <;> simp_all [RegKind.ofSequencer, RegKind.ofEvents]
  have other : ∀ f : Fld, f.kind.ofSequencer = true → k ≠ f.kind := fun f own same => by simp [same, own] at hk
  have put : ∀ (u : State) (f : Fld) (v : Nat), f.kind.ofSequencer = true → (u.setFld f a 0 v).rd k i j = u.rd k i j :=
    fun u f v own => State.rd_setFld_kind u f k a 0 v i j (other f own) (by omega) (by decide) hi hj
  rw [calm.rd k i j events hi hj]
  change (State.setFld _ _ _ _ _).rd k i j = _
  rw [put _ _ _ rfl, put _ _ _ rfl, put _ _ _ rfl, put _ _ _ rfl]

theorem endFenceHold (s : State) (b : Bool) (h : Hold) (e : FenceEnd) : KeepsWork a s (s.endFenceHold a b h e) := by
  have freed : KeepsWork a s (s.mapArray a fun x => x.setHold b none) := mapArray s fun x => by cases b <;> rfl
  refine KeepsWork.trans ?_ (syncSeq ha _)
  refine freed.trans ?_
  cases e with
  | done =>
    cases h.kind with
    | signal => exact ofOther rfl rfl rfl
    | own | wait | fence => exact refl a _
  | failed | timeout => exact seqFail ha _ _ _ _

theorem fenceIssue (s : State) (requester : Nat) (b : Bool) : KeepsWork a s (s.fenceIssue requester b).2 := by
  have taken : KeepsWork a s (s.takeUnreported requester b).2 := ofOther rfl rfl rfl
  unfold State.fenceIssue
  split
  · exact refl a s
  · dsimp only
    split
    · have counted : KeepsWork a _ ((s.takeUnreported requester b).2.bump FAB_PERF_FENCES.count 0 0 1) :=
        wr ha (k := .FAB_PERF_FENCES) (i := 0) (j := 0) _ _ rfl (by decide) (by decide) (by decide)
      exact taken.trans counted
    · exact taken.trans (ofOther rfl rfl rfl)

theorem pollHold (s : State) (b : Bool) : KeepsWork a s (s.pollHold a b) := by
  have fence := fenceIssue ha s a b
  have enters : ∀ (u : State) (h : Option Hold), KeepsWork a u (u.mapArray a fun x => x.setHold b h) := fun u h =>
    mapArray u fun x => by cases b <;> rfl
  unfold State.pollHold
  repeat' split
  any_goals exact refl a s
  all_goals
    rename_i e
    rw [e] at fence
  · exact fence
  · exact fence.trans (endFenceHold ha _ b _ _)
  · exact fence.trans (enters _ _)

theorem pollHolds (s : State) : KeepsWork a s (s.pollHolds a) :=
  ((pollHold ha s false).trans (pollHold ha _ true)).trans (syncSeq ha _)

end

end State.KeepsWork

end Sys2Proof.Machine
end

section
/-! SUPPORT. The end of a job: it leaves the pipeline with its events, its trailer and, where it failed, ERROR (R71, R86, R106). -/

namespace Sys2Proof.Machine

/-! ### What a job's end makes of its array, before the sequencer follows -/

/-- A job's events are recorded and the job is counted. -/
def State.jobCounted (s : State) (a : Nat) (r : Record) : State :=
  ((s.record a r).noteTrailerExc r.bits).bump ARR_PERF_TILES.count a 0 1

/-- A job has left the pipeline, its trailer waits, and a stopped one has given its credit up. -/
def State.jobEnded (s : State) (a : Nat) (j : Job) (r : Record) (t : List Byte) : State :=
  let u := (s.jobCounted a r).mapArray a fun x => { x with jobs := x.jobs.drop 1 }
  (if j.kind = .stopped then u.dropCredit a j else u).pushTrailer a j.offset j.sparse t

section
variable (s : State) (a : Nat) (j : Job)

/-- A credit given up changes of an array its credits alone. -/
theorem State.array_dropCredit : ∃ m n, (s.dropCredit a j).array a = { s.array a with fwdCredits := m, bwdCredits := n } := by
  unfold State.dropCredit
  split
  · exact ⟨_, _, rfl⟩
  · exact ⟨_, _, State.array_mapArray _ _ _⟩

@[simp] theorem State.dropCredit_part : (s.dropCredit a j).part = s.part := by
  unfold State.dropCredit
  split <;> rfl

@[simp] theorem State.dropCredit_mem : (s.dropCredit a j).mem = s.mem := by
  unfold State.dropCredit
  split <;> rfl

@[simp] theorem State.dropCredit_regs : (s.dropCredit a j).regs = s.regs := by
  unfold State.dropCredit
  split <;> rfl

end

@[simp] theorem State.array_jobCounted (s : State) (a : Nat) (r : Record) (a' : Nat) : (s.jobCounted a r).array a' = s.array a' := by
  simp [State.array, State.jobCounted, State.record, State.noteTrailerExc]

@[simp] theorem State.jobCounted_part (s : State) (a : Nat) (r : Record) : (s.jobCounted a r).part = s.part := by
  simp [State.jobCounted, State.record, State.noteTrailerExc]

@[simp] theorem State.jobCounted_mem (s : State) (a : Nat) (r : Record) : (s.jobCounted a r).mem = s.mem := by
  simp [State.jobCounted, State.record, State.noteTrailerExc]

theorem State.rd_sat_kind (s : State) {f : Fld} {k : RegKind} {i j i' j' : Nat} (n : Nat) (h : k ≠ f.kind) (hi : i < 65536)
    (hj : j < 65536) (hi' : i' < 65536) (hj' : j' < 65536) : (s.sat f i j n).rd k i' j' = s.rd k i' j' := by
  unfold State.sat
  split
  · rfl
  · exact State.rd_setFld_kind s f k i j _ i' j' h hi hj hi' hj'

/-- The registers that a job's end writes: the sequencer's, the counts of its events, and the count of tiles. -/
def RegKind.ofJobEnd (k : RegKind) : Bool := k.ofSequencer || k == .ARR_EXC_CNT || k == .ARR_PERF_TILES

theorem State.rd_jobCounted (s : State) {a : Nat} (ha : a < 2240) (r : Record) {k : RegKind} {i j : Nat} (h : k.ofJobEnd = false)
    (hi : i < 65536) (hj : j < 65536) : (s.jobCounted a r).rd k i j = s.rd k i j := by
  have status : k ≠ .ARR_STATUS := by rintro rfl; cases h
  have counts : k ≠ .ARR_EXC_CNT := by rintro rfl; cases h
  have tiles : k ≠ .ARR_PERF_TILES := by rintro rfl; cases h
  have ha' : a < 65536 := by omega
  have sat : ∀ (u : State) (f : Fld) (n : Nat), f.kind = .ARR_EXC_CNT → (u.sat f a 0 n).rd k i j = u.rd k i j := fun u f n hf =>
    State.rd_sat_kind u n (hf ▸ counts) ha' (by decide) hi hj
  rw [State.jobCounted, State.rd_bump_kind _ _ _ _ _ _ _ _ tiles ha' (by decide) hi hj]
  change (State.sat _ _ _ _ _).rd k i j = _
  rw [sat _ _ _ rfl, sat _ _ _ rfl, sat _ _ _ rfl, sat _ _ _ rfl, State.rd_wr_kind _ _ _ _ _ _ _ _ status ha' (by decide) hi hj]

section
variable (s : State) {a : Nat} (j : Job) (r : Record) (t : List Byte)

/-- A job's end changes of its array's jobs, trailers and credits alone. -/
theorem State.array_jobEnded : ∃ m n, (s.jobEnded a j r t).array a =
    { s.array a with
      jobs := (s.array a).jobs.drop 1
      trailers := (s.array a).trailers ++ [{ bytes := t, stalled := 0, offset := j.offset, sparse := j.sparse }]
      fwdCredits := m
      bwdCredits := n } := by
  simp only [State.jobEnded, State.pushTrailer, State.array_mapArray]
  split
  · obtain ⟨m, n, h⟩ := ((s.jobCounted a r).mapArray a fun x => { x with jobs := x.jobs.drop 1 }).array_dropCredit a j
    exact ⟨m, n, by rw [h, State.array_mapArray, State.array_jobCounted]⟩
  · exact ⟨_, _, by rw [State.array_mapArray, State.array_jobCounted]⟩

@[simp] theorem State.jobs_jobEnded : ((s.jobEnded a j r t).array a).jobs = (s.array a).jobs.drop 1 := by
  obtain ⟨m, n, h⟩ := s.array_jobEnded (a := a) j r t
  rw [h]

@[simp] theorem State.tq_jobEnded : ((s.jobEnded a j r t).array a).tq = (s.array a).tq := by
  obtain ⟨m, n, h⟩ := s.array_jobEnded (a := a) j r t
  rw [h]

@[simp] theorem State.length_trailers_jobEnded :
    ((s.jobEnded a j r t).array a).trailers.length = (s.array a).trailers.length + 1 := by
  obtain ⟨m, n, h⟩ := s.array_jobEnded (a := a) j r t
  rw [h, List.length_append, List.length_singleton]

@[simp] theorem State.holding_jobEnded : ((s.jobEnded a j r t).array a).holding = (s.array a).holding := by
  obtain ⟨m, n, h⟩ := s.array_jobEnded (a := a) j r t
  rw [h, Arr.holding, Arr.holding]

@[simp] theorem State.jobEnded_part : (s.jobEnded a j r t).part = s.part := by
  simp only [State.jobEnded, State.pushTrailer, State.mapArray_part]
  split <;> simp

@[simp] theorem State.jobEnded_mem : (s.jobEnded a j r t).mem = s.mem := by
  simp only [State.jobEnded, State.pushTrailer, State.mapArray_mem]
  split <;> simp

theorem State.rd_jobEnded (ha : a < 2240) {k : RegKind} {i j' : Nat} (h : k.ofJobEnd = false) (hi : i < 65536) (hj : j' < 65536) :
    (s.jobEnded a j r t).rd k i j' = s.rd k i j' := by
  rw [← s.rd_jobCounted ha r h hi hj]
  refine State.rd_congr ?_ ?_ k i j'
  all_goals
    simp only [State.jobEnded, State.pushTrailer, State.mapArray_part, State.mapArray_regs]
    split <;> simp

end

/-! ### The sequencer follows a job's end -/

/-- A job's end with its failure, where it has one of its own. -/
def State.jobFailed (s : State) (a : Nat) (j : Job) (status : Nat) : State :=
  if status = 0 ∨ status = j.status then s else s.seqFail a status j.tileId.toNat j.offset

/-- A job ends with its trailer and its failure, and the holds look again. -/
theorem State.finishJob_eq (s : State) (a : Nat) (j : Job) (r : Record) (status cycles : Nat) :
    ∃ t, s.finishJob a j r status cycles = ((s.jobEnded a j (j.record.join r) t).jobFailed a j status).pollHolds a := ⟨_, rfl⟩

section
variable (s : State) {a : Nat} (ha : a < 2240) (j : Job) (r : Record) (status cycles : Nat)
include ha

theorem State.KeepsWork.jobFailed : State.KeepsWork a s (s.jobFailed a j status) := by
  unfold State.jobFailed
  split
  · exact State.KeepsWork.refl a s
  · exact State.KeepsWork.seqFail ha s _ _ _

theorem State.KeepsTile.jobFailed : State.KeepsTile a s (s.jobFailed a j status) :=
  State.KeepsTile.ite (State.KeepsTile.refl a s) (State.KeepsTile.seqFail ha s _ _ _)

/-- After a job's end the sequencer alone acts. -/
theorem State.finishJob_keeps : ∃ t, State.KeepsWork a (s.jobEnded a j (j.record.join r) t) (s.finishJob a j r status cycles) ∧
    State.KeepsTile a (s.jobEnded a j (j.record.join r) t) (s.finishJob a j r status cycles) := by
  obtain ⟨t, h⟩ := s.finishJob_eq a j r status cycles
  rw [h]
  exact ⟨t, (State.KeepsWork.jobFailed _ ha j status).trans (State.KeepsWork.pollHolds ha _),
    (State.KeepsTile.jobFailed _ ha j status).trans (State.KeepsTile.pollHolds ha _)⟩

theorem State.finishJob_part : (s.finishJob a j r status cycles).part = s.part := by
  obtain ⟨t, -, tile⟩ := s.finishJob_keeps ha j r status cycles
  rw [tile.part, State.jobEnded_part]

theorem State.finishJob_mem : (s.finishJob a j r status cycles).mem = s.mem := by
  obtain ⟨t, -, tile⟩ := s.finishJob_keeps ha j r status cycles
  rw [tile.mem, State.jobEnded_mem]

theorem State.jobs_finishJob : ((s.finishJob a j r status cycles).array a).jobs = (s.array a).jobs.drop 1 := by
  obtain ⟨t, work, -⟩ := s.finishJob_keeps ha j r status cycles
  rw [work.jobs, State.jobs_jobEnded]

theorem State.tq_finishJob : ((s.finishJob a j r status cycles).array a).tq = (s.array a).tq := by
  obtain ⟨t, work, -⟩ := s.finishJob_keeps ha j r status cycles
  rw [work.tq, State.tq_jobEnded]

theorem State.length_trailers_finishJob :
    ((s.finishJob a j r status cycles).array a).trailers.length = (s.array a).trailers.length + 1 := by
  obtain ⟨t, work, -⟩ := s.finishJob_keeps ha j r status cycles
  rw [work.trailers, State.length_trailers_jobEnded]

/-- A register that is none of a job's end reads as before. -/
theorem State.rd_finishJob {k : RegKind} {i j' : Nat} (h : k.ofJobEnd = false) (hi : i < 65536) (hj : j' < 65536) :
    (s.finishJob a j r status cycles).rd k i j' = s.rd k i j' := by
  obtain ⟨t, work, -⟩ := s.finishJob_keeps ha j r status cycles
  have sequencer : k.ofSequencer = false := by simp_all [RegKind.ofJobEnd]
  rw [work.rd k i j' sequencer hi hj, s.rd_jobEnded j _ t ha h hi hj]

/-- A job's failure leaves the sequencer in ERROR. -/
theorem State.finishJob_error (fails : status ≠ 0) (own : status ≠ j.status) :
    (s.finishJob a j r status cycles).fld ARR_STATUS.seq_state a = seqError := by
  obtain ⟨t, h⟩ := s.finishJob_eq a j r status cycles
  rw [h, State.jobFailed, if_neg (by simp [fails, own])]
  exact (State.KeepsWork.pollHolds ha _).error (State.seqFail_seq_state _ ha)

/-- Other fields of `ARR_STATUS` than the sequencer's state stay as that follows. -/
theorem State.fld_syncSeq {f : Fld} (kind : f.kind = .ARR_STATUS) (apart : ARR_STATUS.seq_state.separate f = true) :
    (s.syncSeq a).fld f a = s.fld f a := by
  have queue : (s.syncQueue a).fld f a = s.fld f a :=
    State.fld_wr_kind s _ (by simp [kind]) (by omega) (by decide) (by omega) (by decide)
  have halt : ∀ (u : State) (g : Arr → Arr), ((u.setFld ARR_SEQ_CTRL.run a 0 0).mapArray a g).fld f a = u.fld f a := fun u g =>
    State.fld_setFld_kind u _ (by simp [kind, ARR_SEQ_CTRL.run]) (by omega) (by decide) (by omega) (by decide)
  have shown : ∀ (u : State) (v : Nat), (if u.fld ARR_STATUS.seq_state a = seqError then u
      else u.setFld ARR_STATUS.seq_state a 0 v).fld f a = u.fld f a := fun u v => by
    split
    · rfl
    · exact u.fld_setFld_separate v ha (by decide) apart
  unfold State.syncSeq
  dsimp only
  split
  · rw [shown, halt, queue]
  · rw [shown, queue]

omit ha in
theorem State.pollHold_of_not_holding {b : Bool} (h : (s.array a).holding = false) : s.pollHold a b = s := by
  have none : (s.array a).hold b = none := by
    simp only [Arr.holding, Bool.or_eq_false_iff, Option.isSome_eq_false_iff, Option.isNone_iff_eq_none] at h
    obtain ⟨fwd, bwd⟩ := h
    cases b
    · exact fwd
    · exact bwd
  simp [State.pollHold, none]

/-- A job's failure shows its status, where no hold can fail after it. -/
theorem State.finishJob_seqErr (fails : status ≠ 0) (own : status ≠ j.status) (fits : status < 256)
    (free : (s.array a).holding = false) : (s.finishJob a j r status cycles).fld ARR_STATUS.seq_err a = status := by
  obtain ⟨t, h⟩ := s.finishJob_eq a j r status cycles
  have idle : (((s.jobEnded a j (j.record.join r) t).seqFail a status j.tileId.toNat j.offset).array a).holding = false := by
    rw [State.array_seqFail, ← free, ← s.holding_jobEnded j (j.record.join r) t]
    rfl
  rw [h, State.jobFailed, if_neg (by simp [fails, own]), State.pollHolds, State.pollHold_of_not_holding _ idle,
    State.pollHold_of_not_holding _ idle, State.fld_syncSeq _ ha rfl (by decide), State.seqFail_seq_err _ ha fits]

end

end Sys2Proof.Machine
end

section
/-! SUPPORT. The words of a sparse tile's end phase: the flush of the helper sums and the home write-back (R78, R125, R126). -/

namespace Sys2Proof.Machine

/-! ### Words that lie apart -/

/-- Different words of a region share no byte. -/
theorem cellKey_disjoint (a accLine : Nat) {i j i' j' : Nat} (hj : j < 32) (hj' : j' < 32) (h : (i, j) ≠ (i', j')) :
    cellKey a accLine i j + 4 ≤ cellKey a accLine i' j' ∨ cellKey a accLine i' j' + 4 ≤ cellKey a accLine i j := by
  rw [Ne, Prod.mk.injEq] at h
  simp only [cellKey, sramKey, regionWord]
  omega

/-- Steps that each write words of their own, apart from those of the other steps. -/
theorem State.Writes.foldl {β : Type} {f : State → β → State} {cells : β → List (Nat × BitVec 32)} {l : List β}
    (step : ∀ s, ∀ x ∈ l, State.Writes (cells x) s (f s x))
    (apart : l.Pairwise fun x y => ∀ c ∈ cells x, ∀ d ∈ cells y, c.1 + 4 ≤ d.1 ∨ d.1 + 4 ≤ c.1) (s : State) :
    State.Writes (l.flatMap cells) s (l.foldl f s) := by
  induction l generalizing s with
  | nil => exact State.Writes.nil s
  | cons x l ih =>
    rw [List.pairwise_cons] at apart
    obtain ⟨first, rest⟩ := apart
    rw [List.flatMap_cons, List.foldl_cons]
    refine (step s x (List.mem_cons_self ..)).append (ih (fun s y hy => step s y (List.mem_cons_of_mem _ hy)) rest _) ?_
    intro c hc d hd
    obtain ⟨y, hy, hd⟩ := List.mem_flatMap.mp hd
    exact first y hy c hc d hd

/-- A row's words, each in a column of its own, hold their values. -/
theorem State.writes_writeRow_of_nodup (s : State) (a accLine i : Nat) {ws : List (Nat × BitVec 32)} (cols : ∀ w ∈ ws, w.1 < 32)
    (nodup : (ws.map Prod.fst).Nodup) :
    State.Writes (ws.map fun w => (cellKey a accLine i w.1, w.2)) s (s.writeRow a accLine i ws) := by
  have written : State.Writes (ws.flatMap fun w => [(cellKey a accLine i w.1, w.2)]) s
      (ws.foldl (fun s w => s.setBytes (cellKey a accLine i w.1) (leBytes 4 w.2.toNat)) s) := by
    refine State.Writes.foldl (fun s w _ => State.Writes.setBytes s _ _) ?_ s
    refine (List.pairwise_map.mp nodup).imp_of_mem fun {w x} hw hx ne c hc d hd => ?_
    obtain rfl := List.mem_singleton.mp hc
    obtain rfl := List.mem_singleton.mp hd
    exact cellKey_disjoint a accLine (cols w hw) (cols x hx) (by simp [ne])
  rw [List.map_eq_flatMap]
  exact written.ofMem (State.settleWords_mem _ _)

/-- A row's write leaves the bytes outside its words, whichever these are. -/
theorem State.byte_writeRow (s : State) (a accLine i : Nat) {ws : List (Nat × BitVec 32)} {k : Nat}
    (h : ∀ w ∈ ws, k < cellKey a accLine i w.1 ∨ cellKey a accLine i w.1 + 4 ≤ k) :
    (s.writeRow a accLine i ws).byte k = s.byte k := by
  refine (State.byte_of_mem (State.settleWords_mem _ _) k).trans ?_
  refine List.foldlRecOn ws _ (motive := fun t : State => t.byte k = s.byte k) rfl fun t ht w hw => ?_
  have outside := h w hw
  rw [cellKey] at outside
  rw [State.byte_setBytes, length_leBytes, if_neg (by omega), ht]

/-! ### The parts of the end phase -/

/-- A cell with what the end phase forms for its word, none where that is poisoned, and the element's events. -/
abbrev CellResult := Cell × Option (BitVec 32) × Exc

/-- The package once the end phase has met the errors of the words it adds to. -/
def State.sparseEndMet (s : State) (a : Nat) (j : Job) : State :=
  if j.accumulates then s.sramMeet a (regionSpans j.accLine j.rows j.cols) else s

/-- A word's result is written; a poisoned word has none and stays. -/
def State.writeCell (s : State) (a : Nat) (j : Job) (f : CellResult) : State :=
  match f.2.1 with
  | none => s
  | some v => s.writeRow a j.accLine f.1.row [(f.1.col, v)]

/-- The words that the flush forms. -/
def State.sparseFlushed (s : State) (a : Nat) (j : Job) : List CellResult := j.helpers.map fun h => (h, s.flushWord a j h)

/-- The flush, and the errors met when the home write-back reads its words again. -/
def State.sparseFlush (s : State) (a : Nat) (j : Job) : State :=
  ((s.sparseFlushed a j).foldl (State.writeCell · a j ·) s).sramMeet a
    (j.helpers.map fun h => (accBase + regionWord j.accLine h.row h.col, 4))

/-- The words that the home write-back forms after the flush. -/
def State.sparseHomes (s : State) (a : Nat) (j : Job) : List CellResult :=
  j.sums.map fun c => (c, (s.sparseFlush a j).homeWord a j (s.sparseFlushed a j) c)

/-- The words of one row of the home write-back. -/
def homeRow (home : List CellResult) (i : Nat) : List (Nat × BitVec 32) :=
  (home.filter fun h => h.1.row == i).filterMap fun h => h.2.1.map fun v => (h.1.col, v)

/-- The home write-back, row by row. -/
def State.writeHomes (s : State) (a : Nat) (j : Job) (home : List CellResult) : State :=
  (List.range j.rows).foldl (fun s i => s.writeRow a j.accLine i (homeRow home i)) s

/-- Both stages of the end phase. -/
def State.sparseEndWords (s : State) (a : Nat) (j : Job) : State := (s.sparseFlush a j).writeHomes a j (s.sparseHomes a j)

/-- The tile's end, its words written: `SPM_STATUS`, the tile queue and the trailer. -/
def State.closeSparse (s : State) (a : Nat) (j : Job) (home : List CellResult) (W : Nat) : State :=
  let r := home.foldl (fun (r : Record) h => r.element h.2.2) {}
  let status := if home.any fun h => h.2.1.isNone then 6 else 0
  let s := s.bump SPM_PERF_TILES.count a 0 1
  let s := (s.setFld SPM_STATUS.state a 0 0).setFld SPM_STATUS.walk_k a 0 j.walkK
  let s := if status = 0 then s else s.setFld SPM_STATUS.last_err a 0 status
  let s := if j.toVec then s.appendTq a j (j.record.join r).bits else s
  s.finishJob a j r status (j.cycles + W)

/-- A sparse tile whose end phase no full tile queue holds back writes its words and closes. -/
theorem State.sparseEnd_closes {s : State} {a : Nat} {j : Job} {js : List Job} (jobs : (s.array a).jobs = j :: js) (kind : j.kind = .sparse)
    (room : j.toVec = true → s.flag FBI_CFG.enable a = true ∨ (s.array a).tq.length < 8) :
    ∃ W, s.sparseEnd a =
      ((s.fresh.2.sparseEndMet a j).sparseEndWords a j).closeSparse a j ((s.fresh.2.sparseEndMet a j).sparseHomes a j) W := by
  have free : ¬ (j.kind ≠ .sparse ∨ j.toVec = true ∧ (!s.flag FBI_CFG.enable a) = true ∧ (s.array a).tq.length ≥ 8) := by
    rintro (other | ⟨vec, off, full⟩)
    · exact other kind
    rcases room vec with on | short
    · simp [on] at off
    · omega
  refine ⟨(s.writebackCycles j.rows).1, ?_⟩
  simp only [State.sparseEnd, jobs, if_neg free]
  rfl

/-! ### What the end phase leaves alone -/

theorem State.writeCell_cases (s : State) (a : Nat) (j : Job) (f : CellResult) :
    s.writeCell a j f = s ∨ ∃ v, f.2.1 = some v ∧ s.writeCell a j f = s.writeRow a j.accLine f.1.row [(f.1.col, v)] := by
  unfold State.writeCell
  split
  · exact .inl rfl
  · rename_i v h
    exact .inr ⟨v, h, rfl⟩

section
variable (s : State) (a : Nat) (j : Job)

/-- What neither a row's write nor a read that meets errors changes, the end phase leaves alone. -/
theorem State.sparseEndWords_keeps {γ : Type} (p : State → γ) (row : ∀ (u : State) i ws, p (u.writeRow a j.accLine i ws) = p u)
    (meet : ∀ (u : State) spans, p (u.sramMeet a spans) = p u) : p (s.sparseEndWords a j) = p s := by
  have cell : ∀ (u : State) f, p (u.writeCell a j f) = p u := fun u f => by
    obtain h | ⟨v, -, h⟩ := u.writeCell_cases a j f
    · rw [h]
    · rw [h, row]
  rw [State.sparseEndWords, State.writeHomes, foldl_keeps p _ (fun _ _ => row ..), State.sparseFlush, meet, foldl_keeps p _ cell]

theorem State.sparseEndWords_part : (s.sparseEndWords a j).part = s.part :=
  s.sparseEndWords_keeps a j State.part (fun u => u.writeRow_part a j.accLine) (State.sramMeet_part · a)

theorem State.array_sparseEndWords (a' : Nat) : (s.sparseEndWords a j).array a' = s.array a' :=
  s.sparseEndWords_keeps a j (State.array · a') (fun u i ws => by simp [State.array]) (State.array_sramMeet · a · a')

theorem State.sparseEndMet_part : (s.sparseEndMet a j).part = s.part := by
  unfold State.sparseEndMet
  split <;> simp

theorem State.array_sparseEndMet (a' : Nat) : (s.sparseEndMet a j).array a' = s.array a' := by
  unfold State.sparseEndMet
  split <;> simp

theorem State.sparseEndMet_mem : (s.sparseEndMet a j).mem = s.mem := by
  unfold State.sparseEndMet
  split <;> simp

/-- The flush changes the helpers' words alone. -/
theorem State.byte_sparseFlush {k : Nat}
    (h : ∀ c ∈ j.helpers, k < cellKey a j.accLine c.row c.col ∨ cellKey a j.accLine c.row c.col + 4 ≤ k) :
    (s.sparseFlush a j).byte k = s.byte k := by
  refine (State.byte_of_mem (State.sramMeet_mem _ _ _) k).trans ?_
  refine List.foldlRecOn (s.sparseFlushed a j) _ (motive := fun t : State => t.byte k = s.byte k) rfl fun t ht f hf => ?_
  obtain ⟨c, hc, rfl⟩ := List.mem_map.mp hf
  obtain same | ⟨v, -, written⟩ := t.writeCell_cases a j (c, s.flushWord a j c)
  · rw [same, ht]
  · rw [written, State.byte_writeRow _ _ _ _ (by simpa using h c hc), ht]

/-- The home write-back changes its cells' words alone. -/
theorem State.byte_writeHomes {home : List CellResult} {k : Nat}
    (h : ∀ x ∈ home, k < cellKey a j.accLine x.1.row x.1.col ∨ cellKey a j.accLine x.1.row x.1.col + 4 ≤ k) :
    (s.writeHomes a j home).byte k = s.byte k := by
  refine List.foldlRecOn _ _ (motive := fun t : State => t.byte k = s.byte k) rfl fun t ht i _ => ?_
  rw [State.byte_writeRow _ _ _ _ fun w hw => ?_, ht]
  obtain ⟨x, hx, hv⟩ := List.mem_filterMap.mp hw
  obtain ⟨hx, row⟩ := List.mem_filter.mp hx
  obtain ⟨v, -, rfl⟩ := Option.map_eq_some_iff.mp hv
  rw [← eq_of_beq row]
  exact h x hx

/-- The end phase changes no byte outside the words of its cells. -/
theorem State.byte_sparseEndWords {k : Nat}
    (h : ∀ c ∈ j.helpers ++ j.sums, k < cellKey a j.accLine c.row c.col ∨ cellKey a j.accLine c.row c.col + 4 ≤ k) :
    (s.sparseEndWords a j).byte k = s.byte k := by
  rw [List.forall_mem_append] at h
  obtain ⟨helpers, sums⟩ := h
  have homes : ∀ x ∈ s.sparseHomes a j, k < cellKey a j.accLine x.1.row x.1.col ∨ cellKey a j.accLine x.1.row x.1.col + 4 ≤ k := by
    intro x hx
    obtain ⟨c, hc, rfl⟩ := List.mem_map.mp hx
    exact sums c hc
  rw [State.sparseEndWords, State.byte_writeHomes _ _ _ homes, State.byte_sparseFlush _ _ _ helpers]

end

/-! ### Words without poison (R78) -/

@[simp] theorem State.setBytes_poison (s : State) (k : Nat) (bs : List Byte) : (s.setBytes k bs).poison = s.poison := by
  induction bs generalizing s k with
  | nil => rfl
  | cons b bs ih => simp [State.setBytes, ih]

@[simp] theorem State.setBytes_upsets (s : State) (k : Nat) (bs : List Byte) : (s.setBytes k bs).upsets = s.upsets := by
  induction bs generalizing s k with
  | nil => rfl
  | cons b bs ih => simp [State.setBytes, ih]

/-- No word of these cells is poisoned, and no error that stands in memory is beyond correction. -/
structure State.Readable (a accLine : Nat) (cells : List Cell) (s : State) : Prop where
  corrected : ∀ x ∈ s.upsets, x.2 = false
  clean : ∀ c ∈ cells, s.isPoisoned (accUnit a (regionWord accLine c.row c.col)) = false

namespace State.Readable

variable {a accLine : Nat} {cells : List Cell} {s t : State}

/-- Where neither errors nor poison were added. -/
theorem of_subset (h : Readable a accLine cells s) (hu : t.upsets ⊆ s.upsets) (hp : t.poison ⊆ s.poison) :
    Readable a accLine cells t := by
  refine ⟨fun x hx => h.corrected x (hu hx), fun c hc => ?_⟩
  have clean := h.clean c hc
  simp only [State.isPoisoned, List.contains_eq_mem, decide_eq_false_iff_not] at clean ⊢
  exact fun poisoned => clean (hp poisoned)

/-- A read meets errors that are corrected. -/
theorem sramMeet (h : Readable a accLine cells s) (a' : Nat) (spans : List (Nat × Nat)) :
    Readable a accLine cells (s.sramMeet a' spans) := by
  refine List.foldlRecOn _ _ h fun t ht u hu => ?_
  rw [State.meetWord, h.corrected u (List.mem_of_mem_filter hu)]
  exact ht.of_subset (List.Subset.refl _) (List.Subset.refl _)

/-- A write of part of a word meets errors that are corrected, and one of a whole word leaves none. -/
theorem settleWords (h : Readable a accLine cells s) (on : Nat → Bool) : Readable a accLine cells (s.settleWords on) := by
  refine List.foldlRecOn _ _ (h.of_subset (List.filter_subset_self _) (List.filter_subset_self _)) fun t ht u hu => ?_
  rw [h.corrected u (List.mem_of_mem_filter hu)]
  exact ht.of_subset (List.Subset.refl _) (List.Subset.refl _)

theorem writeRow (h : Readable a accLine cells s) (a' line i : Nat) (ws : List (Nat × BitVec 32)) :
    Readable a accLine cells (s.writeRow a' line i ws) := by
  unfold State.writeRow
  refine settleWords (List.foldlRecOn ws _ h fun t ht w _ => ?_) _
  exact ht.of_subset (by simp) (by simp)

theorem sparseEndMet (h : Readable a accLine cells s) (a' : Nat) (j : Job) : Readable a accLine cells (s.sparseEndMet a' j) := by
  unfold State.sparseEndMet
  split
  · exact h.sramMeet _ _
  · exact h

theorem sparseFlush (h : Readable a accLine cells s) (a' : Nat) (j : Job) : Readable a accLine cells (s.sparseFlush a' j) := by
  refine sramMeet (List.foldlRecOn _ _ h fun t ht f _ => ?_) _ _
  obtain same | ⟨v, -, written⟩ := t.writeCell_cases a' j f
  · rwa [same]
  · rw [written]
    exact ht.writeRow _ _ _ _

end State.Readable

/-! ### What the words become (R126) -/

/-- The word that the first sum to reach it leaves: its starting value with that sum added. -/
def Job.flushValue (j : Job) (w : BitVec 32) (c : Cell) : BitVec 32 :=
  (accumulate (if j.accumulates then a32 w.toNat else .zero) (a32 c.value.toNat)).1.bits32

theorem Job.endWord_of_no_helper {j : Job} {c : Cell} (h : (j.helpers.find? fun h => h.row == c.row && h.col == c.col) = none)
    (w : BitVec 32) : j.endWord w c = j.flushValue w c := by
  simp only [Job.endWord, h, Job.flushValue]

theorem Job.endWord_of_helper {j : Job} {c x : Cell} (h : (j.helpers.find? fun h => h.row == c.row && h.col == c.col) = some x)
    (w : BitVec 32) : j.endWord w c = (accumulate (a32 (j.flushValue w x).toNat) (a32 c.value.toNat)).1.bits32 := by
  simp only [Job.endWord, h, Job.flushValue]

theorem State.flushWord_clean {s : State} {a : Nat} {j : Job} {c : Cell}
    (clean : s.isPoisoned (accUnit a (regionWord j.accLine c.row c.col)) = false) :
    (s.flushWord a j c).1 = some (j.flushValue (s.accWord a (regionWord j.accLine c.row c.col)) c) := by
  cases adds : j.accumulates
  · simp [State.flushWord, Job.flushValue, adds]
  · simp [State.flushWord, State.wordResult, Job.flushValue, adds, clean]

theorem State.writes_writeCell (s : State) (a : Nat) (j : Job) {c : Cell} (v : BitVec 32) (e : Exc) (col : c.col < 32) :
    State.Writes [(cellKey a j.accLine c.row c.col, v)] s (s.writeCell a j (c, some v, e)) :=
  s.writes_writeRow_of_nodup a j.accLine c.row (ws := [(c.col, v)]) (by simpa using col) (by simp)

/-- Steps that each write the word of a cell of its own. -/
theorem State.Writes.foldl_cells {a accLine : Nat} {cells : List Cell} {v : Cell → BitVec 32} {f : State → Cell → State}
    (cols : ∀ c ∈ cells, c.col < 32) (nodup : (cells.map fun c => (c.row, c.col)).Nodup)
    (step : ∀ s, ∀ c ∈ cells, State.Writes [(cellKey a accLine c.row c.col, v c)] s (f s c)) (s : State) :
    State.Writes (cells.map fun c => (cellKey a accLine c.row c.col, v c)) s (cells.foldl f s) := by
  rw [List.map_eq_flatMap]
  refine State.Writes.foldl step ?_ s
  refine (List.pairwise_map.mp nodup).imp_of_mem fun {x y} hx hy ne c hc d hd => ?_
  obtain rfl := List.mem_singleton.mp hc
  obtain rfl := List.mem_singleton.mp hd
  exact cellKey_disjoint a accLine (cols x hx) (cols y hy) ne

section
variable {s : State} {a : Nat} {j : Job} (readable : s.Readable a j.accLine (j.helpers ++ j.sums))
  (cols : ∀ c ∈ j.helpers ++ j.sums, c.col < 32) (nodup : (j.helpers.map fun c => (c.row, c.col)).Nodup)
include readable cols nodup

/-- The flush writes each helper's word, and no other. -/
theorem State.writes_sparseFlush :
    State.Writes (j.helpers.map fun h => (cellKey a j.accLine h.row h.col, j.flushValue (s.accWord a (regionWord j.accLine h.row h.col)) h))
      s (s.sparseFlush a j) := by
  have cell : ∀ (u : State), ∀ h ∈ j.helpers, State.Writes
      [(cellKey a j.accLine h.row h.col, j.flushValue (s.accWord a (regionWord j.accLine h.row h.col)) h)] u
      (u.writeCell a j (h, s.flushWord a j h)) := fun u h hh => by
    have mem : h ∈ j.helpers ++ j.sums := List.mem_append_left _ hh
    have formed : s.flushWord a j h = (some _, (s.flushWord a j h).2) := Prod.ext (State.flushWord_clean (readable.clean h mem)) rfl
    rw [formed]
    exact u.writes_writeCell a j _ _ (cols h mem)
  rw [State.sparseFlush, State.sparseFlushed, List.foldl_map]
  exact (State.Writes.foldl_cells (fun c hc => cols c (List.mem_append_left _ hc)) nodup cell s).ofMem (State.sramMeet_mem _ _ _)

/-- After the flush a helper's word holds what the flush wrote there. -/
theorem State.accWord_sparseFlush_helper {h : Cell} (hh : h ∈ j.helpers) :
    (s.sparseFlush a j).accWord a (regionWord j.accLine h.row h.col) =
      j.flushValue (s.accWord a (regionWord j.accLine h.row h.col)) h :=
  (State.writes_sparseFlush readable cols nodup).word _ (List.mem_map.mpr ⟨h, hh, rfl⟩)

omit readable nodup in
/-- A word that no helper is destined for stands as before. -/
theorem State.accWord_sparseFlush_other {c : Cell} (hc : c ∈ j.sums)
    (none : (j.helpers.find? fun h => h.row == c.row && h.col == c.col) = none) :
    (s.sparseFlush a j).accWord a (regionWord j.accLine c.row c.col) = s.accWord a (regionWord j.accLine c.row c.col) := by
  refine State.word_congr fun k lo hi => State.byte_sparseFlush s a j fun h hh => ?_
  have other : (h.row, h.col) ≠ (c.row, c.col) := by simpa using List.find?_eq_none.mp none h hh
  have apart := cellKey_disjoint a j.accLine (cols h (List.mem_append_left _ hh)) (cols c (List.mem_append_right _ hc)) other
  rw [← cellKey] at lo hi
  omega

/-- The home write-back forms the word of R126. -/
theorem State.homeWord_clean {c : Cell} (hc : c ∈ j.sums) :
    ((s.sparseFlush a j).homeWord a j (s.sparseFlushed a j) c).1 = some (j.endWord (s.accWord a (regionWord j.accLine c.row c.col)) c) := by
  have clean := (readable.sparseFlush a j).clean c (List.mem_append_right _ hc)
  have search : (s.sparseFlushed a j).find? (fun f => f.1.row == c.row && f.1.col == c.col) =
      (j.helpers.find? fun h => h.row == c.row && h.col == c.col).map fun h => (h, s.flushWord a j h) := List.find?_map ..
  rw [State.homeWord, search]
  cases found : j.helpers.find? fun h => h.row == c.row && h.col == c.col with
  | none =>
    rw [Job.endWord_of_no_helper found, ← State.accWord_sparseFlush_other cols hc found]
    exact State.flushWord_clean clean
  | some h =>
    obtain ⟨row, col⟩ : h.row = c.row ∧ h.col = c.col := by simpa using List.find?_some found
    have word := State.accWord_sparseFlush_helper readable cols nodup (List.mem_of_find?_eq_some found)
    rw [row, col] at word
    simp only [Option.map_some, clean, Bool.false_eq_true, if_false]
    rw [Job.endWord_of_helper found, word]

end

/-- Words formed without poison make up a row. -/
theorem homeRow_of_formed {cells : List Cell} {res : Cell → Option (BitVec 32) × Exc} {v : Cell → BitVec 32}
    (formed : ∀ c ∈ cells, (res c).1 = some (v c)) (i : Nat) :
    homeRow (cells.map fun c => (c, res c)) i = (cells.filter fun c => c.row == i).map fun c => (c.col, v c) := by
  rw [homeRow, List.filter_map, List.filterMap_map, ← List.filterMap_eq_map]
  refine List.filterMap_congr fun c hc => ?_
  simp [formed c (List.mem_of_mem_filter hc)]

section
variable {a : Nat} {j : Job} {v : Cell → BitVec 32} {res : Cell → Option (BitVec 32) × Exc}

/-- The home write-back writes each cell's word. -/
theorem State.writes_writeHomes (s : State) (cols : ∀ c ∈ j.sums, c.col < 32) (nodup : (j.sums.map fun c => (c.row, c.col)).Nodup)
    (formed : ∀ c ∈ j.sums, (res c).1 = some (v c)) :
    State.Writes
      ((List.range j.rows).flatMap fun i => (j.sums.filter fun c => c.row == i).map fun c => (cellKey a j.accLine c.row c.col, v c))
      s (s.writeHomes a j (j.sums.map fun c => (c, res c))) := by
  have inRow : ∀ {i : Nat} {c : Cell}, c ∈ (j.sums.filter fun c => c.row == i) → c ∈ j.sums ∧ c.row = i := fun hc => by
    simpa using List.mem_filter.mp hc
  refine State.Writes.foldl_range (fun u i _ => ?row) (fun i i' lt _ c hc d hd => ?apart) s
  case row =>
    have alone : (((j.sums.filter fun c => c.row == i).map fun c => (c.col, v c)).map Prod.fst).Nodup := by
      rw [List.map_map, List.Nodup, List.pairwise_map]
      refine ((List.pairwise_map.mp nodup).filter _).imp_of_mem fun {c d} hc hd ne same => ne ?_
      rw [(inRow hc).2, (inRow hd).2]
      exact congrArg (Prod.mk i) same
    have wide : ∀ w ∈ (j.sums.filter fun c => c.row == i).map fun c => (c.col, v c), w.1 < 32 := by
      intro w hw
      obtain ⟨c, hc, rfl⟩ := List.mem_map.mp hw
      exact cols c (inRow hc).1
    have row := u.writes_writeRow_of_nodup a j.accLine i wide alone
    rw [List.map_map] at row
    rw [homeRow_of_formed formed]
    convert row using 1
    exact List.map_congr_left fun c hc => by rw [Function.comp, (inRow hc).2]
  case apart =>
    obtain ⟨x, hx, rfl⟩ := List.mem_map.mp hc
    obtain ⟨y, hy, rfl⟩ := List.mem_map.mp hd
    obtain ⟨hx, rx⟩ := inRow hx
    obtain ⟨hy, ry⟩ := inRow hy
    exact .inl (cellKey_apart a j.accLine (cols x hx) (cols y hy) (.inl (by omega)))

/-- Every word of a region without poison becomes that of R126. -/
theorem State.accWord_sparseEndWords {s : State} (readable : s.Readable a j.accLine (j.helpers ++ j.sums))
    (inside : ∀ c ∈ j.helpers ++ j.sums, c.row < j.rows ∧ c.col < 32) (sums : (j.sums.map fun c => (c.row, c.col)).Nodup)
    (helpers : (j.helpers.map fun c => (c.row, c.col)).Nodup) {c : Cell} (hc : c ∈ j.sums) :
    (s.sparseEndWords a j).accWord a (regionWord j.accLine c.row c.col) = j.endWord (s.accWord a (regionWord j.accLine c.row c.col)) c := by
  have cols : ∀ c ∈ j.helpers ++ j.sums, c.col < 32 := fun c hc => (inside c hc).2
  have written := (s.sparseFlush a j).writes_writeHomes (a := a) (fun c hc => cols c (List.mem_append_right _ hc)) sums
    fun c hc => State.homeWord_clean readable cols helpers hc
  refine written.word (cellKey a j.accLine c.row c.col, j.endWord (s.accWord a (regionWord j.accLine c.row c.col)) c) ?_
  have row := (inside c (List.mem_append_right _ hc)).1
  have inRow : c ∈ j.sums.filter fun d => d.row == c.row := List.mem_filter.mpr ⟨hc, beq_self_eq_true _⟩
  exact List.mem_flatMap.mpr ⟨c.row, List.mem_range.mpr row, List.mem_map.mpr ⟨c, inRow, rfl⟩⟩

end

end Sys2Proof.Machine
end

section
/-! SUPPORT. Sparse tiles: their issue, the end and the stop of a tile, and `SPM_CFG` (R92, R111, R114, R125, R128, R129, R132). -/

namespace Sys2Proof.Machine

/-! ### Issue (R111, R114, R129) -/

section
variable {s u : State} {a : Nat} {b : Bool} {f : Fetched} {c : TileCmd} (head : s.head a b 1 = some f) (hc : c = TileCmd.parse f.bytes)
  (sparse : c.sparse = true) (live : c.frozen = false) (serves : s.holdsBack a ownSeq (s.sparseSpans a c) = false)
  (hu : u = s.sramMeet a [(c.sparseMeta % 2 ^ 19, 32)])
include head hc sparse live serves hu

theorem State.sparseIssue_rejected {code : Nat} (fails : firstFailure (u.sparseChecks a b c) = some code) :
    s.sparseIssue a b = (u.noteRefusal a ownSeq (u.sparseSpans a c) code).rejectTile a b c f.offset code := by
  subst hc hu
  simp only [State.sparseIssue, head, sparse, live, serves, fails, Bool.not_true, Bool.false_eq_true, or_self, false_and, if_false]

theorem State.sparseIssue_started {d : SparseDesc} {fb : LogFmt} (hd : d = SparseDesc.parse (u.sram a (c.sparseMeta % 2 ^ 19) 32))
    (pass : firstFailure (u.sparseChecks a b c) = none) (fmt : tileFmt c.fmtB = some fb) (turn : u.turnAllows a b = true)
    (free : u.matrixFree a c.accLine c.mRows true c.toVec b = true) :
    s.sparseIssue a b = (u.sparseChoose a c d fb f.offset).2.startJob a b (u.sparseChoose a c d fb f.offset).1 := by
  subst hc hd hu
  simp only [State.sparseIssue, head, sparse, live, serves, pass, fmt, turn, free, Bool.not_true, Bool.false_eq_true, or_self,
    false_and, if_false]

end

/-! ### The end of a tile whose words are written (R125, R132) -/

/-- What `SPM_STATUS` shows of a finished sparse tile, and its count. -/
def State.sparseCounted (s : State) (a : Nat) (j : Job) (status : Nat) : State :=
  let u := ((s.bump SPM_PERF_TILES.count a 0 1).setFld SPM_STATUS.state a 0 0).setFld SPM_STATUS.walk_k a 0 j.walkK
  if status = 0 then u else u.setFld SPM_STATUS.last_err a 0 status

/-- A finished tile for the vector engine enters the tile queue. -/
def State.sparseQueued (s : State) (a : Nat) (j : Job) (x : Exc) : State := if j.toVec then s.appendTq a j x else s

theorem State.closeSparse_eq (s : State) (a : Nat) (j : Job) (home : List CellResult) (W : Nat) :
    ∃ r status x, s.closeSparse a j home W = ((s.sparseCounted a j status).sparseQueued a j x).finishJob a j r status (j.cycles + W) :=
  ⟨_, _, _, rfl⟩

section
variable (s : State) (a : Nat) (j : Job)

@[simp] theorem State.sparseCounted_part (status : Nat) : (s.sparseCounted a j status).part = s.part := by
  unfold State.sparseCounted
  split <;> simp

@[simp] theorem State.sparseCounted_mem (status : Nat) : (s.sparseCounted a j status).mem = s.mem := by
  unfold State.sparseCounted
  split <;> simp

@[simp] theorem State.array_sparseCounted (status a' : Nat) : (s.sparseCounted a j status).array a' = s.array a' := by
  unfold State.sparseCounted
  split <;> simp [State.array]

/-- A finished sparse tile leaves the matcher IDLE. -/
theorem State.sparseCounted_idle (ha : a < 2240) (status : Nat) : (s.sparseCounted a j status).fld SPM_STATUS.state a = 0 := by
  have idle : ∀ u : State, ((u.setFld SPM_STATUS.state a 0 0).setFld SPM_STATUS.walk_k a 0 j.walkK).fld SPM_STATUS.state a = 0 := fun u =>
    (State.fld_setFld_separate _ _ ha (by decide) (by decide)).trans (u.fld_setFld_fits 0 ha (by decide) (by decide) (by decide))
  unfold State.sparseCounted
  dsimp only
  split
  · exact idle _
  · exact (State.fld_setFld_separate _ _ ha (by decide) (by decide)).trans (idle _)

variable (x : Exc)

@[simp] theorem State.sparseQueued_part : (s.sparseQueued a j x).part = s.part := by
  unfold State.sparseQueued
  split <;> simp [State.appendTq]

@[simp] theorem State.sparseQueued_mem : (s.sparseQueued a j x).mem = s.mem := by
  unfold State.sparseQueued
  split <;> simp [State.appendTq]

@[simp] theorem State.rd_sparseQueued (k : RegKind) (i j' : Nat) : (s.sparseQueued a j x).rd k i j' = s.rd k i j' := by
  unfold State.sparseQueued
  split <;> exact State.rd_congr (by simp [State.appendTq]) (by simp [State.appendTq]) k i j'

@[simp] theorem State.jobs_sparseQueued : ((s.sparseQueued a j x).array a).jobs = (s.array a).jobs := by
  obtain ⟨m, n, h⟩ := s.array_dropCredit a j
  unfold State.sparseQueued
  split <;> simp [State.appendTq, h]

@[simp] theorem State.trailers_sparseQueued : ((s.sparseQueued a j x).array a).trailers = (s.array a).trailers := by
  obtain ⟨m, n, h⟩ := s.array_dropCredit a j
  unfold State.sparseQueued
  split <;> simp [State.appendTq, h]

theorem State.length_tq_sparseQueued (vec : j.toVec = true) : ((s.sparseQueued a j x).array a).tq.length = (s.array a).tq.length + 1 := by
  obtain ⟨m, n, h⟩ := s.array_dropCredit a j
  simp [State.sparseQueued, vec, State.appendTq, h]

end

section
variable (s : State) {a : Nat} (ha : a < 2240) (j : Job) (home : List CellResult) (W : Nat)
include ha

theorem State.closeSparse_part : (s.closeSparse a j home W).part = s.part := by
  obtain ⟨r, status, x, h⟩ := s.closeSparse_eq a j home W
  rw [h, State.finishJob_part _ ha, State.sparseQueued_part, State.sparseCounted_part]

theorem State.closeSparse_mem : (s.closeSparse a j home W).mem = s.mem := by
  obtain ⟨r, status, x, h⟩ := s.closeSparse_eq a j home W
  rw [h, State.finishJob_mem _ ha, State.sparseQueued_mem, State.sparseCounted_mem]

theorem State.jobs_closeSparse : ((s.closeSparse a j home W).array a).jobs = (s.array a).jobs.drop 1 := by
  obtain ⟨r, status, x, h⟩ := s.closeSparse_eq a j home W
  rw [h, State.jobs_finishJob _ ha, State.jobs_sparseQueued, State.array_sparseCounted]

theorem State.length_trailers_closeSparse :
    ((s.closeSparse a j home W).array a).trailers.length = (s.array a).trailers.length + 1 := by
  obtain ⟨r, status, x, h⟩ := s.closeSparse_eq a j home W
  rw [h, State.length_trailers_finishJob _ ha, State.trailers_sparseQueued, State.array_sparseCounted]

theorem State.length_tq_closeSparse (vec : j.toVec = true) :
    ((s.closeSparse a j home W).array a).tq.length = (s.array a).tq.length + 1 := by
  obtain ⟨r, status, x, h⟩ := s.closeSparse_eq a j home W
  rw [h, State.tq_finishJob _ ha, State.length_tq_sparseQueued _ _ _ _ vec, State.array_sparseCounted]

theorem State.closeSparse_idle : (s.closeSparse a j home W).fld SPM_STATUS.state a = 0 := by
  obtain ⟨r, status, x, h⟩ := s.closeSparse_eq a j home W
  have shown : SPM_STATUS.state.kind.ofJobEnd = false := rfl
  rw [h, State.fld, State.rd_finishJob _ ha _ _ _ _ shown (by omega) (by decide), State.rd_sparseQueued]
  exact s.sparseCounted_idle a j ha status

end

/-! ### A stopped tile (R128, R132) -/

/-- What `SPM_ERR_INFO` and `SPM_STATUS` show of a stopped sparse tile. -/
def State.sparseStopShown (s : State) (a : Nat) (j : Job) : State :=
  (((s.wr .SPM_ERR_INFO a 0 j.errInfo).setFld SPM_STATUS.last_err a 0 j.status).setFld SPM_STATUS.state a 0 0).setFld
    SPM_STATUS.walk_k a 0 j.walkK

/-- A stopped sparse tile's end: what is shown of it, its trailer and ERROR. -/
def State.sparseStopped (s : State) (a : Nat) (j : Job) : State :=
  ((s.sparseStopShown a j).finishJob a { j with status := 0 } (cellsRecord j.sums) j.status j.cycles).syncSeq a

theorem State.sparseStop_eq_sparseStopped {s : State} {a : Nat} {j : Job} {js : List Job} (jobs : (s.array a).jobs = j :: js)
    (kind : j.kind = .stopped) (sparse : j.sparse = true) : s.sparseStop a = s.sparseStopped a j := by
  have stops : ¬ (j.kind ≠ .stopped ∨ (!j.sparse) = true) := by simp [kind, sparse]
  simp only [State.sparseStop, jobs, if_neg stops]
  rfl

section
variable (s : State) {a : Nat} (j : Job)

@[simp] theorem State.sparseStopShown_part : (s.sparseStopShown a j).part = s.part := by simp [State.sparseStopShown]
@[simp] theorem State.sparseStopShown_mem : (s.sparseStopShown a j).mem = s.mem := by simp [State.sparseStopShown]
@[simp] theorem State.array_sparseStopShown (a' : Nat) : (s.sparseStopShown a j).array a' = s.array a' := by simp [State.sparseStopShown]

variable (ha : a < 2240)
include ha

theorem State.sparseStopShown_idle : (s.sparseStopShown a j).fld SPM_STATUS.state a = 0 :=
  (State.fld_setFld_separate _ _ ha (by decide) (by decide)).trans (State.fld_setFld_fits _ 0 ha (by decide) (by decide) (by decide))

theorem State.sparseStopShown_lastErr (fits : j.status < 256) : (s.sparseStopShown a j).fld SPM_STATUS.last_err a = j.status :=
  (State.fld_setFld_separate _ _ ha (by decide) (by decide)).trans <|
    (State.fld_setFld_separate _ _ ha (by decide) (by decide)).trans (State.fld_setFld_fits _ _ ha (by decide) (by decide) fits)

theorem State.sparseStopShown_errInfo : (s.sparseStopShown a j).rd .SPM_ERR_INFO a = j.errInfo := by
  have kept : ∀ (u : State) (f : Fld) (v : Nat), f.kind = .SPM_STATUS → (u.setFld f a 0 v).rd .SPM_ERR_INFO a = u.rd .SPM_ERR_INFO a :=
    fun u f v hf => State.rd_setFld_kind u f _ a 0 v a 0 (by simp [hf]) (by omega) (by decide) (by omega) (by decide)
  rw [State.sparseStopShown, kept _ _ _ rfl, kept _ _ _ rfl, kept _ _ _ rfl]
  exact State.rd_wr_same _ _ _ _ _ (Fld.inRange_of_ofArrays (f := SPM_ERR_INFO.ctile) ha (by decide) (by decide)) rfl

theorem State.sparseStopped_part : (s.sparseStopped a j).part = s.part := by
  rw [State.sparseStopped, (State.KeepsTile.syncSeq ha _).part, State.finishJob_part _ ha, State.sparseStopShown_part]

theorem State.sparseStopped_mem : (s.sparseStopped a j).mem = s.mem := by
  rw [State.sparseStopped, (State.KeepsTile.syncSeq ha _).mem, State.finishJob_mem _ ha, State.sparseStopShown_mem]

theorem State.jobs_sparseStopped : ((s.sparseStopped a j).array a).jobs = (s.array a).jobs.drop 1 := by
  rw [State.sparseStopped, (State.KeepsWork.syncSeq ha _).jobs, State.jobs_finishJob _ ha, State.array_sparseStopShown]

theorem State.length_trailers_sparseStopped : ((s.sparseStopped a j).array a).trailers.length = (s.array a).trailers.length + 1 := by
  rw [State.sparseStopped, (State.KeepsWork.syncSeq ha _).trailers, State.length_trailers_finishJob _ ha, State.array_sparseStopShown]

/-- The matcher's registers stay as the stop showed them. -/
theorem State.rd_sparseStopped {k : RegKind} (h : k.ofJobEnd = false) : (s.sparseStopped a j).rd k a = (s.sparseStopShown a j).rd k a := by
  have sequencer : k.ofSequencer = false := by simp_all [RegKind.ofJobEnd]
  rw [State.sparseStopped, (State.KeepsWork.syncSeq ha _).rd k a 0 sequencer (by omega) (by decide),
    State.rd_finishJob _ ha _ _ _ _ h (by omega) (by decide)]

theorem State.fld_sparseStopped {f : Fld} (h : f.kind.ofJobEnd = false) :
    (s.sparseStopped a j).fld f a = (s.sparseStopShown a j).fld f a :=
  congrArg (bits · f.hi f.lo) (s.rd_sparseStopped j ha h)

theorem State.sparseStopped_error (fails : j.status ≠ 0) : (s.sparseStopped a j).fld ARR_STATUS.seq_state a = seqError :=
  (State.KeepsWork.syncSeq ha _).error (State.finishJob_error _ ha _ _ _ _ fails fails)

theorem State.sparseStopped_seqErr (fails : j.status ≠ 0) (fits : j.status < 256) (free : (s.array a).holding = false) :
    (s.sparseStopped a j).fld ARR_STATUS.seq_err a = j.status := by
  rw [State.sparseStopped, State.fld_syncSeq _ ha rfl (by decide)]
  exact State.finishJob_seqErr _ ha _ _ _ _ fails fails fits (by rw [State.array_sparseStopShown, free])

end

/-! ### `SPM_CFG` (R132) -/

section
variable {s : State} {a n : Nat} {v : Word}
  (hn : n = bits (fieldWrite .SPM_CFG (s.rd .SPM_CFG a) v) SPM_CFG.rowsplit.hi SPM_CFG.rowsplit.lo)
include hn

theorem State.spmConfigure_taken (lo : 8 ≤ n) (hi : n ≤ 256) :
    s.spmConfigure a v = s.wr .SPM_CFG a 0 (fieldWrite .SPM_CFG (s.rd .SPM_CFG a) v) := by
  subst hn
  exact if_neg (by omega)

theorem State.spmConfigure_ignored (out : n < 8 ∨ 256 < n) : s.spmConfigure a v = s := by
  subst hn
  exact if_pos out

end

end Sys2Proof.Machine
end

section
open Sys2Proof.Machine

/-- Settles O19: the words of a sparse tile's cells lie apart, so each holds what the flush and the home write-back add to it in this
order; what closes or stops the tile changes neither memory nor, once the trailer waits, anything but the sequencer's own state. -/
theorem sparseTiles : Obligations.SparseTiles := by
  refine ⟨?issue, ?ends, ?stops, ?taken, ?ignored⟩
  case issue =>
    intro a b f s u c d up head hc sparse live serves hu hd
    exact ⟨fun code fails => exec_next_of_live rfl up (State.sparseIssue_rejected head hc sparse live serves hu fails),
      fun fb pass fmt turn free => exec_next_of_live rfl up
        (State.sparseIssue_started head hc sparse live serves hu hd pass fmt turn free)⟩
  case ends =>
    intro a s j js runs jobs kind room
    have ha := State.lt_of_runs runs
    obtain ⟨W, closes⟩ := State.sparseEnd_closes jobs kind room
    have met : (s.fresh.2.sparseEndMet a j).mem = s.mem := State.sparseEndMet_mem _ _ _
    have array : ((s.fresh.2.sparseEndMet a j).sparseEndWords a j).array a = s.array a :=
      (State.array_sparseEndWords _ _ _ a).trans (State.array_sparseEndMet _ _ _ a)
    have part : (((s.fresh.2.sparseEndMet a j).sparseEndWords a j).closeSparse a j
        ((s.fresh.2.sparseEndMet a j).sparseHomes a j) W).part = s.part := by
      rw [State.closeSparse_part _ ha, State.sparseEndWords_part, State.sparseEndMet_part, State.fresh_part]
    refine ⟨_, exec_next_of_onArray (c := .sparseEndPhase a) rfl runs closes, ?jobs, ?trailer, ?idle,
      fun corrected clean sums helpers inside c hc => ?word, fun vec => ?queue, fun k hk => ?rest⟩
    case jobs => rw [State.array_settle, State.jobs_closeSparse _ ha, array, jobs, List.drop_one, List.tail_cons]
    case trailer => rw [State.array_settle, State.length_trailers_closeSparse _ ha, array]
    case idle => rw [State.fld_settle _ _ part, State.closeSparse_idle _ ha]
    case word =>
      have readable : s.fresh.2.Readable a j.accLine (j.helpers ++ j.sums) := ⟨corrected, clean⟩
      rw [State.accWord_settle, State.accWord_of_mem (State.closeSparse_mem _ ha _ _ _),
        State.accWord_sparseEndWords (readable.sparseEndMet a j) inside sums helpers hc, State.accWord_of_mem met]
    case queue => rw [State.array_settle, State.length_tq_closeSparse _ ha _ _ _ vec, array]
    case rest =>
      rw [State.byte_settle, State.byte_of_mem (State.closeSparse_mem _ ha _ _ _), State.byte_sparseEndWords _ _ _ hk,
        State.byte_of_mem met]
  case stops =>
    intro a s j js runs jobs kind sparse fails fits
    have ha := State.lt_of_runs runs
    have part := s.sparseStopped_part j ha
    refine ⟨_, exec_next_of_onArray (c := .sparseTileStop a) rfl runs (State.sparseStop_eq_sparseStopped jobs kind sparse), ?jobs,
      ?trailer, ?error, fun free => ?status, ?idle, ?lastErr, ?errInfo, fun k => ?rest⟩
    case jobs => rw [State.array_settle, State.jobs_sparseStopped _ _ ha, jobs, List.drop_one, List.tail_cons]
    case trailer => rw [State.array_settle, State.length_trailers_sparseStopped _ _ ha]
    case error => rw [State.fld_settle _ _ part, State.sparseStopped_error _ _ ha fails]
    case status => rw [State.fld_settle _ _ part, State.sparseStopped_seqErr _ _ ha fails fits free]
    case idle => rw [State.fld_settle _ _ part, State.fld_sparseStopped _ _ ha rfl, State.sparseStopShown_idle _ _ ha]
    case lastErr => rw [State.fld_settle _ _ part, State.fld_sparseStopped _ _ ha rfl, State.sparseStopShown_lastErr _ _ ha fits]
    case errInfo => rw [State.rd_settle _ _ part, State.rd_sparseStopped _ _ ha rfl, State.sparseStopShown_errInfo _ _ ha]
    case rest => rw [State.byte_settle, State.byte_of_mem (s.sparseStopped_mem j ha)]
  case taken =>
    intro a n v s runs hn lo hi
    exact exec_next_of_arrayWritten rfl runs (State.spmConfigure_taken hn lo hi)
  case ignored =>
    intro a n v s runs hn out
    exact exec_next_of_arrayWritten rfl runs (State.spmConfigure_ignored hn out)

end

section
/-! SUPPORT. Dense and frozen tiles: what a TILE at the head of its stream comes to (R78, R81, R90, R106, R162). -/

namespace Sys2Proof.Machine

section
variable {s u : State} {a : Nat} {b : Bool} {f : Fetched} {c : TileCmd} (head : s.head a b 1 = some f) (hc : c = TileCmd.parse f.bytes)
include head hc

/-! ### Dense tiles (R78, R81, R90) -/

section
variable (dense : c.sparse = false) (live : c.frozen = false)
include dense live

/-- A dense TILE that fails a check ends with its trailer and the sequencer in ERROR; banks that refuse it are marked. -/
theorem State.tileIssue_rejected {code : Nat}
    (fails : firstFailure (c.checks ++ [(5, s.refuses a ownSeq c.reads), (0x28, s.wrongClass a b c.backward)]) = some code) :
    s.tileIssue a b = (((s.noteRefusal a ownSeq c.reads code).pushTrailer a f.offset false (trailerBytes c.tileId code Exc.none
      (c.flags false) 0 0)).seqReject a b code c.tileId f.offset).syncSeq a := by
  subst hc
  simp only [State.tileIssue, head, dense, live, fails, State.rejectTile, Bool.false_eq_true, or_self, if_false]

/-- A dense TILE that nothing stops issues, the errors of its operands met; a feed that read a poisoned word fails it after issue. -/
theorem State.tileIssue_issued
    (pass : firstFailure (c.checks ++ [(5, s.refuses a ownSeq c.reads), (0x28, s.wrongClass a b c.backward)]) = none)
    (serves : s.holdsBack a ownSeq c.reads = false) (turn : s.turnAllows a b = true)
    (free : s.matrixFree a c.accLine c.mRows false c.toVec b = true) (hu : u = s.sramMeet a c.reads) :
    s.tileIssue a b =
      if (u.denseJob a c f.offset).1.status = 0 then (u.denseJob a c f.offset).2.startJob a b (u.denseJob a c f.offset).1
      else (((u.denseJob a c f.offset).2.startJob a b (u.denseJob a c f.offset).1).seqFail a 6 c.tileId f.offset).syncSeq a := by
  subst hc hu
  simp only [State.tileIssue, head, dense, live, pass, serves, turn, free, Bool.not_true, Bool.false_eq_true, or_self, if_false]

end

/-! ### Frozen tiles (R162) -/

section
variable (frozen : c.frozen = true)
include frozen

/-- A frozen TILE that fails a check is rejected as any TILE. -/
theorem State.frozenTileIssue_rejected {code : Nat}
    (fails : firstFailure (c.checks ++ (if c.sparse then spMode c else []) ++ [(0x28, s.wrongClass a b c.backward)]) = some code) :
    s.frozenTileIssue a b spMode = s.rejectTile a b c f.offset code := by
  subst hc
  simp only [State.frozenTileIssue, head, frozen, fails, Bool.not_true, Bool.false_eq_true, if_false]

/-- A frozen TILE that passes is counted as completed and leaves its trailer, with no operand read. -/
theorem State.frozenTileIssue_skipped
    (pass : firstFailure (c.checks ++ (if c.sparse then spMode c else []) ++ [(0x28, s.wrongClass a b c.backward)]) = none) :
    s.frozenTileIssue a b spMode = (((((s.issue a b).setFld ARR_STATUS.cur_tile a 0 c.tileId).bump FBI_PERF_FROZEN.count a
      0 1).bump ARR_PERF_TILES.count a 0 1).pushTrailer a f.offset false (trailerBytes c.tileId 0 Exc.none (c.flags true) 1 0)).syncSeq a := by
  subst hc
  simp only [State.frozenTileIssue, head, frozen, pass, Bool.not_true, Bool.false_eq_true, if_false]

end

end

end Sys2Proof.Machine
end

section
open Sys2Proof.Machine

/-- Settles O16: a dense TILE and a frozen one by what their checks answer; the job that a dense one forms says whether it fails after
issue. -/
theorem denseTiles : Obligations.DenseTiles := by
  refine ⟨?issues, ?rejected, ?frozen⟩
  case issues =>
    intro a b f s u c up head hc dense live pass serves turn free hu
    have issued := State.tileIssue_issued head hc dense live pass serves turn free hu
    exact ⟨fun clean => exec_next_of_live rfl up (issued.trans (if_pos clean)),
      fun poisoned => exec_next_of_live rfl up (issued.trans (if_neg poisoned))⟩
  case rejected =>
    intro a code b f s c up head hc dense live fails
    exact exec_next_of_live rfl up (State.tileIssue_rejected head hc dense live fails)
  case frozen =>
    intro a b f s c up head hc frozen
    exact ⟨fun pass => exec_next_of_live rfl up (State.frozenTileIssue_skipped head hc frozen pass),
      fun code fails => exec_next_of_live rfl up (State.frozenTileIssue_rejected head hc frozen fails)⟩

end

section
/-! SUPPORT. Vector commands: issue, the end and the stop of the VEC in execution, and the engine's registers (R80, R92, R97, R137, R139,
R141, R148, R149, R151, R156, R164, R168 to R170). -/

namespace Sys2Proof.Machine

/-! ### Issue (R80, R92, R149, R168) -/

/-- Each row of the table looks for the VEC of its own operation code. -/
theorem exec_of_vecRow {code : Nat} {row : Nat → Bool → Instr} (mem : (code, row) ∈ vecRows) (a : Nat) (b : Bool) (s : State) :
    exec (row a b) s = live s (s.vecIssue a b (vecWants code) false) := by
  have rows : ∀ p ∈ vecRows, exec (p.2 a b) s = live s (s.vecIssue a b (vecWants p.1) false) := by
    simp only [vecRows, List.forall_mem_cons, List.not_mem_nil, false_implies, implies_true, and_true]
    and_intros <;> rfl
  exact rows _ mem

/-- A stream with no VEC at its head keeps the engine as it is. -/
theorem State.vecIssue_of_head_none {s : State} {a : Nat} {b : Bool} (none : s.head a b 2 = none) (want : Nat → Bool) (resume : Bool) :
    s.vecIssue a b want resume = s := by
  simp only [State.vecIssue, none]

/-- What a VEC comes to once the errors of its descriptor block are met. -/
def State.vecJudged (s : State) (a : Nat) (b : Bool) (f : Fetched) (c : VecCmd) : State :=
  match firstFailure (s.vecChecks a b c) with
  | some code => (s.noteRefusal a ownVec (s.vecSpans a c) code).rejectVec a b f.offset code
  | none =>
    if c.tq ∧ (s.vecEntry a c).isNone then s.vecWait a b f
    else if !((s.vecAt a c).windowsReady s) then s.vecWait a b f
    else if (s.array a).vec.isSome ∨ s.accOrderHolds (s.vecAt a c) then s
    else s.vecBegin (s.vecAt a c) b f.offset (s.vecEntry a c) (s.vecLength a c)

section
variable {s u : State} {a : Nat} {b : Bool} {f : Fetched} {c : VecCmd} {want : Nat → Bool} {resume : Bool}
  (head : s.head a b 2 = some f) (hc : c = VecCmd.parse f.bytes) (wanted : want c.vop = true)
  (resumes : resume = true → f.waiting = true) (served : s.vecHeld a c = false) (hu : u = s.sramMeet a (inScratchpad c.blockSpans))
include head hc wanted resumes served hu

/-- A VEC that its row looks for and no handover holds is judged, the errors of its descriptor block met. -/
theorem State.vecIssue_eq_vecJudged : s.vecIssue a b want resume = u.vecJudged a b f c := by
  subst hc hu
  have goes : ¬ ((!want (VecCmd.parse f.bytes).vop) = true ∨ (resume = true ∧ (!f.waiting) = true) ∨
      s.vecHeld a (VecCmd.parse f.bytes) = true) := by
    rintro (other | ⟨again, fresh⟩ | held)
    · simp [wanted] at other
    · simp [resumes again] at fresh
    · simp [served] at held
  simp only [State.vecIssue, head, if_neg goes]
  rfl

theorem State.vecIssue_rejected {bad : Nat} (fails : firstFailure (u.vecChecks a b c) = some bad) :
    s.vecIssue a b want resume = (u.noteRefusal a ownVec (u.vecSpans a c) bad).rejectVec a b f.offset bad := by
  rw [State.vecIssue_eq_vecJudged head hc wanted resumes served hu]
  unfold State.vecJudged
  rw [fails]

variable (pass : firstFailure (u.vecChecks a b c) = none)
include pass

/-- A VEC waits in its stream while its tile or its windows are not there. -/
theorem State.vecIssue_waits (early : c.tq = true ∧ u.vecEntry a c = none ∨ (u.vecAt a c).windowsReady u = false) :
    s.vecIssue a b want resume = u.vecWait a b f := by
  rw [State.vecIssue_eq_vecJudged head hc wanted resumes served hu]
  unfold State.vecJudged
  rw [pass]
  dsimp only
  split
  · rfl
  · rename_i entered
    rcases early with ⟨tq, absent⟩ | short
    · exact absurd ⟨tq, by simp [absent]⟩ entered
    · exact if_pos (by simp [short])

/-- A VEC begins when its tile, its windows and the engine are there and no earlier write of the accumulator buffer stands out. -/
theorem State.vecIssue_begins (entry : c.tq = true → (u.vecEntry a c).isSome = true) (ready : (u.vecAt a c).windowsReady u = true)
    (free : (u.array a).vec = none) (order : u.accOrderHolds (u.vecAt a c) = false) :
    s.vecIssue a b want resume = u.vecBegin (u.vecAt a c) b f.offset (u.vecEntry a c) (u.vecLength a c) := by
  have entered : ¬ (c.tq = true ∧ (u.vecEntry a c).isNone = true) := fun ⟨tq, absent⟩ => by
    simp [← Option.not_isSome, entry tq] at absent
  rw [State.vecIssue_eq_vecJudged head hc wanted resumes served hu]
  unfold State.vecJudged
  rw [pass]
  dsimp only
  rw [if_neg entered, if_neg (by simp [ready]), if_neg (by simp [free, order])]

end

/-- Of the two streams looked at, the one with a VEC that waits goes on. -/
theorem State.vecIssue_resumes {s t : State} {a : Nat} {b : Bool} (begins : s.vecIssue a b (fun _ => true) true = t)
    (other : s.head a (!b) 2 = none) (after : t.head a (!b) 2 = none) :
    (s.vecIssue a true (fun _ => true) true).vecIssue a false (fun _ => true) true = t := by
  cases b
  case false => rw [State.vecIssue_of_head_none (b := true) other, begins]
  case true => rw [begins, State.vecIssue_of_head_none (b := false) after]

/-! ### The end of a VEC (R97, R137) -/

/-- Whether a window may advance rests on its three registers. -/
theorem State.winMay_congr {s t : State} {a w : Nat} (cfg : t.rd .ARR_WIN_CFG a w = s.rd .ARR_WIN_CFG a w)
    (head : t.rd .ARR_WIN_HEAD a w = s.rd .ARR_WIN_HEAD a w) (tail : t.rd .ARR_WIN_TAIL a w = s.rd .ARR_WIN_TAIL a w)
    (ofTail : Bool) (n : Nat) : t.winMay a w ofTail n = s.winMay a w ofTail n := by
  have of : ∀ f : Fld, t.rd f.kind a w = s.rd f.kind a w → t.fld f a w = s.fld f a w := fun f h => congrArg (bits · f.hi f.lo) h
  have on : t.winOn a w = s.winOn a w := by
    simp only [State.winOn, State.flag, of ARR_WIN_CFG.enable cfg, of ARR_WIN_CFG.cfg_err cfg]
  have size : t.winSize a w = s.winSize a w := congrArg (64 * ·) (of ARR_WIN_CFG.size cfg)
  have occ : t.winOcc a w = s.winOcc a w := by
    simp only [State.winOcc, size, of ARR_WIN_HEAD.pos head, of ARR_WIN_HEAD.lap head, of ARR_WIN_TAIL.pos tail,
      of ARR_WIN_TAIL.lap tail]
  simp only [State.winMay, on, size, occ]

/-- The VEC in execution has left the engine and is counted. -/
def State.vecCounted (s : State) (a : Nat) (j : VecJob) : State :=
  ((s.mapArray a fun x => { x with vec := none }).bump VEC_PERF_CMDS.count a 0 1).setFld VEC_STATUS.pass a 0 j.pass

/-- The engine is idle after the VEC, unless it shows its own ERROR. -/
def State.vecIdled (s : State) (a : Nat) (j : VecJob) : State :=
  if s.fld VEC_STATUS.state a = 4 then s.vecCounted a j else (s.vecCounted a j).setFld VEC_STATUS.state a 0 0

section
variable (s : State) {a : Nat} (ha : a < 2240) (j : VecJob)
include ha

theorem State.fld_state_vecCounted : (s.vecCounted a j).fld VEC_STATUS.state a = s.fld VEC_STATUS.state a := by
  have counted : ∀ u : State, (u.bump VEC_PERF_CMDS.count a 0 1).fld VEC_STATUS.state a = u.fld VEC_STATUS.state a := fun u =>
    congrArg (bits · _ _) (u.rd_bump_kind _ _ a 0 1 a 0 (by decide) (by omega) (by decide) (by omega) (by decide))
  rw [State.vecCounted, State.fld_setFld_separate _ _ ha (by decide) (by decide), counted, State.fld_mapArray]

/-- A register that is none of the engine's reads as before. -/
theorem State.rd_vecIdled {k : RegKind} {i j' : Nat} (status : k ≠ .VEC_STATUS) (count : k ≠ .VEC_PERF_CMDS) (hi : i < 65536)
    (hj : j' < 65536) : (s.vecIdled a j).rd k i j' = s.rd k i j' := by
  have counted : (s.vecCounted a j).rd k i j' = s.rd k i j' := by
    rw [State.vecCounted, State.rd_setFld_kind _ _ _ _ _ _ _ _ status (by omega) (by decide) hi hj,
      State.rd_bump_kind _ _ _ _ _ _ _ _ count (by omega) (by decide) hi hj]
    rfl
  unfold State.vecIdled
  split
  · exact counted
  · rw [State.rd_setFld_kind _ _ _ _ _ _ _ _ status (by omega) (by decide) hi hj, counted]

theorem State.winMay_vecIdled {w : Nat} (hw : w < 8) (tail : Bool) (n : Nat) :
    (s.vecIdled a j).winMay a w tail n = s.winMay a w tail n := by
  have kept : ∀ k : RegKind, k ≠ .VEC_STATUS → k ≠ .VEC_PERF_CMDS → (s.vecIdled a j).rd k a w = s.rd k a w :=
    fun k status count => s.rd_vecIdled ha j status count (by omega) (by omega)
  exact State.winMay_congr (kept _ (by decide) (by decide)) (kept _ (by decide) (by decide)) (kept _ (by decide) (by decide)) tail n

end

section
variable {s : State} {a : Nat} (ha : a < 2240) {j : VecJob} (vec : (s.array a).vec = some j) (clean : j.poisonedAt = none)
include ha vec clean

/-- The end of a VEC that met no poisoned word: its windows advance, unless one refuses. -/
theorem State.vecEnd_eq : s.vecEnd a =
    (if j.advances.any fun w => !(s.winMay a w.1 w.2.1 w.2.2) then
      ((j.advances.foldl (fun s w => if s.winMay a w.1 w.2.1 w.2.2 then s else (s.winAdvance a w.1 w.2.1 w.2.2).1)
        (s.vecIdled a j)).setFld VEC_STATUS.last_err a 0 9).seqFail a 9 0 j.offset
    else j.advances.foldl (fun s w => (s.winAdvance a w.1 w.2.1 w.2.2).1) (s.vecIdled a j)).pollHolds a := by
  rw [State.vecIdled, ← s.fld_state_vecCounted ha j]
  simp only [State.vecEnd, vec, clean, Option.isSome_none, Bool.false_eq_true, if_false]
  rfl

theorem State.vecEnd_without_windows (none : j.advances = []) : s.vecEnd a = (s.vecIdled a j).pollHolds a := by
  rw [State.vecEnd_eq ha vec clean, none]
  rfl

/-- The one window of a VEC refuses its advance. -/
theorem State.vecEnd_refused {w n : Nat} {tail : Bool} (one : j.advances = [(w, tail, n)]) (may : s.winMay a w tail n = false)
    (hw : w < 8) :
    s.vecEnd a = ((((s.vecIdled a j).setFld (if tail then ARR_WIN_CFG.underflow else ARR_WIN_CFG.overflow) a w 1).setFld
      VEC_STATUS.last_err a 0 9).seqFail a 9 0 j.offset).pollHolds a := by
  have still := (s.winMay_vecIdled ha j hw tail n).trans may
  rw [State.vecEnd_eq ha vec clean, one]
  simp [may, still, State.winAdvance]

end

/-! ### A VEC that met a poisoned word (R169) -/

theorem mem_insertKey {k j : Nat} {l : List Nat} : j ∈ insertKey k l ↔ j = k ∨ j ∈ l := by
  induction l with
  | nil => simp [insertKey]
  | cons x l ih =>
    unfold insertKey
    split
    · rw [List.mem_cons]
    · split
      · rename_i same
        simp [same]
      · rw [List.mem_cons, ih, List.mem_cons, or_left_comm]

theorem State.isPoisoned_setPoison {s : State} {k j : Nat} : (s.setPoison k).isPoisoned j = true ↔ j = k ∨ s.isPoisoned j = true := by
  simp [State.isPoisoned, State.setPoison, mem_insertKey]

/-- Every word of a list becomes poisoned, and none recovers. -/
theorem State.isPoisoned_foldl_setPoison {ks : List Nat} {s : State} {j : Nat} :
    (ks.foldl State.setPoison s).isPoisoned j = true ↔ j ∈ ks ∨ s.isPoisoned j = true := by
  induction ks generalizing s with
  | nil => simp
  | cons k ks ih => rw [List.foldl_cons, ih, State.isPoisoned_setPoison, List.mem_cons, or_left_comm, or_assoc]

theorem State.KeepsWork.vec {a : Nat} {s t : State} (h : State.KeepsWork a s t) : (t.array a).vec = (s.array a).vec :=
  (congrArg Arr.vec h.array :)

/-- An event leaves an array's work. -/
theorem State.KeepsWork.ofCalm {a : Nat} (ha : a < 2240) {s t : State} (h : State.Calm s t) : State.KeepsWork a s t := by
  refine ⟨by rw [State.array, h.arr, State.array], fun k i j hk hi hj => h.rd k i j ?_ hi hj, fun error => ?_⟩
  · cases k <;> simp_all [RegKind.ofSequencer, RegKind.ofEvents]
  · exact (congrArg (bits · _ _) (h.rd _ a 0 rfl (by omega) (by decide))).trans error

/-- What a stop on a poisoned word makes of the words written and of the vector engine. -/
def State.vecStopShown (s : State) (a : Nat) (j : VecJob) (done : Nat) : State :=
  ((((j.written.foldl State.setPoison s).mapArray a fun x => { x with vec := none }).setFld VEC_STATUS.state a 0 4).setFld
    VEC_STATUS.last_err a 0 6).wr .VEC_ERR_INFO a 0 (BitVec.ofNat 64 (6 * 2 ^ 56 + j.vop * 2 ^ 48 + done % 2 ^ 21))

/-- A stop on a poisoned word: what is shown of it, its event, and ERROR. -/
def State.vecStopped (s : State) (a : Nat) (j : VecJob) (done : Nat) : State :=
  let u := s.vecStopShown a j done
  ((u.raise 3 4 a (u.rd .VEC_ERR_INFO a)).seqFail a 6 0 j.offset).syncSeq a

theorem State.vecPoisonStop_eq_vecStopped {s : State} {a done : Nat} {j : VecJob} (vec : (s.array a).vec = some j)
    (poisoned : j.poisonedAt = some done) : s.vecPoisonStop a = s.vecStopped a j done := by
  simp only [State.vecPoisonStop, vec, poisoned]
  rfl

section
variable (s : State) {a : Nat} (j : VecJob) (done : Nat)

@[simp] theorem State.vecStopShown_part : (s.vecStopShown a j done).part = s.part := by
  simp [State.vecStopShown, foldl_keeps State.part State.setPoison fun _ _ => rfl]

@[simp] theorem State.vecStopShown_mem : (s.vecStopShown a j done).mem = s.mem := by
  simp [State.vecStopShown, foldl_keeps State.mem State.setPoison fun _ _ => rfl]

theorem State.isPoisoned_vecStopShown {k : Nat} (written : k ∈ j.written) : (s.vecStopShown a j done).isPoisoned k = true := by
  have poisoned := (State.isPoisoned_foldl_setPoison (s := s)).mpr (.inl written)
  simpa [State.vecStopShown, State.isPoisoned] using poisoned

theorem State.vec_vecStopShown : ((s.vecStopShown a j done).array a).vec = none := by simp [State.vecStopShown]

variable (ha : a < 2240)
include ha

theorem State.fld_status_vecStopShown {f : Fld} (h : f.kind = .VEC_STATUS) : (s.vecStopShown a j done).fld f a =
    ((((j.written.foldl State.setPoison s).mapArray a fun x => { x with vec := none }).setFld VEC_STATUS.state a 0 4).setFld
      VEC_STATUS.last_err a 0 6).fld f a :=
  State.fld_wr_kind _ _ (by simp [h]) (by omega) (by decide) (by omega) (by decide)

theorem State.vecStopShown_state : (s.vecStopShown a j done).fld VEC_STATUS.state a = 4 :=
  (s.fld_status_vecStopShown j done ha rfl).trans <| (State.fld_setFld_separate _ _ ha (by decide) (by decide)).trans <|
    State.fld_setFld_fits _ _ ha (by decide) (by decide) (by decide)

theorem State.vecStopShown_lastErr : (s.vecStopShown a j done).fld VEC_STATUS.last_err a = 6 :=
  (s.fld_status_vecStopShown j done ha rfl).trans <| State.fld_setFld_fits _ _ ha (by decide) (by decide) (by decide)

/-- After a stop the sequencer alone acts. -/
theorem State.vecStopped_keeps : State.KeepsTile a (s.vecStopShown a j done) (s.vecStopped a j done) ∧
    State.KeepsWork a (s.vecStopShown a j done) (s.vecStopped a j done) := by
  have event := (s.vecStopShown a j done).calm_raise 3 4 a ((s.vecStopShown a j done).rd .VEC_ERR_INFO a)
  exact ⟨((State.KeepsTile.ofCalm ha event).trans (State.KeepsTile.seqFail ha _ _ _ _)).trans (State.KeepsTile.syncSeq ha _),
    ((State.KeepsWork.ofCalm ha event).trans (State.KeepsWork.seqFail ha _ _ _ _)).trans (State.KeepsWork.syncSeq ha _)⟩

/-- The engine's status stays as the stop showed it. -/
theorem State.fld_vecStopped {f : Fld} (h : f.kind.ofSequencer = false) :
    (s.vecStopped a j done).fld f a = (s.vecStopShown a j done).fld f a :=
  congrArg (bits · f.hi f.lo) ((s.vecStopped_keeps j done ha).2.rd f.kind a 0 h (by omega) (by decide))

theorem State.vecStopped_error : (s.vecStopped a j done).fld ARR_STATUS.seq_state a = seqError :=
  (State.KeepsWork.syncSeq ha _).error (State.seqFail_seq_state _ ha)

theorem State.vecStopped_seqErr : (s.vecStopped a j done).fld ARR_STATUS.seq_err a = 6 :=
  (State.fld_syncSeq _ ha rfl (by decide)).trans (State.seqFail_seq_err _ ha (by decide))

end

/-! ### The engine's registers (R151, R164, R170) -/

section
variable {s : State} {a : Nat} {v : Word}

theorem State.vecConfigure_taken (idle : s.fld VEC_STATUS.state a = 0) (free : (s.array a).vec = none) (empty : (s.array a).tq = []) :
    s.vecConfigure a v = s.wr .VEC_CFG a 0 (fieldWrite .VEC_CFG (s.rd .VEC_CFG a) v) :=
  if_neg (by simp [idle, free, empty])

theorem State.vecConfigure_ignored (busy : s.fld VEC_STATUS.state a ≠ 0 ∨ (s.array a).tq ≠ []) : s.vecConfigure a v = s := by
  refine if_pos (busy.imp id fun queued => .inr ?_)
  simp [queued]

theorem State.fbiConfigure_running (idle : s.fld ARR_STATUS.seq_state a ≠ seqIdle) (halted : s.fld ARR_STATUS.seq_state a ≠ seqHalted) :
    s.fbiConfigure a v = s :=
  if_pos ⟨idle, halted⟩

/-- What is written with enable clear needs no share, reserve or window. -/
theorem fbiEmpty_of_disabled (off : bit v 63 = false) : fbiEmpty v = false := by simp [fbiEmpty, off]

section
variable (still : s.fld ARR_STATUS.seq_state a = seqIdle ∨ s.fld ARR_STATUS.seq_state a = seqHalted)
include still

theorem State.fbiConfigure_taken (full : fbiEmpty v = false) (apart : bit v 63 = true →
      bits v 58 56 ≠ s.fld ARR_SEQ_CFG.cmd_window a ∧ bits v 58 56 ≠ s.fld ARR_SEQ_CFG.trailer_window a) :
    s.fbiConfigure a v = s.wr .FBI_CFG a 0 (fieldWrite .FBI_CFG (s.rd .FBI_CFG a) v) := by
  refine (if_neg (by tauto)).trans (if_neg ?_)
  simpa [full, not_or] using apart

theorem State.fbiConfigure_ignored (on : bit v 63 = true) (bad : fbiEmpty v = true ∨
      bits v 58 56 = s.fld ARR_SEQ_CFG.cmd_window a ∨ bits v 58 56 = s.fld ARR_SEQ_CFG.trailer_window a) :
    s.fbiConfigure a v = s :=
  (if_neg (by tauto)).trans (if_pos (by simpa [on] using bad))

end

end

end Sys2Proof.Machine
end

section
open Sys2Proof.Machine

/-- Settles O20: each row takes up a VEC of its own operation code, which its checks, its tile and its windows then judge. -/
theorem vectorCommandsBegin : Obligations.VectorCommandsBegin := by
  intro code row mem a b f s u c up head hc vop served hu
  have wanted : vecWants code c.vop = true := by simp [vecWants, vop]
  have fresh : false = true → f.waiting = true := nofun
  have row := exec_of_vecRow mem a b s
  refine ⟨fun bad fails => ?rejected, fun pass => ⟨fun early => ?waits, fun entry ready free order => ?begins⟩⟩
  case rejected => exact exec_next_of_live row up (State.vecIssue_rejected head hc wanted fresh served hu fails)
  case waits => exact exec_next_of_live row up (State.vecIssue_waits head hc wanted fresh served hu pass early)
  case begins => exact exec_next_of_live row up (State.vecIssue_begins head hc wanted fresh served hu pass entry ready free order)

/-- Settles O21: a VEC that waits is judged again as at its issue; the end leaves the windows' registers as they were, so its one advance
is still refused; after a stop the sequencer alone acts. -/
theorem vectorGoesOnAndEnds : Obligations.VectorGoesOnAndEnds := by
  refine ⟨?resumes, ?ends, ?refused, ?stops⟩
  case resumes =>
    intro a b f s u t c up head waits hc served hu pass entry ready free order ht other after
    have begins : s.vecIssue a b (fun _ => true) true = t :=
      (State.vecIssue_begins head hc rfl (fun _ => waits) served hu pass entry ready free order).trans ht.symm
    have resumed := State.vecIssue_resumes begins other after
    exact ⟨exec_next_of_live rfl up resumed, exec_next_of_live rfl up resumed⟩
  case ends =>
    intro a s u j runs vec clean none hu
    have ends := State.vecEnd_without_windows (State.lt_of_runs runs) vec clean none
    subst hu
    exact ⟨fun calm => exec_next_of_onArray rfl runs (by rw [ends, State.vecIdled, if_neg calm]; rfl),
      fun error => exec_next_of_onArray rfl runs (by rw [ends, State.vecIdled, if_pos error]; rfl)⟩
  case refused =>
    intro a w n tail s u j runs vec clean one may hw calm hu
    refine exec_next_of_onArray rfl runs ((State.vecEnd_refused (State.lt_of_runs runs) vec clean one may hw).trans ?_)
    rw [State.vecIdled, if_neg calm, hu]
    rfl
  case stops =>
    intro a done s j runs vec poisoned
    have ha := State.lt_of_runs runs
    obtain ⟨tile, work⟩ := s.vecStopped_keeps j done ha
    have part := tile.part.trans (s.vecStopShown_part j done)
    refine ⟨_, exec_next_of_onArray (c := .vecPoisonStop a) rfl runs (State.vecPoisonStop_eq_vecStopped vec poisoned), ?free, ?state,
      ?lastErr, ?error, ?status, fun k written => ?poison, fun k => ?rest⟩
    case free => rw [State.array_settle, work.vec, State.vec_vecStopShown]
    case state => rw [State.fld_settle _ _ part, State.fld_vecStopped _ _ _ ha rfl, State.vecStopShown_state _ _ _ ha]
    case lastErr => rw [State.fld_settle _ _ part, State.fld_vecStopped _ _ _ ha rfl, State.vecStopShown_lastErr _ _ _ ha]
    case error => rw [State.fld_settle _ _ part, State.vecStopped_error _ _ _ ha]
    case status => rw [State.fld_settle _ _ part, State.vecStopped_seqErr _ _ _ ha]
    case poison =>
      rw [State.isPoisoned, State.settle_poison, tile.poison]
      exact s.isPoisoned_vecStopShown j done written
    case rest => rw [State.byte_settle, State.byte_of_mem (tile.mem.trans (s.vecStopShown_mem j done))]

/-- Settles O22: each write by the condition under which its register takes it. -/
theorem vectorControlWrites : Obligations.VectorControlWrites := by
  refine ⟨?flush, ?vecTaken, ?vecIgnored, ?fbiOff, ?fbiOn, ?fbiRunning⟩
  case flush => exact fun a s takes => exec_next_of_arrayWritten rfl takes rfl
  case vecTaken =>
    exact fun a v s takes idle free empty => exec_next_of_arrayWritten rfl takes (State.vecConfigure_taken idle free empty)
  case vecIgnored => exact fun a v s takes busy => exec_next_of_arrayWritten rfl takes (State.vecConfigure_ignored busy)
  case fbiOff =>
    intro a v s takes still off
    exact exec_next_of_arrayWritten rfl takes
      (State.fbiConfigure_taken still (fbiEmpty_of_disabled off) fun on => absurd (off.symm.trans on) (by decide))
  case fbiOn =>
    intro a v s takes still on
    exact ⟨fun bad => exec_next_of_arrayWritten rfl takes (State.fbiConfigure_ignored still on bad),
      fun full commands trailers => exec_next_of_arrayWritten rfl takes
        (State.fbiConfigure_taken still full fun _ => ⟨commands, trailers⟩)⟩
  case fbiRunning =>
    exact fun a v s takes idle halted => exec_next_of_arrayWritten rfl takes (State.fbiConfigure_running idle halted)

end

section
/-! SUPPORT. Chapter 06: when its commands act, and the fields of any register after a write of a field. -/

namespace Sys2Proof.Machine

/-! ### When a command of the token exchange acts (R388, R389) -/

section
variable {c : Instr} {s t : State} {f : State → State}

/-- A write of a package whose registers take writes leaves what its effect is. -/
theorem exec_next_of_written (hc : exec c s = live s (s.written f)) (h : s.takesWrites = true) (ht : f s = t) :
    exec c s = .next (s.settle t) := by
  obtain ⟨up, calm⟩ := State.takesWrites_iff.mp h
  exact exec_next_of_live hc up ((State.written_on f calm).trans ht)

/-- Work of an engine that takes work up leaves what its effect is. -/
theorem exec_next_of_work (hc : exec c s = live s (s.work f)) (h : s.working = true) (ht : f s = t) :
    exec c s = .next (s.settle t) := by
  obtain ⟨up, calm⟩ := State.working_iff.mp h
  exact exec_next_of_live hc up ((State.work_on f calm).trans ht)

end

/-! ### Fields of any register -/

/-- A register's first index fits its place in the key. -/
theorem RegKind.n1_le (k : RegKind) : k.shape.n1 ≤ 65536 := by
  cases k <;> decide

theorem RegKind.lt_of_inRange {k : RegKind} {i j : Nat} (h : k.inRange i j = true) : i < 65536 ∧ j < 65536 := by
  simp only [RegKind.inRange, Bool.and_eq_true, decide_eq_true_eq] at h
  exact ⟨h.1.trans_le k.n1_le, h.2.trans_le k.n2_le⟩

/-- A field of a register that each of `n` units has one of and a write can change. -/
def Fld.ofUnits (n : Nat) (f : Fld) : Bool := f.kind.shape.n1 == n && f.kind.shape.n2 == 1 && !f.kind.fused && f.ok

/-- A field of a register of units, and another of another register or of other bits. -/
def Fld.beside (n : Nat) (f g : Fld) : Bool := f.ofUnits n && g.ok && (g.kind != f.kind || f.hi < g.lo || g.hi < f.lo)

theorem Fld.inRange_of_ofUnits {f : Fld} {n i : Nat} (hi : i < n) (h : f.ofUnits n = true) : f.kind.inRange i 0 = true := by
  simp only [Fld.ofUnits, Bool.and_eq_true, beq_iff_eq] at h
  simp [RegKind.inRange, h, hi]

section
variable (s : State) {f g : Fld} {n i v : Nat} (hi : i < n)
include hi

/-- A field of a unit reads what was put into it, where it fits. -/
theorem State.fld_setFld_unit (h : f.ofUnits n = true) (fits : v < 2 ^ (f.hi - f.lo + 1)) : (s.setFld f i 0 v).fld f i = v := by
  have range := Fld.inRange_of_ofUnits hi h
  simp only [Fld.ofUnits, Bool.and_eq_true, Bool.not_eq_true'] at h
  obtain ⟨⟨-, fused⟩, ok⟩ := h
  rw [State.fld_setFld_same s f i 0 v range fused ok, Nat.mod_eq_of_lt fits]

/-- Another field of the same unit reads as before. -/
theorem State.fld_setFld_beside (h : f.beside n g = true) : (s.setFld f i 0 v).fld g i = s.fld g i := by
  simp only [Fld.beside, Bool.and_eq_true, Bool.or_eq_true, bne_iff_ne, decide_eq_true_eq, or_assoc] at h
  obtain ⟨⟨units, okg⟩, apart⟩ := h
  have range := Fld.inRange_of_ofUnits hi units
  simp only [Fld.ofUnits, Bool.and_eq_true, Bool.not_eq_true'] at units
  obtain ⟨⟨-, fused⟩, ok⟩ := units
  obtain ⟨lt, -⟩ := RegKind.lt_of_inRange range
  by_cases same : g.kind = f.kind
  · exact State.fld_setFld_apart s f g i 0 v range fused same ok okg (apart.resolve_left fun other => other same)
  · exact State.fld_setFld_kind s v same lt (by decide) lt (by decide)

end

/-- A register of another kind reads as before, wherever the write goes: one outside the device is no write. -/
theorem State.rd_wr_other (s : State) {k k' : RegKind} {i j i' j' : Nat} (v : Word) (h : k' ≠ k) (hi : i' < 65536) (hj : j' < 65536) :
    (s.wr k i j v).rd k' i' j' = s.rd k' i' j' := by
  by_cases range : k.inRange i j = true
  · obtain ⟨lt, lt'⟩ := RegKind.lt_of_inRange range
    exact State.rd_wr_kind s k k' i j i' j' v h lt lt' hi hj
  · simp [State.wr, range]

end Sys2Proof.Machine
end


section
/-! SUPPORT. The salter threads' control: what a run, a halt and a fault make of their registers (R213). -/

namespace Sys2Proof.Machine

/-- The threads whose fault stands after a run of the threads `m`: those that the run does not start. -/
def State.faultsKept (s : State) (core m : Nat) : Nat :=
  s.fld SALT_STATUS.faulted core &&& (255 - (m &&& (255 - s.fld SALT_CTRL.run core)))

/-- The threads that a run of the threads `m` leaves running: no fault halts them and no remote access holds them. -/
def State.threadsRun (s : State) (core m : Nat) : Nat :=
  m &&& (255 - s.faultsKept core m) &&& (255 - s.fld SALT_STATUS.remote core)

section
variable (s : State) {core m : Nat} (hc : core < 32) (hm : m < 256)
include hc hm

/-- A run, by the registers as they stood before it. -/
theorem State.saltRun_eq : s.saltRun core m =
    ((s.setFld SALT_CTRL.run core 0 m).setFld SALT_STATUS.faulted core 0 (s.faultsKept core m)).setFld SALT_STATUS.running core 0
      (s.threadsRun core m) := by
  have kept : s.faultsKept core m < 256 := Nat.and_le_left.trans_lt (bits_lt _ _ _)
  have faulted : (s.setFld SALT_CTRL.run core 0 m).fld SALT_STATUS.faulted core = s.fld SALT_STATUS.faulted core :=
    s.fld_setFld_beside hc (by decide)
  simp only [State.saltRun, if_neg (show ¬ core > 31 by omega), Nat.mod_eq_of_lt hm, faulted]
  rw [← State.faultsKept, State.fld_setFld_unit _ hc (by decide) kept, State.fld_setFld_beside _ hc (by decide),
    State.fld_setFld_beside _ hc (by decide), ← State.threadsRun]

/-- What a run leaves in the registers that it writes. -/
theorem State.fld_saltRun : (s.saltRun core m).fld SALT_CTRL.run core = m ∧
    (s.saltRun core m).fld SALT_STATUS.faulted core = s.faultsKept core m ∧
      (s.saltRun core m).fld SALT_STATUS.running core = s.threadsRun core m := by
  have kept : s.faultsKept core m < 256 := Nat.and_le_left.trans_lt (bits_lt _ _ _)
  have run : s.threadsRun core m < 256 := (Nat.and_le_left.trans Nat.and_le_left).trans_lt hm
  rw [s.saltRun_eq hc hm]
  refine ⟨?_, ?_, State.fld_setFld_unit _ hc (by decide) run⟩
  · rw [State.fld_setFld_beside _ hc (by decide), State.fld_setFld_beside _ hc (by decide), State.fld_setFld_unit _ hc (by decide) hm]
  · rw [State.fld_setFld_beside _ hc (by decide), State.fld_setFld_unit _ hc (by decide) kept]

/-- A halt, by the registers as they stood before it. -/
theorem State.saltHalt_eq : s.saltHalt core m =
    ((s.setFld SALT_CTRL.run core 0 (s.fld SALT_CTRL.run core &&& (255 - m))).setFld SALT_STATUS.running core 0
      (s.fld SALT_STATUS.running core &&& (255 - m))).setFld SALT_STATUS.remote core 0
        (s.fld SALT_STATUS.remote core &&& (255 - m)) := by
  simp only [State.saltHalt, if_neg (show ¬ core > 31 by omega), Nat.mod_eq_of_lt hm]
  rw [State.fld_setFld_beside (f := SALT_CTRL.run) s hc (by decide), State.fld_setFld_beside _ hc (by decide),
    State.fld_setFld_beside _ hc (by decide)]

/-- A halt stops the threads named, whether they run or wait on a remote access, and clears no fault. -/
theorem State.fld_saltHalt :
    (s.saltHalt core m).fld SALT_CTRL.run core = (s.fld SALT_CTRL.run core &&& (255 - m)) ∧
      (s.saltHalt core m).fld SALT_STATUS.running core = (s.fld SALT_STATUS.running core &&& (255 - m)) ∧
        (s.saltHalt core m).fld SALT_STATUS.remote core = (s.fld SALT_STATUS.remote core &&& (255 - m)) ∧
          (s.saltHalt core m).fld SALT_STATUS.faulted core = s.fld SALT_STATUS.faulted core := by
  have fits : ∀ f : Fld, s.fld f core &&& (255 - m) < 2 ^ (f.hi - f.lo + 1) := fun f => Nat.and_le_left.trans_lt (bits_lt _ _ _)
  rw [s.saltHalt_eq hc hm]
  refine ⟨?_, ?_, State.fld_setFld_unit _ hc (by decide) (fits _), ?_⟩
  · rw [State.fld_setFld_beside _ hc (by decide), State.fld_setFld_beside _ hc (by decide),
      State.fld_setFld_unit _ hc (by decide) (fits _)]
  · rw [State.fld_setFld_beside _ hc (by decide), State.fld_setFld_unit _ hc (by decide) (fits _)]
  · rw [State.fld_setFld_beside _ hc (by decide), State.fld_setFld_beside _ hc (by decide), State.fld_setFld_beside _ hc (by decide)]

end

@[simp] theorem State.saltHalt_salt (s : State) (core m : Nat) : (s.saltHalt core m).salt = s.salt := by
  unfold State.saltHalt
  split <;> simp

/-- A thread that runs or waits on a remote access is halted by its fault, which is marked, kept and raised. -/
theorem State.saltFault_eq (s : State) {core thread : Nat} (info : Word) (hc : core < 32) (ht : thread ≤ 7)
    (active : s.fld SALT_STATUS.running core / 2 ^ thread % 2 = 1 ∨ s.fld SALT_STATUS.remote core / 2 ^ thread % 2 = 1) :
    s.saltFault core thread info =
      ((((s.saltHalt core (2 ^ thread)).setFld SALT_STATUS.faulted core 0
        ((s.saltHalt core (2 ^ thread)).fld SALT_STATUS.faulted core ||| 2 ^ thread)).setThread (8 * core + thread)
          { s.thread (8 * core + thread) with cause := info }).raise 6 5 (8 * core + thread) 0) := by
  have goes : ¬ (core > 31 ∨ thread > 7 ∨
      (s.fld SALT_STATUS.running core / 2 ^ thread % 2 = 0 ∧ s.fld SALT_STATUS.remote core / 2 ^ thread % 2 = 0)) := by omega
  simp only [State.saltFault, if_neg goes, State.thread, State.setFld_salt, State.saltHalt_salt]

end Sys2Proof.Machine
end

section
open Sys2Proof.Machine

/-- Settles O30: a run and a halt by the fields they write, each read as it stood before; a fault begins with the halt of its thread. -/
theorem salterThreads : Obligations.SalterThreads := by
  refine ⟨?run, ?halt, ?fault⟩
  case run =>
    rintro core m started s takes hc hm rfl
    have hc : core < 32 := Nat.lt_succ_of_le hc
    obtain ⟨run, faulted, running⟩ := s.fld_saltRun hc hm
    have eq := s.saltRun_eq hc hm
    have part : (s.saltRun core m).part = s.part := by simp [eq]
    exact ⟨_, exec_next_of_written rfl takes rfl, (State.fld_settle _ _ part _ _ _).trans run,
      (State.fld_settle _ _ part _ _ _).trans faulted, (State.fld_settle _ _ part _ _ _).trans running, by simp [eq], by simp [eq]⟩
  case halt =>
    intro core m s takes hc hm
    have hc : core < 32 := Nat.lt_succ_of_le hc
    obtain ⟨run, running, remote, faulted⟩ := s.fld_saltHalt hc hm
    have eq := s.saltHalt_eq hc hm
    have part : (s.saltHalt core m).part = s.part := by simp [eq]
    exact ⟨_, exec_next_of_written rfl takes rfl, (State.fld_settle _ _ part _ _ _).trans run,
      (State.fld_settle _ _ part _ _ _).trans running, (State.fld_settle _ _ part _ _ _).trans remote,
      (State.fld_settle _ _ part _ _ _).trans faulted, by simp, by simp [eq]⟩
  case fault =>
    rintro core thread info s u up hc ht active rfl
    exact exec_next_of_live rfl up (s.saltFault_eq info (Nat.lt_succ_of_le hc) ht active)

end

section
/-! SUPPORT. The rake's streams and halves: a submission, an arming and a configuration by what they find (R92, R175 to R177, R201, R202,
R214). -/

namespace Sys2Proof.Machine

/-! ### Submissions (R175 to R177, R202) -/

/-- The read of the route block that a store to a stream's submit register names (R175). -/
def State.readRoute (s : State) (n : Nat) (v : Word) : State × Gate × List (Byte × Bool) :=
  s.memRead (0x080000000000 + s.fld RAKE_STREAM_CFG.array n * 0x100000 + bits v 18 0) 32 ownExt dieHub

/-- A submission enters its stream's queue, stamped with its place in the order of arrival. -/
def State.enqueueSubmission (s : State) (n : Nat) (q : Submission) : State :=
  (({ s with rake := { s.rake with arrivals := s.rake.arrivals + 1 } } : State).setStream n
    { s.stream n with queue := (s.stream n).queue ++ [{ q with stamp := s.rake.arrivals + 1 }] }).syncStream n

section
variable {s u : State} {n : Nat} {v : Word} {l : Layer} {cells : List (Byte × Bool)} (known : s.layer (bits v 39 32) = some l)
include known

theorem State.takeSubmission_held (read : s.readRoute n v = (u, .held, cells)) : s.takeSubmission n v = none := by
  unfold State.readRoute at read
  simp only [State.takeSubmission]
  rw [known, read]

section
variable (read : s.readRoute n v = (u, .opened, cells))
include read

theorem State.takeSubmission_poisoned (bad : cells.any (·.2) = true) :
    s.takeSubmission n v = some (u.streamError n 6 (bits v 39 32) (bits v 63 48) (s.submitSide n (bits v 39 32))) := by
  unfold State.readRoute at read
  simp only [State.takeSubmission]
  rw [known, read]
  simp only [bad, if_true]

variable (clean : cells.any (·.2) = false)
include clean

theorem State.takeSubmission_outOfRange
    (header : routeHeader l (cells.map (·.1)) (bits v 63 48) (bits v 47 47) (bits v 39 32) = none) :
    s.takeSubmission n v = some (u.streamError n 2 (bits v 39 32) (bits v 63 48) (byteAt (cells.map (·.1)) 7 % 2 == 1)) := by
  unfold State.readRoute at read
  simp only [State.takeSubmission]
  rw [known, read]
  simp only [clean, header, Bool.false_eq_true, if_false]

/-- A submission of a group that its armed half still expects is taken. -/
theorem State.takeSubmission_taken {q : Submission} {h : RakeHalf}
    (header : routeHeader l (cells.map (·.1)) (bits v 63 48) (bits v 47 47) (bits v 39 32) = some q)
    (armed : u.halfOf (bits v 39 32) q.backward (bits v 47 47) q.epoch = some h)
    (expected : ¬ (h.finished = true ∨ bits v 63 48 ≥ h.groups ∨ h.submitted.contains (bits v 63 48) = true)) :
    s.takeSubmission n v = some ((u.mapHalf (bits v 39 32) q.backward (bits v 47 47) q.epoch fun h =>
      { h with submitted := h.submitted ++ [bits v 63 48] }).enqueueSubmission n q) := by
  unfold State.readRoute at read
  simp only [State.takeSubmission]
  rw [known, read]
  simp only [clean, header, armed, if_neg expected, Bool.false_eq_true, if_false]
  rfl

end

/-! A store to the submit register of a stream that is enabled and not in error. -/

variable (hn : n ≤ 63) (on : s.flag RAKE_STREAM_CFG.enable n = true) (sound : s.fld RAKE_STREAM_STATUS.state n ≠ 3)
include hn on sound

omit known in
theorem State.rakeSubmit_reserved (set : bits v 46 40 ≠ 0 ∨ bits v 31 19 ≠ 0 ∨ bits v 18 0 % 32 ≠ 0) :
    s.rakeSubmit n v = s.streamError n 1 (bits v 39 32) (bits v 63 48) (s.submitSide n (bits v 39 32)) := by
  have serves : ¬ (n > 63 ∨ (!s.flag RAKE_STREAM_CFG.enable n) = true ∨ s.fld RAKE_STREAM_STATUS.state n = 3) := by
    simp [on, sound, hn]
  simp only [State.rakeSubmit, if_neg serves, if_pos (Or.inr set)]

variable (zero1 : bits v 46 40 = 0) (zero2 : bits v 31 19 = 0) (aligned : bits v 18 0 % 32 = 0)
include zero1 zero2 aligned

/-- What a submission without a reserved field comes to, by the room in its stream. -/
theorem State.rakeSubmit_eq : s.rakeSubmit n v =
    if (s.stream n).queue.length + (s.stream n).arriving.length ≥ 16 then
      s.streamError n 3 (bits v 39 32) (bits v 63 48) (s.submitSide n (bits v 39 32))
    else if !(s.stream n).arriving.isEmpty then
      (s.setStream n { s.stream n with arriving := (s.stream n).arriving ++ [v] }).syncStream n
    else (s.takeSubmission n v).getD ((s.setStream n { s.stream n with arriving := [v] }).syncStream n) := by
  have serves : ¬ (n > 63 ∨ (!s.flag RAKE_STREAM_CFG.enable n) = true ∨ s.fld RAKE_STREAM_STATUS.state n = 3) := by
    simp [on, sound, hn]
  have fit : ¬ ((s.layer (bits v 39 32)).isNone = true ∨ bits v 46 40 ≠ 0 ∨ bits v 31 19 ≠ 0 ∨ bits v 18 0 % 32 ≠ 0) := by
    simp [known, zero1, zero2, aligned]
  simp only [State.rakeSubmit, if_neg serves, if_neg fit]
  cases s.takeSubmission n v <;> rfl

theorem State.rakeSubmit_full (full : 16 ≤ (s.stream n).queue.length + (s.stream n).arriving.length) :
    s.rakeSubmit n v = s.streamError n 3 (bits v 39 32) (bits v 63 48) (s.submitSide n (bits v 39 32)) := by
  rw [State.rakeSubmit_eq known hn on sound zero1 zero2 aligned, if_pos full]

/-- A submission with none before it that waits is read at once. -/
theorem State.rakeSubmit_read (room : (s.stream n).queue.length < 16) (first : (s.stream n).arriving = []) :
    s.rakeSubmit n v = (s.takeSubmission n v).getD ((s.setStream n { s.stream n with arriving := [v] }).syncStream n) := by
  rw [State.rakeSubmit_eq known hn on sound zero1 zero2 aligned, if_neg (by simp [first, room]), if_neg (by simp [first])]

end

/-! ### Halves (R177, R201) -/

theorem State.armHalf_refused {s : State} {v : Word}
    (bad : (s.layer (bits v 31 24)).isSome = false ∨ bits v 63 48 = 0xFFFF ∨ s.cancelled (bits v 63 48) = true ∨
      (s.halfOf (bits v 31 24) (bit v 22) (bits v 23 23) (bits v 63 48)).isSome = true) :
    s.armHalf v = s.rxRefuse 3 1 3 0xFFFF (bits v 31 24) 0 := by
  simp only [State.armHalf]
  rw [if_pos (by simpa using bad)]

/-- The rake with one more half armed: a training layer's forward half with groups takes its place in the order of R204. -/
def State.withHalf (s : State) (l : Layer) (h : RakeHalf) : State :=
  { s with rake := { s.rake with
    halves := s.rake.halves ++ [h]
    decided := removeKey (decidedKey h.slot h.backward h.half h.epoch) s.rake.decided
    order := if l.train && !h.backward && h.groups != 0 then
      s.rake.order.erase (h.slot, h.half, h.epoch) ++ [(h.slot, h.half, h.epoch)] else s.rake.order } }

/-- The half that a write of `RAKE_HALF_ARM` names. -/
def halfArmed (v : Word) : RakeHalf :=
  { slot := bits v 31 24, backward := bit v 22, half := bits v 23 23, epoch := bits v 63 48, groups := bits v 47 32
    cplArray := bits v 15 4, cplWindow := bits v 2 0 }

theorem State.armHalf_armed {s : State} {v : Word} {l : Layer} (known : s.layer (bits v 31 24) = some l)
    (real : bits v 63 48 ≠ 0xFFFF) (going : s.cancelled (bits v 63 48) = false)
    (fresh : s.halfOf (bits v 31 24) (bit v 22) (bits v 23 23) (bits v 63 48) = none) :
    s.armHalf v = if bits v 47 32 = 0 then
        (s.withHalf l (halfArmed v)).finishHalf (bits v 31 24) (bit v 22) (bits v 23 23) (bits v 63 48)
      else s.withHalf l (halfArmed v) := by
  have good : ¬ ((s.layer (bits v 31 24)).isNone = true ∨ bits v 63 48 = 0xFFFF ∨ s.cancelled (bits v 63 48) = true ∨
      (s.halfOf (bits v 31 24) (bit v 22) (bits v 23 23) (bits v 63 48)).isSome = true) := by
    simp [known, real, going, fresh]
  unfold State.armHalf
  dsimp only
  rw [if_neg good, known]
  rfl

/-! ### Streams (R214) -/

@[simp] theorem State.syncStream_rake (s : State) (n : Nat) : (s.syncStream n).rake = s.rake := by
  unfold State.syncStream
  dsimp only
  split <;> split <;> simp

@[simp] theorem State.syncStream_part (s : State) (n : Nat) : (s.syncStream n).part = s.part := by
  unfold State.syncStream
  dsimp only
  split <;> split <;> simp

/-- A stream without submissions, and not in error, shows IDLE and keeps its error code. -/
theorem State.fld_syncStream_of_empty {s : State} {n : Nat} (hn : n < 64) (empty : s.stream n = {})
    (idle : s.fld RAKE_STREAM_STATUS.state n = 0) :
    (s.syncStream n).fld RAKE_STREAM_STATUS.state n = 0 ∧
      (s.syncStream n).fld RAKE_STREAM_STATUS.err n = s.fld RAKE_STREAM_STATUS.err n := by
  let shown := (s.setFld RAKE_STREAM_STATUS.pending n 0 (s.pendingOf n)).setFld RAKE_STREAM_STATUS.queued n 0 0
  have kept : ∀ f, RAKE_STREAM_STATUS.pending.beside 64 f = true → RAKE_STREAM_STATUS.queued.beside 64 f = true →
      shown.fld f n = s.fld f n := fun f h1 h2 => (State.fld_setFld_beside _ hn h2).trans (s.fld_setFld_beside hn h1)
  have still : shown.fld RAKE_STREAM_STATUS.state n = 0 := (kept _ (by decide) (by decide)).trans idle
  have eq : s.syncStream n = shown.setFld RAKE_STREAM_STATUS.state n 0 0 := by
    simp only [State.syncStream, empty]
    exact if_neg fun error => absurd (still.symm.trans error) (by decide)
  rw [eq]
  exact ⟨State.fld_setFld_unit _ hn (by decide) (by decide),
    (State.fld_setFld_beside _ hn (by decide)).trans (kept _ (by decide) (by decide))⟩

/-- A stream holds nothing and waits for no choice; the others are as before. -/
def State.emptyStream (s : State) (n : Nat) : State :=
  { s with rake := { s.rake with
    streams := Sparse.put {} s.rake.streams n {}, pending := s.rake.pending.filter fun p => p.stream != n } }

theorem State.stream_emptyStream (s : State) (n : Nat) : (s.emptyStream n).stream n = {} := Sparse.get_put_same _ _ _ _

section
variable (s : State) {n : Nat} {v : Word} (hn : n ≤ 63)
include hn

theorem State.streamConfigure_enabled (on : bit v 63 = true) :
    s.streamConfigure n v = s.wr .RAKE_STREAM_CFG n 0 (fieldWrite .RAKE_STREAM_CFG (s.rd .RAKE_STREAM_CFG n) v) := by
  simp only [State.streamConfigure, if_neg hn.not_gt, on, if_true]

theorem State.streamConfigure_disabled (off : bit v 63 = false) :
    s.streamConfigure n v = (((((s.wr .RAKE_STREAM_CFG n 0 (fieldWrite .RAKE_STREAM_CFG (s.rd .RAKE_STREAM_CFG n) v)).emptyStream
      n).setFld RAKE_STREAM_STATUS.state n 0 0).setFld RAKE_STREAM_STATUS.err n 0 0).syncStream n) := by
  simp only [State.streamConfigure, if_neg hn.not_gt, off, Bool.false_eq_true, if_false]
  rfl

end

/-- A stream emptied, and cleared of its error, is idle. -/
theorem State.fld_syncStream_emptyStream (s : State) {n : Nat} (hn : n < 64) :
    ((((s.emptyStream n).setFld RAKE_STREAM_STATUS.state n 0 0).setFld RAKE_STREAM_STATUS.err n 0 0).syncStream n).fld
        RAKE_STREAM_STATUS.state n = 0 ∧
      ((((s.emptyStream n).setFld RAKE_STREAM_STATUS.state n 0 0).setFld RAKE_STREAM_STATUS.err n 0 0).syncStream n).fld
        RAKE_STREAM_STATUS.err n = 0 := by
  have empty : (((s.emptyStream n).setFld RAKE_STREAM_STATUS.state n 0 0).setFld RAKE_STREAM_STATUS.err n 0 0).stream n = {} := by
    simp only [State.stream, State.setFld_rake]
    exact s.stream_emptyStream n
  have idle := State.fld_setFld_unit (s.emptyStream n) (f := RAKE_STREAM_STATUS.state) (v := 0) hn (by decide) (by decide)
  obtain ⟨state, err⟩ := State.fld_syncStream_of_empty hn empty ((State.fld_setFld_beside _ hn (by decide)).trans idle)
  exact ⟨state, err.trans (State.fld_setFld_unit _ hn (by decide) (by decide))⟩

end Sys2Proof.Machine
end

section
open Sys2Proof.Machine

/-- Settles O23: a submission is judged by its own word, then by the room in its stream, then by the route block read. -/
theorem rakeSubmissionQueued : Obligations.RakeSubmissionQueued := by
  refine ⟨?queued, ?reserved, ?judged⟩
  case queued =>
    rintro n g half slot v s u w l q h cells takes hn on sound rfl rfl rfl known zero1 zero2 aligned room first read clean header armed
      live group new rfl
    have taken := State.takeSubmission_taken known read clean header armed (by simpa [live, group] using new)
    refine exec_next_of_written rfl takes ((State.rakeSubmit_read known hn on sound zero1 zero2 aligned room first).trans ?_)
    rw [taken]
    rfl
  case reserved =>
    intro n v s l takes hn on sound known set
    exact exec_next_of_written rfl takes (State.rakeSubmit_reserved hn on sound set)
  case judged =>
    intro n v s u l cells takes hn on sound known zero1 zero2 aligned
    refine ⟨fun full => exec_next_of_written rfl takes (State.rakeSubmit_full known hn on sound zero1 zero2 aligned full),
      fun room first => ?_⟩
    have reads := State.rakeSubmit_read known hn on sound zero1 zero2 aligned room first
    refine ⟨fun read => exec_next_of_written rfl takes (reads.trans ?_), fun read bad => exec_next_of_written rfl takes (reads.trans ?_),
      fun read clean header => exec_next_of_written rfl takes (reads.trans ?_)⟩
    · rw [State.takeSubmission_held known read, Option.getD_none]
    · rw [State.takeSubmission_poisoned known read bad, Option.getD_some]
    · rw [State.takeSubmission_outOfRange known read clean header, Option.getD_some]

/-- Settles O24: an arming and a configuration by their effects; a stream disabled is shown as it is kept, empty. -/
theorem rakeArmsAndStreams : Obligations.RakeArmsAndStreams := by
  refine ⟨?armed, ?refused, ?enabled, ?disabled⟩
  case armed =>
    rintro v s u l slot half epoch b takes rfl rfl rfl rfl known real going fresh rfl
    have armed := State.armHalf_armed known real going fresh
    exact ⟨fun groups => exec_next_of_written rfl takes (armed.trans (if_neg groups)),
      fun empty => exec_next_of_written rfl takes (armed.trans (if_pos empty))⟩
  case refused => exact fun v s takes bad => exec_next_of_written rfl takes (State.armHalf_refused bad)
  case enabled => exact fun n v s takes hn on => exec_next_of_written rfl takes (s.streamConfigure_enabled hn on)
  case disabled =>
    intro n v s takes hn off
    obtain ⟨state, err⟩ := State.fld_syncStream_emptyStream
      (s.wr .RAKE_STREAM_CFG n 0 (fieldWrite .RAKE_STREAM_CFG (s.rd .RAKE_STREAM_CFG n) v)) (Nat.lt_succ_of_le hn)
    refine ⟨_, exec_next_of_written (c := .rakeStreamCfgWrite n v) rfl takes (s.streamConfigure_disabled hn off), ?stream, ?pending,
      (State.fld_settle _ _ ?part _ _ _).trans state, (State.fld_settle _ _ ?part _ _ _).trans err, fun m other => ?others⟩
    case part => simp [State.emptyStream]
    case stream => simp [State.stream, State.emptyStream, Sparse.get_put_same]
    case pending => simp [State.emptyStream]
    case others => simp [State.stream, State.emptyStream, Sparse.get_put_other _ _ _ _ other]

end

section
/-! SUPPORT. Dispatch: how a submission is taken up choice by choice, and the choices without a destination (R177, R178, R182, R187, R188,
R202, R204). -/

namespace Sys2Proof.Machine

/-! ### Taking up a submission (R177, R178, R187, R202) -/

/-- What the taking up of a submission's choices comes to, by how far it went: an error of the stream, a wait at the stream's head, or
the submission taken. -/
def State.dispatchEnds (s : State) (n : Nat) (l : Layer) (q : Submission) (rest : List Submission) (h : RakeHalf)
    (r : State × Submission × Option Completion) : State :=
  let kept := r.1.setStream n { r.1.stream n with queue := r.2.1 :: rest }
  match r.2.2 with
  | some c => kept.streamFailed n q.slot q.g q.backward c
  | none =>
    if r.2.1.next < q.tokens * l.topK then kept.syncStream n
    else
      let taken := (r.1.mapHalf q.slot q.backward q.half q.epoch fun h => { h with taken := h.taken ++ [q.g] }).bump
        RX_PERF_SUBMITS.count 0 0 1
      let early := if l.eager ∧ (List.range q.g).any (fun g => !(h.taken.contains g)) then
          (taken.bump RX_PERF_NDC.count 0 0 1).ndc ((taken.bump RX_PERF_NDC.count 0 0 1).part.dieOf
            (s.fld RAKE_STREAM_CFG.array n)) 1 1
        else taken
      let left := early.setStream n { s.stream n with
        queue := rest, under := if r.2.1.waiting = 0 then (s.stream n).under else (s.stream n).under ++ [r.2.1] }
      (if r.2.1.waiting = 0 then left.submissionDone n r.2.1 else left).syncStream n

section
variable {s x : State} {n : Nat} {l : Layer} {q : Submission} {rest : List Submission} {h : RakeHalf}
  (settled : (s.stream n).arriving = []) (queue : (s.stream n).queue = q :: rest) (sound : s.fld RAKE_STREAM_STATUS.state n ≠ 3)
  (known : s.layer q.slot = some l) (work : s.halfInWork q.slot q.backward = some h)
  (own : h.is q.slot q.backward q.half q.epoch = true) (turn : s.submissionTurn l h q = true)
  (opened : ∀ sp ∈ q.spans l, s.memGate (0x080000000000 + s.fld RAKE_STREAM_CFG.array n * 0x100000 + sp.1) sp.2 ownExt = .opened)
  (seen : s.sramSeen (s.fld RAKE_STREAM_CFG.array n) (q.reads l) = (x, false))
  (range : ∀ m, m < q.tokens * l.topK → leNat (x.sram (s.fld RAKE_STREAM_CFG.array n) (q.idxAddr + 4 * m) 4) < l.experts ∨
    leNat (x.sram (s.fld RAKE_STREAM_CFG.array n) (q.idxAddr + 4 * m) 4) = 0xFFFFFFFF)
include settled queue sound known work own turn opened seen range

/-- The head submission of a stream with every span open and every index in range is taken up to its end. -/
theorem State.rakeDispatch_eq_dispatchEnds :
    s.rakeDispatch n q.backward = s.dispatchEnds n l q rest h (x.takeChoices n l q (q.tokens * l.topK + 1)) := by
  have gates : (q.spans l).map (fun sp => s.memGate (0x080000000000 + s.fld RAKE_STREAM_CFG.array n * 0x100000 + sp.1) sp.2 ownExt) =
      List.replicate (q.spans l).length .opened := List.map_eq_replicate_iff.mpr opened
  have full : ((List.range (q.tokens * l.topK)).map fun m => leNat (x.sram (s.fld RAKE_STREAM_CFG.array n) (q.idxAddr + 4 * m) 4)).findIdx?
      (fun e => e ≥ l.experts && e != 0xFFFFFFFF) = none := by
    refine List.findIdx?_eq_none_iff.mpr fun e he => ?_
    obtain ⟨m, hm, rfl⟩ := List.mem_map.mp he
    rcases range m (List.mem_range.mp hm) with known | absent
    · simp [known.not_ge]
    · simp [absent]
  have served : (List.replicate (q.spans l).length Gate.opened).contains .held = false := by simp
  simp only [State.rakeDispatch]
  rw [settled]
  simp only [State.admitArriving]
  rw [queue]
  simp only [known, work, own, turn, gates, served, seen, full, sound, List.findSome?_replicate, List.length_take, min_self,
    decide_true, ne_eq, not_true, or_self, if_false, Bool.not_true, Bool.false_eq_true, List.length_map, List.length_range, if_true,
    false_and, State.dispatchEnds, ite_self, State.bump_part]
  obtain ⟨u, q1, failure⟩ := x.takeChoices n l q (q.tokens * l.topK + 1)
  cases failure <;> rfl

end

/-! ### Choices without a destination (R182, R188, R202) -/

section
variable (s : State) (n i j : Nat) (l : Layer) (q : Submission)

/-- A choice without a column: its placement word is all ones, and its return row zero. -/
def State.blankChoice : State :=
  (s.placeWord n q (i * l.topK + j) 0xFFFFFFFF).1.zeroRow l false ((q.firstToken + i) * l.topK + j)

theorem State.dispatchForward_absent : s.dispatchForward n l q i j 0xFFFFFFFF =
    ((s.blankChoice n i j l q).bump RX_PERF_ABSENT.count 0 0 1, s.zeroEnd l false ((q.firstToken + i) * l.topK + j) .absent) := by
  simp only [State.dispatchForward, if_true]
  rfl

/-- A layer that drops takes no choice past the expert's cap. -/
theorem State.dispatchForward_dropped {e : Nat} {h : RakeHalf} (named : e ≠ 0xFFFFFFFF) (drops : l.drop = true)
    (armed : s.halfOf q.slot q.backward q.half q.epoch = some h) (full : Sparse.get 0 h.sent e = l.cap) :
    s.dispatchForward n l q i j e =
      (((s.blankChoice n i j l q).bump RX_PERF_DROP.count 0 0 1).mapWindow fun w => { w with dropped := w.dropped + 1 },
        s.zeroEnd l false ((q.firstToken + i) * l.topK + j) .dropped) := by
  simp only [State.dispatchForward, if_neg named, armed, drops, full, and_self, if_true]
  rfl

end

end Sys2Proof.Machine
end

section
open Sys2Proof.Machine

/-- Settles O25: a submission with every bank open and every index in range is taken up to the end that its choices come to. -/
theorem rakeTakesChoices : Obligations.RakeTakesChoices := by
  refine ⟨?taken, ?absent, ?dropped⟩
  case taken =>
    rintro n a s x u v w l q q1 rest h working settled queue sound known work own turn rfl opened seen range
    have ends := State.rakeDispatch_eq_dispatchEnds settled queue sound known work own turn opened seen range
    have row : ∀ t, s.rakeDispatch n q.backward = t → (q.backward = false → exec (.rakeDispatch n) s = .next (s.settle t)) ∧
        (q.backward = true → exec (.backwardDispatch n) s = .next (s.settle t)) := fun t eq =>
      ⟨fun forward => exec_next_of_work rfl working (forward ▸ eq), fun backward => exec_next_of_work rfl working (backward ▸ eq)⟩
    refine ⟨fun c choices hw => row w ?failed, fun choices all hv hw => row _ ?all, fun choices more hw => row w ?waits⟩
    case failed => rw [ends, choices, hw]; rfl
    case all =>
      rw [ends, choices, hw, hv]
      exact if_neg all.not_gt
    case waits =>
      rw [ends, choices, hw]
      exact if_pos more
  case absent => exact fun n i j s l q => s.dispatchForward_absent n i j l q
  case dropped =>
    exact fun n i j e s l q h named drops armed full => s.dispatchForward_dropped n i j l q named drops armed full

end

section
/-! SUPPORT. What accesses to memory, events and the rake's own work leave alone (R78, R90, R92, R185, R199, R200, R289 to R297). -/

namespace Sys2Proof.Machine

/-- A part of the state that lies outside memory, its errors, the arrays, what the controllers, the observability block, Hallmark, the
rake and the fabric keep, and every register but the cancelled epochs; an event leaves it alone. -/
structure OutsideExchange {γ : Type} (p : State → γ) : Prop where
  wr (s : State) (k : RegKind) (i j : Nat) (v : Word) : k ≠ .SLU_EPOCH_MAP → p (s.wr k i j v) = p s
  mem (s : State) (x : List Host.Cell) : p { s with mem := x } = p s
  errors (s : State) (x : List Nat) (y : List (Nat × Bool)) : p { s with poison := x, upsets := y } = p s
  arr (s : State) (x : List (Nat × Arr)) : p { s with arr := x } = p s
  dram (s : State) (x : Dram) : p { s with dram := x } = p s
  obs (s : State) (x : Obs) : p { s with obs := x } = p s
  hmk (s : State) (x : Hmk) : p { s with hmk := x } = p s
  rake (s : State) (x : Rake) : p { s with rake := x } = p s
  fab (s : State) (x : Fab) : p { s with fab := x } = p s
  calm {s t : State} : s.Calm t → p t = p s

theorem outsideExchange_part : OutsideExchange State.part := by
  constructor
  case wr => exact fun s k i j v _ => s.wr_part k i j v
  case calm => exact fun h => h.part
  all_goals intros; rfl

theorem outsideExchange_qm : OutsideExchange State.qm := by
  constructor
  case wr => exact fun s k i j v _ => s.wr_qm k i j v
  case calm => exact fun h => h.qm
  all_goals intros; rfl

theorem outsideExchange_epochs {i : Nat} (hi : i < 65536) : OutsideExchange fun s => s.rd .SLU_EPOCH_MAP i := by
  constructor
  case wr => exact fun s k i' j v other => s.rd_wr_other v other.symm hi (by decide)
  case calm => exact fun h => h.rd _ i 0 rfl hi (by decide)
  all_goals intros; rfl

namespace OutsideExchange

variable {γ : Type} {p : State → γ} (h : OutsideExchange p)
include h

/-! ### Registers, counts and messages -/

theorem setFld (s : State) {f : Fld} {i j v : Nat} (other : f.kind ≠ .SLU_EPOCH_MAP) : p (s.setFld f i j v) = p s :=
  h.wr s f.kind i j _ other

theorem bump (s : State) {f : Fld} {i j n : Nat} (other : f.kind ≠ .SLU_EPOCH_MAP) : p (s.bump f i j n) = p s := by
  unfold State.bump
  split
  · rfl
  · exact h.setFld s other

theorem sat (s : State) {f : Fld} {i j n : Nat} (other : f.kind ≠ .SLU_EPOCH_MAP) : p (s.sat f i j n) = p s := by
  unfold State.sat
  split
  · rfl
  · exact h.setFld s other

theorem mapWindow (s : State) (f : Window → Window) : p (s.mapWindow f) = p s := h.obs s _

theorem mapArray (s : State) (a : Nat) (f : Arr → Arr) : p (s.mapArray a f) = p s := h.arr s _

theorem setPoison (s : State) (k : Nat) : p (s.setPoison k) = p s := h.errors s _ _

theorem mend (s : State) (k : Nat) : p (s.mend k) = p s := h.errors s _ _

theorem setByte (s : State) (k : Nat) (b : Byte) : p (s.setByte k b) = p s := h.mem s _

/-! ### Array SRAM (R78, R90, R92) -/

theorem settleWords (s : State) (on : Nat → Bool) : p (s.settleWords on) = p s := by
  refine (foldl_keeps p _ (fun t u => ?_) _ _).trans (h.errors s _ _)
  split
  · exact h.setPoison t _
  · exact h.mapWindow t _

theorem sramPutMarked (s : State) (a off : Nat) (cells : List (Option (Byte × Bool))) : p (s.sramPutMarked a off cells) = p s := by
  refine (foldl_keeps p _ (fun t i => h.setPoison t _) _ _).trans ((h.settleWords _ _).trans (foldl_keeps p _ (fun t i => ?_) _ _))
  split
  · exact h.setByte t _ _
  · rfl

theorem violate (s : State) (a : Nat) (banks : List Nat) : p (s.violate a banks) = p s :=
  foldl_keeps p _ (fun t _ => h.setFld t (by decide)) _ _

theorem holdAccess (s : State) (a code : Nat) (spans : List (Nat × Nat)) (k : HeldKind) : p (s.holdAccess a code spans k) = p s :=
  h.mapArray s a _

theorem sramEngineWrite (s : State) (a off code : Nat) (cells : List (Option (Byte × Bool))) :
    p (s.sramEngineWrite a off code cells) = p s := by
  unfold State.sramEngineWrite
  dsimp only
  repeat' split
  · rfl
  · exact h.holdAccess s _ _ _ _
  · exact h.sramPutMarked s _ _ _
  · exact h.violate s _ _
  · exact h.holdAccess s _ _ _ _
  · exact h.sramPutMarked s _ _ _

/-- A record in a window moves the window's head, waits at its banks, or is lost (R97, R199). -/
theorem windowRecord (s : State) (a w : Nat) (bs : List Byte) : p (s.windowRecord a w bs).1 = p s := by
  have put : p (s.recordPut a w bs) = p s := by
    unfold State.recordPut State.winAdvance
    dsimp only
    split
    · exact (h.wr _ _ _ _ _ (by decide)).trans (h.sramPutMarked _ _ _ _)
    · exact (h.setFld _ (by decide)).trans (h.sramPutMarked _ _ _ _)
  unfold State.windowRecord
  dsimp only
  repeat' split
  · rfl
  · exact h.setFld s (by decide)
  · exact h.holdAccess s _ _ _ _
  · exact put
  · exact h.holdAccess s _ _ _ _
  · exact h.violate s _ _

/-! ### DRAM (R289 to R297) -/

/-- A count of a stack is none of the cancelled epochs. -/
theorem bumpStack (s : State) (d : Dplace) {x y : Fld} {n : Nat} (hx : x.kind ≠ .SLU_EPOCH_MAP) (hy : y.kind ≠ .SLU_EPOCH_MAP) :
    p (s.bumpStack d x y n) = p s := by
  refine h.bump s ?_
  unfold Dplace.fldOf
  split <;> assumption

theorem satStack (s : State) (d : Dplace) {x y : Fld} {n : Nat} (hx : x.kind ≠ .SLU_EPOCH_MAP) (hy : y.kind ≠ .SLU_EPOCH_MAP) :
    p (s.satStack d x y n) = p s := by
  refine h.sat s ?_
  unfold Dplace.fldOf
  split <;> assumption

theorem logRow (s : State) (d : Dplace) : p (s.logRow d) = p s := by
  unfold State.logRow
  dsimp only
  repeat' split
  · rfl
  · rfl
  · exact h.sat s (by decide)
  · exact (h.hmk _ _).trans ((h.hmk _ _).trans ((h.sat _ (by decide)).trans (h.sat s (by decide))))

theorem noteCorrected (s : State) (d : Dplace) : p (s.noteCorrected d) = p s := by
  have counted : ∀ f, p ((s.satStack d HBM_ECC_CNT.corrected BIT_ECC_CNT.corrected 1).mapWindow f) = p s := fun f =>
    (h.mapWindow _ f).trans (h.satStack s d (by decide) (by decide))
  simp only [State.noteCorrected]
  split
  · exact counted _
  · split
    · exact (h.logRow _ _).trans ((h.dram _ _).trans (counted _))
    · exact (h.dram _ _).trans (counted _)

theorem noteUncorrectable (s : State) (d : Dplace) (scrub : Bool) : p (s.noteUncorrectable d scrub) = p s := by
  unfold State.noteUncorrectable
  dsimp only
  split
  · rfl
  · refine (h.calm (State.calm_raise _ _ _ _ _)).trans ((h.logRow _ _).trans ?_)
    have counted : ∀ t : State, p (t.satStack d HBM_ECC_CNT.uncorrectable BIT_ECC_CNT.uncorrectable 1) = p t := fun t =>
      h.satStack t d (by decide) (by decide)
    split
    · exact (h.wr _ _ _ _ _ (by decide)).trans ((counted _).trans (h.errors s _ _))
    · exact (h.wr _ _ _ _ _ (by decide)).trans ((counted _).trans (h.errors s _ _))

/-- A read meets the errors that stand in its words. -/
theorem meetErrors (s : State) (words : List Nat) : p (s.meetErrors words) = p s := by
  have meets : ∀ (t : State) (d : Dplace), p (t.meetWordOf false d) = p t := fun t d => by
    unfold State.meetWordOf
    split
    · rfl
    · exact (h.noteUncorrectable _ _ _).trans (h.mend t _)
    · split
      · exact h.mend t _
      · exact h.noteCorrected t d
  unfold State.meetErrors
  split
  · rfl
  · refine foldl_keeps p _ (fun t u => ?_) _ _
    split
    · rfl
    · exact meets t _

theorem mendAll (s : State) (words : List Nat) : p (s.mendAll words) = p s := by
  unfold State.mendAll
  split
  · rfl
  · refine foldl_keeps p _ (fun t u => ?_) _ _
    split
    · rfl
    · exact h.mend t _

theorem dput (s : State) (addr : Nat) (cells : List (Option Byte)) : p (s.dput addr cells) = p s := by
  -- the kernel evaluates the place of `addr` before it unfolds `dput` applied, so the function is unfolded alone
  generalize body : State.dput = f
  delta State.dput at body
  subst body
  beta_reduce
  split
  · rfl
  · rw [h.errors]
    refine foldl_keeps p _ (fun t i => ?_) _ _
    split
    · exact h.setByte t _ _
    · rfl

theorem updateEntry (s : State) (at' : Nat) (f : Nat → Nat) : p (s.updateEntry at' f) = p s :=
  (h.mendAll _ _).trans ((h.dput _ _ _).trans (h.meetErrors s _))

/-- A line of a protected range is written with its block's entry, or its poisoned block is reported. -/
theorem lineWrite (s : State) (r : CrcRange) (line : Nat) (cells : List (Option Byte)) : p (s.lineWrite r line cells) = p s := by
  have counted : ∀ d : Dplace, p ((s.meetErrors (eccWords line 128)).bumpStack d HBM_PERF_RMW.count BIT_PERF_RMW.count 1) = p s :=
    fun d => (h.bumpStack _ d (by decide) (by decide)).trans (h.meetErrors s _)
  simp only [State.lineWrite]
  split
  · refine (h.calm (State.calm_raise _ _ _ _ _)).trans ((foldl_keeps p _ (fun t i => ?_) _ _).trans (counted _))
    split
    · exact h.setPoison t _
    · rfl
  · exact (h.updateEntry _ _ _).trans ((h.dput _ _ _).trans (counted _))

theorem writePiece (s : State) (die addr : Nat) (cells : List (Option Byte)) : p (s.writePiece die addr cells) = p s := by
  have counted : ∀ (d : Dplace) (n : Nat), p (s.countBytes d true die n) = p s := fun d n => by
    have bytes := h.bumpStack s d (x := HBM_PERF_WR_BYTES.count) (y := BIT_PERF_WR_BYTES.count) (n := n) (by decide) (by decide)
    simp only [State.countBytes, if_true]
    split
    · exact (h.bump _ (by decide)).trans bytes
    · exact bytes
  -- unfolded alone, as `dput` above
  generalize body : State.writePiece = f
  delta State.writePiece at body
  subst body
  beta_reduce
  split
  · rfl
  · extract_lets
    split
    · split
      · exact (h.updateEntry _ _ _).trans ((h.dput _ _ _).trans (counted _ _))
      · refine (foldl_keeps p _ (fun t line => ?_) _ _).trans (counted _ _)
        extract_lets
        split
        · rfl
        · exact h.lineWrite t _ _ _
    · split
      · exact (h.dput _ _ _).trans (counted _ _)
      · exact (h.dput _ _ _).trans ((h.mendAll _ _).trans ((h.meetErrors _ _).trans (counted _ _)))

theorem dramWrite (s : State) (addr : Nat) (cells : List (Option Byte)) (die : Nat) (errors : List MemError) :
    p (s.dramWrite addr cells die errors).1 = p s := by
  have struck : p (s.strikeDram addr errors) = p s := by
    refine foldl_keeps p _ (fun t e => ?_) _ _
    split
    · rfl
    · unfold State.strikePlace State.strike
      repeat' split
      · rfl
      · rfl
      · exact h.errors t _ _
  have counted : ∀ t : State, p (t.countRmw addr cells) = p t := fun t =>
    foldl_keeps p _ (fun t n => h.bumpStack t ⟨n, 0⟩ (x := HBM_PERF_RMW.count) (y := BIT_PERF_RMW.count) (by decide) (by decide)) _ _
  unfold State.dramWrite
  dsimp only
  split
  · rfl
  · exact (foldl_keeps p _ (fun t _ => h.writePiece t _ _ _) _ _).trans ((counted _).trans struck)

/-! ### Memory of any kind -/

/-- Bytes that an engine places in memory are written, held at a bank, or refused. -/
theorem putMem (s : State) (addr : Nat) (bs : List Byte) (code die : Nat) : p (s.putMem addr bs code die) = p s := by
  have refused : ∀ (len : Nat) (c : Completion), p (s.memRefused addr len code c) = p s := fun len c => by
    unfold State.memRefused
    split
    · exact h.violate s _ _
    · rfl
  unfold State.putMem
  split
  · exact h.sramEngineWrite s _ _ _ _
  · unfold State.memWrite
    repeat' split
    · rfl
    · exact h.sramPutMarked s _ _ _
    · exact h.dramWrite s _ _ _ _
    · rfl
    · exact refused _ _

/-- A notice in a ring writes memory and the ring's pointers (R190). -/
theorem ringNotice (s : State) (ring : Nat) (bs : List Byte) : p (s.ringNotice ring bs) = p s := by
  simp only [State.ringNotice]
  split
  · rfl
  · split
    · exact (h.setFld _ (by decide)).trans ((h.setFld _ (by decide)).trans (h.putMem s _ _ _ _))
    · exact (h.setFld _ (by decide)).trans (h.putMem s _ _ _ _)

end OutsideExchange

end Sys2Proof.Machine
end

section
/-! SUPPORT. The home of an expert: its notices and its groups (R190, R192, R194, R211). -/

namespace Sys2Proof.Machine

section
variable {s : State} {bs : List Byte} {l : Layer} (whole : bs.length = 32) (known : s.layer (byteAt bs 1) = some l)
  (inside : num bs 4 2 % 4096 < l.experts)
include whole known inside

/-- A GROUP notice for an expert that does not rest, of a layer that is not EAGER: its ring takes it, and the group is held. -/
theorem State.groupNotice_eq (kind : byteAt bs 0 = 1) (late : l.eager = false)
    (awake : (s.expert l (num bs 4 2 % 4096)).rests = false) :
    s.groupNotice bs = { s.ringNotice (s.expert l (num bs 4 2 % 4096)).ring bs with
      qm := { s.qm with
        groups := s.qm.groups ++ [{ slot := byteAt bs 1, expert := num bs 4 2 % 4096, rank := byteAt bs 3 % 64
                                    backward := byteAt bs 2 / 2 % 2 == 1, seq := num bs 8 4 % 2 ^ 24 }]
        updates := if l.train then insertKey (resKey (byteAt bs 1) (num bs 4 2 % 4096)) s.qm.updates else s.qm.updates } } := by
  have good : ¬ (byteAt bs 0 ≠ 1 ∨ bs.length ≠ 32 ∨ num bs 4 2 % 4096 ≥ l.experts) := by simp [kind, whole, inside]
  simp only [State.groupNotice]
  rw [known]
  simp only [if_neg good, late, awake, Bool.false_and, Bool.false_eq_true, if_false, outsideExchange_qm.ringNotice]

/-- An END notice while another rank's is outstanding: its ring takes it, a forward one adds its count, and it is kept. -/
theorem State.endNotice_eq {p : Nat} (kind : byteAt bs 0 = 2) (rank : p < l.ranks) (another : p ≠ byteAt bs 3 % 64)
    (out : s.qm.ends.contains (byteAt bs 1, num bs 4 2 % 4096, byteAt bs 2 / 2 % 2 == 1, byteAt bs 2 % 2, num bs 16 2, p) = false)
    (t : State) (ht : t = if byteAt bs 2 / 2 % 2 == 1 then s.ringNotice (s.expert l (num bs 4 2 % 4096)).ring bs
      else (s.ringNotice (s.expert l (num bs 4 2 % 4096)).ring bs).addHist l (num bs 4 2 % 4096) (num bs 12 4)) :
    s.endNotice bs = { t with qm := { t.qm with
      ends := s.qm.ends ++ [(byteAt bs 1, num bs 4 2 % 4096, byteAt bs 2 / 2 % 2 == 1, byteAt bs 2 % 2, num bs 16 2,
        byteAt bs 3 % 64)] } } := by
  have good : ¬ (byteAt bs 0 ≠ 2 ∨ bs.length ≠ 32 ∨ num bs 4 2 % 4096 ≥ l.experts) := by simp [kind, whole, inside]
  have ends : t.qm.ends = s.qm.ends := by
    rw [ht]
    split
    · rw [outsideExchange_qm.ringNotice]
    · simp [State.addHist, State.setHist, outsideExchange_qm.ringNotice]
  have waits : ((List.range l.ranks).all fun p => (s.qm.ends ++ [(byteAt bs 1, num bs 4 2 % 4096, byteAt bs 2 / 2 % 2 == 1,
      byteAt bs 2 % 2, num bs 16 2, byteAt bs 3 % 64)]).contains
        (byteAt bs 1, num bs 4 2 % 4096, byteAt bs 2 / 2 % 2 == 1, byteAt bs 2 % 2, num bs 16 2, p)) = false := by
    refine List.all_eq_false.mpr ⟨p, List.mem_range.mpr rank, ?_⟩
    simpa [another] using out
  simp only [State.endNotice]
  rw [known]
  simp only [if_neg good, ← ht, ends, waits, Bool.false_eq_true, if_false]

end

/-! ### Releases (R186, R194) -/

/-! The rank table is read from memory, whatever the home keeps. -/

theorem State.dbytes_qm (s : State) (x : Qm) (addr n : Nat) : ({ s with qm := x } : State).dbytes addr n = s.dbytes addr n := by
  -- the kernel evaluates the place of `addr` before it unfolds `dbytes` applied, so the function is unfolded alone
  have key : ({ s with qm := x } : State).dkey addr = s.dkey addr := rfl
  generalize body : State.dbytes = f
  delta State.dbytes at body
  subst body
  beta_reduce
  rw [key]
  split
  · rfl
  · rfl

theorem State.getMem_qm (s : State) (x : Qm) (addr len : Nat) : ({ s with qm := x } : State).getMem addr len = s.getMem addr len := by
  unfold State.getMem
  split
  · rfl
  · exact congrArg (List.flatMap · _) (funext fun p => s.dbytes_qm x p.1 p.2)

theorem State.packageOf_qm (s : State) (x : Qm) (l : Layer) (rank : Nat) :
    ({ s with qm := x } : State).packageOf l rank = s.packageOf l rank := congrArg leNat (s.getMem_qm x _ _)
section
variable {s : State} {v : Word} {g : HomeGroup}
  (names : g = { slot := bits v 63 56, expert := bits v 35 24, rank := bits v 55 50, backward := bit v 49, seq := bits v 23 0 })
include names

/-- A group that is held is let go, and its release is sent to the sending rank. -/
theorem State.qmRelease_held {l : Layer} (known : s.layer g.slot = some l) (held : s.qm.groups.contains g = true) :
    s.qmRelease v = ({ s with qm := { s.qm with groups := s.qm.groups.erase g } } : State).send
      { op := 0x11, dst := s.packageOf l g.rank, requester := sluiceCode, addr := rakePort
        payload := noticeBytes 4 g.slot 0 g.backward g.rank g.expert 0 g.seq 0 0 0 } := by
  subst names
  simp only [State.qmRelease]
  rw [known]
  simp only [held, Bool.not_true, Bool.false_eq_true, if_false, State.packageOf_qm]

theorem State.qmRelease_refused (free : s.qm.groups.contains g = false) :
    s.qmRelease v = s.rxRefuse 4 1 4 0xFFFF (bits v 63 56) (bits v 35 24) := by
  subst names
  simp only [State.qmRelease]
  split
  · rfl
  · simp only [free, Bool.not_false, if_true]

end

theorem State.releaseMessage_occupied {s : State} {bs : List Byte} {d : Dest} (kind : byteAt bs 0 = 4)
    (at' : s.dest (byteAt bs 1) (num bs 4 2 % 4096) (byteAt bs 2 / 2 % 2 == 1) = d)
    (taken : d.occupied.contains (num bs 8 4 % 2 ^ 24) = true) :
    s.releaseMessage bs = (s.setDest { d with occupied := d.occupied.erase (num bs 8 4 % 2 ^ 24) }).drainPending
      (byteAt bs 1) (num bs 4 2 % 4096) (byteAt bs 2 / 2 % 2 == 1) (s.rake.pending.length + 1) := by
  simp only [State.releaseMessage, State.releaseArrival, kind, ne_eq, not_true, if_false, at', taken, Bool.not_true,
    Bool.false_eq_true]
  rfl

end Sys2Proof.Machine
end

section
open Sys2Proof.Machine

/-- Settles O26: each notice and each release by what it finds at the expert's home, or at the sending rake. -/
theorem noticesAndReleases : Obligations.NoticesAndReleases := by
  refine ⟨?group, ?ended, ?held, ?free, ?arrives⟩
  case group =>
    rintro bs s l e up whole kind known rfl inside late awake
    exact ⟨_, exec_next_of_live rfl up (State.groupNotice_eq whole known inside kind late awake), rfl, rfl, rfl⟩
  case ended =>
    rintro bs s l e p up whole kind known rfl inside rank another out
    refine ⟨_, exec_next_of_live rfl up (State.endNotice_eq whole known inside kind rank another out _ rfl), rfl, fun backward => ?_,
      fun forward => ?_⟩
    · simp [backward]
    · simp [forward]
  case held =>
    rintro v s l g takes names known held
    exact exec_next_of_written rfl takes (State.qmRelease_held names known held)
  case free =>
    intro v s takes free
    exact exec_next_of_written rfl takes (State.qmRelease_refused rfl free)
  case arrives =>
    rintro bs s d up kind at' taken
    exact exec_next_of_live rfl up (State.releaseMessage_occupied kind at'.symm taken)

end

section
/-! SUPPORT. The residency of experts: what a step, a fetch and a write-back do (R209 to R211, R216). -/

namespace Sys2Proof.Machine

/-! ### Fetches (R210, R216) -/

/-- What the fetches of a prefetch round leave alone: the bins, the groups that are held, and memory. -/
def State.binsGroupsMem (s : State) : List (Nat × List Nat) × List HomeGroup × List Host.Cell := (s.qm.bins, s.qm.groups, s.mem)

/-- A fetch moves experts between their states, whether it finds a slot or none. -/
theorem State.startFetch_binsGroupsMem (s : State) (slot : Nat) (l : Layer) (e : Nat) (prefetch : Bool) :
    (s.startFetch slot l e prefetch).1.binsGroupsMem = s.binsGroupsMem := by
  simp only [State.startFetch]
  split
  · simp [State.binsGroupsMem, State.setRes]
  · split
    · rfl
    · generalize (if prefetch = true then RES_PERF_FETCH_PREFETCH.count else RES_PERF_FETCH_DEMAND.count) = counter
      split
      · simp [State.binsGroupsMem, State.setRes]
      · simp [State.binsGroupsMem, State.setRes]

/-- A fetch that waits takes a free slot of the pool. -/
theorem State.fetchRetry_free {s : State} {slot e pool : Nat} {l : Layer} (known : s.layer slot = some l)
    (waits : s.qm.waiting.contains (resKey slot e) = true) (free : s.freePool l = some pool) :
    s.fetchRetry slot e = (({ s with qm := { s.qm with waiting := s.qm.waiting.erase (resKey slot e) } } : State).setRes
      (l.expertBase + e) resFetching pool).bump RES_PERF_FETCH_DEMAND.count 0 0 1 := by
  simp only [State.fetchRetry]
  rw [known]
  simp only [waits, if_true, State.startFetch]
  rw [free]
  rfl

/-- A write-back whose image was copied ends: the expert rests, and the fetch behind it takes the slot. -/
theorem State.writeBackDone_copied {s u : State} {slot v : Nat} {l wl : Layer} {w : Nat × Nat} (known : s.layer slot = some l)
    (listed : s.qm.writeBacks.find? (fun w => w.1 == resKey slot v) = some w)
    (copied : ({ s with qm := { s.qm with writeBacks := s.qm.writeBacks.erase w } } : State).copyMem
      (l.poolAddr (s.res (l.expertBase + v)).2) (s.expert l v).image (l.slotUnits * 4096) = (u, true))
    (behind : u.layer (w.2 / 4096) = some wl) :
    s.writeBackDone slot v true = (({ u with qm := { u.qm with changed := u.qm.changed.erase (resKey slot v) } } : State).setRes
      (l.expertBase + v) resResting 0).setRes (wl.expertBase + w.2 % 4096) resFetching (s.res (l.expertBase + v)).2 := by
  have waiter : ({ u with qm := { u.qm with changed := u.qm.changed.erase (resKey slot v) } } : State).layer (w.2 / 4096) = some wl :=
    behind
  have image : ({ s with qm := { s.qm with writeBacks := s.qm.writeBacks.erase w } } : State).expert l v = s.expert l v := rfl
  simp only [State.writeBackDone]
  rw [known, listed]
  simp only [if_true, image, copied, waiter, Option.getD_some]

section
variable {s : State} {slot e : Nat} {l : Layer} (known : s.layer slot = some l) (inside : e < l.experts)
  (fetching : (s.res (l.expertBase + e)).1 = resFetching)
include known inside fetching

/-- A fetch whose image was copied ends: its expert is RESIDENT, and its ring is told. -/
theorem State.fetchDone_copied {u : State}
    (copied : s.copyMem (s.expert l e).image (l.poolAddr (s.res (l.expertBase + e)).2) (l.slotUnits * 4096) = (u, true)) :
    s.fetchDone slot e true = (({ u with qm := { u.qm with changed := u.qm.changed.erase (resKey slot e) } } : State).setRes
      (l.expertBase + e) resResident (s.res (l.expertBase + e)).2).ringNotice (s.expert l e).ring
        (noticeBytes 3 slot 0 false 0 e 0 0 0 0 0) := by
  have runs : ¬ (e ≥ l.experts ∨ (s.res (l.expertBase + e)).1 ≠ resFetching) := by simp [inside, fetching]
  simp only [State.fetchDone]
  rw [known]
  simp only [if_neg runs, if_true, copied]

/-- A fetch that fails leaves its expert RESTING, and the failure is reported. -/
theorem State.fetchDone_failed : s.fetchDone slot e false = (s.setRes (l.expertBase + e) resResting 0).fetchFailed slot e := by
  have runs : ¬ (e ≥ l.experts ∨ (s.res (l.expertBase + e)).1 ≠ resFetching) := by simp [inside, fetching]
  simp only [State.fetchDone]
  rw [known]
  simp only [if_neg runs, Bool.false_eq_true, if_false]

end

/-! ### Steps (R211) -/

/-- The histogram sums of a layer's experts are written anew; no more than their registers changes. -/
theorem State.setHists_binsGroupsMem (s : State) (l : Layer) (es : List Nat) :
    (es.foldl (fun s e => s.setHist (l.expertBase + e) (s.histSum l e)) s).binsGroupsMem = s.binsGroupsMem :=
  foldl_keeps State.binsGroupsMem _ (fun t e => by simp [State.binsGroupsMem, State.setHist]) es s

/-- A step opens the next bin of every histogram; what follows leaves the bins, the groups and memory alone. -/
theorem State.resStep_binsGroupsMem (s : State) :
    s.resStep.binsGroupsMem = (s.qm.bins.map (fun b => (b.1, (0 :: b.2).take 16)), s.qm.groups, s.mem) := by
  simp only [State.resStep]
  refine (foldl_keeps (fun x : State × Bool => x.1.binsGroupsMem) _ (fun x y => ?round) _ _).trans ?bins
  case round =>
    split
    · exact x.1.startFetch_binsGroupsMem _ _ _ _
    · rfl
  case bins =>
    dsimp only
    rw [foldl_keeps State.binsGroupsMem]
    · rfl
    intro t slot
    split
    · rfl
    · exact t.setHists_binsGroupsMem _ _

end Sys2Proof.Machine
end

section
open Sys2Proof.Machine

/-- Settles O27: a step by what its parts leave alone; a fetch and a write-back by how their copy ended. -/
theorem residencyMoves : Obligations.ResidencyMoves := by
  refine ⟨?step, ?start, ?back, ?fetched, ?failed⟩
  case step =>
    intro v s takes
    have kept := s.resStep_binsGroupsMem
    simp only [State.binsGroupsMem, Prod.mk.injEq] at kept
    obtain ⟨bins, groups, mem⟩ := kept
    exact ⟨_, exec_next_of_written rfl takes rfl, bins, groups, congrArg Memory.canonical mem⟩
  case start =>
    intro slot e pool s l working known waits free
    exact exec_next_of_work rfl working (State.fetchRetry_free known waits free)
  case back =>
    intro slot v s u l wl w up known listed copied behind
    exact exec_next_of_live rfl up (State.writeBackDone_copied known listed copied behind)
  case fetched =>
    intro slot e s u l up known inside fetching copied
    exact exec_next_of_live rfl up (State.fetchDone_copied known inside fetching copied)
  case failed =>
    intro slot e s l up known inside fetching
    exact exec_next_of_live rfl up (State.fetchDone_failed known inside fetching)

end

section
/-! SUPPORT. The sluice: a store of a request, and the request at the head of its queue (R92, R193 to R197, R206, R207, R253, R291). -/

namespace Sys2Proof.Machine

/-! ### Requests (R92, R195) -/

section
variable {s u : State} {v : Word} {g : Gate} {cells : List (Byte × Bool)}

theorem State.sluSubmit_refused (bad : bits v 47 0 % 32 ≠ 0 ∨ 64 ≤ s.slu.length + s.sluWait.length) :
    s.sluSubmit v = s.rxRefuse 2 1 2 0xFFFF 0 (bits v 47 0) := by
  simp only [State.sluSubmit]
  exact if_pos bad

variable (aligned : bits v 47 0 % 32 = 0) (room : s.slu.length < 64) (first : s.sluWait = [])
include aligned room first

/-- A request with none before it that waits is read at once. -/
theorem State.sluSubmit_read : s.sluSubmit v = (s.sluTake (bits v 47 0)).getD { s with sluWait := [bits v 47 0] } := by
  have good : ¬ (bits v 47 0 % 32 ≠ 0 ∨ s.slu.length + s.sluWait.length ≥ 64) := by simp [aligned, first, room]
  simp only [State.sluSubmit, if_neg good]
  simp only [first, List.isEmpty_nil, Bool.not_true, Bool.false_eq_true, if_false]
  cases s.sluTake (bits v 47 0) <;> rfl

variable (read : s.memRead (bits v 47 0) 32 ownExt dieHub = (u, g, cells))
include read

theorem State.sluSubmit_held (held : g = .held) : s.sluSubmit v = { s with sluWait := [bits v 47 0] } := by
  rw [State.sluSubmit_read aligned room first]
  simp only [State.sluTake, read, held, if_true, Option.getD_none]

theorem State.sluSubmit_judged (answered : g ≠ .held)
    (bad : g ≠ .opened ∨ cells.any (·.2) = true ∨ s.sluBad (cells.map (·.1)) = true) :
    s.sluSubmit v = u.rxRefuse 2 1 2 0xFFFF (byteAt (cells.map (·.1)) 1) (bits v 47 0) := by
  rw [State.sluSubmit_read aligned room first]
  simp only [State.sluTake, read, if_neg answered, if_pos bad, Option.getD_some]

theorem State.sluSubmit_queued (opened : g = .opened) (clean : cells.any (·.2) = false) (fits : s.sluBad (cells.map (·.1)) = false) :
    s.sluSubmit v = { u with slu := u.slu ++ [SluReq.parse (cells.map (·.1))] } := by
  have good : ¬ (Gate.opened ≠ .opened ∨ cells.any (·.2) = true ∨ s.sluBad (cells.map (·.1)) = true) := by simp [clean, fits]
  rw [State.sluSubmit_read aligned room first]
  simp only [State.sluTake, read, opened, if_neg (show ¬ Gate.opened = .held by decide), if_neg good, Option.getD_some]

end

/-! ### The head of the queue (R193, R196, R207) -/

section
variable {s u : State} {r : SluReq} {rs : List SluReq} {l : Layer} {cells : List (Byte × Bool)} (first : s.sluWait = [])
  (queue : s.slu = r :: rs)
include first queue

/-- A group whose banks are open is copied, with its poison. -/
theorem State.gather_copied (kind : r.kind = 1) (known : s.layer r.slot = some l)
    (target : s.memGate (winAddr r.array r.a) (l.groupBytes r.backward) ownExt = .opened)
    (source : s.memGate (r.addr % 2 ^ 48) (l.groupBytes r.backward) ownExt = .opened)
    (read : s.memRead (r.addr % 2 ^ 48) (l.groupBytes r.backward) ownExt dieHub = (u, .opened, cells)) :
    s.gather = ((u.memWrite (winAddr r.array r.a) (cells.map fun c => some c.1) ownExt 2).1.copyPoison
      (winAddr r.array r.a) cells).sluEnd r 0x13 0 0 0 := by
  -- the kernel, where it compares the arms of the two matches, would evaluate the gates down to the literals of the memory map
  obtain ⟨gate, closed⟩ : ∃ gate, gate = s.memGate := ⟨_, rfl⟩
  unfold State.gather
  rw [first, State.sluAdmit]
  extract_lets t
  subst t
  rw [queue]
  rw [← closed] at target source ⊢
  simp only [kind, ne_eq, not_true, if_false]
  rw [known]
  simp only [target, source, read]

/-- A row for each slot in use is sent where its tag says, once each source has its credits. -/
theorem State.returnRows_sent {v : State} {rows : List (Nat × Nat)} (kind : r.kind = 2) (known : s.layer r.slot = some l)
    (opened : ∀ sp ∈ [(r.a, l.codeBytes r.backward), (r.b, l.d), (r.c, 256)], s.memGate (winAddr r.array sp.1) sp.2 ownExt = .opened)
    (seen : s.sramSeen r.array [(r.c, 8 * r.n)] = (u, false))
    (used : ((List.range r.n).map fun t => (t, leNat (u.sram r.array (r.c + 8 * t) 8))).filter (fun x => x.2 != emptyTag) = rows)
    (credit : ∀ x ∈ rows, u.rowsToward (u.packageOf l (x.2 / 2 ^ 24 % 64)) +
      (rows.filter fun y => u.packageOf l (y.2 / 2 ^ 24 % 64) == u.packageOf l (x.2 / 2 ^ 24 % 64)).length ≤ 512)
    (met : (u.sramSeen r.array (rows.flatMap fun x => rowSpans l r x.1)).1 = v) :
    s.returnRows = (rows.foldl (fun t x => t.send
      { op := 0x11, dst := u.packageOf l (x.2 / 2 ^ 24 % 64), requester := sluiceCode, addr := rakePort
        payload := rowBytes r.slot r.backward (v.returnRow l r x.1).2.2 x.2 (v.returnRow l r x.1).1 (v.returnRow l r x.1).2.1 })
      v).sluEnd r 0x14 ((rows.map (·.2)).headD 0 / 2 ^ 47 % 2) ((rows.map (·.2)).headD 0 / 2 ^ 48) rows.length := by
  have gates : [(r.a, l.codeBytes r.backward), (r.b, l.d), (r.c, 256)].map (fun sp => s.memGate (winAddr r.array sp.1) sp.2 ownExt) =
      List.replicate 3 .opened := List.map_eq_replicate_iff.mpr opened
  have served : (List.replicate 3 Gate.opened).contains .held = false := rfl
  have accepted : (List.replicate 3 Gate.opened).any (· != .opened) = false := rfl
  have enough : (rows.any fun x => Decidable.decide (u.rowsToward (u.packageOf l (x.2 / 2 ^ 24 % 64)) +
      (rows.filter fun y => u.packageOf l (y.2 / 2 ^ 24 % 64) == u.packageOf l (x.2 / 2 ^ 24 % 64)).length > 512)) = false :=
    List.any_eq_false.mpr fun x hx => by simpa using credit x hx
  simp only [State.returnRows]
  rw [first, State.sluAdmit, queue]
  simp only [kind, ne_eq, not_true, if_false]
  rw [known]
  simp only [gates, served, accepted, seen, used, enough, met, Bool.false_eq_true, if_false]
  cases rows <;> rfl

/-- A gradient is read: with a word of it poisoned no segment is sent. -/
theorem State.segment_read (kind : r.kind = 3) (gate : s.memGate (winAddr r.array (gradientOff r.a)) (32 + r.len) ownExt = .opened)
    (read : s.memRead (winAddr r.array (gradientOff r.a)) (32 + r.len) ownExt dieHub = (u, .opened, cells)) :
    s.segment = if cells.any (·.2) then u.sluFail r else
      ((u.storeTo (r.addr / 2 ^ 48) sluiceCode 0 (r.addr % 2 ^ 48)
        ((cells.map (·.1)).take 20 ++ leBytes 4 (if r.len = 0 then 0 else crc32c ((cells.map (·.1)).drop 32)) ++
          ((cells.map (·.1)).drop 24).take 8 ++ (cells.map (·.1)).drop 32)).send
        { op := 2, dst := r.addr / 2 ^ 48, requester := sluiceCode, addr := segArriveAddr / 128 * 128
          mask := 255 * 2 ^ (segArriveAddr - segArriveAddr / 128 * 128), behind := true
          payload := List.replicate (segArriveAddr - segArriveAddr / 128 * 128) 0#8 ++ leBytes 8 (r.addr % 2 ^ 48) ++
            List.replicate (120 - (segArriveAddr - segArriveAddr / 128 * 128)) 0#8 }).sluEnd r 0x15 0 0 0 := by
  simp only [State.segment]
  rw [first, State.sluAdmit, queue]
  simp only [kind, ne_eq, not_true, if_false]
  rw [gate]
  simp only [read]

end

end Sys2Proof.Machine
end

section
open Sys2Proof.Machine

/-- Settles O28: a store by what its read finds; the head of the queue by its kind, with its banks open. -/
theorem sluiceRequests : Obligations.SluiceRequests := by
  refine ⟨?queued, ?judged, ?refused, ?gather, ?rows, ?segment⟩
  case queued =>
    intro v s u cells takes aligned room first read clean fits
    exact exec_next_of_written rfl takes (State.sluSubmit_queued aligned room first read rfl clean fits)
  case judged =>
    intro v s u cells g takes aligned room first read
    exact ⟨fun held => exec_next_of_written rfl takes (State.sluSubmit_held aligned room first read held),
      fun answered bad => exec_next_of_written rfl takes (State.sluSubmit_judged aligned room first read answered bad)⟩
  case refused =>
    intro v s takes bad
    exact exec_next_of_written rfl takes (State.sluSubmit_refused bad)
  case gather =>
    intro s u r rs l cells working first queue kind known target source read
    exact exec_next_of_work rfl working (State.gather_copied first queue kind known target source read)
  case rows =>
    rintro s u v r rs l rows working first queue kind known opened seen used credit met
    exact exec_next_of_work rfl working (State.returnRows_sent first queue kind known opened seen used.symm credit met.symm)
  case segment =>
    rintro s u r rs cells bs crc line working first queue kind gate read rfl rfl rfl
    have sent := State.segment_read first queue kind gate read
    exact ⟨fun bad => exec_next_of_work rfl working (sent.trans (if_pos bad)),
      fun clean => exec_next_of_work rfl working (sent.trans (if_neg (Bool.eq_false_iff.mp clean)))⟩

end

section
/-! SUPPORT. Return rows, and the cancelling of epochs: what a cancel's own work leaves alone, and its mark (R185, R198 to R201). -/

namespace Sys2Proof.Machine

/-! ### What the rake leaves alone when it ends a half or a stream's work (R185, R199, R200) -/

namespace OutsideExchange

variable {γ : Type} {p : State → γ} (h : OutsideExchange p)
include h

theorem placeWord (s : State) (n : Nat) (q : Submission) (m v : Nat) : p (s.placeWord n q m v).1 = p s := h.sramEngineWrite s _ _ _ _

theorem rakeDone (s : State) (n : Nat) (q : Submission) : p (s.rakeDone n q).1 = p s := h.windowRecord s _ _ _

theorem syncStream (s : State) (n : Nat) : p (s.syncStream n) = p s := by
  simp only [State.syncStream]
  split <;> split <;> simp only [h.setFld (f := RAKE_STREAM_STATUS.pending) _ (by decide),
    h.setFld (f := RAKE_STREAM_STATUS.queued) _ (by decide), h.setFld (f := RAKE_STREAM_STATUS.g) _ (by decide),
    h.setFld (f := RAKE_STREAM_STATUS.state) _ (by decide)]

theorem cancelStream (s : State) (epoch n : Nat) : p (s.cancelStream epoch n) = p s := by
  have ends : ∀ (t : State) (q : Submission) (ns : List Nat),
      p ((ns.foldl (fun t m => (t.placeWord n q m 0xFFFFFFFF).1) t).rakeDone n q).1 = p t := fun t q ns =>
    (h.rakeDone _ n q).trans (foldl_keeps p _ (fun t m => h.placeWord t n q m _) ns t)
  simp only [State.cancelStream]
  exact (h.syncStream _ _).trans ((h.rake _ _).trans ((h.rake _ _).trans
    ((foldl_keeps p _ (fun t q => ends t q _) _ _).trans (foldl_keeps p _ (fun t q => ends t q _) _ _))))

theorem decideHalf (s : State) (slot : Nat) (backward : Bool) (half epoch : Nat) : p (s.decideHalf slot backward half epoch) = p s := by
  simp only [State.decideHalf]
  split
  · rfl
  · split
    · rfl
    · split
      · exact (h.rake _ _).trans (h.windowRecord s _ _ _)
      · split
        · exact (h.rake _ _).trans (h.windowRecord s _ _ _)
        · rfl

theorem closeGroup (s : State) (l : Layer) (d : Dest) (g : OpenGroup) : p (s.closeGroup l d g) = p s :=
  (h.rake _ _).trans ((h.bump _ (by decide)).trans ((h.fab _ _).trans (h.fab s _)))

theorem finishHalf (s : State) (slot : Nat) (backward : Bool) (half epoch : Nat) : p (s.finishHalf slot backward half epoch) = p s := by
  simp only [State.finishHalf]
  split
  · split
    · rfl
    · refine (h.decideHalf _ _ _ _ _).trans ((foldl_keeps p _ (fun t e => h.fab t _) _ _).trans
        ((foldl_keeps p _ (fun t d => foldl_keeps p _ (fun t g => h.closeGroup t _ d g) _ t) _ _).trans ?_))
      split
      · exact (h.rake _ _).trans (h.rake s _)
      · exact h.rake s _
  · rfl

/-- Once its mark is set, a cancel works on the rake alone. -/
theorem cancelEpoch (s : State) (epoch : Nat) : p (s.cancelEpoch epoch) =
    p (s.wr .SLU_EPOCH_MAP (epoch / 64) 0 (setBits (s.rd .SLU_EPOCH_MAP (epoch / 64)) (epoch % 64) (epoch % 64) 1)) := by
  simp only [State.cancelEpoch]
  refine (foldl_keeps p _ (fun t x => h.decideHalf t _ _ _ _) _ _).trans ((foldl_keeps p _ (fun t x => h.finishHalf t _ _ _ _) _ _).trans
    ((h.rake _ _).trans ((foldl_keeps p _ (fun t n => h.cancelStream t _ n) _ _).trans ?_)))
  split
  · exact h.bump _ (by decide)
  · rfl

end OutsideExchange

/-! ### An epoch's mark (R200, R201) -/

/-- A bit reads what is written to it. -/
theorem bit_setBits_same (w : Word) {i : Nat} (v : Nat) (hi : i < 64) : bit (setBits w i i v) i = decide (v % 2 = 1) := by
  rw [bit_eq_bits, bits_setBits_same w i i v le_rfl hi, Nat.sub_self, Nat.zero_add, Nat.pow_one]

/-- Another bit reads as before. -/
theorem bit_setBits_other (w : Word) {i j : Nat} (v : Nat) (hi : i < 64) (other : j ≠ i) : bit (setBits w i i v) j = bit w j := by
  rw [bit_eq_bits, bit_eq_bits]
  rcases Nat.lt_or_gt_of_ne other with below | above
  · rw [bits_setBits_below w i i v j j le_rfl hi below le_rfl]
  · rw [bits_setBits_above w i i v j j le_rfl hi above]

/-- The state with an epoch's bit written. -/
def State.markEpoch (s : State) (epoch v : Nat) : State :=
  s.wr .SLU_EPOCH_MAP (epoch / 64) 0 (setBits (s.rd .SLU_EPOCH_MAP (epoch / 64)) (epoch % 64) (epoch % 64) v)

theorem inRange_epochWord {epoch : Nat} (he : epoch < 65536) : RegKind.SLU_EPOCH_MAP.inRange (epoch / 64) 0 = true := by
  have word : epoch / 64 < 1024 := by omega
  simp [RegKind.inRange, RegKind.shape, word]

section
variable (s : State) {epoch v : Nat} (he : epoch < 65536)
include he

theorem State.cancelled_markEpoch_same : (s.markEpoch epoch v).cancelled epoch = Decidable.decide (v % 2 = 1) := by
  rw [State.cancelled, State.markEpoch, State.rd_wr_same _ _ _ _ _ (inRange_epochWord he) rfl, bit_setBits_same _ _ (Nat.mod_lt _ (by decide))]

/-- The other epochs are as they were: another bit of the same word, or another word. -/
theorem State.cancelled_markEpoch_other {e : Nat} (he' : e < 65536) (other : e ≠ epoch) :
    (s.markEpoch epoch v).cancelled e = s.cancelled e := by
  rw [State.cancelled, State.markEpoch, State.cancelled]
  by_cases word : e / 64 = epoch / 64
  · rw [word, State.rd_wr_same _ _ _ _ _ (inRange_epochWord he) rfl, bit_setBits_other _ _ (Nat.mod_lt _ (by decide)) (by omega)]
  · rw [State.rd_wr_index s _ _ 0 _ 0 _ (.inl word) (by omega) (by decide) (by omega) (by decide)]

end

theorem State.cancelled_congr {s t : State} {e : Nat} (h : t.rd .SLU_EPOCH_MAP (e / 64) = s.rd .SLU_EPOCH_MAP (e / 64)) :
    t.cancelled e = s.cancelled e := congrArg (bit · (e % 64)) h

theorem State.cancelled_settle (s : State) {t : State} (part : t.part = s.part) (e : Nat) : (s.settle t).cancelled e = t.cancelled e :=
  State.cancelled_congr (State.rd_settle s t part _ _ _)

theorem State.cancelled_cancelEpoch (s : State) (epoch : Nat) {e : Nat} (he : e < 65536) :
    (s.cancelEpoch epoch).cancelled e = (s.markEpoch epoch 1).cancelled e :=
  State.cancelled_congr ((outsideExchange_epochs (show e / 64 < 65536 by omega)).cancelEpoch s epoch)

@[simp] theorem State.cancelEpoch_part (s : State) (epoch : Nat) : (s.cancelEpoch epoch).part = s.part :=
  (outsideExchange_part.cancelEpoch s epoch).trans (s.wr_part _ _ _ _)

/-! ### Return rows (R198, R199) -/

section
variable {s : State} {bs : List Byte} {l : Layer} (kind : byteAt bs 0 = 5) (known : s.layer (byteAt bs 1) = some l)
include kind known

theorem State.takeRow_dropped (gone : s.cancelled (num bs 8 8 / 2 ^ 48) = true) :
    s.takeRow bs = (((s.bump SLU_PERF_CANCEL_DROP.count 0 0 1).mapWindow fun w =>
      { w with cancelRows := w.cancelRows + 1 }).mapHalf (byteAt bs 1) (byteAt bs 2 / 2 % 2 == 1) (num bs 8 8 / 2 ^ 47 % 2)
        (num bs 8 8 / 2 ^ 48) fun h => { h with dropped := h.dropped + 1 }).decideHalf (byteAt bs 1) (byteAt bs 2 / 2 % 2 == 1)
          (num bs 8 8 / 2 ^ 47 % 2) (num bs 8 8 / 2 ^ 48) := by
  simp only [State.takeRow]
  rw [known]
  simp only [kind, gone, ne_eq, not_true, if_false, if_true]

/-- The codes and the scales are put into the return region, poisoned where they were sent so. -/
theorem State.takeRow_committed {n nc : Nat} (live : s.cancelled (num bs 8 8 / 2 ^ 48) = false)
    (place : num bs 8 8 % 2 ^ 24 * l.topK + num bs 8 8 / 2 ^ 43 % 16 = n)
    (codes : l.d * half2 (l.fmtOf (byteAt bs 2 / 2 % 2 == 1)) / 2 = nc) (u : State)
    (written : (s.putMem (retCodes l (byteAt bs 2 / 2 % 2 == 1) n) ((bs.drop 16).take nc) ownExt dieHub).putMem
      (retScales l (byteAt bs 2 / 2 % 2 == 1) n) ((bs.drop (16 + nc)).take (l.d / 32)) ownExt dieHub = u) :
    s.takeRow bs = ((((if byteAt bs 3 % 2 = 1 then
        (u.copyPoison (retCodes l (byteAt bs 2 / 2 % 2 == 1) n) (((bs.drop 16).take nc).map fun b => (b, true))).copyPoison
          (retScales l (byteAt bs 2 / 2 % 2 == 1) n) (((bs.drop (16 + nc)).take (l.d / 32)).map fun b => (b, true))
      else u).bump SLU_PERF_ROWS.count 0 0 1).mapHalf (byteAt bs 1) (byteAt bs 2 / 2 % 2 == 1) (num bs 8 8 / 2 ^ 47 % 2)
        (num bs 8 8 / 2 ^ 48) fun h => { h with committed := h.committed + 1 }).decideHalf (byteAt bs 1) (byteAt bs 2 / 2 % 2 == 1)
          (num bs 8 8 / 2 ^ 47 % 2) (num bs 8 8 / 2 ^ 48)) := by
  simp only [State.takeRow]
  rw [known]
  simp only [kind, live, place, codes, written, ne_eq, not_true, if_false, Bool.false_eq_true]

end

end Sys2Proof.Machine
end

section
open Sys2Proof.Machine

/-- Settles O29: rows by their epoch's mark; a cancel's work on the rake leaves every mark as the cancel wrote it. -/
theorem rowsReturnEpochsCancel : Obligations.RowsReturnEpochsCancel := by
  refine ⟨?arrives, ?single, ?committed, ?dropped, ?cancel, ?arm⟩
  case arrives => exact fun bs s up => exec_next_of_live rfl up rfl
  case single =>
    intro bs s one
    rw [State.takeRows, one]
    rfl
  case committed =>
    rintro bs s u l b tag n nc kind known rfl rfl live rfl rfl written
    exact State.takeRow_committed kind known live rfl rfl u written.symm
  case dropped =>
    rintro bs s l b tag kind known rfl rfl gone
    exact State.takeRow_dropped kind known gone
  case cancel =>
    intro v s takes
    have he : bits v 15 0 < 65536 := bits_lt v 15 0
    have part := s.cancelEpoch_part (bits v 15 0)
    refine ⟨_, exec_next_of_written rfl takes rfl, ?_, fun e lt other => ?_⟩
    · rw [State.cancelled_settle s part, s.cancelled_cancelEpoch _ he, s.cancelled_markEpoch_same he]
      rfl
    · rw [State.cancelled_settle s part, s.cancelled_cancelEpoch _ lt, s.cancelled_markEpoch_other he lt other]
  case arm =>
    intro v s takes
    have he : bits v 15 0 < 65536 := bits_lt v 15 0
    let t : State := { s with rake := { s.rake with decided := s.rake.decided.filter fun k => k / 1024 != bits v 15 0 } }
    have part : (t.markEpoch (bits v 15 0) 0).part = s.part := State.wr_part _ _ _ _ _
    refine ⟨s.settle (t.markEpoch (bits v 15 0) 0), exec_next_of_written rfl takes rfl, ?_, ?_, fun e lt other => ?_⟩
    · rw [State.cancelled_settle s part, t.cancelled_markEpoch_same he]
      rfl
    · simp [t, State.markEpoch]
    · rw [State.cancelled_settle s part, t.cancelled_markEpoch_other he lt other]
      rfl

end

section
/-! SUPPORT. Chapter 07: what `STG_STEP_STATUS` shows, the stage slots, and the arming of a step (R224, R242, R245). -/

namespace Sys2Proof.Machine

/-! ### `STG_STEP_STATUS` (R245) -/

/-- What `STG_STEP_STATUS` shows of the package's step. -/
structure State.ShowsStep (s : State) (state cause user step : Nat) : Prop where
  state : s.fld STG_STEP_STATUS.state = state
  cause : s.fld STG_STEP_STATUS.cause = cause
  user : s.fld STG_STEP_STATUS.user_code = user
  step : s.fld STG_STEP_STATUS.step = step

theorem State.showsStep_self (s : State) : s.ShowsStep (s.fld STG_STEP_STATUS.state) (s.fld STG_STEP_STATUS.cause)
    (s.fld STG_STEP_STATUS.user_code) (s.fld STG_STEP_STATUS.step) := ⟨rfl, rfl, rfl, rfl⟩

namespace State.ShowsStep

variable {s t : State} {state cause user step v : Nat} (h : s.ShowsStep state cause user step)
include h

theorem congr (same : t.rd .STG_STEP_STATUS = s.rd .STG_STEP_STATUS) : t.ShowsStep state cause user step :=
  ⟨(congrArg (bits · _ _) same).trans h.state, (congrArg (bits · _ _) same).trans h.cause,
    (congrArg (bits · _ _) same).trans h.user, (congrArg (bits · _ _) same).trans h.step⟩

theorem settle (part : s.part = t.part) : (t.settle s).ShowsStep state cause user step :=
  h.congr (State.rd_settle t s part _ _ _)

theorem setState (fits : v < 16) : (s.setFld STG_STEP_STATUS.state 0 0 v).ShowsStep v cause user step :=
  ⟨s.fld_setFld_unit Nat.one_pos (by decide) fits, (s.fld_setFld_beside Nat.one_pos (by decide)).trans h.cause,
    (s.fld_setFld_beside Nat.one_pos (by decide)).trans h.user, (s.fld_setFld_beside Nat.one_pos (by decide)).trans h.step⟩

theorem setCause (fits : v < 256) : (s.setFld STG_STEP_STATUS.cause 0 0 v).ShowsStep state v user step :=
  ⟨(s.fld_setFld_beside Nat.one_pos (by decide)).trans h.state, s.fld_setFld_unit Nat.one_pos (by decide) fits,
    (s.fld_setFld_beside Nat.one_pos (by decide)).trans h.user, (s.fld_setFld_beside Nat.one_pos (by decide)).trans h.step⟩

theorem setUser (fits : v < 256) : (s.setFld STG_STEP_STATUS.user_code 0 0 v).ShowsStep state cause v step :=
  ⟨(s.fld_setFld_beside Nat.one_pos (by decide)).trans h.state, (s.fld_setFld_beside Nat.one_pos (by decide)).trans h.cause,
    s.fld_setFld_unit Nat.one_pos (by decide) fits, (s.fld_setFld_beside Nat.one_pos (by decide)).trans h.step⟩

theorem setStep (fits : v < 2 ^ 32) : (s.setFld STG_STEP_STATUS.step 0 0 v).ShowsStep state cause user v :=
  ⟨(s.fld_setFld_beside Nat.one_pos (by decide)).trans h.state, (s.fld_setFld_beside Nat.one_pos (by decide)).trans h.cause,
    (s.fld_setFld_beside Nat.one_pos (by decide)).trans h.user, s.fld_setFld_unit Nat.one_pos (by decide) fits⟩

end State.ShowsStep

/-! ### Stage slots -/

@[simp] theorem State.stage_setStage (s : State) (n : Nat) (x : Stage) (m : Nat) :
    (s.setStage n x).stage m = if m = n then x else s.stage m := Sparse.get_put _ _ _ _ _

@[simp] theorem State.rd_setStage (s : State) (n : Nat) (x : Stage) (k : RegKind) (i j : Nat) : (s.setStage n x).rd k i j = s.rd k i j := rfl

@[simp] theorem State.fld_setStage (s : State) (n : Nat) (x : Stage) (f : Fld) (i j : Nat) : (s.setStage n x).fld f i j = s.fld f i j := rfl

@[simp] theorem State.setStage_part (s : State) (n : Nat) (x : Stage) : (s.setStage n x).part = s.part := rfl

theorem State.stage_congr {s t : State} (h : t.stg = s.stg) (n : Nat) : t.stage n = s.stage n := by rw [State.stage, h, State.stage]

/-- A slot's table entry is read from its own registers. -/
theorem State.stageEntry_congr {s t : State} {n : Nat} (h : ∀ j, j < 8 → t.rd .STG_ENTRY n j = s.rd .STG_ENTRY n j) :
    t.stageEntry n = s.stageEntry n := by
  simp only [State.stageEntry, State.tableBytes, List.flatMap_def]
  congr 2
  exact List.map_congr_left fun j hj => by rw [h j (List.mem_range.mp hj)]

theorem State.mem_validStages {s : State} {n : Nat} : n ∈ s.validStages ↔ n < 64 ∧ (s.stageEntry n).valid = true := by
  simp [State.validStages]

theorem State.nodup_validStages (s : State) : s.validStages.Nodup := List.nodup_range.filter _

/-- Slots each changed once, by its own state. -/
theorem State.stage_foldl_setStage (g : Stage → Stage) (s : State) {l : List Nat} (once : l.Nodup) (n : Nat) :
    (l.foldl (fun t m => t.setStage m (g (t.stage m))) s).stage n = if n ∈ l then g (s.stage n) else s.stage n := by
  induction l generalizing s with
  | nil => rfl
  | cons m l ih =>
    obtain ⟨fresh, once⟩ := List.nodup_cons.mp once
    rw [List.foldl_cons, ih _ once]
    by_cases same : n = m
    · subst same
      simp [fresh]
    · simp [same]

/-- A stage that has not freed all M micro-batches of the armed step keeps the package from LOCAL_DONE (R238). -/
theorem State.checkLocalDone_of_unfinished {s : State} {m : Nat} (valid : m ∈ s.validStages) (left : (s.stage m).freed ≠ s.stg.mbs) :
    s.checkLocalDone = s := by
  have unfinished : (s.validStages.all fun n => (s.stage n).freed == s.stg.mbs) = false :=
    List.all_eq_false.mpr ⟨m, valid, by simpa using left⟩
  simp [State.checkLocalDone, unfinished]

/-! ### The arming of a step (R224, R242) -/

/-- A stage whose counts of the step start anew. -/
def Stage.anew (x : Stage) : Stage :=
  { x with freed := 0, inFwd := { x.inFwd with mb := 0, span := 0, spans := 0 }, inBwd := { x.inBwd with mb := 0, span := 0, spans := 0 } }

/-- `STG_STEP_STATUS` shows a step armed. -/
def State.showArmed (s : State) (step : Nat) : State :=
  (((s.setFld STG_STEP_STATUS.state 0 0 stArmed).setFld STG_STEP_STATUS.step 0 0 step).setFld STG_STEP_STATUS.cause 0 0 0).setFld
    STG_STEP_STATUS.user_code 0 0 0

/-- What is kept of the step's number from an earlier use is gone, and its micro-batches are M (R224, R258). -/
def State.forgetStep (s : State) (mbs step : Nat) : State :=
  { s with
    stg := { s.stg with mbs := mbs, decided := s.stg.decided.erase (step, s.stg.attempts) }
    tmp := { s.tmp with norms := s.tmp.norms.filter fun (y : Nat × Nat × Nat) => y.2.1 != step
                        stopped := s.tmp.stopped.filter fun (y : Nat × Nat) => y.2 != step } }

@[simp] theorem State.rd_forgetStep (s : State) (mbs step : Nat) (k : RegKind) (i j : Nat) :
    (s.forgetStep mbs step).rd k i j = s.rd k i j := rfl

@[simp] theorem State.stage_forgetStep (s : State) (mbs step n : Nat) : (s.forgetStep mbs step).stage n = s.stage n := rfl

/-- The valid stages' counts start anew. -/
def State.startCounts (s : State) : State := s.validStages.foldl (fun t n => t.setStage n (t.stage n).anew) s

/-- Every shard shows the armed step's segments. -/
def State.showPresent (s : State) : State := s.shardList.foldl (fun t x => t.syncPresent x.1) s

/-- What an arming makes of the state before it looks for stages that have nothing to do. -/
def State.armed (s : State) (v : Word) : State :=
  ((s.showArmed (bits v 63 32)).forgetStep (bits v 31 16) (bits v 63 32)).startCounts.showPresent

theorem State.stepArm_ignored {s : State} {v : Word}
    (bad : (s.fld STG_STEP_STATUS.state ≠ 0 ∧ s.fld STG_STEP_STATUS.state ≠ 2) ∨ bits v 31 16 = 0) : s.stepArm v = s := by
  simp only [State.stepArm]
  exact if_pos bad

theorem State.stepArm_taken {s : State} {v : Word} (state : s.fld STG_STEP_STATUS.state = 0 ∨ s.fld STG_STEP_STATUS.state = 2)
    (batches : bits v 31 16 ≠ 0) : s.stepArm v = (s.armed v).checkLocalDone := by
  have good : ¬ ((s.fld STG_STEP_STATUS.state ≠ stIdle ∧ s.fld STG_STEP_STATUS.state ≠ stDone) ∨ bits v 31 16 = 0) := by
    simpa [batches, or_iff_not_imp_left, stIdle, stDone] using state
  simp only [State.stepArm]
  rw [if_neg good]
  rfl

section
variable (s : State) (v : Word)

/-- An arming writes `STG_STEP_STATUS`, the shards' present segments, and what the stage controller and the temper units keep. -/
theorem State.armed_keeps {γ : Type} (p : State → γ)
    (fld : ∀ (t : State) f i j w, f.kind = .STG_STEP_STATUS ∨ f.kind = .TMP_SHARD_STATE → p (t.setFld f i j w) = p t)
    (kept : ∀ (t : State) x y, p { t with stg := x, tmp := y } = p t) : p (s.armed v) = p s := by
  have shows : p (s.showArmed (bits v 63 32)) = p s :=
    (fld _ STG_STEP_STATUS.user_code _ _ _ (.inl rfl)).trans ((fld _ STG_STEP_STATUS.cause _ _ _ (.inl rfl)).trans
      ((fld _ STG_STEP_STATUS.step _ _ _ (.inl rfl)).trans (fld _ STG_STEP_STATUS.state _ _ _ (.inl rfl))))
  have counts : ∀ t : State, p t.startCounts = p t := fun t => foldl_keeps p _ (fun t n => kept t _ t.tmp) _ _
  have present : ∀ t : State, p t.showPresent = p t := fun t => foldl_keeps p _ (fun t _ => fld t _ _ _ _ (.inr rfl)) _ _
  exact (present _).trans ((counts _).trans ((kept _ _ _).trans shows))

theorem State.rd_armed {k : RegKind} {i j : Nat} (status : k ≠ .STG_STEP_STATUS) (shards : k ≠ .TMP_SHARD_STATE) (hi : i < 65536)
    (hj : j < 65536) : (s.armed v).rd k i j = s.rd k i j :=
  s.armed_keeps v (fun t => t.rd k i j)
    (fun t f _ _ _ kind => t.rd_wr_other _ (by rcases kind with kind | kind <;> rwa [kind]) hi hj) (fun _ _ _ => rfl)

theorem State.showPresent_stg (t : State) : t.showPresent.stg = t.stg :=
  foldl_keeps State.stg _ (fun t _ => t.setFld_stg _ _ _ _) _ _

theorem State.armed_mbs : (s.armed v).stg.mbs = bits v 31 16 := by
  rw [State.armed, State.showPresent_stg]
  refine foldl_keeps (fun t : State => t.stg.mbs) _ (fun _ _ => ?_) _ _
  rfl

theorem State.stageEntry_armed {n : Nat} (hn : n < 64) : (s.armed v).stageEntry n = s.stageEntry n :=
  State.stageEntry_congr fun _ hj => s.rd_armed v (by decide) (by decide) (by omega) (by omega)

theorem State.rd_showArmed {k : RegKind} {i j : Nat} (step : Nat) (status : k ≠ .STG_STEP_STATUS) (hi : i < 65536) (hj : j < 65536) :
    (s.showArmed step).rd k i j = s.rd k i j := by
  have kept : ∀ (t : State) (f : Fld) (w : Nat), f.kind = .STG_STEP_STATUS → (t.setFld f 0 0 w).rd k i j = t.rd k i j :=
    fun t f w kind => t.rd_wr_other _ (kind ▸ status) hi hj
  rw [State.showArmed, kept _ _ _ rfl, kept _ _ _ rfl, kept _ _ _ rfl, kept _ _ _ rfl]

theorem State.stage_armed {n : Nat} (hn : n < 64) (valid : (s.stageEntry n).valid = true) :
    (s.armed v).stage n = (s.stage n).anew := by
  have entry : ((s.showArmed (bits v 63 32)).forgetStep (bits v 31 16) (bits v 63 32)).stageEntry n = s.stageEntry n :=
    State.stageEntry_congr fun _ hj =>
      (State.rd_forgetStep _ _ _ _ _ _).trans (s.rd_showArmed _ (by decide) (by omega) (by omega))
  have stage : ((s.showArmed (bits v 63 32)).forgetStep (bits v 31 16) (bits v 63 32)).stage n = s.stage n := by
    rw [State.stage_forgetStep]
    simp [State.stage, State.showArmed]
  have member := State.mem_validStages.mpr ⟨hn, entry ▸ valid⟩
  rw [State.armed, State.stage_congr (State.showPresent_stg _), State.startCounts,
    State.stage_foldl_setStage Stage.anew _ (State.nodup_validStages _), if_pos member, stage]

theorem State.armed_shows : (s.armed v).ShowsStep 1 0 0 (bits v 63 32) := by
  have shows : (s.showArmed (bits v 63 32)).ShowsStep 1 0 0 (bits v 63 32) :=
    (((s.showsStep_self.setState (by decide)).setStep (bits_lt v 63 32)).setCause (by decide)).setUser (by decide)
  have counts : ∀ t : State, t.startCounts.rd .STG_STEP_STATUS = t.rd .STG_STEP_STATUS := fun t => by
    refine foldl_keeps (fun t : State => t.rd .STG_STEP_STATUS) _ (fun _ _ => ?_) _ _
    rfl
  have present : ∀ t : State, t.showPresent.rd .STG_STEP_STATUS = t.rd .STG_STEP_STATUS := fun t =>
    foldl_keeps (fun t : State => t.rd .STG_STEP_STATUS) _ (fun t _ => t.rd_wr_other _ (by decide) (by decide) (by decide)) _ _
  exact shows.congr ((present _).trans ((counts _).trans (State.rd_forgetStep _ _ _ _ _ _)))

end

end Sys2Proof.Machine
end

section
open Sys2Proof.Machine

/-- Settles O32: an arming's effect stage by stage; the stage that is valid has freed nothing yet, so no LOCAL_DONE follows. -/
theorem stepArms : Obligations.StepArms := by
  refine ⟨?armed, ?ignored⟩
  case armed =>
    intro v s m takes state batches hm valid
    have freed : ((s.armed v).stage m).freed ≠ (s.armed v).stg.mbs := by
      rw [s.stage_armed v hm valid, s.armed_mbs]
      exact batches.symm
    have unfinished : (s.armed v).checkLocalDone = s.armed v :=
      State.checkLocalDone_of_unfinished (State.mem_validStages.mpr ⟨hm, s.stageEntry_armed v hm ▸ valid⟩) freed
    have part := s.armed_keeps v State.part (fun t f i j w _ => t.setFld_part f i j w) (fun _ _ _ => rfl)
    have mem := s.armed_keeps v State.mem (fun t f i j w _ => t.setFld_mem f i j w) (fun _ _ _ => rfl)
    have fab := s.armed_keeps v State.fab (fun t f i j w _ => t.setFld_fab f i j w) (fun _ _ _ => rfl)
    obtain ⟨shown, cause, user, step⟩ := (s.armed_shows v).settle part
    exact ⟨_, exec_next_of_written rfl takes ((State.stepArm_taken state batches).trans unfinished), shown, step, cause, user,
      s.armed_mbs v, congrArg Memory.canonical mem, fab, fun n hn valid => s.stage_armed v hn valid⟩
  case ignored => exact fun v s takes bad => exec_next_of_written rfl takes (State.stepArm_ignored bad)

end

section
/-! SUPPORT. Chapter 07: boundary entries, admission, requests and frees by what they find (R221 to R235, R244). -/

namespace Sys2Proof.Machine

/-! ### Boundary entries (R221, R225, R226) -/

/-- The arrival that the header of a boundary entry names (R225). -/
def headerArrival (seq : Nat) (h : List Byte) : Arrival :=
  { q := seq, mb := num h 8 2, span := num h 10 2 % 4096, spans := num h 12 2 % 8192, tokens := num h 20 4 % 2 ^ 21 }

/-- An accepted entry moves its queue on; forward it waits for admission, backward its ARRIVE record goes out. -/
def State.takeEntry (s : State) (slot : Nat) (b : Bool) (q : QueueEntry) (x : Stage) (k : StgQueue) (a : Arrival) : State :=
  if b then ((s.setStage slot { x with inBwd := k.step b a.span a.spans }).stageRecord slot q.array q.window (some 1)
    (arriveBytes slot true a (q.slotAddr a.q))).syncStage slot
  else (s.setStage slot { x with inFwd := k.step b a.span a.spans, arrivals := x.arrivals ++ [a] }).evaluate slot

section
variable {s : State} {v : Word} {slot : Nat} {b : Bool} (hears : s.stageHears = true) (at' : bits v 63 58 = slot) (dir : bit v 57 = b)
include hears at' dir

section
variable {seq : Nat} (count : bits v 23 0 = seq)
include count

theorem State.stgArrive_outOfOrder (wrong : seq ≠ (if b then (s.stage slot).inBwd else (s.stage slot).inFwd).next) :
    s.stgArrive v = s.protocolError 1 slot b 0 seq := by
  simp only [State.stgArrive, hears, at', dir, count, Bool.not_true, Bool.false_eq_true, if_false]
  exact if_pos (Or.inr (Or.inr wrong))

/-- An entry in order whose header is sound, of the armed step, and agrees with its queue is accepted. -/
theorem State.stgArrive_accepted {u : State} {q : QueueEntry} {x : Stage} {k : StgQueue} {cells : List (Byte × Bool)} {h : List Byte}
    (stage : (s.stageEntry slot).valid = true) (entry : s.queueEntry slot (2 * b2n b) = q) (queue : q.valid = true)
    (kept : s.stage slot = x) (side : (if b then x.inBwd else x.inFwd) = k) (next : k.next = seq)
    (read : s.memRead (q.slotAddr seq) 64 ownExt dieHub = (u, .opened, cells)) (clean : cells.any (·.2) = false)
    (header : cells.map (·.1) = h) (kind : byteAt h 0 = 0x40) (way : byteAt h 1 % 2 = b2n b)
    (armed : u.fld STG_STEP_STATUS.state = stArmed) (step : num h 4 4 = u.fld STG_STEP_STATUS.step)
    (agrees : spanOk k b (s.stageEntry slot).spanTokens u.stg.mbs (num h 8 2) (num h 10 2 % 4096) (num h 12 2 % 8192)
      (num h 16 4 % 2 ^ 21) (num h 20 4 % 2 ^ 21) (x.inflight.find? fun i => i.mb == num h 8 2) = true) :
    s.stgArrive v = u.takeEntry slot b q x k (headerArrival seq h) := by
  simp only [State.stgArrive, hears, at', dir, count, entry, kept, side, next, read, header, stage, queue, clean, kind, way, armed, step,
    agrees, ne_eq, not_true, or_self, Bool.not_true, Bool.false_eq_true, if_false]
  rfl

/-! ### Releases (R222) -/

theorem State.stgRelease_outOfOrder (wrong : seq ≠ (if b then (s.stage slot).inBwd else (s.stage slot).inFwd).released) :
    s.stgRelease v = s.protocolError 4 slot b 0 seq := by
  simp only [State.stgRelease, hears, at', dir, count, Bool.not_true, Bool.false_eq_true, if_false]
  exact if_pos (Or.inr (Or.inr (Or.inl wrong)))

theorem State.stgRelease_taken {q : QueueEntry} {x : Stage} {k : StgQueue} (stage : (s.stageEntry slot).valid = true)
    (entry : s.queueEntry slot (2 * b2n b) = q) (queue : q.valid = true) (kept : s.stage slot = x)
    (side : (if b then x.inBwd else x.inFwd) = k) (next : k.released = seq) (given : k.released ≠ k.given) :
    s.stgRelease v = (s.setStage slot
      (if b then { x with inBwd := { k with released := (k.released + 1) % 2 ^ 24 } }
        else { x with inFwd := { k with released := (k.released + 1) % 2 ^ 24 } })).stageSend q.peerPkg
      (stageMessage msgCredit q.peerSlot (b2n b) 0 ((seq + q.depth) % 2 ^ 24) s.myId) := by
  simp only [State.stgRelease, hears, at', dir, count, entry, kept, side, stage, queue, Bool.not_true, Bool.false_eq_true, if_false]
  exact if_neg (by simp [next, next ▸ given])

end

/-! ### Requests (R230) -/

theorem State.stkReq_held {q : StkReq} {x : Stage}
    (request : q = { backward := b, recomputable := bit v 56, mb := bits v 55 40, n := bits v 39 34, tag := bits v 15 0 })
    (kept : s.stage slot = x) (stage : (s.stageEntry slot).valid = true) (known : x.inflight.any (fun i => i.mb == q.mb) = true)
    (sound : x.trippedMb q.mb = false) (least : 1 ≤ q.n) (most : q.n ≤ 32)
    (room : (if q.backward then x.bwdReqs else x.fwdReqs).length < 16) :
    s.stkReq v = (s.setStage slot
      (if q.backward then { x with bwdReqs := x.bwdReqs ++ [q] } else { x with fwdReqs := x.fwdReqs ++ [q] })).evaluate slot := by
  subst request
  dsimp only at known sound least most room
  simp only [State.stkReq, hears, at', dir, kept, stage, known, sound, Bool.and_false, Bool.not_true, Bool.not_false, Bool.false_eq_true,
    if_false, false_or, and_true]
  exact if_neg (by omega)

end

/-! ### Frees (R232, R238) -/

section
variable {s : State} {v : Word} {slot : Nat} {x : Stage} {i : InFlight} {rest : List InFlight} (hears : s.stageHears = true)
  (at' : bits v 63 58 = slot) (kept : s.stage slot = x) (oldest : x.inflight = i :: rest)
include hears at' kept oldest

theorem State.stkFree_outOfOrder (wrong : i.mb ≠ bits v 15 0) : s.stkFree v = s.protocolError 7 slot false (bits v 15 0) 0 := by
  simp only [State.stkFree, hears, at', kept, oldest, Bool.not_true, Bool.false_eq_true, if_false]
  exact if_pos (Or.inl wrong)

theorem State.stkFree_taken {e : StageEntry} (entry : s.stageEntry slot = e) (stage : e.valid = true) (own : i.mb = bits v 15 0) :
    s.stkFree v = ((s.setStage slot { x with
      inflight := rest, freed := x.freed + 1, stk := x.stk.free e.stkChunks i.mb
      spill := x.spill.free e.spillChunks i.mb, bres := x.bres.free e.bresChunks i.mb }).evaluate slot).checkLocalDone := by
  simp only [State.stkFree, hears, at', kept, oldest, entry, stage, own, ne_eq, not_true, or_self, Bool.not_true, Bool.false_eq_true,
    if_false]

end

/-! ### Credits (R222) -/

theorem State.creditMessage_inOrder {s : State} {bs : List Byte} {slot seq : Nat} {b : Bool} {q : QueueEntry} {x : Stage}
    (kind : byteAt bs 0 = msgCredit) (at' : byteAt bs 1 % 64 = slot) (dir : (byteAt bs 2 % 2 == 1) = b) (count : num bs 4 4 % 2 ^ 24 = seq)
    (entry : s.queueEntry slot (if b then 3 else 1) = q) (kept : s.stage slot = x) (stage : (s.stageEntry slot).valid = true)
    (queue : q.valid = true) (next : (if b then x.creditBwd else x.creditFwd) = seq) :
    s.creditMessage bs = (s.setStage slot
      (if b then { x with creditBwd := (seq + 1) % 2 ^ 24 } else { x with creditFwd := (seq + 1) % 2 ^ 24 })).stageRecord slot q.array
      q.window none (stageBytes 0x34 slot (b2n b) 0 0 0 seq 0 0) := by
  simp only [State.creditMessage, State.credit, kind, at', dir, count, entry, kept, stage, queue, next, ne_eq, not_true, or_self,
    Bool.not_true, Bool.false_eq_true, if_false]

/-! ### Held requests, and what is looked at again (R228 to R234) -/

/-- A pool without requests serves none. -/
theorem State.servePool_empty {s : State} {slot : Nat} {e : StageEntry} {backward : Bool}
    (none : (if backward then (s.stage slot).bwdReqs else (s.stage slot).fwdReqs) = []) (fuel : Nat) :
    s.servePool slot e backward fuel = s := by
  cases fuel with
  | zero => rfl
  | succ fuel =>
    simp only [State.servePool]
    rw [none]

/-- A forward pool of one request that some ring has room for is empty after it. -/
theorem State.servePool_one {s t : State} {slot : Nat} {e : StageEntry} {q : StkReq} (one : (s.stage slot).fwdReqs = [q])
    (serves : s.serve slot e q = some t) (fuel : Nat) :
    s.servePool slot e false (fuel + 1) = t.setStage slot { t.stage slot with fwdReqs := [] } := by
  have left := State.servePool_empty (s := t.setStage slot { t.stage slot with fwdReqs := [] }) (slot := slot) (e := e)
    (backward := false) (by simp) fuel
  simp only [State.servePool, one, serves, Bool.false_eq_true, if_false]
  exact left

/-- A forward request that fits the stockpile is granted there (R231). -/
theorem State.serve_stockpile {s : State} {slot mb n tag p k : Nat} {r : Bool} {e : StageEntry}
    (place : (s.stage slot).stk.place e.stkChunks n = some (p, k)) :
    s.serve slot e { backward := false, recomputable := r, mb := mb, n := n, tag := tag } =
      some (((s.setStage slot { s.stage slot with stk := (s.stage slot).stk.take p k n mb }).bump STK_PERF_SKIP.count slot 0 k).stageRecord
        slot e.lead e.stkWindow none (stageBytes 0x30 slot 0 n mb tag 0 0 (e.stkBase + p * 0x10000))) := by
  simp only [State.serve, place, Bool.false_eq_true, if_false]
  rfl

/-- Without held requests none is impossible. -/
theorem State.exhaust_empty {s : State} {slot : Nat} (e : StageEntry) (fwd : (s.stage slot).fwdReqs = [])
    (bwd : (s.stage slot).bwdReqs = []) : s.exhaust slot e = s := by
  simp [State.exhaust, State.impossible, fwd, bwd]

section
variable {s : State} {slot : Nat} {e : StageEntry} (fits : slot ≤ 63) (entry : s.stageEntry slot = e) (valid : e.valid = true)
include fits entry valid

theorem State.evaluate_unarmed (unarmed : s.fld STG_STEP_STATUS.state ≠ stArmed) :
    s.evaluate slot = (s.flushStage slot).syncStage slot := by
  simp only [State.evaluate, entry]
  rw [if_neg (by simp [fits, valid]), if_pos unarmed]

/-- In an armed step admission follows what is left when the held requests have been looked at. -/
theorem State.evaluate_armed {t : State} (armed : s.fld STG_STEP_STATUS.state = stArmed)
    (looked : (((s.flushStage slot).servePool slot e false 17).servePool slot e true 17).exhaust slot e = t)
    (still : t.fld STG_STEP_STATUS.state = stArmed) : s.evaluate slot = (t.admitAll slot e 64).syncStage slot := by
  simp only [State.evaluate, entry]
  rw [if_neg (by simp [fits, valid]), if_neg (not_not.mpr armed), looked, if_pos still]

end

/-- The first waiting entry, of span 0, is admitted when the stage may and its record has room (R223, R228). -/
theorem State.admitAll_admits {s : State} {slot : Nat} {e : StageEntry} {q : QueueEntry} {x : Stage} {a : Arrival} {rest : List Arrival}
    (kept : s.stage slot = x) (free : x.records = []) (first : x.arrivals = a :: rest) (span : a.span = 0)
    (may : s.mayAdmit slot e = true) (entry : s.queueEntry slot 0 = q) (room : s.winMay q.array q.window false 32 = true) (fuel : Nat) :
    s.admitAll slot e (fuel + 1) = ((((s.bump STG_PERF_ADMIT.count slot 0 1).setStage slot { x with
      arrivals := rest
      inflight := x.inflight ++ [{ mb := a.mb, spans := a.spans, tokens := if a.spans = 1 then a.tokens else 0 }] }).stageRecord slot
        q.array q.window (some 0) (arriveBytes slot false a (q.slotAddr a.q))).admitAll slot e fuel) := by
  simp only [State.admitAll, kept, free, first, span, may, entry, room, List.any_nil, Bool.not_false, Bool.and_self, if_true]

/-! ### High-water marks (R235) -/

theorem State.rearmHwm_eq {s : State} {slot : Nat} (fits : slot ≤ 63) :
    s.rearmHwm slot = (s.setFld STK_HWM.stk_hwm slot 0 (s.fld STK_USED.stk_used slot)).setFld STK_HWM.spill_hwm slot 0
      (s.fld STK_USED.spill_used slot) := by
  have used := s.fld_setFld_beside (f := STK_HWM.stk_hwm) (g := STK_USED.spill_used) (v := s.fld STK_USED.stk_used slot)
    (Nat.lt_succ_of_le fits) (by decide)
  simp only [State.rearmHwm, if_neg fits.not_gt]
  rw [used]

theorem State.rearmHwm_marks {s : State} {slot : Nat} (fits : slot ≤ 63) :
    (s.rearmHwm slot).fld STK_HWM.stk_hwm slot = s.fld STK_USED.stk_used slot % 2 ^ 28 ∧
      (s.rearmHwm slot).fld STK_HWM.spill_hwm slot = s.fld STK_USED.spill_used slot % 2 ^ 28 := by
  have lt := Nat.lt_succ_of_le fits
  rw [State.rearmHwm_eq fits]
  exact ⟨(State.fld_setFld_beside _ lt (by decide)).trans
      (State.fld_setFld_same s _ _ _ _ (Fld.inRange_of_ofUnits lt (by decide)) rfl (by decide)),
    State.fld_setFld_same _ _ _ _ _ (Fld.inRange_of_ofUnits lt (by decide)) rfl (by decide)⟩

end Sys2Proof.Machine
end

section
open Sys2Proof.Machine

/-- Settles O33: an entry by its sequence number, then by what its header says. -/
theorem entryArrives : Obligations.EntryArrives := by
  refine ⟨?accepted, ?outOfOrder⟩
  case accepted =>
    rintro v s u e q x slot seq b k cells h takes hears rfl rfl rfl rfl rfl rfl rfl valid queue next read clean rfl kind way armed step
      agrees
    exact exec_next_of_written rfl takes
      (State.stgArrive_accepted hears rfl rfl rfl valid rfl queue rfl rfl next.symm read clean rfl kind way armed step agrees)
  case outOfOrder => exact fun v s takes hears wrong => exec_next_of_written rfl takes (State.stgArrive_outOfOrder hears rfl rfl rfl wrong)

/-- Settles O34: held requests are looked at before an admission; here none is held, or one that is granted. -/
theorem stagePoolsMove : Obligations.StagePoolsMove := by
  refine ⟨?admission, ?grant, ?serve, ?records, ?marks⟩
  case admission =>
    rintro slot s u e q x a rest working fits rfl valid armed rfl still rfl free fwd bwd first span may rfl room
    refine exec_next_of_work rfl working ((State.evaluate_armed fits rfl valid armed ?_ still).trans
      (congrArg (State.syncStage · slot) (State.admitAll_admits rfl free first span may rfl room 63)))
    rw [State.servePool_empty (backward := false) fwd, State.servePool_empty (backward := true) bwd, State.exhaust_empty _ fwd bwd]
  case grant =>
    rintro slot s u v e q working fits rfl valid armed rfl one serves bwd still
    refine exec_next_of_work rfl working (State.evaluate_armed fits rfl valid armed ?_ still)
    rw [State.servePool_one one serves 16, State.servePool_empty (backward := true) (by simpa using bwd),
      State.exhaust_empty _ (by simp) (by simpa using bwd)]
  case serve => exact fun slot mb n tag p k r s e place => State.serve_stockpile place
  case records =>
    exact fun slot s up fits valid unarmed => exec_next_of_live rfl up (State.evaluate_unarmed fits rfl valid unarmed)
  case marks =>
    intro slot s takes fits
    obtain ⟨stk, spill⟩ := State.rearmHwm_marks (s := s) fits
    have part : (s.rearmHwm slot).part = s.part := by simp [State.rearmHwm_eq fits]
    exact ⟨_, exec_next_of_written rfl takes rfl, (State.fld_settle s _ part _ _ _).trans stk,
      (State.fld_settle s _ part _ _ _).trans spill, by simp [State.rearmHwm_eq fits], by simp [State.rearmHwm_eq fits]⟩

/-- Settles O35: a release, a credit, a request and a free, each by its place in its order. -/
theorem creditsAndChunksReturn : Obligations.CreditsAndChunksReturn := by
  refine ⟨?released, ?releasedWrong, ?credit, ?request, ?freed, ?freedWrong⟩
  case released =>
    rintro v s q x slot seq b k takes hears rfl rfl rfl rfl rfl rfl valid queue next given
    exact exec_next_of_written rfl takes (State.stgRelease_taken hears rfl rfl rfl valid rfl queue rfl rfl next.symm given)
  case releasedWrong =>
    exact fun v s takes hears wrong => exec_next_of_written rfl takes (State.stgRelease_outOfOrder hears rfl rfl rfl wrong)
  case credit =>
    rintro bs s q x slot seq b up kind rfl rfl rfl rfl rfl valid queue next
    exact exec_next_of_live rfl up (State.creditMessage_inOrder kind rfl rfl rfl rfl rfl valid queue next.symm)
  case request =>
    rintro v s q x slot takes hears rfl request rfl valid known sound least most room
    exact exec_next_of_written rfl takes (State.stkReq_held hears rfl rfl request rfl valid known sound least most room)
  case freed =>
    rintro v s e x i rest slot takes hears rfl rfl valid rfl oldest own
    exact exec_next_of_written rfl takes (State.stkFree_taken hears rfl rfl oldest rfl valid own)
  case freedWrong =>
    rintro v s x i rest takes hears rfl oldest wrong
    exact exec_next_of_written rfl takes (State.stkFree_outOfOrder hears rfl rfl oldest wrong)

end

section
/-! SUPPORT. What bytes put in memory and records put in windows leave alone, whoever puts them (R90, R92, R97, R289 to R297). -/

namespace Sys2Proof.Machine

/-- The registers that a write of memory or a record in a window can change, events apart. -/
def RegKind.ofMemory : RegKind → Bool
  | .ARR_WIN_CFG | .ARR_WIN_HEAD | .SCP_BANK_OWN | .HBM_ECC_CNT | .BIT_ECC_CNT | .HBM_ECC_LOG | .BIT_ECC_LOG | .HBM_REPAIR_STATUS
  | .HBM_PERF_RMW | .BIT_PERF_RMW | .HBM_PERF_WR_BYTES | .BIT_PERF_WR_BYTES | .HBM_PERF_CROSS_DIE => true
  | _ => false

/-- Chapter 06's `OutsideExchange` asks its parts to outlast a write of any register but one; the step's end has to tell
`STG_STEP_STATUS` from what memory writes, so the registers are named here.

A part of the state outside memory and its errors, the arrays, and what the controllers, the observability block and Hallmark keep;
of the registers it reads none that memory changes, and an event leaves it alone. -/
structure OutsideMemory {γ : Type} (p : State → γ) : Prop where
  wr (s : State) (k : RegKind) (i j : Nat) (v : Word) : k.ofMemory = true → p (s.wr k i j v) = p s
  mem (s : State) (x : List Host.Cell) : p { s with mem := x } = p s
  errors (s : State) (x : List Nat) (y : List (Nat × Bool)) : p { s with poison := x, upsets := y } = p s
  arr (s : State) (x : List (Nat × Arr)) : p { s with arr := x } = p s
  dram (s : State) (x : Dram) : p { s with dram := x } = p s
  obs (s : State) (x : Obs) : p { s with obs := x } = p s
  hmk (s : State) (x : Hmk) : p { s with hmk := x } = p s
  calm {s t : State} : s.Calm t → p t = p s

/-- What lies outside the token exchange's own work lies outside memory. -/
theorem OutsideExchange.memory {γ : Type} {p : State → γ} (h : OutsideExchange p) : OutsideMemory p where
  wr s k i j v own := h.wr s k i j v (by rintro rfl; cases own)
  mem := h.mem
  errors := h.errors
  arr := h.arr
  dram := h.dram
  obs := h.obs
  hmk := h.hmk
  calm := h.calm

theorem outsideMemory_stg : OutsideMemory State.stg := by
  constructor
  case wr => exact fun s k i j v _ => s.wr_stg k i j v
  case calm => exact fun h => h.stg
  all_goals intros; rfl

/-- Another register than those of memory and of events. -/
theorem outsideMemory_rd {k : RegKind} {i j : Nat} (memory : k.ofMemory = false) (events : k.ofEvents = false) (hi : i < 65536)
    (hj : j < 65536) : OutsideMemory fun s => s.rd k i j := by
  constructor
  case wr => exact fun s k' i' j' v own => s.rd_wr_other v (by rintro rfl; exact Bool.false_ne_true (memory.symm.trans own)) hi hj
  case calm => exact fun h => h.rd k i j events hi hj
  all_goals intros; rfl

namespace OutsideMemory

variable {γ : Type} {p : State → γ} (h : OutsideMemory p)
include h

/-! ### Registers, poison and bytes -/

theorem setFld (s : State) {f : Fld} {i j v : Nat} (own : f.kind.ofMemory = true) : p (s.setFld f i j v) = p s :=
  h.wr s f.kind i j _ own

theorem bump (s : State) {f : Fld} {i j n : Nat} (own : f.kind.ofMemory = true) : p (s.bump f i j n) = p s := by
  unfold State.bump
  split
  · rfl
  · exact h.setFld s own

theorem sat (s : State) {f : Fld} {i j n : Nat} (own : f.kind.ofMemory = true) : p (s.sat f i j n) = p s := by
  unfold State.sat
  split
  · rfl
  · exact h.setFld s own

theorem mapWindow (s : State) (f : Window → Window) : p (s.mapWindow f) = p s := h.obs s _

theorem setPoison (s : State) (k : Nat) : p (s.setPoison k) = p s := h.errors s _ _

theorem mend (s : State) (k : Nat) : p (s.mend k) = p s := h.errors s _ _

theorem setByte (s : State) (k : Nat) (b : Byte) : p (s.setByte k b) = p s := h.mem s _

theorem raise (s : State) (cls code unit : Nat) (info : Word) : p (s.raise cls code unit info) = p s := h.calm (State.calm_raise _ _ _ _ _)

/-! ### Array SRAM (R78, R90, R92, R97) -/

theorem sramPutMarked (s : State) (a off : Nat) (cells : List (Option (Byte × Bool))) : p (s.sramPutMarked a off cells) = p s := by
  have settled : ∀ (t : State) on, p (t.settleWords on) = p t := fun t on => by
    refine (foldl_keeps p _ (fun t _ => ?_) _ _).trans (h.errors t _ _)
    split
    · exact h.setPoison t _
    · exact h.mapWindow t _
  refine (foldl_keeps p _ (fun t _ => h.setPoison t _) _ _).trans ((settled _ _).trans (foldl_keeps p _ (fun t _ => ?_) _ _))
  split
  · exact h.setByte t _ _
  · rfl

theorem violate (s : State) (a : Nat) (banks : List Nat) : p (s.violate a banks) = p s :=
  foldl_keeps p _ (fun t _ => h.setFld t rfl) _ _

theorem holdAccess (s : State) (a code : Nat) (spans : List (Nat × Nat)) (k : HeldKind) : p (s.holdAccess a code spans k) = p s := h.arr s _

theorem sramEngineWrite (s : State) (a off code : Nat) (cells : List (Option (Byte × Bool))) :
    p (s.sramEngineWrite a off code cells) = p s := by
  unfold State.sramEngineWrite
  dsimp only
  repeat' split
  · rfl
  · exact h.holdAccess s _ _ _ _
  · exact h.sramPutMarked s _ _ _
  · exact h.violate s _ _
  · exact h.holdAccess s _ _ _ _
  · exact h.sramPutMarked s _ _ _

/-- A record in a window moves the window's head, waits at its banks, or is lost (R97, R223). -/
theorem windowRecord (s : State) (a w : Nat) (bs : List Byte) : p (s.windowRecord a w bs).1 = p s := by
  have put : p (s.recordPut a w bs) = p s := by
    unfold State.recordPut State.winAdvance
    dsimp only
    split
    · exact (h.wr _ _ _ _ _ rfl).trans (h.sramPutMarked _ _ _ _)
    · exact (h.setFld _ rfl).trans (h.sramPutMarked _ _ _ _)
  unfold State.windowRecord
  dsimp only
  repeat' split
  · rfl
  · exact h.setFld s rfl
  · exact h.holdAccess s _ _ _ _
  · exact put
  · exact h.holdAccess s _ _ _ _
  · exact h.violate s _ _

/-! ### DRAM (R289 to R297) -/

/-- A count of a stack is one of memory's registers. -/
theorem bumpStack (s : State) (d : Dplace) {x y : Fld} {n : Nat} (hx : x.kind.ofMemory = true) (hy : y.kind.ofMemory = true) :
    p (s.bumpStack d x y n) = p s := by
  refine h.bump s ?_
  unfold Dplace.fldOf
  split <;> assumption

theorem satStack (s : State) (d : Dplace) {x y : Fld} {n : Nat} (hx : x.kind.ofMemory = true) (hy : y.kind.ofMemory = true) :
    p (s.satStack d x y n) = p s := by
  refine h.sat s ?_
  unfold Dplace.fldOf
  split <;> assumption

theorem logRow (s : State) (d : Dplace) : p (s.logRow d) = p s := by
  unfold State.logRow
  dsimp only
  repeat' split
  · rfl
  · rfl
  · exact h.sat s rfl
  · exact (h.hmk _ _).trans ((h.hmk _ _).trans ((h.sat _ rfl).trans (h.sat s rfl)))

theorem noteCorrected (s : State) (d : Dplace) : p (s.noteCorrected d) = p s := by
  have counted : ∀ f, p ((s.satStack d HBM_ECC_CNT.corrected BIT_ECC_CNT.corrected 1).mapWindow f) = p s := fun f =>
    (h.mapWindow _ f).trans (h.satStack s d rfl rfl)
  simp only [State.noteCorrected]
  repeat' split
  · exact counted _
  · exact (h.logRow _ _).trans ((h.dram _ _).trans (counted _))
  · exact (h.dram _ _).trans (counted _)

theorem noteUncorrectable (s : State) (d : Dplace) (scrub : Bool) : p (s.noteUncorrectable d scrub) = p s := by
  have counted : ∀ t : State, p (t.satStack d HBM_ECC_CNT.uncorrectable BIT_ECC_CNT.uncorrectable 1) = p t := fun t =>
    h.satStack t d rfl rfl
  unfold State.noteUncorrectable
  dsimp only
  split
  · rfl
  · refine (h.raise _ _ _ _ _).trans ((h.logRow _ _).trans ?_)
    split <;> exact (h.wr _ _ _ _ _ rfl).trans ((counted _).trans (h.errors s _ _))

theorem meetErrors (s : State) (words : List Nat) : p (s.meetErrors words) = p s := by
  have meets : ∀ (t : State) (d : Dplace), p (t.meetWordOf false d) = p t := fun t d => by
    simp only [State.meetWordOf, Bool.false_eq_true, if_false]
    repeat' split
    · rfl
    · exact (h.noteUncorrectable _ _ _).trans (h.mend t _)
    · exact h.mend t _
    · exact h.noteCorrected t d
  unfold State.meetErrors
  split
  · rfl
  · refine foldl_keeps p _ (fun t _ => ?_) _ _
    split
    · rfl
    · exact meets t _

theorem mendAll (s : State) (words : List Nat) : p (s.mendAll words) = p s := by
  unfold State.mendAll
  split
  · rfl
  · refine foldl_keeps p _ (fun t _ => ?_) _ _
    split
    · rfl
    · exact h.mend t _

theorem dput (s : State) (addr : Nat) (cells : List (Option Byte)) : p (s.dput addr cells) = p s := by
  -- the kernel evaluates the place of `addr` before it unfolds `dput` applied, so the function is unfolded alone
  generalize body : State.dput = f
  delta State.dput at body
  subst body
  beta_reduce
  split
  · rfl
  · rw [h.errors]
    refine foldl_keeps p _ (fun t _ => ?_) _ _
    split
    · exact h.setByte t _ _
    · rfl

theorem updateEntry (s : State) (at' : Nat) (f : Nat → Nat) : p (s.updateEntry at' f) = p s :=
  (h.mendAll _ _).trans ((h.dput _ _ _).trans (h.meetErrors s _))

theorem lineWrite (s : State) (r : CrcRange) (line : Nat) (cells : List (Option Byte)) : p (s.lineWrite r line cells) = p s := by
  have counted : ∀ d : Dplace, p ((s.meetErrors (eccWords line 128)).bumpStack d HBM_PERF_RMW.count BIT_PERF_RMW.count 1) = p s :=
    fun d => (h.bumpStack _ d rfl rfl).trans (h.meetErrors s _)
  simp only [State.lineWrite]
  split
  · refine (h.raise _ _ _ _ _).trans ((foldl_keeps p _ (fun t _ => ?_) _ _).trans (counted _))
    split
    · exact h.setPoison t _
    · rfl
  · exact (h.updateEntry _ _ _).trans ((h.dput _ _ _).trans (counted _))

theorem writePiece (s : State) (die addr : Nat) (cells : List (Option Byte)) : p (s.writePiece die addr cells) = p s := by
  have counted : ∀ (d : Dplace) (n : Nat), p (s.countBytes d true die n) = p s := fun d n => by
    have bytes := h.bumpStack s d (x := HBM_PERF_WR_BYTES.count) (y := BIT_PERF_WR_BYTES.count) (n := n) rfl rfl
    simp only [State.countBytes, if_true]
    split
    · exact (h.bump _ rfl).trans bytes
    · exact bytes
  -- unfolded alone, as `dput` above
  generalize body : State.writePiece = f
  delta State.writePiece at body
  subst body
  beta_reduce
  split
  · rfl
  · extract_lets
    split
    · split
      · exact (h.updateEntry _ _ _).trans ((h.dput _ _ _).trans (counted _ _))
      · refine (foldl_keeps p _ (fun t line => ?_) _ _).trans (counted _ _)
        extract_lets
        split
        · rfl
        · exact h.lineWrite t _ _ _
    · split
      · exact (h.dput _ _ _).trans (counted _ _)
      · exact (h.dput _ _ _).trans ((h.mendAll _ _).trans ((h.meetErrors _ _).trans (counted _ _)))

theorem dramWrite (s : State) (addr : Nat) (cells : List (Option Byte)) (die : Nat) :
    p (s.dramWrite addr cells die []).1 = p s := by
  have counted : p (s.countRmw addr cells) = p s :=
    foldl_keeps p _ (fun t n => h.bumpStack t ⟨n, 0⟩ (x := HBM_PERF_RMW.count) (y := BIT_PERF_RMW.count) rfl rfl) _ _
  unfold State.dramWrite
  dsimp only
  split
  · rfl
  · exact (foldl_keeps p _ (fun t _ => h.writePiece t _ _ _) _ _).trans counted

/-! ### Memory of any kind -/

/-- Bytes that an engine places in memory are written, held at a bank, or refused. -/
theorem putMem (s : State) (addr : Nat) (bs : List Byte) (code die : Nat) : p (s.putMem addr bs code die) = p s := by
  have refused : ∀ (len : Nat) (c : Completion), p (s.memRefused addr len code c) = p s := fun len c => by
    unfold State.memRefused
    split
    · exact h.violate s _ _
    · rfl
  unfold State.putMem
  split
  · exact h.sramEngineWrite s _ _ _ _
  · unfold State.memWrite
    repeat' split
    · rfl
    · exact h.sramPutMarked s _ _ _
    · exact h.dramWrite s _ _ _
    · rfl
    · exact refused _ _

/-- Records held for window space are written as far as their windows have room (R223, R267). -/
theorem flushRecords (rs : List StgRec) (s : State) (blocked : List (Nat × Nat)) : p (s.flushRecords rs blocked).1 = p s := by
  induction rs generalizing s blocked with
  | nil => rfl
  | cons r rs ih =>
    have written := h.windowRecord s r.array r.window r.bytes
    simp only [State.flushRecords]
    split
    · exact ih _ _
    · split <;> rename_i answer <;> rw [answer] at written <;> exact (ih _ _).trans written

end OutsideMemory

end Sys2Proof.Machine
end

section
/-! SUPPORT. What the end of a step leaves alone: the stage controller's records, the shards' work on a COMMIT, and the step summary (R223,
R240, R241, R266 to R271, R446). -/

namespace Sys2Proof.Machine

/-- The registers that a step's end can change, those of memory and of events and `STG_STEP_STATUS` itself apart. -/
def RegKind.ofStepEnd : RegKind → Bool
  | .STG_PERF_SPANS | .STK_USED | .STK_BRES | .STK_HWM | .STG_STATE | .TMP_SHARD_STATE | .TMP_UNIT_STATUS | .TMP_PERF_ASSAY_ABANDON
  | .OBS_SUM_STATUS | .FAB_TRACK_STATUS => true
  | _ => false

/-- A part of the state outside memory that also lies outside the fabric, the temper units, the stage slots and the changed images, and
reads no register that a step's end changes. -/
structure OutsideStepEnd {γ : Type} (p : State → γ) : Prop extends OutsideMemory p where
  own (s : State) (k : RegKind) (i j : Nat) (v : Word) : k.ofStepEnd = true → p (s.wr k i j v) = p s
  fab (s : State) (x : Fab) : p { s with fab := x } = p s
  tmp (s : State) (x : Tmp) : p { s with tmp := x } = p s
  changed (s : State) (x : List Nat) : p { s with qm := { s.qm with changed := x } } = p s
  slots (s : State) (x : List (Nat × Stage)) : p { s with stg := { s.stg with slots := x } } = p s

/-- What is read of a part outside memory is outside memory. -/
theorem OutsideMemory.comp {γ δ : Type} {p : State → γ} (h : OutsideMemory p) (g : γ → δ) : OutsideMemory fun s => g (p s) where
  wr s k i j v own := congrArg g (h.wr s k i j v own)
  mem s x := congrArg g (h.mem s x)
  errors s x y := congrArg g (h.errors s x y)
  arr s x := congrArg g (h.arr s x)
  dram s x := congrArg g (h.dram s x)
  obs s x := congrArg g (h.obs s x)
  hmk s x := congrArg g (h.hmk s x)
  calm calm := congrArg g (h.calm calm)

theorem outsideStepEnd_part : OutsideStepEnd State.part where
  toOutsideMemory := outsideExchange_part.memory
  own s k i j v _ := s.wr_part k i j v
  fab _ _ := rfl
  tmp _ _ := rfl
  changed _ _ := rfl
  slots _ _ := rfl

theorem outsideStepEnd_decided : OutsideStepEnd fun s => s.stg.decided where
  toOutsideMemory := outsideMemory_stg.comp Stg.decided
  own s k i j v _ := congrArg Stg.decided (s.wr_stg k i j v)
  fab _ _ := rfl
  tmp _ _ := rfl
  changed _ _ := rfl
  slots _ _ := rfl

theorem outsideStepEnd_attempts : OutsideStepEnd fun s => s.stg.attempts where
  toOutsideMemory := outsideMemory_stg.comp Stg.attempts
  own s k i j v _ := congrArg Stg.attempts (s.wr_stg k i j v)
  fab _ _ := rfl
  tmp _ _ := rfl
  changed _ _ := rfl
  slots _ _ := rfl

theorem outsideStepEnd_updates : OutsideStepEnd fun s => s.qm.updates where
  toOutsideMemory := outsideExchange_qm.memory.comp Qm.updates
  own s k i j v _ := congrArg Qm.updates (s.wr_qm k i j v)
  fab _ _ := rfl
  tmp _ _ := rfl
  changed _ _ := rfl
  slots _ _ := rfl

/-- Another register than those of memory, of events and of the step's end. -/
theorem outsideStepEnd_rd {k : RegKind} (memory : k.ofMemory = false) (events : k.ofEvents = false) (stepEnd : k.ofStepEnd = false) :
    OutsideStepEnd fun s => s.rd k where
  toOutsideMemory := outsideMemory_rd memory events (by decide) (by decide)
  own s _ _ _ v own := s.rd_wr_other v (by rintro rfl; exact Bool.false_ne_true (stepEnd.symm.trans own)) (by decide) (by decide)
  fab _ _ := rfl
  tmp _ _ := rfl
  changed _ _ := rfl
  slots _ _ := rfl

namespace OutsideStepEnd

variable {γ : Type} {p : State → γ} (h : OutsideStepEnd p)
include h

theorem setOwn (s : State) {f : Fld} {i j v : Nat} (own : f.kind.ofStepEnd = true) : p (s.setFld f i j v) = p s :=
  h.own s f.kind i j _ own

theorem bumpOwn (s : State) {f : Fld} {i j n : Nat} (own : f.kind.ofStepEnd = true) : p (s.bump f i j n) = p s := by
  unfold State.bump
  split
  · rfl
  · exact h.setOwn s own

theorem setStage (s : State) (n : Nat) (x : Stage) : p (s.setStage n x) = p s := h.slots s _

theorem setTshard (s : State) (x : Nat) (v : Shard) : p (s.setTshard x v) = p s := h.tmp s _

/-! ### Records of the stage controller (R223) -/

theorem flushStage (s : State) (slot : Nat) : p (s.flushStage slot) = p s :=
  (h.bumpOwn _ rfl).trans ((h.setStage _ _ _).trans (h.flushRecords _ s []))

theorem stageRecord (s : State) (slot array window : Nat) (role : Option Nat) (bs : List Byte) :
    p (s.stageRecord slot array window role bs) = p s := (h.flushStage _ _).trans (h.setStage s _ _)

theorem syncStage (s : State) (slot : Nat) : p (s.syncStage slot) = p s := by
  have shown : ∀ f : Fld, f.kind.ofStepEnd = true → ∀ (t : State) v, p (t.setFld f slot 0 v) = p t := fun _ own t _ => h.setOwn t own
  simp only [State.syncStage]
  split <;> simp only [shown STK_USED.stk_used rfl, shown STK_USED.spill_used rfl, shown STK_BRES.bres_used rfl, shown STK_HWM.stk_hwm rfl,
    shown STK_HWM.spill_hwm rfl, shown STG_STATE.inflight rfl, shown STG_STATE.held_req rfl, shown STG_STATE.held_admit rfl,
    shown STG_STATE.oldest rfl, shown STG_STATE.newest rfl, shown STG_STATE.tripped rfl]

/-! ### Shards (R266 to R271, R277) -/

theorem syncPresent (s : State) (x : Nat) : p (s.syncPresent x) = p s := h.setOwn s rfl

theorem setPhase (s : State) (x ph : Nat) : p (s.setPhase x ph) = p s := h.setOwn s rfl

theorem syncUnit (s : State) (u : Nat) : p (s.syncUnit u) = p s := by
  have job : ∀ (t : State) (state index : Nat), p (t.showJob u state index) = p t := fun t _ _ => (h.setOwn _ rfl).trans (h.setOwn t rfl)
  simp only [State.syncUnit]
  split
  · exact (job _ _ _).trans (h.setOwn s rfl)
  · exact (job _ _ _).trans (h.setOwn s rfl)
  · exact (job _ _ _).trans (h.setOwn s rfl)
  · exact (h.setOwn _ rfl).trans (h.setOwn s rfl)

theorem flip (s : State) (x : Nat) (e : ShardEntry) : p (s.flip x e) = p s := by
  have marked : ∀ t : State, p (t.markChanged e) = p t := fun t => by
    unfold State.markChanged
    split
    · rfl
    · exact h.changed t _
  exact (marked _).trans ((h.setOwn _ rfl).trans (h.setOwn s rfl))

theorem ready (s : State) (x : Nat) (e : ShardEntry) (flags step : Nat) : p (s.ready x e flags step) = p s :=
  (h.tmp _ _).trans ((h.flushRecords _ _ _).trans ((h.tmp _ _).trans (h.setTshard s x _)))

theorem shardRests (s : State) (x step : Nat) : p (s.shardRests x step) = p s :=
  (h.syncPresent _ _).trans ((h.setPhase _ _ _).trans (h.setTshard s _ _))

theorem shardSettle {s t : State} {x : Nat} {e : ShardEntry} {step : Nat} (settles : s.shardSettle x e step = some t) : p t = p s := by
  have rests : ∀ (u : State) flags, p ((u.ready x e flags step).shardRests x step) = p u := fun u _ =>
    (h.shardRests _ _ _).trans (h.ready u _ _ _ _)
  unfold State.shardSettle at settles
  dsimp only at settles
  split at settles
  · obtain rfl := Option.some.inj settles
    exact (rests _ _).trans (h.flip s x e)
  · split at settles
    · split at settles
      · cases settles
      · obtain rfl := Option.some.inj settles
        exact rests s _
    · split at settles
      · obtain rfl := Option.some.inj settles
        exact rests s _
      · cases settles

theorem replicaTake (s : State) (x : Nat) (e : ShardEntry) (bs : List Byte) : p (s.replicaTake x e bs) = p s := by
  have fetches : ∀ (t : State) gaddr bytes version digest, p (t.startImageFetch x e gaddr bytes version digest) = p t :=
    fun t _ _ _ _ => (h.syncUnit _ _).trans ((h.setPhase _ _ _).trans ((h.fab _ _).trans (h.setTshard t _ _)))
  simp only [State.replicaTake]
  split
  · refine (fetches _ _ _ _ _).trans ((h.setOwn _ rfl).trans ?_)
    split
    · exact (h.bumpOwn _ rfl).trans (h.setTshard s _ _)
    · exact h.setTshard s _ _
  · split
    · exact (h.setTshard _ _ _).trans (h.setTshard s _ _)
    · exact (h.setPhase _ _ _).trans ((h.setTshard _ _ _).trans (h.setTshard s _ _))

theorem shardLate (n : Nat) (s : State) (x : Nat) (e : ShardEntry) : p (State.shardLate n s x e) = p s := by
  induction n generalizing s with
  | zero => rfl
  | succ n ih =>
    simp only [State.shardLate]
    split
    · rename_i t settles
      obtain ⟨step, -, settles⟩ := Option.bind_eq_some_iff.mp settles
      exact (ih t).trans (h.shardSettle settles)
    · split
      · rfl
      · split
        · rfl
        · exact (ih _).trans ((h.replicaTake _ _ _ _).trans (h.setTshard s _ _))

theorem shardDecided (s : State) (x : Nat) (e : ShardEntry) : p (s.shardDecided x e) = p s :=
  (h.syncUnit _ _).trans (h.shardLate _ s x e)

theorem shardCommit (s : State) (x : Nat) (e : ShardEntry) (step : Nat) : p (s.shardCommit x e step) = p s := by
  have finishes : ∀ t : State, p (t.shardFinish x e step) = p t := fun t => by
    simp only [State.shardFinish]
    split
    · rename_i u settles
      exact (h.shardDecided _ _ _).trans (h.shardSettle settles)
    · exact (h.syncUnit _ _).trans (h.setTshard t _ _)
  refine (finishes _).trans ?_
  split
  · exact (h.setTshard _ _ _).trans ((h.setOwn _ rfl).trans (h.flip s x e))
  · rfl

theorem shardAbort (s : State) (x : Nat) (e : ShardEntry) (step : Nat) : p (s.shardAbort x e step) = p s := by
  have told : ∀ (t : State) flags v, p ((t.setTshard x v).ready x e flags step) = p t := fun t _ _ =>
    (h.ready _ _ _ _ _).trans (h.setTshard t _ _)
  simp only [State.shardAbort]
  split
  · exact (h.shardDecided _ _ _).trans ((h.shardRests _ _ _).trans ((h.setTshard _ _ _).trans (told s _ _)))
  · exact (h.syncPresent _ _).trans ((h.setTshard _ _ _).trans (told s _ _))

/-! ### The step summary, and the end of tracking (R339, R438, R446) -/

theorem summarise (s : State) (done : Bool) (cause step origin : Nat) : p (s.summarise done cause step origin) = p s := by
  simp only [State.summarise]
  split
  · exact (h.raise _ _ _ _ _).trans ((h.setOwn _ rfl).trans ((h.bumpOwn _ rfl).trans ((h.obs _ _).trans (h.putMem s _ _ _ _))))
  · exact (h.raise _ _ _ _ _).trans (h.obs s _)

theorem endTracking (s : State) : p s.endTracking = p s := (h.own _ _ _ _ _ rfl).trans (h.fab s _)

end OutsideStepEnd

end Sys2Proof.Machine
end

section
/-! SUPPORT. The step's end: what a COMMIT shows and leaves, the root's decisions, and the clearing of the queues (R238 to R242). -/

namespace Sys2Proof.Machine

/-! ### COMMIT at a package (R240, R241, R266) -/

/-- `STG_STEP_STATUS` shows a COMMIT's outcome. -/
def State.showCommit (s : State) (done : Bool) (cause user step : Nat) : State :=
  (((s.setFld STG_STEP_STATUS.state 0 0 (if done then stDone else stAborted)).setFld STG_STEP_STATUS.cause 0 0 cause).setFld
    STG_STEP_STATUS.user_code 0 0 user).setFld STG_STEP_STATUS.step 0 0 step

/-- The ARRIVE and GRANT records that wait are gone (R241). -/
def State.dropArrivesAndGrants (s : State) : State :=
  s.validStages.foldl (fun s n => s.setStage n { s.stage n with
    records := (s.stage n).records.filter fun r => byteAt r.bytes 0 != 0x33 && byteAt r.bytes 0 != 0x30 }) s

/-- The step records of a COMMIT, and its event when it aborts. -/
def State.recordCommit (s : State) (done : Bool) (cause step origin : Nat) : State :=
  let kept := if done then s else s.dropArrivesAndGrants
  let told := kept.validStages.foldl (fun s n => s.stageRecord n (s.stageEntry n).lead (s.stageEntry n).ctlWindow none
    (if done then stageBytes 0x35 n 0 0 0 0 step 0 0 else stageBytes 0x36 n 0 cause origin 0 step 0 0)) kept
  if done then told else told.raise 7 4 0xFFFF 0

/-- No expert's update of the step is pending any more. -/
def State.forgetUpdates (s : State) : State := { s with qm := { s.qm with updates := [] } }

@[simp] theorem State.rd_forgetUpdates (s : State) (k : RegKind) (i j : Nat) : s.forgetUpdates.rd k i j = s.rd k i j := rfl

theorem State.commitAt_eq (s : State) (done : Bool) (cause user step origin : Nat) : s.commitAt done cause user step origin =
    ((((s.showCommit done cause user step).recordCommit done cause step origin).temperCommit done step).forgetUpdates.summarise done cause
      step origin).endTracking := by
  cases done <;> rfl

/-- A COMMIT(ABORTED) at the shards (R266, R271). -/
def State.abortShards (s : State) (step : Nat) : State := s.shardList.foldl (fun s x => s.shardAbort x.1 x.2 step) s

namespace OutsideStepEnd

variable {γ : Type} {p : State → γ} (h : OutsideStepEnd p)
include h

theorem recordCommit (s : State) (done : Bool) (cause step origin : Nat) : p (s.recordCommit done cause step origin) = p s := by
  have told : ∀ (bs : Nat → List Byte) (l : List Nat) (t : State), p (l.foldl (fun s n => s.stageRecord n (s.stageEntry n).lead
      (s.stageEntry n).ctlWindow none (bs n)) t) = p t := fun bs l t => foldl_keeps p _ (fun t n => h.stageRecord t n _ _ _ _) l t
  have dropped : p s.dropArrivesAndGrants = p s := foldl_keeps p _ (fun t n => h.setStage t n _) _ _
  cases done
  · exact (h.raise _ _ _ _ _).trans ((told (fun n => stageBytes 0x36 n 0 cause origin 0 step 0 0) _ _).trans dropped)
  · exact told (fun n => stageBytes 0x35 n 0 0 0 0 step 0 0) _ _

theorem abortShards (s : State) (step : Nat) : p (s.abortShards step) = p s := foldl_keeps p _ (fun t _ => h.shardAbort t _ _ _) _ _

theorem temperCommit_done (s : State) (step : Nat) : p (s.temperCommit true step) = p s :=
  foldl_keeps p _ (fun t _ => h.shardCommit t _ _ _) _ _

/-- What the count of attempts is no part of is as the shards leave it. -/
theorem temperCommit (counted : ∀ (t : State) n, p { t with stg := { t.stg with attempts := n } } = p t) (s : State) (done : Bool)
    (step : Nat) : p (s.temperCommit done step) = p s := by
  cases done
  · exact (h.tmp _ _).trans ((counted _ _).trans (h.abortShards s step))
  · exact h.temperCommit_done s step

/-- After it has shown its outcome, a COMMIT works on records, shards and the summary. -/
theorem commitAt (counted : ∀ (t : State) n, p { t with stg := { t.stg with attempts := n } } = p t)
    (forgets : ∀ t : State, p t.forgetUpdates = p t) (s : State) (done : Bool) (cause user step origin : Nat) :
    p (s.commitAt done cause user step origin) = p (s.showCommit done cause user step) := by
  rw [State.commitAt_eq]
  exact (h.endTracking _).trans ((h.summarise _ _ _ _ _).trans ((forgets _).trans ((h.temperCommit counted _ _ _).trans
    (h.recordCommit _ _ _ _ _))))

end OutsideStepEnd

section
variable (s : State) (done : Bool) (cause user step origin : Nat)

theorem State.commitAt_part : (s.commitAt done cause user step origin).part = s.part :=
  (outsideStepEnd_part.commitAt (fun _ _ => rfl) (fun _ => rfl) s done cause user step origin).trans (by simp [State.showCommit])

theorem State.commitAt_decided : (s.commitAt done cause user step origin).stg.decided = s.stg.decided :=
  (outsideStepEnd_decided.commitAt (fun _ _ => rfl) (fun _ => rfl) s done cause user step origin).trans (by simp [State.showCommit])

theorem State.commitAt_shows (hc : cause < 256) (hu : user < 256) (hs : step < 2 ^ 32) :
    (s.commitAt done cause user step origin).ShowsStep (if done then 2 else 3) cause user step := by
  have shows : (s.showCommit done cause user step).ShowsStep (if done then 2 else 3) cause user step :=
    (((s.showsStep_self.setState (by cases done <;> decide)).setCause hc).setUser hu).setStep hs
  exact shows.congr ((outsideStepEnd_rd rfl rfl rfl).commitAt (fun _ _ => rfl) (fun _ => rfl) s done cause user step origin)

/-- A COMMIT(ABORTED) is one more attempt (R266). -/
theorem State.commitAt_attempts : (s.commitAt done cause user step origin).stg.attempts =
    if done then s.stg.attempts else (s.stg.attempts + 1) % 65536 := by
  have h := outsideStepEnd_attempts
  have recorded : ((s.showCommit done cause user step).recordCommit done cause step origin).stg.attempts = s.stg.attempts :=
    (h.recordCommit _ _ _ _ _).trans (by simp [State.showCommit])
  rw [State.commitAt_eq]
  refine (h.endTracking _).trans ((h.summarise _ _ _ _ _).trans ?_)
  cases done
  · exact congrArg (fun n => (n + 1) % 65536) ((h.abortShards _ step).trans recorded)
  · exact (h.temperCommit_done _ step).trans recorded

theorem State.commitAt_updates : (s.commitAt done cause user step origin).qm.updates = [] := by
  rw [State.commitAt_eq]
  exact (outsideStepEnd_updates.endTracking _).trans (outsideStepEnd_updates.summarise _ _ _ _ _)

/-- Tracking ends with the step (R339). -/
theorem State.commitAt_tracking : (s.commitAt done cause user step origin).fab.tracks = [] ∧
    (s.commitAt done cause user step origin).fab.lost = [] ∧ (s.commitAt done cause user step origin).rd .FAB_TRACK_STATUS = 0 := by
  rw [State.commitAt_eq]
  refine ⟨?_, ?_, State.rd_wr_same _ _ _ _ _ rfl rfl⟩ <;> simp [State.endTracking]

end

/-! ### The root (R239, R242) -/

/-- A message to several packages, the same to each. -/
theorem State.foldl_stageSend {bs : State → List Byte} (same : ∀ t r, bs (t.send r) = bs t) (ps : List Nat) (s : State) :
    ps.foldl (fun t p => t.stageSend p (bs t)) s = s.sendAll (ps.map fun p =>
      { op := 0x11, dst := p, requester := stageCode, addr := stagePort, payload := bs s }) := by
  induction ps generalizing s with
  | nil => simp [State.sendAll]
  | cons p ps ih =>
    rw [List.foldl_cons, ih, State.stageSend, same]
    simp [State.sendAll, State.send]

section
variable {s : State} {step pkg cause user attempt : Nat}

theorem State.rootDone_counted (open' : s.stepDecided step attempt = false) (first : s.stg.doneFrom.contains (step, pkg) = false) :
    s.rootDone step pkg attempt =
      if s.fld STG_ROOT.packages ≤ ((s.stg.doneFrom ++ [(step, pkg)]).filter fun x => x.1 == step).length then
        State.decide { s with stg := { s.stg with doneFrom := s.stg.doneFrom ++ [(step, pkg)] } } true 0 0 step 0 attempt
      else { s with stg := { s.stg with doneFrom := s.stg.doneFrom ++ [(step, pkg)] } } := by
  simp only [State.rootDone, open', first, Bool.false_eq_true, if_false]
  rfl

theorem State.rootAbort_kept (open' : s.stepDecided step attempt = false) (first : ∀ a ∈ s.stg.aborts, a.1 ≠ step) :
    s.rootAbort step pkg cause user attempt =
      { s with stg := { s.stg with aborts := s.stg.aborts ++ [(step, pkg, cause, user, attempt)] } } := by
  have fresh : (s.stg.aborts.any fun a => a.1 == step) = false := List.any_eq_false.mpr fun a ha => by simpa using first a ha
  simp only [State.rootAbort, open', fresh, Bool.false_eq_true, if_false]

/-- An ABORT of a later hub cycle than the commit point's is late. -/
theorem State.rootAbort_late (past : s.stepDecided step attempt = true) (later : s.stg.decidedAt ≠ s.cycle) :
    s.rootAbort step pkg cause user attempt = s.bump STG_PERF_LATE_ABORT.count 0 0 1 := by
  simp only [State.rootAbort, past, later, if_true, false_and, if_false]

theorem State.decide_decided (s : State) (done : Bool) (cause user step origin attempt : Nat) :
    (s.decide done cause user step origin attempt).stg.decided = s.stg.decided ++ [(step, attempt)] := by
  rw [State.decide, State.commitAt_decided]
  refine foldl_keeps (fun t : State => t.stg.decided) _ (fun _ _ => ?_) _ _
  rfl

/-- The only ABORT of a hub cycle, judged at the cycle's end. -/
theorem State.settleAborts_one (one : s.stg.aborts = [(step, pkg, cause, user, attempt)]) :
    s.settleAborts = if s.stepDecided step attempt then { s with stg := { s.stg with aborts := [] } }
      else State.decide { s with stg := { s.stg with aborts := [] } } false cause user step pkg attempt := by
  rw [State.settleAborts, one]
  rfl

/-- The packages that have cleared, with one more. -/
def State.clearedWith (s : State) (pkg : Nat) : List Nat :=
  if s.stg.clearedFrom.contains pkg then s.stg.clearedFrom else s.stg.clearedFrom ++ [pkg]

/-- No package has cleared. -/
def State.noneCleared (s : State) : State := { s with stg := { s.stg with clearedFrom := [] } }

/-- READY goes to the other packages of the step. -/
def State.sendReady (s : State) : State :=
  s.otherPackages.foldl (fun t p => t.stageSend p (stageMessage msgReady 0 0 0 (t.fld STG_STEP_STATUS.step) 0)) s

theorem State.sendReady_eq (s : State) : s.sendReady = s.sendAll (s.otherPackages.map fun p =>
    { op := 0x11, dst := p, requester := stageCode, addr := stagePort
      payload := stageMessage msgReady 0 0 0 (s.fld STG_STEP_STATUS.step) 0 }) :=
  State.foldl_stageSend (bs := fun t => stageMessage msgReady 0 0 0 (t.fld STG_STEP_STATUS.step) 0) (fun _ _ => rfl) _ s

/-- A package that clears leaves CLEARING for IDLE. -/
def State.leaveClearing (s : State) : State :=
  if s.fld STG_STEP_STATUS.state = stClearing then s.setFld STG_STEP_STATUS.state 0 0 stIdle else s

theorem State.fld_leaveClearing (s : State) : s.leaveClearing.fld STG_STEP_STATUS.state =
    if s.fld STG_STEP_STATUS.state = 4 then 0 else s.fld STG_STEP_STATUS.state := by
  unfold State.leaveClearing
  split
  · next clearing => exact (s.showsStep_self.setState (by decide)).state.trans (if_pos clearing).symm
  · next other => exact (if_neg other).symm

@[simp] theorem State.leaveClearing_part (s : State) : s.leaveClearing.part = s.part := by
  unfold State.leaveClearing
  split <;> simp

@[simp] theorem State.leaveClearing_stg (s : State) : s.leaveClearing.stg = s.stg := by
  unfold State.leaveClearing
  split <;> simp

@[simp] theorem State.leaveClearing_fab (s : State) : s.leaveClearing.fab = s.fab := by
  unfold State.leaveClearing
  split <;> simp

theorem State.rootCleared_waits (few : (s.clearedWith pkg).length < s.fld STG_ROOT.packages) :
    s.rootCleared pkg = { s with stg := { s.stg with clearedFrom := s.clearedWith pkg } } := if_neg few.not_ge

theorem State.rootCleared_ready (all : s.fld STG_ROOT.packages ≤ (s.clearedWith pkg).length) :
    s.rootCleared pkg = s.noneCleared.sendReady.leaveClearing := if_pos all

end

/-! ### The clearing of the queues (R220, R241) -/

/-- What a stage slot holds of a step: micro-batches, entries and requests that wait, and its rings. -/
def Stage.held (x : Stage) : List InFlight × List Arrival × List StkReq × List StkReq × Ring × Ring × Ring :=
  (x.inflight, x.arrivals, x.fwdReqs, x.bwdReqs, x.stk, x.spill, x.bres)

theorem Stage.held_empty {x : Stage} : x.held = ({} : Stage).held ↔
    x.inflight = [] ∧ x.arrivals = [] ∧ x.fwdReqs = [] ∧ x.bwdReqs = [] ∧ x.stk = {} ∧ x.spill = {} ∧ x.bres = {} := by
  simp [Stage.held]

/-- Records that go out change no more of a slot than its queues' counts and the records that wait. -/
theorem State.held_flushStage (s : State) (slot n : Nat) : ((s.flushStage slot).stage n).held = (s.stage n).held := by
  have stg := outsideMemory_stg.flushRecords (s.stage slot).records s []
  simp only [State.flushStage]
  rw [State.stage_congr (State.bump_stg _ _ _ _ _), State.stage_setStage]
  split
  · next same => rw [State.stage_congr stg, same]; rfl
  · rw [State.stage_congr stg]

theorem State.held_stageRecord (s : State) (slot array window : Nat) (role : Option Nat) (bs : List Byte) (n : Nat) :
    ((s.stageRecord slot array window role bs).stage n).held = (s.stage n).held := by
  rw [State.stageRecord, State.held_flushStage, State.stage_setStage]
  split
  · next same => rw [same]; rfl
  · rfl

theorem State.held_credit (s : State) (slot : Nat) (backward : Bool) (seq n : Nat) :
    ((s.credit slot backward seq).stage n).held = (s.stage n).held := by
  rw [State.credit, State.held_stageRecord, State.stage_setStage]
  split
  · next same => rw [same]; cases backward <;> rfl
  · rfl

theorem State.syncStage_stg (s : State) (slot : Nat) : (s.syncStage slot).stg = s.stg := by
  simp only [State.syncStage]
  split <;> simp

/-- The D first CREDIT records of an OUT queue (R220). -/
def State.firstCredits (s : State) (n : Nat) (b : Bool) : State :=
  if (s.queueEntry n (if b then 3 else 1)).valid then
    (List.range (s.queueEntry n (if b then 3 else 1)).depth).foldl (fun s i => s.credit n b i) s else s

/-- A slot emptied of all but the step records that wait. -/
def State.emptySlot (s : State) (n : Nat) : State :=
  s.setStage n { records := (s.stage n).records.filter fun r => byteAt r.bytes 0 == 0x35 || byteAt r.bytes 0 == 0x36 }

/-- A slot starts anew. -/
def State.startSlot (s : State) (n : Nat) : State :=
  if !((s.emptySlot n).stageEntry n).valid then s.emptySlot n
  else (((s.emptySlot n).firstCredits n false).firstCredits n true).syncStage n

theorem State.stageStart_eq (s : State) : s.stageStart = (List.range 64).foldl State.startSlot s := rfl

theorem State.firstCredits_keeps {γ : Type} (p : State → γ) {n : Nat} {b : Bool} (credit : ∀ (t : State) i, p (t.credit n b i) = p t)
    (s : State) : p (s.firstCredits n b) = p s := by
  by_cases valid : (s.queueEntry n (if b then 3 else 1)).valid = true
  · rw [State.firstCredits, if_pos valid]
    exact foldl_keeps p _ (fun t i => credit t i) _ _
  · rw [State.firstCredits, if_neg valid]

theorem State.held_firstCredits (s : State) (slot : Nat) (b : Bool) (n : Nat) :
    ((s.firstCredits slot b).stage n).held = (s.stage n).held :=
  State.firstCredits_keeps (fun t => (t.stage n).held) (fun t i => t.held_credit slot b i n) s

theorem State.held_startSlot (s : State) (slot n : Nat) :
    ((s.startSlot slot).stage n).held = if n = slot then ({} : Stage).held else (s.stage n).held := by
  have emptied : ((s.emptySlot slot).stage n).held = if n = slot then ({} : Stage).held else (s.stage n).held := by
    rw [State.emptySlot, State.stage_setStage]
    split <;> rfl
  unfold State.startSlot
  split
  · exact emptied
  · rw [State.stage_congr (State.syncStage_stg _ _), State.held_firstCredits, State.held_firstCredits, emptied]

/-- Every slot holds nothing after a start. -/
theorem State.held_stageStart (s : State) {n : Nat} (hn : n < 64) : (s.stageStart.stage n).held = ({} : Stage).held := by
  have started : ∀ (l : List Nat) (t : State), ((l.foldl State.startSlot t).stage n).held =
      if n ∈ l then ({} : Stage).held else (t.stage n).held := fun l => by
    induction l with
    | nil => exact fun t => rfl
    | cons m l ih =>
      intro t
      rw [List.foldl_cons, ih, State.held_startSlot]
      by_cases later : n ∈ l <;> simp [later]
  rw [State.stageStart_eq, started, if_pos (List.mem_range.mpr hn)]

theorem OutsideStepEnd.stageStart {γ : Type} {p : State → γ} (h : OutsideStepEnd p) (s : State) : p s.stageStart = p s := by
  have credit : ∀ (t : State) n b i, p (t.credit n b i) = p t := fun t n b i => (h.stageRecord _ _ _ _ _ _).trans (h.setStage t _ _)
  have credits : ∀ (t : State) n b, p (t.firstCredits n b) = p t := fun t n b => t.firstCredits_keeps p fun t i => credit t n b i
  rw [State.stageStart_eq]
  refine foldl_keeps p _ (fun t n => ?_) _ _
  unfold State.startSlot
  split
  · exact h.setStage t _ _
  · exact (h.syncStage _ _).trans ((credits _ _ _).trans ((credits _ _ _).trans (h.setStage t _ _)))

/-- Every queue has started anew, and the package is in CLEARING. -/
def State.cleared (s : State) : State := s.stageStart.setFld STG_STEP_STATUS.state 0 0 stClearing

theorem State.rd_cleared (s : State) {k : RegKind} (memory : k.ofMemory = false) (events : k.ofEvents = false)
    (stepEnd : k.ofStepEnd = false) (other : k ≠ .STG_STEP_STATUS) : s.cleared.rd k = s.rd k :=
  (s.stageStart.rd_wr_other _ other (by decide) (by decide)).trans ((outsideStepEnd_rd memory events stepEnd).stageStart s)

theorem State.cleared_shows (s : State) : s.cleared.ShowsStep 4 (s.fld STG_STEP_STATUS.cause) (s.fld STG_STEP_STATUS.user_code)
    (s.fld STG_STEP_STATUS.step) :=
  (s.showsStep_self.congr ((outsideStepEnd_rd rfl rfl rfl).stageStart s)).setState (by decide)

theorem State.stageClear_reports {s : State} {v : Word} (aborted : s.fld STG_STEP_STATUS.state = 3) (ask : bit v 0 = true)
    (away : s.isRoot = false) : s.stageClear v = s.cleared.stageSend (s.fld STG_ROOT.root)
      (stageMessage msgCleared 0 0 0 (s.fld STG_STEP_STATUS.step) s.myId) := by
  have root : s.cleared.fld STG_ROOT.root = s.fld STG_ROOT.root := congrArg (bits · _ _) (s.rd_cleared rfl rfl rfl (by decide))
  have own : s.cleared.myId = s.myId := congrArg (bits · _ _) (s.rd_cleared rfl rfl rfl (by decide))
  have away' : ¬ (s.cleared.isRoot = true) := by
    rw [State.isRoot, root, own, ← State.isRoot, away]
    exact Bool.false_ne_true
  have heard : ¬ (s.fld STG_STEP_STATUS.state ≠ stAborted ∨ (!bit v 0) = true) := by simp [aborted, ask, stAborted]
  rw [← own, ← root, ← s.cleared_shows.step]
  exact (if_neg heard).trans (if_neg away')

/-! ### A package's own aborts (R238, R239) -/

theorem State.softAbort_asks {s : State} (armed : s.fld STG_STEP_STATUS.state = 1) (away : s.isRoot = false) (user : Nat) :
    s.softAbort user = s.stageSend (s.fld STG_ROOT.root)
      (stageMessage msgAbort 0 1 user (s.fld STG_STEP_STATUS.step) s.myId s.stg.attempts) := by
  have away' : ¬ (s.isRoot = true) := by simp [away]
  exact (if_neg (not_not.mpr armed)).trans (if_neg away')

theorem State.softAbort_late {s : State} (unarmed : s.fld STG_STEP_STATUS.state ≠ 1) (user : Nat) :
    s.softAbort user = s.bump STG_PERF_LATE_ABORT.count 0 0 1 := if_pos unarmed

end Sys2Proof.Machine
end

section
open Sys2Proof.Machine

/-- Settles O36: the root's count of LOCAL_DONE and CLEARED, and an ABORT judged at its cycle's end. -/
theorem rootDecides : Obligations.RootDecides := by
  refine ⟨?done, ?abort, ?settle, ?late, ?cleared⟩
  case done =>
    rintro bs s u up kind root open' first rfl
    have heard : ¬ (byteAt bs 0 ≠ msgLocalDone ∨ (!s.isRoot) = true) := by simp [kind, root, msgLocalDone]
    exact exec_next_of_live rfl up ((if_neg heard).trans (State.rootDone_counted open' first))
  case abort =>
    intro bs s up kind root open' first
    have heard : ¬ (byteAt bs 0 ≠ msgAbort ∨ (!s.isRoot) = true) := by simp [kind, root, msgAbort]
    exact exec_next_of_live rfl up ((if_neg heard).trans (State.rootAbort_kept open' first))
  case settle =>
    rintro step pkg cause user attempt s t one hs hc hu rfl
    have judged := State.settleAborts_one one
    refine ⟨fun past => judged.trans (if_pos past), fun open' => ?_⟩
    rw [judged, if_neg (by simp [open'])]
    obtain ⟨state, cause, user, step⟩ := State.commitAt_shows _ false _ _ _ pkg hc hu hs
    exact ⟨State.decide_decided _ _ _ _ _ _ _, state, cause, user, step⟩
  case late =>
    intro bs s up kind root past later
    have heard : ¬ (byteAt bs 0 ≠ msgAbort ∨ (!s.isRoot) = true) := by simp [kind, root, msgAbort]
    exact exec_next_of_live rfl up ((if_neg heard).trans (State.rootAbort_late past later))
  case cleared =>
    rintro bs s c up kind root rfl
    have heard : ¬ (byteAt bs 0 ≠ msgCleared ∨ (!s.isRoot) = true) := by simp [kind, root, msgCleared]
    refine ⟨_, exec_next_of_live rfl up (if_neg heard), fun few => congrArg s.settle (State.rootCleared_waits few), fun all => ?_⟩
    have ready := State.rootCleared_ready all
    rw [ready]
    have part : s.noneCleared.sendReady.leaveClearing.part = s.part := by
      rw [State.leaveClearing_part, State.sendReady_eq]
      rfl
    have stg : s.noneCleared.sendReady.leaveClearing.stg = s.noneCleared.stg := by
      rw [State.leaveClearing_stg, State.sendReady_eq]
      rfl
    refine ⟨congrArg Stg.clearedFrom stg, (congrArg Stg.decided stg).trans rfl, ?sent, ?state⟩
    case sent =>
      rw [State.settle_fab, State.leaveClearing_fab, State.sendReady_eq]
      rfl
    case state =>
      refine (State.fld_settle _ _ part _ _ _).trans ((State.fld_leaveClearing _).trans ?_)
      rw [State.sendReady_eq]
      rfl

/-- Settles O37: a COMMIT by what it shows and what its work leaves alone; a clearing by the slots it empties. -/
theorem stepEndsAtPackage : Obligations.StepEndsAtPackage := by
  refine ⟨?commit, ?abort, ?late, ?clear, ?ready⟩
  case commit =>
    intro bs s up kind
    have taken : s.commitMessage bs = s.commitAt (byteAt bs 1 == 1) (byteAt bs 2) (byteAt bs 3) (num bs 4 4) (num bs 8 2) :=
      if_neg (not_not.mpr kind)
    have byte : ∀ i, byteAt bs i < 256 := fun i => (bs.getD i 0).isLt
    have part := s.commitAt_part (byteAt bs 1 == 1) (byteAt bs 2) (byteAt bs 3) (num bs 4 4) (num bs 8 2)
    obtain ⟨state, cause, user, step⟩ := (s.commitAt_shows _ _ _ _ (num bs 8 2) (byte 2) (byte 3) (num_lt bs 4 4)).settle part
    obtain ⟨tracks, lost, status⟩ := s.commitAt_tracking (byteAt bs 1 == 1) (byteAt bs 2) (byteAt bs 3) (num bs 4 4) (num bs 8 2)
    refine ⟨_, exec_next_of_live rfl up taken, state.trans (by simp), cause, user, step, tracks, lost,
      (State.rd_settle _ _ part _ _ _).trans status, s.commitAt_updates _ _ _ _ _, ?_⟩
    exact (s.commitAt_attempts _ _ _ _ _).trans (by simp)
  case abort =>
    exact fun v s takes armed away => exec_next_of_written rfl takes (State.softAbort_asks armed away _)
  case late => exact fun v s takes unarmed => exec_next_of_written rfl takes (State.softAbort_late unarmed _)
  case clear =>
    intro v s takes aborted ask away
    have part : s.cleared.part = s.part := by
      rw [State.cleared, State.setFld_part]
      exact outsideStepEnd_part.stageStart s
    refine ⟨_, exec_next_of_written rfl takes (State.stageClear_reports aborted ask away),
      (State.fld_settle _ _ part _ _ _).trans s.cleared_shows.state, fun n hn => ?_, ?_⟩
    · have held : (s.cleared.stage n).held = ({} : Stage).held := by
        rw [State.cleared, State.stage_congr (State.setFld_stg _ _ _ _ _)]
        exact s.held_stageStart hn
      exact Stage.held_empty.mp held
    · simp [State.stageSend, State.send]
  case ready =>
    intro bs s up kind clearing
    have heard : ¬ (byteAt bs 0 ≠ msgReady ∨ s.fld STG_STEP_STATUS.state ≠ stClearing) := by
      simp [kind, clearing, msgReady, stClearing]
    have shows := (s.showsStep_self.setState (v := stIdle) (by decide)).settle (t := s) (by simp)
    exact ⟨_, exec_next_of_live rfl up (if_neg heard), shows.state, by simp, by simp⟩

end

section
/-! SUPPORT. The temper units: gradient segments, reduction, norm partials and missing shards by what they find (R253 to R258, R268). -/

namespace Sys2Proof.Machine

/-! ### When a command of the temper units acts, each with the READY records that it writes (R37, R267, R388, R389) -/

section
variable {c : Instr} {s t : State} {f : State → State}

/-- A command of a running package leaves what its effect is, and held READY records are written. -/
theorem exec_flushes_of_live {u : State} (hc : exec c s = live s u.flushReady) (up : s.up = true) (hu : u = t) :
    exec c s = .next (s.settle t.flushReady) := exec_next_of_live hc up (congrArg State.flushReady hu)

/-- Work of a unit that takes work up leaves what its effect is, and held READY records are written. -/
theorem exec_flushes_of_work (hc : exec c s = live s (s.work fun s => (f s).flushReady)) (h : s.working = true) (ht : f s = t) :
    exec c s = .next (s.settle t.flushReady) := exec_next_of_work hc h (congrArg State.flushReady ht)

/-- A write of registers on dies whose link is in service leaves what its effect is, and held READY records are written. -/
theorem exec_flushes_of_writtenAt {dies : List Nat} (hc : exec c s = live s (s.writtenAt dies fun s => (f s).flushReady))
    (h : s.takesWrites = true) (inService : s.dieOpen dies = true) (ht : f s = t) : exec c s = .next (s.settle t.flushReady) :=
  exec_next_of_written hc h ((if_pos inService).trans (congrArg State.flushReady ht))

end

/-! ### Segments (R253, R254) -/

/-- A segment as its header gives it, from a replica. -/
def Seg.ofHeader (h : List Byte) (r : Nat) : Seg :=
  { step := num h 8 4, replica := r, count := num h 12 4, empty := byteAt h 1 / 2 % 2 == 1 }

/-- A segment is counted and kept with those of its shard (R253). -/
def State.keepSegment (s : State) (x : Nat) (g : Seg) : State :=
  (s.setTshard x { s.tshard x with segs := (s.tshard x).segs ++ [g] }).bump TMP_PERF_SEGMENTS.count 0 0 1

/-- A shard that was idle collects, and its unit's registers show it. -/
def State.showCollecting (s : State) (x unit : Nat) : State :=
  ((if s.phase x = phIdle then s.setPhase x phCollect else s).syncPresent x).syncUnit unit

section
variable {s : State} {v : Word} {x bank r : Nat} {e : ShardEntry} {hd bd : State × List Byte × Bool}
  (hears : s.stageHears = true) (slot : s.landingSlot (bits v 47 0) = some (x, e, bank, r)) (head : hd = s.unitRead e.unit (bits v 47 0) 32)
  (body : bd = hd.1.unitRead e.unit (bits v 47 0 + 32) (if num hd.2.1 16 4 = 4 * e.n then num hd.2.1 16 4 else 0))
include hears slot head body

theorem State.segArrive_joins (sound : hd.2.2 = false) (passes : bd.1.segmentCheck x e bank r hd.2.1 bd.2.1 bd.2.2 = none) :
    s.segArrive v = (bd.1.keepSegment x (Seg.ofHeader hd.2.1 r)).showCollecting x e.unit := by
  subst head body
  simp only [State.segArrive, slot, hears, sound, passes, Bool.not_true, Bool.false_eq_true, if_false]
  rfl

theorem State.segArrive_corrupt {c : Nat}
    (fails : (if hd.2.2 then some 8 else bd.1.segmentCheck x e bank r hd.2.1 bd.2.1 bd.2.2) = some c) :
    s.segArrive v = bd.1.corruptSegment c r x e.unit := by
  subst head body
  simp only [State.segArrive, slot, hears, fails, Bool.not_true, Bool.false_eq_true, if_false]

end

theorem State.segArrive_nowhere {s : State} {v : Word} (hears : s.stageHears = true) (slot : s.landingSlot (bits v 47 0) = none) :
    s.segArrive v = s.corruptSegment 0xA 0 0 0xFFFF := by
  simp [State.segArrive, hears, slot]

/-! ### Reduction (R255, R256) -/

/-- A shard's gradient sums are recorded with the sum of their squares, which goes to the layer's units as its norm partial; the shard
parks (R256, R257). -/
def State.parkShard (s : State) (x : Nat) (e : ShardEntry) (step : Nat) (g : List (Num × Exc)) : State :=
  (((s.recordUnit e.unit ((g.foldl (fun (r : Record) y => r.element y.2) {}).element (sumSquares (g.map (·.1))).2)).sendNorm e step
    (toB64 (sumSquares (g.map (·.1))).1) false false).setPhase x phParked).syncUnit e.unit

section
variable {s : State} {x step : Nat} {e : ShardEntry} {segs : List Seg} {p : State × Option Nat × List (Array Byte)}
  (entry : s.shardEntry x = some e) (owner : e.owner = true) (replicas : e.nRep ≠ 0) (works : s.shardWorks x = true)
  (atStep : step = s.workStep x) (present : segs = (s.tshard x).segsOf step e.nRep) (all : e.nRep ≤ segs.length)
  (phase : s.phase x = phIdle ∨ s.phase x = phCollect) (open' : s.pathState ⟨.UST_TEMPER, e.unit⟩ ≠ tsDraining)
  (visited : e.kind ≠ 2 ∨ (segs.map (·.count)).sum ≠ 0) (payloads : p = s.payloads e step segs)
include entry owner replicas works atStep present all phase open' visited payloads

theorem State.shardReduce_complete : s.shardReduce x =
    p.2.1.elim (p.1.parkShard x e step (e.gradients segs p.2.2)) fun r => p.1.corruptSegment 8 r x e.unit := by
  have sound : s.phase x ≠ phDamaged := by rcases phase with h | h <;> simp [h, phIdle, phCollect, phDamaged]
  have goes : ¬ ((s.phase x ≠ phIdle ∧ s.phase x ≠ phCollect) ∨ s.pathState ⟨.UST_TEMPER, e.unit⟩ = tsDraining) := by tauto
  have visits : ¬ (e.kind = 2 ∧ (segs.map (·.count)).sum = 0) := by tauto
  have complete : ¬ ((!e.owner) = true ∨ (!s.shardWorks x) = true ∨ e.nRep = 0 ∨ segs.length < e.nRep) := by
    simp [owner, works, replicas, all]
  subst atStep present payloads
  unfold State.shardReduce
  rw [entry]
  dsimp only
  rw [if_neg complete, if_neg sound, if_neg goes, if_neg visits]
  cases (s.payloads e (s.workStep x) ((s.tshard x).segsOf (s.workStep x) e.nRep)).2.1 <;> rfl

end

/-! ### Norm partials (R257, R258) -/

/-- A norm partial of a layer as its message gives it. -/
def Partial.ofMessage (li : Nat) (bs : List Byte) : Partial :=
  { layer := li, step := num bs 4 4, ordinal := num bs 10 2 % 8192, skip := byteAt bs 1 % 2 == 1
    missing := byteAt bs 1 / 2 % 2 == 1, value := num bs 16 8 }

/-- The partials of a layer's shards at a step, by ordinal. -/
def TLayer.partialsOf (l : TLayer) (ps : List Partial) (li step : Nat) : List Partial :=
  (List.range l.nShards).filterMap fun o => ps.find? fun y => y.layer == li && y.step == step && y.ordinal == o

/-- A norm partial's value goes to its place in memory. -/
def State.putPartial (s : State) (l : TLayer) (p : Partial) : State :=
  s.putMem (l.partials + 8 * p.ordinal) (leBytes 8 p.value) ownExt (unitDie ((s.ownUnits l).headD 0))

/-- A norm partial is kept. -/
def State.keepPartial (s : State) (p : Partial) : State := { s with tmp := { s.tmp with partials := s.tmp.partials ++ [p] } }

/-- The events of a layer's norm and clip factor are recorded at this package's units of the layer. -/
def State.recordNorm (s : State) (l : TLayer) (j : (Num × Exc) × Option Nat) : State :=
  (s.ownUnits l).foldl (fun (a : State) u => a.recordUnit u
    ((({} : Record).element j.1.2).element (if j.2.isNone then (clipFactor l j.1.1).2 else Exc.none))) s

/-- A layer's partials of a step are used up, and its norm is kept beside that of the step before. -/
def State.keepNorm (s : State) (li step norm : Nat) (ps : List Partial) : State :=
  { s with tmp := { s.tmp with
    partials := ps.filter fun y => !(y.layer == li && y.step == step)
    norms := (s.tmp.norms.filter fun (y : Nat × Nat × Nat) => !(y.1 == li && y.2.1 + 1 < step)) ++ [(li, step, norm)] } }

/-- The parked shards of a layer enter their apply phases with the clip factor (R258). -/
def State.releaseLayer (s : State) (li k : Nat) : State :=
  s.shardList.foldl (fun (a : State) (x : Nat × ShardEntry) =>
    if x.2.owner ∧ x.2.layer = li ∧ a.phase x.1 = phParked then
      ((a.setTshard x.1 { a.tshard x.1 with k := k }).setPhase x.1 phApply).syncUnit x.2.unit
    else a) s

/-- What the last partial of a layer decides: its update is withheld, or its parked shards are released (R258). -/
def State.decideLayer (s : State) (li step : Nat) (l : TLayer) (ps : List Partial) (j : (Num × Exc) × Option Nat) : State :=
  let t := (s.recordNorm l j).keepNorm li step (toB64 j.1.1) ps
  match j.2 with
  | some flags => t.withhold li l step flags (toB64 j.1.1)
  | none => t.releaseLayer li (toB64 (clipFactor l j.1.1).1)

/-- A norm partial is stored, and with the last one of its layer the layer is decided. -/
def State.takePartial (s : State) (li : Nat) (l : TLayer) (p : Partial) : State :=
  let w := (s.putPartial l p).keepPartial p
  let mine := l.partialsOf w.tmp.partials li p.step
  if mine.length < l.nShards then w else w.decideLayer li p.step l w.tmp.partials (w.judgeNorm l mine)

/-- A shard's first partial of a step whose layer is not decided is taken. -/
theorem State.normPartial_new {s : State} {bs : List Byte} {li : Nat} {p : Partial} (kind : byteAt bs 0 = 0x60)
    (current : s.thisAttempt bs = true) (layer : s.tlayerIndex (num bs 8 2) = some li) (message : p = Partial.ofMessage li bs)
    (new : s.tmp.partials.any (fun y => y.layer == li && y.step == p.step && y.ordinal == p.ordinal) = false)
    (undecided : s.tmp.norms.any (fun y => y.1 == li && y.2.1 == p.step) = false) :
    s.normPartial bs = s.takePartial li (s.tlayer li) p := by
  have heard : ¬ (byteAt bs 0 ≠ 0x60 ∨ (!s.thisAttempt bs) = true) := by simp [kind, current]
  have taken : ¬ ((s.tmp.partials.any fun y => y.layer == li && y.step == p.step && y.ordinal == p.ordinal) = true ∨
      (s.tmp.norms.any fun y => y.1 == li && y.2.1 == p.step) = true) := by rw [new, undecided]; decide
  subst message
  unfold State.normPartial
  rw [if_neg heard, layer]
  exact if_neg taken

/-! ### Missing shards (R268) -/

theorem State.segmentTimeout_missing {s : State} {x step : Nat} {rest : List Nat} {e : ShardEntry} (entry : s.shardEntry x = some e)
    (late : (s.tshard x).late = step :: rest) (owner : e.owner = true)
    (phase : s.phase x = phIdle ∨ s.phase x = phCollect ∨ s.phase x = phDamaged)
    (short : ((s.tshard x).segsOf step e.nRep).length < e.nRep) :
    s.segmentTimeout x = (((s.sendNorm e step 0 false true).bump TMP_PERF_MISSING.count 0 0 1).temperFault 7 0 0 x e.unit).decideUnchanged
      x e 3 step := by
  have due : ¬ ((!e.owner) = true ∨ (s.phase x ≠ phIdle ∧ s.phase x ≠ phCollect ∧ s.phase x ≠ phDamaged) ∨
      ((s.tshard x).segsOf step e.nRep).length ≥ e.nRep) := by
    rcases phase with h | h | h <;> simp [owner, h, short]
  simp only [State.segmentTimeout, entry, late, if_neg due]

end Sys2Proof.Machine
end

section
open Sys2Proof.Machine

/-- Settles O38: segments, reductions, norm partials and missing shards, each by what is found of them. -/
theorem segmentsReduce : Obligations.SegmentsReduce := by
  refine ⟨?arrives, ?nowhere, ?reduce, ?partial', ?missing⟩
  case arrives =>
    intro v s y x bank r e hd bd takes dies hears slot head body
    refine ⟨?_, fun c fails => exec_flushes_of_writtenAt rfl takes dies (State.segArrive_corrupt hears slot head body fails)⟩
    rintro sound passes rfl
    exact exec_flushes_of_writtenAt rfl takes dies (State.segArrive_joins hears slot head body sound passes)
  case nowhere =>
    exact fun v s takes dies hears slot => exec_flushes_of_writtenAt rfl takes dies (State.segArrive_nowhere hears slot)
  case reduce =>
    rintro x step s e segs p g working entry owner replicas works atStep present all phase open' visited payloads rfl
    have reduced := State.shardReduce_complete entry owner replicas works atStep present all phase open' visited payloads
    refine ⟨fun usable => ?_, fun r unusable => ?_⟩
    · rw [usable] at reduced
      exact exec_flushes_of_work rfl working reduced
    · rw [unusable] at reduced
      exact exec_flushes_of_work rfl working reduced
  case partial' =>
    rintro bs s w li p up kind current layer message new undecided rfl short
    exact exec_flushes_of_live rfl up ((State.normPartial_new kind current layer message new undecided).trans (if_pos short))
  case missing =>
    intro x step rest s e up entry late owner phase short
    exact exec_flushes_of_live rfl up (State.segmentTimeout_missing entry late owner phase short)

end

section
/-! SUPPORT. The temper units: the judgement of a layer, apply jobs, staging, derived copies and ratio partials (R258 to R265, R269,
R273). -/

namespace Sys2Proof.Machine

/-! ### The layer norm (R258, R268) -/

theorem State.judgeNorm_isSome (s : State) (l : TLayer) (ps : List Partial) : (s.judgeNorm l ps).2.isSome = true ↔
    (s.judgeNorm l ps).1.1.isNan = true ∨ (s.judgeNorm l ps).1.1.isInf = true ∨
      (a32 (if l.ceil = 0 then s.fld TEMPER_NORM_CEIL.ceil else l.ceil)).lt (s.judgeNorm l ps).1.1 = true ∨
      ∃ y ∈ ps, y.missing = true := by
  simp only [State.judgeNorm]
  rw [Option.isSome_ite]
  simp only [Bool.or_eq_true, List.any_eq_true, or_assoc]
  exact or_congr_right (or_congr_right or_comm)

theorem State.takePartial_last {s w : State} {li : Nat} {l : TLayer} {p : Partial} {mine : List Partial} {j : (Num × Exc) × Option Nat}
    (stored : w = s.putPartial l p) (all : mine = l.partialsOf (w.tmp.partials ++ [p]) li p.step) (last : mine.length = l.nShards)
    (judged : j = w.judgeNorm l mine) :
    s.takePartial li l p = (w.keepPartial p).decideLayer li p.step l (w.tmp.partials ++ [p]) j := by
  subst judged all stored
  exact if_neg last.not_lt

section
variable {s v t : State} {li step : Nat} {l : TLayer} {ps : List Partial} {j : (Num × Exc) × Option Nat}
  (recorded : v = s.recordNorm l j) (kept : t = v.keepNorm li step (toB64 j.1.1) ps)
include recorded kept

theorem State.decideLayer_withheld {flags : Nat} (withheld : j.2 = some flags) :
    s.decideLayer li step l ps j = t.withhold li l step flags (toB64 j.1.1) := by
  simp only [State.decideLayer, withheld, kept, recorded]

theorem State.decideLayer_released (released : j.2 = none) :
    s.decideLayer li step l ps j = t.releaseLayer li (toB64 (clipFactor l j.1.1).1) := by
  simp only [State.decideLayer, released, kept, recorded]

end

/-! ### Apply jobs and staging (R260 to R263, R265, R266, R269) -/

/-- STAGED goes to each other package that holds a replica. -/
def State.sendStaged (s : State) (x : Nat) (e : ShardEntry) (step version plane : Nat) : State :=
  (s.replicaList e).foldl (fun a r => if r.1 = a.myId then a else a.temperSend e.unit r.1 e.unit
    (stagedBytes s.stg.attempts step e.id version (s.myId * 2 ^ 48 + s.otherImage x e) (e.offPlane + plane))) s

section
variable {s : State} {x : Nat} {e : ShardEntry}

theorem State.applyCompute_unread (unread : (s.applyReads x e).2 = none) : (s.applyCompute x e).2 = none := by
  simp only [State.applyCompute, unread]

variable (entry : s.shardEntry x = some e) (phase : s.phase x = phApply)
include entry phase

theorem State.applyPhase_done {t : Nat} {w0 : Nat → Nat} {out : List ((Nat × Exc) × (Nat × Exc) × (Nat × Exc))}
    (unapplied : (s.tshard x).applied = none) (computed : (s.applyCompute x e).2 = some (t, w0, out)) :
    s.applyPhase x = (s.applyCompute x e).1.applyWrites x e t w0 out := by
  simp [State.applyPhase, entry, phase, unapplied, computed]

theorem State.applyPhase_damaged (unapplied : (s.tshard x).applied = none) (unusable : (s.applyCompute x e).2 = none) :
    s.applyPhase x = ((s.applyCompute x e).1.ownerDamaged x e).softAbort 0xE2 := by
  simp [State.applyPhase, entry, phase, unapplied, unusable]

theorem State.shardStaged_applied {version plane n w : Nat} (applied : (s.tshard x).applied = some (version, plane, n, w)) :
    s.shardStaged x = (((((s.bump TMP_PERF_UPDATES.count 0 0 1).sendStaged x e (s.workStep x) version plane).sendRatio e (s.workStep x) n w
      false).setPhase x phStaged).shardDecided x e) := by
  simp only [State.shardStaged, entry, applied, phase, ne_eq, not_true, if_false]
  rfl

end

/-! ### Derived copies (R264) -/

/-- A working copy goes to its place in an image: directory, plane and the plane's size (R251, R263). -/
def State.putWorkingCopy (s : State) (e : ShardEntry) (base : Nat) (d : List Byte × List Byte × Record) : State :=
  (((s.recordUnit e.unit d.2.2).putMem (base + e.offDir) d.1 ownExt (unitDie e.unit)).putMem (base + e.offPlane) d.2.1 ownExt
    (unitDie e.unit)).putMem (base + 24) (leBytes 4 d.2.1.length) ownExt (unitDie e.unit)

section
variable {s : State} {v : Word} {e : ShardEntry} {r : State × List Byte × Bool} (entry : s.shardEntry (bits v 14 0) = some e)
  (read : r = s.unitRead e.unit (s.curImage (bits v 14 0) e + offMaster) (2 * e.n))
include entry read

theorem State.deriveShard_read (usable : r.2.2 = false) :
    s.deriveShard v = (((r.1.putWorkingCopy e (s.curImage (bits v 14 0) e)
      (e.derive ((List.range e.n).map (halfWords r.2.1)).toArray)).showVersion (bits v 14 0) e).markChanged e).showJob e.unit 3
        (bits v 14 0) := by
  subst read
  simp only [State.deriveShard, entry, usable, Bool.false_eq_true, if_false]
  rfl

theorem State.deriveShard_unread (unusable : r.2.2 = true) :
    s.deriveShard v = (r.1.ownerDamaged (bits v 14 0) e).showJob e.unit 3 (bits v 14 0) := by
  subst read
  simp only [State.deriveShard, entry, unusable, if_true]

end

/-! ### Ratio partials (R273) -/

/-- A ratio partial of a layer as its message gives it. -/
def RatioPart.ofMessage (li : Nat) (bs : List Byte) : RatioPart :=
  { layer := li, step := num bs 4 4, ordinal := num bs 10 2 % 8192, skip := byteAt bs 1 % 2 == 1, u := num bs 16 8, w := num bs 24 8 }

/-- The lead keeps a shard's first ratio partial of a step until the layer's last one comes. -/
theorem State.ratioPartial_waits {s : State} {bs : List Byte} {li : Nat} {p : RatioPart} (kind : byteAt bs 0 = 0x61)
    (current : s.thisAttempt bs = true) (layer : s.tlayerIndex (num bs 8 2) = some li) (lead : (s.tlayer li).leadPkg = s.myId)
    (message : p = RatioPart.ofMessage li bs)
    (new : s.tmp.ratios.any (fun y => y.layer == li && y.step == p.step && y.ordinal == p.ordinal) = false)
    (going : s.tmp.stopped.contains (li, p.step) = false)
    (short : ((List.range (s.tlayer li).nShards).filterMap fun o => (s.tmp.ratios ++ [p]).find? fun y =>
      y.layer == li && y.step == p.step && y.ordinal == o).length < (s.tlayer li).nShards) :
    s.ratioPartial bs = { s with tmp := { s.tmp with ratios := s.tmp.ratios ++ [p] } } := by
  have heard : ¬ (byteAt bs 0 ≠ 0x61 ∨ (!s.thisAttempt bs) = true) := by simp [kind, current]
  have taken : ¬ ((s.tmp.ratios.any fun y => y.layer == li && y.step == p.step && y.ordinal == p.ordinal) = true ∨
      s.tmp.stopped.contains (li, p.step) = true) := by rw [new, going]; decide
  subst message
  unfold State.ratioPartial
  rw [if_neg heard, layer]
  exact (if_neg (not_not.mpr lead)).trans ((if_neg taken).trans (if_pos short))

end Sys2Proof.Machine
end

section
open Sys2Proof.Machine

/-- Settles O39: a layer's judgement and its last partial, one element's update, and the work of apply, staging and derivation. -/
theorem shardsUpdate : Obligations.ShardsUpdate := by
  refine ⟨?judge, ?last, ?element, ?apply, ?staged, ?derive, ?ratio⟩
  case judge =>
    rintro s l ps N C rfl rfl
    exact ⟨rfl, s.judgeNorm_isSome l ps⟩
  case last =>
    rintro bs s w v li norm p mine j k up kind current layer message new undecided stored all last judged rfl rfl recorded t kept
    have taken := (State.normPartial_new kind current layer message new undecided).trans (State.takePartial_last stored all last judged)
    exact ⟨fun flags withheld => exec_flushes_of_live rfl up (taken.trans (State.decideLayer_withheld recorded kept withheld)),
      fun released => exec_flushes_of_live rfl up (taken.trans (State.decideLayer_released recorded kept released))⟩
  case element => exact fun h t g w m v => ⟨rfl, rfl⟩
  case apply =>
    intro x s e working entry phase unapplied
    exact ⟨fun t w0 out computed => exec_flushes_of_work rfl working (State.applyPhase_done entry phase unapplied computed),
      fun unusable => exec_flushes_of_work rfl working (State.applyPhase_damaged entry phase unapplied unusable),
      State.applyCompute_unread⟩
  case staged =>
    rintro x step version plane n w s b u e up entry applied phase rfl rfl rfl
    exact exec_flushes_of_live rfl up (State.shardStaged_applied entry phase applied)
  case derive =>
    rintro v x base s u e r d takes dies rfl entry rfl read rfl rfl
    exact ⟨fun usable => exec_flushes_of_writtenAt rfl takes dies (State.deriveShard_read entry read usable),
      fun unusable => exec_flushes_of_writtenAt rfl takes dies (State.deriveShard_unread entry read unusable)⟩
  case ratio =>
    intro bs s li p up kind current layer lead message new going short
    exact exec_flushes_of_live rfl up (State.ratioPartial_waits kind current layer lead message new going short)

end

section
/-! SUPPORT. Replicas: what STAGED and UNCHANGED enter, how a fetch ends, and what its blocks' checks ask for again (R270, R271). -/

namespace Sys2Proof.Machine

/-! ### STAGED and UNCHANGED (R270, R271) -/

section
variable {s : State} {bs : List Byte} {x : Nat} {e : ShardEntry} (replica : s.replicaOf (num bs 8 4) = some (x, e))
  (sound : s.phase x ≠ phDamaged)
include replica sound

theorem State.replicaMessage_taken (free : s.replicaBusy x = false ∨ (s.tshard x).step = num bs 4 4) :
    s.replicaMessage bs = (s.replicaTake x e bs).shardDecided x e := by
  have goes : ¬ (s.replicaBusy x = true ∧ (s.tshard x).step ≠ num bs 4 4) := by
    rcases free with h | h <;> simp [h]
  simp only [State.replicaMessage, replica, if_neg sound, if_neg goes]

theorem State.replicaMessage_waits (busy : s.replicaBusy x = true) (later : (s.tshard x).step ≠ num bs 4 4) :
    s.replicaMessage bs = s.setTshard x { s.tshard x with waiting := (s.tshard x).waiting ++ [bs] } := by
  simp only [State.replicaMessage, replica, if_neg sound, if_pos (And.intro busy later)]

end

theorem State.stagedMessage_current {s : State} {bs : List Byte} (kind : byteAt bs 0 = 0x62) (current : s.thisAttempt bs = true) :
    s.stagedMessage bs = s.replicaMessage bs := by
  simp [State.stagedMessage, kind, current]

theorem State.unchangedMessage_current {s : State} {bs : List Byte} (kind : byteAt bs 0 = 0x63) (current : s.thisAttempt bs = true) :
    s.unchangedMessage bs = s.replicaMessage bs := by
  simp [State.unchangedMessage, kind, current]

section
variable {s : State} {x : Nat} {bs : List Byte} (e : ShardEntry) (settled : s.refetching x = false)
include settled

theorem State.replicaTake_staged (kind : byteAt bs 0 = 0x62) :
    s.replicaTake x e bs = ((s.setTshard x { s.tshard x with step := num bs 4 4 }).setFld TMP_SHARD_STATE.repair x 0 0).startImageFetch x e
      (num bs 16 8) (num bs 24 8) (num bs 12 4) none := by
  simp only [State.replicaTake, settled, kind, Bool.false_eq_true, if_true, if_false]

theorem State.replicaTake_unchanged {u : State} (step : u = s.setTshard x { s.tshard x with step := num bs 4 4 })
    (kind : byteAt bs 0 = 0x63) :
    s.replicaTake x e bs = (u.setTshard x { u.tshard x with reason := byteAt bs 1 }).setPhase x phUnchanged := by
  have other : ¬ byteAt bs 0 = 0x62 := by omega
  simp only [State.replicaTake, settled, if_neg other, Bool.false_eq_true, if_false, step]

end

/-! ### The blocks of a fetched image (R270) -/

@[simp] theorem State.setTshard_mem (s : State) (x : Nat) (v : Shard) : (s.setTshard x v).mem = s.mem := rfl

@[simp] theorem State.tshard_setTshard_same (s : State) (x : Nat) (v : Shard) : (s.setTshard x v).tshard x = v :=
  Sparse.get_put_same _ _ _ _

section
variable (s : State) (x : Nat) (e : ShardEntry) (f : Fetch)

/-- Blocks that agree with the owner's entries change nothing. -/
theorem State.checkBlocks_agree (entries : List (Nat × Nat))
    (agree : ∀ y ∈ entries, 1024 * y.1 + 1024 ≤ f.bytes → crc32c (s.getMem (s.otherImage x e + 1024 * y.1) 1024) = y.2) :
    s.checkBlocks x e f entries = (f, [], 0) := by
  unfold State.checkBlocks
  induction entries with
  | nil => rfl
  | cons y ys ih =>
    have passes : 1024 * y.1 + 1024 > f.bytes ∨ crc32c (s.getMem (s.otherImage x e + 1024 * y.1) 1024) = y.2 := by
      rw [gt_iff_lt, ← not_le, ← imp_iff_not_or]
      exact agree y (by simp)
    rw [List.foldl_cons, if_pos passes]
    exact ih fun z hz => agree z (List.mem_cons_of_mem y hz)

variable {f} {i crc : Nat} (whole : 1024 * i + 1024 ≤ f.bytes) (differs : crc32c (s.getMem (s.otherImage x e + 1024 * i) 1024) ≠ crc)
include whole differs

/-- A block that does not agree is read again while it has failed fewer than three times. -/
theorem State.checkBlocks_again (fails : (Sparse.get {} f.blocks i).fails < 3) :
    s.checkBlocks x e f [(i, crc)] =
      ({ f with left := f.left + (f.lines e (1024 * i) (1024 * i + 1024)).length
                blocks := Sparse.put {} f.blocks i { fails := (Sparse.get {} f.blocks i).fails + 1 } },
        f.lines e (1024 * i) (1024 * i + 1024), 1) := by
  have checked : ¬ (1024 * i + 1024 > f.bytes ∨ crc32c (s.getMem (s.otherImage x e + 1024 * i) 1024) = crc) := by
    simp [differs, whole]
  exact (if_neg checked).trans (if_neg fails.not_ge)

theorem State.checkBlocks_fails (fails : 3 ≤ (Sparse.get {} f.blocks i).fails) :
    s.checkBlocks x e f [(i, crc)] = ({ f with failed := true }, [], 0) := by
  have checked : ¬ (1024 * i + 1024 > f.bytes ∨ crc32c (s.getMem (s.otherImage x e + 1024 * i) 1024) = crc) := by
    simp [differs, whole]
  exact (if_neg checked).trans (if_pos fails)

end

/-- A block has lines. -/
theorem Fetch.lines_block (f : Fetch) (e : ShardEntry) (first : Nat) : (f.lines e first (first + 1024)).isEmpty = false := by
  simp [Fetch.lines]

section
variable {s : State} {x : Nat} {e : ShardEntry} {f g : Fetch} {entries : List (Nat × Nat)}

/-- A fetch none of whose blocks is read again has ended. -/
theorem State.endFetch_ends (checked : s.checkBlocks x e f entries = (g, [], 0)) :
    s.endFetch x e f entries = (s.setTshard x { s.tshard x with fetch := none }, some !g.failed) := by
  rw [State.endFetch, checked]
  rfl

/-- A fetch goes on with the lines of the blocks that are read again. -/
theorem State.endFetch_goes_on {rs : List Request} {n : Nat} (checked : s.checkBlocks x e f entries = (g, rs, n))
    (again : rs.isEmpty = false) : (s.endFetch x e f entries).2 = none ∧ (s.endFetch x e f entries).1.fab.reqQ = s.fab.reqQ ++ rs := by
  have goes : ¬ rs.isEmpty = true := by simp [again]
  simp only [State.endFetch, checked, if_neg goes, true_and]
  exact congrArg (fun q : Fab => q.reqQ ++ rs) (State.bump_fab _ _ _ _ _)

end

/-! ### The end of a replica's fetch (R270, R271) -/

section
variable {s u : State} {x : Nat} {ok : Bool} {e : ShardEntry} {f : Fetch} {entries : List (Nat × Nat)}
  (entry : s.shardEntry x = some e) (fetch : (s.tshard x).fetch = some f) (staged : f.digest = none) (whole : f.left = 0)
include entry fetch staged whole

theorem State.replicaFetched_good (ended : s.endFetch x e (f.heard ok) entries = (u, some true)) :
    s.replicaFetched x ok entries = ((u.bump TMP_PERF_FETCH.count 0 0 1).setPhase x phFetched).shardDecided x e := by
  simp [State.replicaFetched, entry, fetch, staged, whole, ended]

theorem State.replicaFetched_damaged (ended : s.endFetch x e (f.heard ok) entries = (u, some false)) :
    s.replicaFetched x ok entries = ((u.setPhase x phDamaged).temperFault 5 0 0 x e.unit).shardDecided x e := by
  simp [State.replicaFetched, entry, fetch, staged, whole, ended]

theorem State.replicaFetched_goes_on (goesOn : s.endFetch x e (f.heard ok) entries = (u, none)) : s.replicaFetched x ok entries = u := by
  simp [State.replicaFetched, entry, fetch, staged, whole, goesOn]

end

end Sys2Proof.Machine
end

section
/-! SUPPORT. The assay: visits and digests, what a replica makes of an ASSAY, and the end of a refetch (R275 to R277). -/

namespace Sys2Proof.Machine

/-! ### Visits and digests (R275, R276) -/

/-- A unit that owns one shard with replicas visits it, wherever its last visit was. -/
theorem State.assayVisit_only {s : State} {n x : Nat} {e : ShardEntry} (unit : n ≤ 3) (enabled : s.flag TMP_ASSAY_CFG.enable = true)
    (budget : s.fld TMP_ASSAY_CFG.budget ≠ 0)
    (only : s.shardList.filter (fun x => x.2.owner && x.2.unit == n && x.2.nRep > 1) = [(x, e)]) :
    s.assayVisit n = ({ s with tmp := { s.tmp with visit := Sparse.put 0 s.tmp.visit n (x + 1) } } : State).startDigest
      { shard := x, base := s.curImage x e, ask := none } e := by
  have visits : ¬ (n > 3 ∨ (!s.flag TMP_ASSAY_CFG.enable) = true ∨ s.fld TMP_ASSAY_CFG.budget = 0) := by
    simp [enabled, budget, unit]
  have found : (([(x, e)].find? fun y => y.1 ≥ Sparse.get 0 s.tmp.visit n).orElse fun _ => [(x, e)].head?) = some (x, e) := by
    by_cases h : Sparse.get 0 s.tmp.visit n ≤ x <;> simp [List.find?, h]
  unfold State.assayVisit
  rw [if_neg visits, only]
  dsimp only
  rw [found]
  rfl

section
variable {s t : State} (part : t.part = s.part) (regs : t.regs = s.regs) (mem : t.mem = s.mem)
include part regs mem

theorem State.dbytes_congr (addr n : Nat) : t.dbytes addr n = s.dbytes addr n := by
  have key : t.dkey addr = s.dkey addr := by
    simp only [State.dkey, State.dplace, State.regions, State.rd_congr part regs, part]
  have bytes : t.bytes = s.bytes := by
    funext k n
    simp only [State.bytes, State.byte_of_mem mem]
  -- the kernel evaluates the place of `addr` before it unfolds `dbytes` applied, so the function is unfolded alone
  generalize body : State.dbytes = f
  delta State.dbytes at body
  subst body
  beta_reduce
  rw [key, bytes]

/-- Bytes of memory are found by the part and the registers, and read from the memory alone. -/
theorem State.getMem_congr (addr len : Nat) : t.getMem addr len = s.getMem addr len := by
  unfold State.getMem
  split
  · simp only [State.sram, State.bytes, State.byte_of_mem mem]
  · exact congrArg (List.flatMap · _) (funext fun p => State.dbytes_congr part regs mem p.1 p.2)

theorem State.shardEntry_congr (x : Nat) : t.shardEntry x = s.shardEntry x := by
  have fld : ∀ f : Fld, t.fld f = s.fld f := fun f => congrArg (bits · _ _) (State.rd_congr part regs _ _ _)
  unfold State.shardEntry State.shardCount
  rw [fld, fld, State.getMem_congr part regs mem]

end

/-- The shard table is read from memory, whatever the temper units keep. -/
theorem State.shardEntry_tmp (s : State) (t : Tmp) (x : Nat) : ({ s with tmp := t } : State).shardEntry x = s.shardEntry x :=
  State.shardEntry_congr (s := s) (t := { s with tmp := t }) rfl rfl rfl x

section
variable {s : State} {d : Digest}

theorem State.endDigests_owner {e : ShardEntry} (only : s.tmp.digests = [d]) (owner : d.ask = none)
    (entry : s.shardEntry d.shard = some e) :
    s.endDigests = ({ s with tmp := { s.tmp with digests := [] } } : State).assaySend e d.base := by
  simp only [State.endDigests, only, List.foldl_cons, List.foldl_nil, State.shardEntry_tmp, entry, owner]

theorem State.endDigests_replica {e : ShardEntry} {bs : List Byte} (only : s.tmp.digests = [d]) (asked : d.ask = some bs)
    (entry : s.shardEntry d.shard = some e) {g : State × Option (List Byte)}
    (digest : g = ({ s with tmp := { s.tmp with digests := [] } } : State).imageDigest e d.base) :
    s.endDigests = g.1.assayJudge d.shard e bs (g.2 == some ((bs.drop 32).take 32)) := by
  simp only [State.endDigests, only, List.foldl_cons, List.foldl_nil, State.shardEntry_tmp, entry, asked, digest]

/-- The only digest is abandoned where its buffer is the one written. -/
theorem State.abandonDigests_only (only : s.tmp.digests = [d]) :
    s.abandonDigests d.shard d.base = ({ s with tmp := { s.tmp with digests := [] } } : State).bump TMP_PERF_ASSAY_ABANDON.count 0 0 1 := by
  simp [State.abandonDigests, only]

end

section
variable {s : State} {e : ShardEntry} {base : Nat}

theorem State.assaySend_digest {digest : List Byte} {g : State} (readable : s.imageDigest e base = (g, some digest)) :
    s.assaySend e base = (g.replicaList e).foldl (fun (a : State) r =>
      if r.1 = a.myId then a else a.temperSend e.unit r.1 e.unit (assayBytes e.id (leNat (s.getMem (base + 8) 4)) (g.myId * 2 ^ 48 + base)
        (e.offPlane + leNat (s.getMem (base + 24) 4)) digest)) g := by
  simp only [State.assaySend, readable]

theorem State.assaySend_unreadable (unreadable : (s.imageDigest e base).2 = none) :
    s.assaySend e base = (s.imageDigest e base).1.bump TMP_PERF_ASSAY_ABANDON.count 0 0 1 := by
  simp only [State.assaySend, unreadable]

end

/-! ### An ASSAY at a replica (R277) -/

section
variable {s : State} {bs : List Byte} {x : Nat} {e : ShardEntry} (kind : byteAt bs 0 = 0x64)
  (replica : s.replicaOf (num bs 8 4) = some (x, e))
include kind replica

theorem State.assayMessage_stale (stale : s.fld TMP_SHARD_STATE.version x ≠ num bs 12 4 ∨ s.phase x = phDamaged) :
    s.assayMessage bs = s.bump TMP_PERF_ASSAY_STALE.count 0 0 1 := by
  simp only [State.assayMessage, kind, replica, ne_eq, not_true, if_false]
  exact if_pos stale

variable (current : s.fld TMP_SHARD_STATE.version x = num bs 12 4) (sound : s.phase x ≠ phDamaged)
include current sound

theorem State.assayMessage_current : s.assayMessage bs =
    if e.offPlane + leNat (s.getMem (s.curImage x e + 24) 4) = num bs 24 8 then
      s.startDigest { shard := x, base := s.curImage x e, ask := some bs } e
    else s.assayJudge x e bs false := by
  have fresh : ¬ (s.fld TMP_SHARD_STATE.version x ≠ num bs 12 4 ∨ s.phase x = phDamaged) := by simp [current, sound]
  simp only [State.assayMessage, kind, replica, ne_eq, not_true, if_false]
  exact if_neg fresh

end

/-- A replica that does not agree and has no staged fetch and no refetch under way fetches the owner's image again. -/
theorem State.assayJudge_refetches {s y : State} {bs : List Byte} {x : Nat} {e : ShardEntry}
    (mismatch : y = s.assayMismatch x e (num bs 12 4)) (rests : y.phase x = phIdle ∨ y.phase x = phUnchanged)
    (settled : y.refetching x = false) :
    s.assayJudge x e bs false = (y.setFld TMP_SHARD_STATE.repair x 0 0).startImageFetch x e (num bs 16 8) (num bs 24 8) (num bs 12 4)
      (some ((bs.drop 32).take 32)) := by
  have unstaged : ¬ ((y.phase x = phFetching ∧ !(y.refetching x)) ∨ y.phase x = phFetched) := by
    rcases rests with h | h <;> simp [h, phIdle, phUnchanged, phFetching, phFetched]
  have free : ¬ y.refetching x = true := by simp [settled]
  subst mismatch
  exact (if_neg Bool.false_ne_true).trans ((if_neg unstaged).trans (if_neg free))

/-! ### The end of a refetch (R277) -/

theorem State.refetched_whole {s u w : State} {x : Nat} {ok : Bool} {e : ShardEntry} {f : Fetch} {entries : List (Nat × Nat)}
    {digest : List Byte} {g : State × Option (List Byte)} (entry : s.shardEntry x = some e) (fetch : (s.tshard x).fetch = some f)
    (asked : f.digest = some digest) (whole : f.left = 0) (ended : s.endFetch x e (f.heard ok) entries = (u, some true))
    (rests : w = u.setPhase x (if (u.tshard x).reason ≠ 0 then phUnchanged else phIdle))
    (digested : g = w.imageDigest e (u.otherImage x e)) :
    s.refetched x ok entries = (if leNat (g.1.getMem (u.otherImage x e + 8) 4) = f.version ∧ g.2 = some digest
      then (g.1.bump TMP_PERF_FETCH.count 0 0 1).setFld TMP_SHARD_STATE.repair x 0 1
      else g.1.bump TMP_PERF_ASSAY_ABANDON.count 0 0 1).syncUnit e.unit := by
  simp [State.refetched, entry, fetch, asked, whole, ended, rests, digested]

end Sys2Proof.Machine
end

section
open Sys2Proof.Machine

/-- Settles O40: replicas by the messages and fetches they take in, an assay by its digests and what a replica makes of them. -/
theorem replicasFollow : Obligations.ReplicasFollow := by
  refine ⟨?staged, ?fetched, ?agree, ?differ, ?unchanged, ?visit, ?digest, ?abandon, ?stale, ?current, ?asked, ?judge, ?refetched⟩
  case staged =>
    rintro bs x s u e up kind current replica sound rfl
    have message := State.stagedMessage_current kind current
    refine ⟨fun free settled => ?_, fun busy later => ?_⟩
    · exact exec_flushes_of_live rfl up (message.trans ((State.replicaMessage_taken replica sound free).trans
        (congrArg (State.shardDecided · x e) (State.replicaTake_staged e settled kind))))
    · exact exec_flushes_of_live rfl up (message.trans (State.replicaMessage_waits replica sound busy later))
  case fetched =>
    intro x ok entries s u e f up entry fetch staged whole
    exact ⟨fun ended => exec_flushes_of_live rfl up (State.replicaFetched_good entry fetch staged whole ended),
      fun ended => exec_flushes_of_live rfl up (State.replicaFetched_damaged entry fetch staged whole ended),
      fun goesOn => exec_flushes_of_live rfl up (State.replicaFetched_goes_on entry fetch staged whole goesOn)⟩
  case agree =>
    intro x entries s e f agree
    rw [State.endFetch_ends (s.checkBlocks_agree x e f entries agree)]
    exact ⟨rfl, by simp, by simp⟩
  case differ =>
    intro x i crc s e f whole differs
    refine ⟨fun fails => ?_, fun fails => ?_⟩
    · exact State.endFetch_goes_on (s.checkBlocks_again x e whole differs fails) (f.lines_block e _)
    · rw [State.endFetch_ends (s.checkBlocks_fails x e whole differs fails)]
      rfl
  case unchanged =>
    rintro bs x s u e up kind current replica sound free settled step
    exact exec_flushes_of_live rfl up ((State.unchangedMessage_current kind current).trans
      ((State.replicaMessage_taken replica sound free).trans
        (congrArg (State.shardDecided · x e) (State.replicaTake_unchanged e settled step kind))))
  case visit =>
    rintro n x s u e working unit enabled budget only rfl
    exact exec_flushes_of_work rfl working (State.assayVisit_only unit enabled budget only)
  case digest =>
    rintro base s u e d only owner entry rfl rfl
    have ends := State.endDigests_owner only owner entry
    exact ⟨fun digest readable => ends.trans (State.assaySend_digest (Prod.ext rfl readable)),
      fun unreadable => ends.trans (State.assaySend_unreadable unreadable)⟩
  case abandon =>
    rintro x base s d only rfl rfl
    exact State.abandonDigests_only only
  case stale =>
    intro bs x s e up kind replica stale
    exact exec_flushes_of_live rfl up (State.assayMessage_stale kind replica stale)
  case current =>
    intro bs x s e up kind replica current sound
    have judged := State.assayMessage_current kind replica current sound
    exact ⟨fun same => exec_flushes_of_live rfl up (judged.trans (if_pos same)),
      fun differs => exec_flushes_of_live rfl up (judged.trans (if_neg differs))⟩
  case asked =>
    exact fun s e d bs g only asked entry digest => State.endDigests_replica only asked entry digest
  case judge =>
    exact fun bs x s y e mismatch => ⟨rfl, State.assayJudge_refetches mismatch⟩
  case refetched =>
    rintro x base ok entries s u w e f digest g up entry fetch asked whole ended rfl rests digested
    exact exec_flushes_of_live rfl up (State.refetched_whole entry fetch asked whole ended rests digested)

end

section
/-! SUPPORT. CRC-32C is linear in its register and its bytes (R292, R295). -/

namespace Sys2Proof.Machine

/-- One bit leaves a CRC-32C register. -/
def crcShift (c : Nat) : Nat := if c % 2 = 1 then (c / 2) ^^^ 0x82F63B78 else c / 2

theorem crcByte_eq (c : Nat) (b : Byte) : crcByte c b = repeatFn crcShift 8 (c ^^^ b.toNat) := rfl

theorem crcShift_xor (a b : Nat) : crcShift (a ^^^ b) = crcShift a ^^^ crcShift b := by
  have half : (a ^^^ b) / 2 = a / 2 ^^^ b / 2 := by simpa using Nat.xor_div_two_pow (a := a) (b := b) (n := 1)
  rcases Nat.mod_two_eq_zero_or_one a with ha | ha <;> rcases Nat.mod_two_eq_zero_or_one b with hb | hb <;>
    simp [crcShift, half, Nat.xor_mod_two_eq, Nat.add_mod, ha, hb]
  · exact Nat.xor_assoc _ _ _
  · rw [Nat.xor_assoc, Nat.xor_comm (b / 2), Nat.xor_assoc]
  · rw [Nat.xor_assoc, Nat.xor_comm (b / 2), ← Nat.xor_assoc, ← Nat.xor_assoc, Nat.xor_assoc (a / 2), Nat.xor_self, Nat.xor_zero]

theorem repeatFn_crcShift_xor (n a b : Nat) :
    repeatFn crcShift n (a ^^^ b) = repeatFn crcShift n a ^^^ repeatFn crcShift n b := by
  induction n generalizing a b with
  | zero => rfl
  | succ n ih => simp only [repeatFn, crcShift_xor, ih]

/-- A byte's entry is linear in register and byte together. -/
theorem crcByte_xor (c d : Nat) (x y : Byte) : crcByte (c ^^^ d) (x ^^^ y) = crcByte c x ^^^ crcByte d y := by
  simp only [crcByte_eq, ← repeatFn_crcShift_xor, BitVec.toNat_xor]
  congr 1
  ac_rfl

/-- The update by bytes is linear in register and bytes together. -/
theorem foldl_crcByte_xor {xs ys : List Byte} (h : xs.length = ys.length) (c d : Nat) :
    (List.zipWith (· ^^^ ·) xs ys).foldl crcByte (c ^^^ d) = xs.foldl crcByte c ^^^ ys.foldl crcByte d := by
  induction xs generalizing ys c d with
  | nil => simp [List.eq_nil_of_length_eq_zero h.symm]
  | cons x xs ih =>
    cases ys with
    | nil => cases h
    | cons y ys =>
      rw [List.zipWith_cons_cons, List.foldl_cons, crcByte_xor]
      exact ih (Nat.succ.inj h) _ _

/-- Bytes changed by a difference have the CRC that the difference's register update changes. -/
theorem crc32c_zipWith_xor {xs ys : List Byte} (h : xs.length = ys.length) :
    crc32c (List.zipWith (· ^^^ ·) xs ys) = crc32c xs ^^^ crcLin ys := by
  have folds := foldl_crcByte_xor h 0xFFFFFFFF 0
  rw [Nat.xor_zero] at folds
  rw [crc32c, folds, crc32c, crcLin]
  ac_rfl

theorem zipWith_xor_zeros (xs : List Byte) : List.zipWith (· ^^^ ·) xs (List.replicate xs.length 0) = xs := by
  induction xs with
  | nil => rfl
  | cons x xs ih => simpa [List.replicate_succ] using ih

theorem zipWith_xor_difference {old new : List Byte} (h : old.length = new.length) :
    List.zipWith (· ^^^ ·) old (List.zipWith (· ^^^ ·) old new) = new := by
  induction old generalizing new with
  | nil => simp [List.eq_nil_of_length_eq_zero h.symm]
  | cons x old ih =>
    cases new with
    | nil => cases h
    | cons y new => simp [ih (Nat.succ.inj h)]

/-- A list with one part changed is the old one with the difference put in at the part's place. -/
theorem zipWith_xor_change {pre old new post : List Byte} (h : old.length = new.length) :
    List.zipWith (· ^^^ ·) (pre ++ old ++ post)
      (List.replicate pre.length 0 ++ List.zipWith (· ^^^ ·) old new ++ List.replicate post.length 0) = pre ++ new ++ post := by
  rw [List.zipWith_append (by simp [h]), List.zipWith_append (by simp), zipWith_xor_zeros, zipWith_xor_zeros, zipWith_xor_difference h]

/-! ### A register of 32 bits -/

theorem crcShift_lt {c : Nat} (h : c < 2 ^ 32) : crcShift c < 2 ^ 32 := by
  have half : c / 2 < 2 ^ 32 := by omega
  unfold crcShift
  split
  · exact Nat.xor_lt_two_pow half (by decide)
  · exact half

theorem repeatFn_crcShift_lt (n : Nat) {c : Nat} (h : c < 2 ^ 32) : repeatFn crcShift n c < 2 ^ 32 := by
  induction n generalizing c with
  | zero => exact h
  | succ n ih => exact ih (crcShift_lt h)

theorem foldl_crcByte_lt (bs : List Byte) {c : Nat} (h : c < 2 ^ 32) : bs.foldl crcByte c < 2 ^ 32 := by
  induction bs generalizing c with
  | nil => exact h
  | cons b bs ih => exact ih (repeatFn_crcShift_lt 8 (Nat.xor_lt_two_pow h (b.isLt.trans (by decide))))

theorem crc32c_lt (bs : List Byte) : crc32c bs < 2 ^ 32 :=
  Nat.xor_lt_two_pow (foldl_crcByte_lt bs (by decide)) (by decide)

end Sys2Proof.Machine
end

section
open Sys2Proof.Machine

/-- Settles O43: the register update is linear, and the changed block is the old one with the difference put in at its place. -/
theorem crcFollowsChange : Obligations.CrcFollowsChange := by
  intro pre old new post same
  rw [← zipWith_xor_change same, crc32c_zipWith_xor (by simp [same])]

end

section
/-! SUPPORT. What the memory controllers leave alone while they count, meet errors and report (R289 to R303, R308, R309). -/

namespace Sys2Proof.Machine

/-! ### Where addresses lie -/

/-- The registers that say where an address lies and which blocks are protected (R285, R292). -/
def RegKind.placesData : RegKind → Bool
  | .MEM_IL_REGION | .MEM_CRC_BASE | .MEM_CRC_SIZE | .MEM_CRC_TABLE => true
  | _ => false

/-- Addresses lie where they lay, in the protected ranges they lay in. -/
structure State.SamePlaces (s t : State) : Prop where
  part : t.part = s.part
  rd : ∀ k i, k.placesData = true → i < 65536 → t.rd k i = s.rd k i

namespace State.SamePlaces

variable {s t u : State}

theorem trans (h : s.SamePlaces t) (g : t.SamePlaces u) : s.SamePlaces u :=
  ⟨g.part.trans h.part, fun k i hk hi => (g.rd k i hk hi).trans (h.rd k i hk hi)⟩

/-- What every part outside memory outlasts moves no address. -/
theorem of_outside (h : ∀ {γ : Type} {p : State → γ}, OutsideMemory p → p t = p s) : s.SamePlaces t :=
  ⟨h outsideExchange_part.memory, fun k i hk hi =>
    h (outsideMemory_rd (by cases k <;> cases hk <;> rfl) (by cases k <;> cases hk <;> rfl) hi (by decide))⟩

variable (h : s.SamePlaces t)
include h

theorem fld {f : Fld} {i : Nat} (hf : f.kind.placesData = true) (hi : i < 65536) : t.fld f i = s.fld f i :=
  congrArg (bits · _ _) (h.rd f.kind i hf hi)

theorem regions : t.regions = s.regions := by
  have same : ∀ i ∈ List.range 8, t.rd .MEM_IL_REGION i = s.rd .MEM_IL_REGION i := fun i hi =>
    h.rd _ i rfl ((List.mem_range.mp hi).trans (by decide))
  rw [State.regions, List.map_congr_left same, State.regions]

theorem dplace : t.dplace = s.dplace := by
  funext addr
  simp only [State.dplace, h.part, h.regions]

theorem dkey : t.dkey = s.dkey := by
  funext addr
  simp only [State.dkey, h.dplace]

theorem crcRange : t.crcRange = s.crcRange := by
  have same : t.crcRanges = s.crcRanges := by
    refine List.filterMap_congr fun n hn => ?_
    have lt : n < 65536 := (List.mem_range.mp hn).trans (by decide)
    have valid : t.flag MEM_CRC_BASE.valid n = s.flag MEM_CRC_BASE.valid n := congrArg (· != 0) (h.fld rfl lt)
    rw [valid, h.fld (f := MEM_CRC_BASE.base) rfl lt, h.fld (f := MEM_CRC_SIZE.size) rfl lt, h.fld (f := MEM_CRC_TABLE.table) rfl lt]
  funext addr
  simp only [State.crcRange, same]

end State.SamePlaces

/-! ### The data kept -/

/-- Memory holds what it held where it held it, and the patrol scrub is where it was. -/
structure State.SameData (s t : State) : Prop extends s.SamePlaces t where
  mem : t.mem = s.mem
  scrub : t.dram.scrub = s.dram.scrub

namespace State.SameData

variable {s t u : State}

theorem refl (s : State) : s.SameData s := ⟨⟨rfl, fun _ _ _ _ => rfl⟩, rfl, rfl⟩

theorem trans (h : s.SameData t) (g : t.SameData u) : s.SameData u :=
  ⟨h.toSamePlaces.trans g.toSamePlaces, g.mem.trans h.mem, g.scrub.trans h.scrub⟩

/-- What keeps the registers, the memory and the scrub keeps the data. -/
theorem of_regs (part : t.part = s.part) (regs : t.regs = s.regs) (mem : t.mem = s.mem) (scrub : t.dram.scrub = s.dram.scrub) :
    s.SameData t := ⟨⟨part, fun k i _ _ => State.rd_congr part regs k i 0⟩, mem, scrub⟩

theorem wr (s : State) {k : RegKind} (i j : Nat) (v : Word) (hk : k.placesData = false) : s.SameData (s.wr k i j v) :=
  ⟨⟨s.wr_part k i j v, fun k' i' hk' hi => s.rd_wr_other v (by rintro rfl; exact Bool.false_ne_true (hk.symm.trans hk')) hi (by decide)⟩,
    s.wr_mem k i j v, congrArg Dram.scrub (s.wr_dram k i j v)⟩

theorem of_calm (h : s.Calm t) : s.SameData t :=
  ⟨⟨h.part, fun k i hk hi => h.rd k i 0 (by cases k <;> cases hk <;> rfl) hi (by decide)⟩, h.mem, congrArg Dram.scrub h.dram⟩

theorem raise (s : State) (cls code unit : Nat) (info : Word) : s.SameData (s.raise cls code unit info) :=
  of_calm (State.calm_raise s cls code unit info)

theorem ite {c : Prop} [Decidable c] (h : s.SameData t) (g : s.SameData u) : s.SameData (if c then t else u) := by
  split <;> assumption

theorem foldl {α : Type} {f : State → α → State} (h : ∀ (s : State) a, s.SameData (f s a)) (l : List α) (s : State) :
    s.SameData (l.foldl f s) := by
  induction l generalizing s with
  | nil => exact refl s
  | cons a l ih => exact (h s a).trans (ih _)

theorem bump (s : State) {f : Fld} (i j n : Nat) (hf : f.kind.placesData = false) : s.SameData (s.bump f i j n) :=
  ite (refl s) (wr s i j _ hf)

theorem sat (s : State) {f : Fld} (i j n : Nat) (hf : f.kind.placesData = false) : s.SameData (s.sat f i j n) :=
  ite (refl s) (wr s i j _ hf)

theorem setFld (s : State) {f : Fld} (i j v : Nat) (hf : f.kind.placesData = false) : s.SameData (s.setFld f i j v) :=
  wr s i j _ hf

theorem errors (s : State) (x : List Nat) (y : List (Nat × Bool)) : s.SameData { s with poison := x, upsets := y } :=
  of_regs rfl rfl rfl rfl

theorem obs (s : State) (x : Obs) : s.SameData { s with obs := x } := of_regs rfl rfl rfl rfl

theorem hmk (s : State) (x : Hmk) : s.SameData { s with hmk := x } := of_regs rfl rfl rfl rfl

/-! ### Counts and reports of a stack -/

theorem bumpStack (s : State) (d : Dplace) {x y : Fld} (n : Nat) (hx : x.kind.placesData = false) (hy : y.kind.placesData = false) :
    s.SameData (s.bumpStack d x y n) := by
  refine bump s _ _ _ ?_
  unfold Dplace.fldOf
  split <;> assumption

theorem satStack (s : State) (d : Dplace) {x y : Fld} (n : Nat) (hx : x.kind.placesData = false) (hy : y.kind.placesData = false) :
    s.SameData (s.satStack d x y n) := by
  refine sat s _ _ _ ?_
  unfold Dplace.fldOf
  split <;> assumption

theorem logRow (s : State) (d : Dplace) : s.SameData (s.logRow d) := by
  unfold State.logRow
  extract_lets row id logged pending
  refine ite (refl s) (ite (refl s) (ite (sat s _ _ _ rfl) ?_))
  exact (sat s _ _ _ rfl).trans ((sat logged _ _ _ rfl).trans ((hmk pending _).trans (hmk _ _)))

theorem noteCorrected (s : State) (d : Dplace) : s.SameData (s.noteCorrected d) := by
  unfold State.noteCorrected
  extract_lets counted noted k n src kept
  have shown : s.SameData noted := (satStack s d 1 rfl rfl).trans (obs counted _)
  have listed : s.SameData kept := shown.trans (of_regs rfl rfl rfl rfl)
  exact ite shown (ite (listed.trans (logRow kept d)) listed)

theorem noteUncorrectable (s : State) (d : Dplace) (scrub : Bool) : s.SameData (s.noteUncorrectable d scrub) := by
  unfold State.noteUncorrectable
  extract_lets unitOff poisoned mended counted v shown logged
  have marked : s.SameData counted := (errors s poisoned.poison mended.upsets).trans (satStack mended d 1 rfl rfl)
  have told : s.SameData shown := marked.trans (ite (wr counted _ _ _ rfl) (wr counted _ _ _ rfl))
  exact ite (refl s) (told.trans ((logRow shown d).trans (raise logged _ _ _ _)))

/-! ### Errors met, mended and struck (R289, R290, R302) -/

theorem mend (s : State) (k : Nat) : s.SameData (s.mend k) := errors s _ _

theorem meetWordOf (s : State) (scrub : Bool) (d : Dplace) : s.SameData (s.meetWordOf scrub d) := by
  unfold State.meetWordOf
  split
  · exact refl s
  · exact (mend s _).trans (noteUncorrectable _ d scrub)
  · exact ite (mend s _) (ite ((mend s _).trans (noteCorrected _ d)) (noteCorrected s d))

theorem meetErrors (s : State) (words : List Nat) : s.SameData (s.meetErrors words) := by
  refine ite (refl s) (foldl (fun t u => ?_) _ _)
  split
  · exact refl t
  · exact meetWordOf t false _

theorem mendAll (s : State) (words : List Nat) : s.SameData (s.mendAll words) := by
  refine ite (refl s) (foldl (fun t u => ?_) _ _)
  split
  · exact refl t
  · exact mend t _

theorem strikePlace (s : State) (d : Dplace) (uncorrectable : Bool) : s.SameData (s.strikePlace d uncorrectable) :=
  ite (refl s) (ite (refl s) (errors s _ _))

end State.SameData

/-! ### Only counts -/

/-- The data are kept, and with them what is poisoned and which errors stand. -/
structure State.SameCells (s t : State) : Prop extends s.SameData t where
  poison : t.poison = s.poison
  upsets : t.upsets = s.upsets

namespace State.SameCells

variable {s t u : State}

theorem refl (s : State) : s.SameCells s := ⟨.refl s, rfl, rfl⟩

theorem trans (h : s.SameCells t) (g : t.SameCells u) : s.SameCells u :=
  ⟨h.toSameData.trans g.toSameData, g.poison.trans h.poison, g.upsets.trans h.upsets⟩

theorem ite {c : Prop} [Decidable c] (h : s.SameCells t) (g : s.SameCells u) : s.SameCells (if c then t else u) := by
  split <;> assumption

theorem foldl {α : Type} {f : State → α → State} (h : ∀ (s : State) a, s.SameCells (f s a)) (l : List α) (s : State) :
    s.SameCells (l.foldl f s) := by
  induction l generalizing s with
  | nil => exact refl s
  | cons a l ih => exact (h s a).trans (ih _)

theorem bump (s : State) {f : Fld} (i j n : Nat) (hf : f.kind.placesData = false) : s.SameCells (s.bump f i j n) :=
  ⟨.bump s i j n hf, by simp, by simp⟩

theorem mapWindow (s : State) (f : Window → Window) : s.SameCells (s.mapWindow f) := ⟨.obs s _, rfl, rfl⟩

theorem bumpStack (s : State) (d : Dplace) {x y : Fld} (n : Nat) (hx : x.kind.placesData = false) (hy : y.kind.placesData = false) :
    s.SameCells (s.bumpStack d x y n) := ⟨.bumpStack s d n hx hy, by simp [State.bumpStack], by simp [State.bumpStack]⟩

theorem satStack (s : State) (d : Dplace) {x y : Fld} (n : Nat) (hx : x.kind.placesData = false) (hy : y.kind.placesData = false) :
    s.SameCells (s.satStack d x y n) := ⟨.satStack s d n hx hy, by simp [State.satStack], by simp [State.satStack]⟩

/-- Bytes moved are counted (R309). -/
theorem countBytes (s : State) (d : Dplace) (write : Bool) (die n : Nat) : s.SameCells (s.countBytes d write die n) := by
  unfold State.countBytes
  extract_lets counted
  have moved : s.SameCells counted := ite (bumpStack s d n rfl rfl) (bumpStack s d n rfl rfl)
  exact ite (moved.trans (bump counted _ _ _ rfl)) moved

/-- Poisoned units that a read serves are counted (R308). -/
theorem countPoisoned (s : State) (addr len : Nat) : s.SameCells (s.countPoisoned addr len) :=
  ite (refl s) (foldl (fun t n => satStack t ⟨n, 0⟩ (x := HBM_ECC_CNT.poisoned_reads) (y := BIT_ECC_CNT.poisoned_reads) 1 rfl rfl) _ s)

/-- Reads-modify-writes are counted (R309). -/
theorem countRmw (s : State) (addr : Nat) (cells : List (Option Byte)) : s.SameCells (s.countRmw addr cells) :=
  foldl (fun t n => bumpStack t ⟨n, 0⟩ (x := HBM_PERF_RMW.count) (y := BIT_PERF_RMW.count) 1 rfl rfl) _ s

variable (h : s.SameCells t)
include h

theorem dbad (addr : Nat) : t.dbad addr = s.dbad addr := by
  have key : t.dkey (addr / 32 * 32) = s.dkey (addr / 32 * 32) := congrFun h.dkey _
  have poisoned : t.isPoisoned = s.isPoisoned := funext fun k => congrArg (List.contains · k) h.poison
  -- the kernel evaluates the place of an address before it unfolds `dbad` applied, so the function is unfolded alone
  generalize body : State.dbad = f
  delta State.dbad at body
  subst body
  beta_reduce
  rw [key, poisoned]

end State.SameCells

end Sys2Proof.Machine
end

section
/-! SUPPORT. Errors that stand in check bits, and what a read that meets none leaves (R289, R290; log 38). -/

namespace Sys2Proof.Machine

/-! ### Folds that lose something at each step but the idle ones -/

/-- A fold whose every step is idle or goes down ends where it began only if each of its steps is idle there. -/
theorem idle_of_foldl_eq_self {α β γ : Type} [Preorder γ] (m : α → γ) {f : α → β → α} (down : ∀ a b, f a b = a ∨ m (f a b) < m a)
    {l : List β} {a : α} (same : l.foldl f a = a) : ∀ b ∈ l, f a b = a := by
  have le : ∀ (l : List β) a, m (l.foldl f a) ≤ m a := fun l => by
    induction l with
    | nil => exact fun _ => le_rfl
    | cons b l ih => exact fun a => (ih _).trans ((down a b).elim (fun e => (congrArg m e).le) le_of_lt)
  induction l with
  | nil => simp
  | cons b l ih =>
    rcases down a b with idle | lower
    · rw [List.foldl_cons, idle] at same
      exact List.forall_mem_cons.mpr ⟨idle, ih same⟩
    · exact absurd ((le l (f a b)).trans_lt lower) (by rw [← List.foldl_cons, same]; exact lt_irrefl _)

theorem foldl_eq_self {α β : Type} {f : α → β → α} {l : List β} {a : α} (idle : ∀ b ∈ l, f a b = a) : l.foldl f a = a := by
  induction l with
  | nil => rfl
  | cons b l ih => rw [List.foldl_cons, idle b (List.mem_cons_self ..), ih fun c hc => idle c (List.mem_cons_of_mem b hc)]

/-! ### Words without an error -/

/-- No error stands in the words with check bits that hold some places. -/
def State.ErrorFree (s : State) (words : List Nat) : Prop :=
  ∀ u ∈ words, ∀ d, s.dplace u = some d → s.upsets.lookup d.ecc = none

theorem State.SameCells.errorFree {s t : State} (h : s.SameCells t) {words : List Nat} (free : s.ErrorFree words) :
    t.ErrorFree words := by
  intro u hu d place
  rw [h.dplace] at place
  rw [h.upsets]
  exact free u hu d place

theorem State.meetWordOf_of_none {s : State} {d : Dplace} (free : s.upsets.lookup d.ecc = none) (scrub : Bool) :
    s.meetWordOf scrub d = s := by
  unfold State.meetWordOf
  rw [free]

theorem State.meetErrors_of_errorFree {s : State} {words : List Nat} (free : s.ErrorFree words) : s.meetErrors words = s := by
  unfold State.meetErrors
  split
  · rfl
  · refine foldl_eq_self fun u hu => ?_
    split
    · rfl
    · exact State.meetWordOf_of_none (free u hu _ ‹_›) false

/-! ### An error met leaves fewer errors, or one more corrected -/

/-- The errors that stand, then the corrections counted, the more the lower. -/
def State.errorsLeft (s : State) : ℕ ×ₗ ℕᵒᵈ := toLex (s.upsets.length, OrderDual.toDual s.obs.window.corrected)

theorem State.errorsLeft_lt_of_fewer {s t : State} (h : t.upsets.length < s.upsets.length) : t.errorsLeft < s.errorsLeft :=
  Prod.Lex.toLex_lt_toLex.mpr (.inl h)

theorem State.errorsLeft_lt_of_corrected {s t : State} (h : t.upsets = s.upsets)
    (more : s.obs.window.corrected < t.obs.window.corrected) : t.errorsLeft < s.errorsLeft :=
  Prod.Lex.toLex_lt_toLex.mpr (.inr ⟨congrArg List.length h, more⟩)

theorem State.mend_fewer {s : State} {k : Nat} {b : Bool} (stands : s.upsets.lookup k = some b) :
    (s.mend k).upsets.length < s.upsets.length := by
  obtain ⟨before, after, split, -⟩ := List.lookup_eq_some_iff.mp stands
  exact List.length_filter_lt_length_iff_exists.mpr ⟨(k, b), by simp [split], by simp⟩

@[simp] theorem State.logRow_upsets (s : State) (d : Dplace) : (s.logRow d).upsets = s.upsets := by
  simp only [State.logRow]
  repeat' split
  all_goals simp

@[simp] theorem State.logRow_obs (s : State) (d : Dplace) : (s.logRow d).obs = s.obs := by
  simp only [State.logRow]
  repeat' split
  all_goals simp

theorem State.noteCorrected_upsets (s : State) (d : Dplace) : (s.noteCorrected d).upsets = s.upsets := by
  simp only [State.noteCorrected]
  repeat' split
  all_goals simp [State.satStack]

theorem State.noteCorrected_counts (s : State) (d : Dplace) :
    (s.noteCorrected d).obs.window.corrected = s.obs.window.corrected + 1 := by
  simp only [State.noteCorrected]
  repeat' split
  all_goals simp [State.satStack, State.mapWindow]

/-- A unit beyond correction is poisoned, and no error is left in it. -/
theorem State.noteUncorrectable_fewer (s : State) (d : Dplace) (scrub : Bool) :
    (s.noteUncorrectable d scrub).upsets.length ≤ s.upsets.length := by
  unfold State.noteUncorrectable
  extract_lets unitOff poisoned mended counted v shown logged
  have left : shown.upsets = mended.upsets := by
    have told : shown.upsets = counted.upsets := by
      unfold shown
      split <;> simp
    rw [told]
    simp [counted, State.satStack]
  split
  · rfl
  · rw [(State.calm_raise logged _ _ _ _).upsets, State.logRow_upsets, left]
    exact List.length_filter_le _ _

/-- A demand read of a word is idle where no error stands. -/
theorem State.meetWordOf_down {s : State} {d : Dplace} {b : Bool} (stands : s.upsets.lookup d.ecc = some b) :
    (s.meetWordOf false d).errorsLeft < s.errorsLeft := by
  unfold State.meetWordOf
  rw [stands]
  cases b with
  | true => exact State.errorsLeft_lt_of_fewer ((State.noteUncorrectable_fewer _ d false).trans_lt (State.mend_fewer stands))
  | false =>
    dsimp only
    split
    · exact State.errorsLeft_lt_of_fewer (State.mend_fewer stands)
    · exact State.errorsLeft_lt_of_corrected (s.noteCorrected_upsets d) (by rw [if_neg Bool.false_ne_true, s.noteCorrected_counts]; omega)

/-- Words whose reading changes nothing hold no error. -/
theorem State.errorFree_of_meetErrors {s : State} {words : List Nat} (same : s.meetErrors words = s) : s.ErrorFree words := by
  have word : ∀ (t : State) d, t.meetWordOf false d = t ∨ (t.meetWordOf false d).errorsLeft < t.errorsLeft := fun t d => by
    cases stands : t.upsets.lookup d.ecc with
    | none => exact .inl (State.meetWordOf_of_none stands false)
    | some b => exact .inr (State.meetWordOf_down stands)
  unfold State.meetErrors at same
  split at same
  · rename_i none
    rw [State.ErrorFree, List.isEmpty_iff.mp none]
    exact fun _ _ _ _ => rfl
  · intro u hu d place
    have idle := idle_of_foldl_eq_self State.errorsLeft (fun t u => by split <;> [exact .inl rfl; exact word t _]) same u hu
    simp only [place] at idle
    refine Option.eq_none_iff_forall_ne_some.mpr fun b stands => ?_
    have lower := State.meetWordOf_down stands
    rw [idle] at lower
    exact lt_irrefl _ lower

end Sys2Proof.Machine
end

section
/-! SUPPORT. Bytes of DRAM by local address: spans read after spans written, and a block's entry (R289, R292, R295). -/

namespace Sys2Proof.Machine

/-! ### Spans of memory -/

@[simp] theorem State.length_bytes (s : State) (k n : Nat) : (s.bytes k n).length = n := by simp [State.bytes]

theorem State.bytes_congr {s t : State} {k n : Nat} (h : ∀ j, k ≤ j → j < k + n → t.byte j = s.byte j) : t.bytes k n = s.bytes k n :=
  List.map_congr_left fun i hi => h _ (by omega) (by have := List.mem_range.mp hi; omega)

theorem State.bytes_of_mem {s t : State} (h : t.mem = s.mem) : t.bytes = s.bytes :=
  funext fun _ => funext fun _ => State.bytes_congr fun j _ _ => State.byte_of_mem h j

theorem State.bytes_add (s : State) (k m n : Nat) : s.bytes k (m + n) = s.bytes k m ++ s.bytes (k + m) n := by
  simp [State.bytes, List.range_add, Nat.add_assoc]

theorem State.bytes_setBytes_same (s : State) (k : Nat) (bs : List Byte) : (s.setBytes k bs).bytes k bs.length = bs := by
  refine List.ext_getElem (by simp) fun i _ hi => ?_
  simp [State.bytes, State.byte_setBytes, hi]

theorem State.byte_setBytes_apart (s : State) {k j : Nat} {bs : List Byte} (apart : j < k ∨ k + bs.length ≤ j) :
    (s.setBytes k bs).byte j = s.byte j := by
  rw [State.byte_setBytes, if_neg (by omega)]

theorem State.bytes_setBytes_apart (s : State) {k a n : Nat} {bs : List Byte} (apart : a + n ≤ k ∨ k + bs.length ≤ a) :
    (s.setBytes k bs).bytes a n = s.bytes a n :=
  State.bytes_congr fun j _ _ => s.byte_setBytes_apart (by omega)

theorem State.setBytes_mem_congr {s t : State} (h : t.mem = s.mem) (k : Nat) (bs : List Byte) :
    (t.setBytes k bs).mem = (s.setBytes k bs).mem := by
  induction bs generalizing s t k with
  | nil => exact h
  | cons b bs ih => exact ih (congrArg (Sparse.put unlisted · k b) h) (k + 1)

/-- Bytes written one by one at their places are the span written. -/
theorem State.foldl_setByte {f : State → Nat → State} {k : Nat} {bs : List Byte}
    (writes : ∀ s i b, bs[i]? = some b → f s i = s.setByte (k + i) b) (s : State) :
    (List.range bs.length).foldl f s = s.setBytes k bs := by
  induction bs generalizing s k f with
  | nil => rfl
  | cons b bs ih =>
    rw [List.length_cons, List.range_succ_eq_map, List.foldl_cons, List.foldl_map, writes s 0 b rfl, State.setBytes]
    exact ih (fun t i b' hb => by rw [writes t (i + 1) b' hb, Nat.add_assoc, Nat.add_comm 1]) _

/-! ### Spans by local address -/

section
variable {s t : State} {addr k : Nat} (place : s.dkey addr = some k)
include place

theorem State.dbytes_of_dkey (n : Nat) : s.dbytes addr n = s.bytes k n := by
  -- the kernel evaluates the place of `addr` before it unfolds `dbytes` applied, so the function is unfolded alone
  generalize body : State.dbytes = f
  delta State.dbytes at body
  subst body
  beta_reduce
  rw [place]

theorem State.entryWord_of_dkey : s.entryWord addr = leNat (s.bytes k 4) :=
  congrArg leNat (State.dbytes_of_dkey place 4)

/-- A span of enabled bytes is written where it lies, and of the rest of the state errors and poison alone can change. -/
theorem State.dput_span (bs : List Byte) {γ : Type} {p : State → γ}
    (errors : ∀ (s : State) x y, p { s with poison := x, upsets := y } = p s) :
    p (s.dput addr (bs.map some)) = p (s.setBytes k bs) := by
  have all : (List.range (bs.map some).length).filter (fun i => ((bs.map some).getD i none).isSome) = List.range bs.length := by
    rw [List.length_map]
    exact List.filter_eq_self.mpr fun i hi => by simp [List.mem_range.mp hi]
  -- unfolded alone, as `dbytes` above
  generalize body : State.dput = f
  delta State.dput at body
  subst body
  beta_reduce
  rw [place]
  dsimp only
  rw [errors, all, State.foldl_setByte (k := k) (bs := bs) fun t i b hb => by simp [hb]]

theorem State.dput_mem (bs : List Byte) : (s.dput addr (bs.map some)).mem = (s.setBytes k bs).mem :=
  State.dput_span place bs (p := State.mem) fun _ _ _ => rfl

end

theorem State.samePlaces_dput (s : State) (addr : Nat) (cells : List (Option Byte)) : s.SamePlaces (s.dput addr cells) :=
  .of_outside fun h => h.dput s addr cells

theorem State.length_dbytes (s : State) (addr n : Nat) : (s.dbytes addr n).length = n := by
  cases place : s.dkey addr with
  | some k => rw [State.dbytes_of_dkey place, State.length_bytes]
  | none =>
    -- unfolded alone, as above
    generalize body : State.dbytes = f
    delta State.dbytes at body
    subst body
    beta_reduce
    rw [place]
    exact List.length_replicate

theorem State.SameData.dbytes {s t : State} (h : s.SameData t) (addr n : Nat) : t.dbytes addr n = s.dbytes addr n := by
  have key : t.dkey addr = s.dkey addr := congrFun h.dkey addr
  have bytes := State.bytes_of_mem h.mem
  -- unfolded alone, as above
  generalize body : State.dbytes = f
  delta State.dbytes at body
  subst body
  beta_reduce
  rw [key, bytes]

theorem State.SameData.entryWord {s t : State} (h : s.SameData t) (addr : Nat) : t.entryWord addr = s.entryWord addr :=
  congrArg leNat (h.dbytes addr 4)

/-! ### A block's entry (R295) -/

theorem State.samePlaces_updateEntry (s : State) (at' : Nat) (f : Nat → Nat) : s.SamePlaces (s.updateEntry at' f) :=
  .of_outside fun h => h.updateEntry s at' f

/-- An entry's change writes its four bytes. -/
theorem State.updateEntry_mem {s : State} {at' e : Nat} (place : s.dkey at' = some e) (f : Nat → Nat) :
    (s.updateEntry at' f).mem = (s.setBytes e (leBytes 4 (f (s.entryWord at')))).mem := by
  have met := State.SameData.meetErrors s (eccWords at' 4)
  have placed : (s.meetErrors (eccWords at' 4)).dkey at' = some e := (congrFun met.dkey at').trans place
  calc (s.updateEntry at' f).mem
    _ = ((s.meetErrors (eccWords at' 4)).setEntry at' (f ((s.meetErrors (eccWords at' 4)).entryWord at'))).mem :=
      (State.SameData.mendAll _ _).mem
    _ = ((s.meetErrors (eccWords at' 4)).setBytes e (leBytes 4 (f ((s.meetErrors (eccWords at' 4)).entryWord at')))).mem :=
      State.dput_mem placed _
    _ = (s.setBytes e (leBytes 4 (f (s.entryWord at')))).mem := by
      rw [met.entryWord]
      exact State.setBytes_mem_congr met.mem _ _

/-- An entry written holds its value, and spans apart from it read as before. -/
theorem State.written_with_entry {t u : State} {e v : Nat} (small : v < 2 ^ 32) (entry : u.mem = (t.setBytes e (leBytes 4 v)).mem) :
    leNat (u.bytes e 4) = v ∧ ∀ a n, a + n ≤ e ∨ e + 4 ≤ a → u.bytes a n = t.bytes a n := by
  have bytes := State.bytes_of_mem entry
  constructor
  · have written := t.bytes_setBytes_same e (leBytes 4 v)
    rw [length_leBytes] at written
    rw [bytes, written, leNat_leBytes]
    exact Nat.mod_eq_of_lt small
  · intro a n apart
    rw [bytes]
    exact t.bytes_setBytes_apart (by rw [length_leBytes]; exact apart)

end Sys2Proof.Machine
end

section
/-! SUPPORT. Accesses of one piece of DRAM: what a read delivers and what a write leaves (R289 to R297). -/

namespace Sys2Proof.Machine

/-! ### Spans within one unit -/

theorem unitsOf_within {n start len : Nat} (nonempty : 0 < len) (one : (start + len - 1) / n = start / n) :
    unitsOf n start len = [start / n * n] := by
  unfold unitsOf
  rw [if_neg (by omega), one, Nat.sub_self]
  rfl

theorem pieces_within {addr len : Nat} (nonempty : 0 < len) (one : (addr + len - 1) / 1024 = addr / 1024) :
    pieces addr len = [(addr, len)] := by
  rw [pieces, unitsOf_within nonempty one]
  simp only [List.map_cons, List.map_nil, List.cons.injEq, Prod.mk.injEq, and_true]
  omega

theorem pieces_block {addr : Nat} (aligned : addr % 1024 = 0) : pieces addr 1024 = [(addr, 1024)] :=
  pieces_within (by decide) (by omega)

theorem pieces_line {addr : Nat} (aligned : addr % 128 = 0) : pieces addr 128 = [(addr, 128)] :=
  pieces_within (by decide) (by omega)

/-! ### Reads -/

/-- The bytes of a span as a read delivers them, each with whether its unit is poisoned. -/
def State.cellsAt (s : State) (addr len : Nat) : List (Byte × Bool) :=
  (s.dbytes addr len).zip ((List.range len).map fun i => s.dbad (addr + i))

theorem State.cellsAt_bytes (s : State) (addr len : Nat) : (s.cellsAt addr len).map (·.1) = s.dbytes addr len :=
  List.map_fst_zip (by simp [State.length_dbytes])

theorem State.cellsAt_bad (s : State) (addr len : Nat) :
    (s.cellsAt addr len).any (·.2) = (List.range len).any fun i => s.dbad (addr + i) := by
  have marks : (s.cellsAt addr len).map (·.2) = (List.range len).map fun i => s.dbad (addr + i) :=
    List.map_snd_zip (by simp [State.length_dbytes])
  calc (s.cellsAt addr len).any (·.2)
    _ = ((s.cellsAt addr len).map (·.2)).any id := by rw [List.any_map, Function.id_comp]
    _ = (List.range len).any fun i => s.dbad (addr + i) := by rw [marks, List.any_map, Function.id_comp]

theorem State.SameCells.cellsAt {s t : State} (h : s.SameCells t) (addr len : Nat) : t.cellsAt addr len = s.cellsAt addr len := by
  simp only [State.cellsAt, h.dbytes, h.dbad]

/-- A failed check is shown and reported. -/
theorem State.SameData.crcFailed (s : State) (blk source code : Nat) : s.SameData (s.crcFailed blk source code) :=
  (State.SameData.wr s 0 0 _ rfl).trans (.raise _ _ _ _ _)

/-- An entry whose unit holds no error and no poison is read as it stands. -/
theorem State.readEntry_sound {s : State} {at' : Nat} (free : s.ErrorFree (eccWords at' 4)) (sound : s.dbad at' = false) :
    s.readEntry at' = (s, some (s.entryWord at')) := by
  simp only [State.readEntry, State.meetErrors_of_errorFree free, sound, Bool.false_eq_true, if_false]

section
variable {s : State} {q : Nat × Nat} {d : Dplace} (place : s.dplace q.1 = some d) (die garbled : Nat)
include place

/-- A piece outside the protected ranges is delivered as it stands. -/
theorem State.readPiece_plain (plain : s.crcRange q.1 = none) :
    s.readPiece die garbled q = (s.countBytes d false die q.2, s.cellsAt q.1 q.2) := by
  have counted := State.SameCells.countBytes s d false die q.2
  -- the kernel evaluates the place of `q` before it unfolds `readPiece` applied, so the function is unfolded alone
  generalize body : State.readPiece = f
  delta State.readPiece at body
  subst body
  beta_reduce
  rw [place]
  dsimp only
  rw [counted.crcRange, plain]
  exact congrArg (Prod.mk _) (counted.cellsAt q.1 q.2)

/-- A block free of poison is delivered where its check passes in one of four attempts, and poisoned where all fail (R297). -/
theorem State.readPiece_block {r : CrcRange} (inside : s.crcRange q.1 = some r) (whole : q.2 = 1024)
    (clean : (s.cellsAt q.1 q.2).any (·.2) = false) (free : s.ErrorFree (eccWords (r.entry q.1) 4))
    (sound : s.dbad (r.entry q.1) = false) :
    ∃ t, s.SameData t ∧ s.readPiece die garbled q =
      (t, if crc32c (s.dbytes q.1 q.2) = s.entryWord (r.entry q.1) ∧ garbled < 4 then s.cellsAt q.1 q.2
        else (s.cellsAt q.1 q.2).map fun c => (c.1, true)) := by
  have counted := State.SameCells.countBytes s d false die q.2
  have cells := counted.cellsAt q.1 q.2
  have bytes := s.cellsAt_bytes q.1 q.2
  unfold State.cellsAt at cells clean bytes ⊢
  -- unfolded alone, as above
  generalize body : State.readPiece = f
  delta State.readPiece at body
  subst body
  beta_reduce
  rw [place]
  dsimp only
  rw [cells, counted.crcRange, inside]
  dsimp only
  rw [if_pos whole, clean, bytes, State.readEntry_sound (counted.errorFree free) ((counted.dbad _).trans sound), counted.entryWord]
  generalize s.countBytes d false die q.2 = u at counted
  dsimp only
  by_cases passes : crc32c (s.dbytes q.1 q.2) = s.entryWord (r.entry q.1) ∧ garbled < 4
  · have once : min garbled 4 < 4 := by omega
    have same : (some (s.entryWord (r.entry q.1)) == some (crc32c (s.dbytes q.1 q.2))) = true := by simp [passes.1]
    rw [if_pos passes, same, if_pos rfl, if_neg Bool.false_ne_true, if_pos once]
    exact ⟨_, counted.toSameData.trans ((State.SameData.bump u _ _ _ rfl).trans (.bump _ _ _ _ rfl)), rfl⟩
  · have fails : ¬ (if some (s.entryWord (r.entry q.1)) == some (crc32c (s.dbytes q.1 q.2)) then min garbled 4 else 4) < 4 := by
      split
      · rename_i same
        have : ¬ garbled < 4 := fun few => passes ⟨(Option.some.inj (eq_of_beq same)).symm, few⟩
        omega
      · decide
    rw [if_neg passes, if_neg Bool.false_ne_true, if_neg fails]
    exact ⟨_, counted.toSameData.trans ((State.SameData.bump u _ _ _ rfl).trans ((State.SameData.bump _ _ _ _ rfl).trans
      ((State.SameData.obs _ _).trans (.crcFailed _ _ _ _)))), rfl⟩

end

/-- A read of one piece that meets no error delivers what its piece does. -/
theorem State.dramRead_piece {s t : State} {addr len die garbled : Nat} {cells : List (Byte × Bool)}
    (answers : s.dramOpen addr len = true) (one : pieces addr len = [(addr, len)]) (free : s.meetErrors (eccWords addr len) = s)
    (piece : (s.countPoisoned addr len).readPiece die garbled (addr, len) = (t, cells)) :
    ∃ u, t.SameCells u ∧ s.dramRead addr len die garbled [] =
      (u, { status := if cells.any (·.2) then .poison else .ok, cells := cells }) := by
  have struck : s.strikeDram addr [] = s := rfl
  unfold State.dramRead
  rw [answers, if_neg (by decide), struck, free, one]
  -- the kernel would evaluate the piece's read
  generalize s.countPoisoned addr len = v at piece ⊢
  generalize State.readPiece = f at piece ⊢
  extract_lets w ps
  have fold : ps.foldl (fun acc p => let r := f acc.1 die garbled p; (r.1, acc.2 ++ r.2)) (w, []) = (t, cells) := by
    simp [ps, w, piece]
  rw [fold]
  exact ⟨_, State.SameCells.trans (.ite (.bump t _ _ _ rfl) (.refl t)) (.ite (.mapWindow _ _) (.refl _)), rfl⟩

theorem State.memoryRead_of_dramRead {s u : State} {addr len die garbled : Nat} {errors : List MemError} {x : Taken}
    (read : s.dramRead addr len die garbled errors = (u, x)) :
    s.memoryRead addr len die garbled errors = { u with compl := (x.status, x.bytes) } := by
  rw [State.memoryRead, read]

/-! ### Writes -/

/-- A write of one piece, no error striking it, is its piece's. -/
theorem State.memoryWrite_piece {s : State} {addr die : Nat} {data : List Byte} (answers : s.dramOpen addr data.length = true)
    (one : pieces addr data.length = [(addr, data.length)]) :
    s.memoryWrite addr data die [] =
      { (s.countRmw addr (data.map some)).writePiece die addr (data.map some) with compl := (.ok, []) } := by
  have struck : s.strikeDram addr [] = s := rfl
  have whole : ((data.map some).drop (addr - addr)).take data.length = data.map some := by simp
  have written : s.dramWrite addr (data.map some) die [] =
      ((s.countRmw addr (data.map some)).writePiece die addr (data.map some), .ok) := by
    unfold State.dramWrite
    rw [List.length_map, answers, if_neg (by decide), struck, one]
    dsimp only
    rw [List.foldl_cons, List.foldl_nil, whole]
  rw [State.memoryWrite, written]

section
variable {s : State} {addr : Nat} {d : Dplace} (place : s.dplace addr = some d) (die : Nat)
include place

/-- Outside the protected ranges the words written in part are read first, then the bytes are written. -/
theorem State.writePiece_plain (plain : s.crcRange addr = none) (cells : List (Option Byte)) :
    ∃ u, s.SameData u ∧ s.writePiece die addr cells = u.dput addr cells := by
  have counted := State.SameCells.countBytes s d true die (cells.filter (·.isSome)).length
  generalize body : State.writePiece = f
  delta State.writePiece at body
  subst body
  beta_reduce
  rw [place]
  dsimp only
  rw [counted.crcRange, plain]
  dsimp only
  split
  · exact ⟨_, counted.toSameData, rfl⟩
  · exact ⟨_, counted.toSameData.trans ((State.SameData.meetErrors _ _).trans (.mendAll _ _)), rfl⟩

/-- A block write stores the data, then their CRC in the block's entry (R294). -/
theorem State.writePiece_block {r : CrcRange} (inside : s.crcRange addr = some r) {data : List Byte} (whole : data.length = 1024) :
    ∃ u, s.SameData u ∧ s.writePiece die addr (data.map some) =
      (u.dput addr (data.map some)).updateEntry (r.entry addr) fun _ => crc32c data := by
  have counted := State.SameCells.countBytes s d true die ((data.map some).filter (·.isSome)).length
  have all : (data.map some).length = 1024 ∧ (data.map some).all (·.isSome) = true := by simp [whole]
  have back : (data.map some).map (fun c => c.getD 0) = data := by simp [List.map_map, Function.comp_def]
  generalize body : State.writePiece = f
  delta State.writePiece at body
  subst body
  beta_reduce
  rw [place]
  dsimp only
  rw [counted.crcRange, inside]
  dsimp only
  rw [if_pos all, back]
  exact ⟨_, counted.toSameData, rfl⟩

/-- A write of one line of a protected range is a line write (R295). -/
theorem State.writePiece_line {r : CrcRange} (inside : s.crcRange addr = some r) {data : List Byte} (whole : data.length = 128)
    (aligned : addr % 128 = 0) :
    ∃ u, s.SameCells u ∧ s.writePiece die addr (data.map some) = u.lineWrite r addr (data.map some) := by
  have counted := State.SameCells.countBytes s d true die ((data.map some).filter (·.isSome)).length
  have line : unitsOf 128 addr (data.map some).length = [addr] := by
    rw [List.length_map, whole, unitsOf_within (by decide) (by omega)]
    exact congrArg (· :: []) (by omega)
  have part : (List.range 128).map (fun i => if addr + i ≥ addr then (data.map some).getD (addr + i - addr) none else none) =
      data.map some := by
    refine List.ext_getElem (by simp [whole]) fun i hi _ => ?_
    have hi : i < data.length := by simpa [whole] using hi
    simp [hi]
  have nonempty : (data.map some).all (·.isNone) = false := by
    cases data with
    | nil => cases whole
    | cons b bs => rfl
  generalize body : State.writePiece = f
  delta State.writePiece at body
  subst body
  beta_reduce
  rw [place]
  dsimp only
  rw [counted.crcRange, inside]
  dsimp only
  rw [if_neg (by simp [whole]), line, List.foldl_cons, List.foldl_nil, part, nonempty, if_neg Bool.false_ne_true]
  exact ⟨_, counted, rfl⟩

end

end Sys2Proof.Machine
end

section
/-! SUPPORT. A line of a protected range, written with its block's entry (R295). -/

namespace Sys2Proof.Machine

theorem getD_zip_some {old data : List Byte} (same : old.length = data.length) :
    ((old.zip (data.map some)).map fun x => x.2.getD x.1) = data := by
  rw [List.zip_map_right, List.map_map]
  exact List.map_snd_zip same.ge

/-- The register update by which the CRC of a block changes when its line `j` changes from `old` to `data` (R295). -/
def lineUpdate (j : Nat) (old data : List Byte) : Nat :=
  crcLin (List.replicate (128 * j) 0 ++ List.zipWith (· ^^^ ·) old data ++ List.replicate (896 - 128 * j) 0)

/-- A line with no error and no poison is written, and its block's entry follows by the linear update. -/
theorem State.lineWrite_clean {s : State} {r : CrcRange} {line j : Nat} {data : List Byte} (whole : data.length = 128)
    (free : s.ErrorFree (eccWords line 128)) (sound : ∀ i ∈ List.range 4, s.dbad (line + 32 * i) = false)
    (place : (line - r.base) % 1024 / 128 = j) :
    ∃ u, s.SameData u ∧ s.lineWrite r line (data.map some) =
      (u.dput line (data.map some)).updateEntry (r.entry (line - (line - r.base) % 1024))
        (· ^^^ lineUpdate j (s.dbytes line 128) data) := by
  have merged : (((s.dbytes line 128).zip (data.map some)).map fun x => x.2.getD x.1) = data :=
    getD_zip_some (by rw [State.length_dbytes, whole])
  have changed : (((s.dbytes line 128).zip data).map fun x => x.1 ^^^ x.2) = List.zipWith (· ^^^ ·) (s.dbytes line 128) data :=
    List.map_zip_eq_zipWith
  have counted : ∀ d : Dplace, s.SameCells (s.bumpStack d HBM_PERF_RMW.count BIT_PERF_RMW.count 1) := fun d => .bumpStack s d 1 rfl rfl
  have clean : ∀ d : Dplace, ((List.range 4).any fun i =>
      (s.bumpStack d HBM_PERF_RMW.count BIT_PERF_RMW.count 1).dbad (line + 32 * i)) = false := fun d => by
    simp only [(counted d).dbad]
    exact List.any_eq_false.mpr fun i hi => by simp [sound i hi]
  unfold State.lineWrite
  rw [State.meetErrors_of_errorFree free]
  extract_lets blk w old d v poisoned m written place' diff x
  rw [clean, if_neg Bool.false_ne_true]
  refine ⟨v, (counted d).toSameData, ?_⟩
  unfold written x diff place' m old
  rw [merged, changed, place]
  rfl

end Sys2Proof.Machine
end

section
/-! SUPPORT. Blocks and lines of a protected range in memory: the data, and the entry that follows them (R294, R295, R297). -/

namespace Sys2Proof.Machine

/-! ### Places and keys -/

theorem State.exists_dplace_of_dkey {s : State} {addr k : Nat} (key : s.dkey addr = some k) : ∃ d, s.dplace addr = some d := by
  obtain ⟨d, place, -⟩ := Option.map_eq_some_iff.mp key
  exact ⟨d, place⟩

theorem State.exists_dplace_of_isSome {s : State} {addr : Nat} (key : (s.dkey addr).isSome = true) : ∃ d, s.dplace addr = some d :=
  (Option.isSome_iff_exists.mp key).elim fun _ h => State.exists_dplace_of_dkey h

/-- In the state that an access leaves, addresses lie where they lay. -/
theorem State.SamePlaces.dkey_settled {s u : State} (h : s.SamePlaces u) (c : Completion × List Byte) :
    (s.settle { u with compl := c }).dkey = s.dkey := by
  have places : s.SamePlaces (s.settle { u with compl := c }) :=
    ⟨rfl, fun k i hk hi => (State.rd_settle s { u with compl := c } h.part k i 0).trans (h.rd k i hk hi)⟩
  exact places.dkey

theorem State.byte_settled (s u : State) (c : Completion × List Byte) (a : Nat) :
    (s.settle { u with compl := c }).byte a = u.byte a := State.byte_settle s { u with compl := c } a

/-- A span read in the state that an access leaves. -/
theorem State.SamePlaces.dbytes_settled {s u : State} (h : s.SamePlaces u) (c : Completion × List Byte) {addr k : Nat}
    (key : s.dkey addr = some k) (n : Nat) : (s.settle { u with compl := c }).dbytes addr n = u.bytes k n := by
  rw [State.dbytes_of_dkey ((congrFun (h.dkey_settled c) addr).trans key)]
  exact State.bytes_congr fun j _ _ => State.byte_settled s u c j

theorem State.SamePlaces.entryWord_settled {s u : State} (h : s.SamePlaces u) (c : Completion × List Byte) {addr k : Nat}
    (key : s.dkey addr = some k) : (s.settle { u with compl := c }).entryWord addr = leNat (u.bytes k 4) :=
  congrArg leNat (h.dbytes_settled c key 4)

/-! ### Data written with their entry -/

/-- A span is written, and then an entry that lies apart from it: the entry holds its update of what stood there before, and every
other byte reads as after the span's write. -/
theorem State.span_then_entry {s u : State} (h : s.SameData u) {addr at' k e : Nat} {data : List Byte} {f : Nat → Nat}
    (key : s.dkey addr = some k) (entry : s.dkey at' = some e) (apart : e + 4 ≤ k ∨ k + data.length ≤ e)
    (small : f (s.entryWord at') < 2 ^ 32) :
    s.SamePlaces ((u.dput addr (data.map some)).updateEntry at' f) ∧
      leNat (((u.dput addr (data.map some)).updateEntry at' f).bytes e 4) = f (s.entryWord at') ∧
      ∀ a n, a + n ≤ e ∨ e + 4 ≤ a →
        ((u.dput addr (data.map some)).updateEntry at' f).bytes a n = (s.setBytes k data).bytes a n := by
  have put : s.SamePlaces (u.dput addr (data.map some)) := h.toSamePlaces.trans (u.samePlaces_dput addr _)
  have mem : (u.dput addr (data.map some)).mem = (s.setBytes k data).mem :=
    (State.dput_mem ((congrFun h.dkey addr).trans key) data).trans (State.setBytes_mem_congr h.mem k data)
  have entryPut : (u.dput addr (data.map some)).dkey at' = some e := (congrFun put.dkey at').trans entry
  have before : (u.dput addr (data.map some)).entryWord at' = s.entryWord at' := by
    rw [State.entryWord_of_dkey entryPut, State.entryWord_of_dkey entry, State.bytes_of_mem mem, s.bytes_setBytes_apart (by omega)]
  have written := State.updateEntry_mem entryPut f
  rw [before] at written
  obtain ⟨word, others⟩ := State.written_with_entry small written
  refine ⟨put.trans (State.samePlaces_updateEntry _ at' f), word, fun a n aside => ?_⟩
  rw [others a n aside, State.bytes_of_mem mem]

/-- A block with one line changed: the line's new bytes between the block's others. -/
theorem State.block_setBytes (s : State) {k j : Nat} {data : List Byte} (line : j < 8) (whole : data.length = 128) :
    (s.setBytes (k + 128 * j) data).bytes k 1024 =
      s.bytes k (128 * j) ++ data ++ s.bytes (k + 128 * j + 128) (896 - 128 * j) := by
  have parts : 1024 = 128 * j + 128 + (896 - 128 * j) := by omega
  have same := s.bytes_setBytes_same (k + 128 * j) data
  rw [whole] at same
  rw [parts, State.bytes_add, State.bytes_add, same, s.bytes_setBytes_apart (by omega), ← Nat.add_assoc,
    s.bytes_setBytes_apart (by omega)]

/-- The CRC of a block with one line changed, by the linear update. -/
theorem State.crc_block_setBytes (s : State) {k j : Nat} {data : List Byte} (line : j < 8) (whole : data.length = 128) :
    crc32c ((s.setBytes (k + 128 * j) data).bytes k 1024) = crc32c (s.bytes k 1024) ^^^ lineUpdate j (s.bytes (k + 128 * j) 128) data := by
  have parts : s.bytes k 1024 = s.bytes k (128 * j) ++ s.bytes (k + 128 * j) 128 ++ s.bytes (k + 128 * j + 128) (896 - 128 * j) := by
    rw [Nat.add_assoc k, ← State.bytes_add, ← State.bytes_add]
    congr 1
    omega
  have change := crcFollowsChange (s.bytes k (128 * j)) (s.bytes (k + 128 * j) 128) data (s.bytes (k + 128 * j + 128) (896 - 128 * j))
    (by rw [State.length_bytes, whole])
  rw [State.length_bytes, State.length_bytes] at change
  rw [s.block_setBytes line whole, parts, change, lineUpdate]

/-! ### What block and line commands take -/

theorem State.isBlock_of_crcRange {s : State} {addr : Nat} {r : CrcRange} (aligned : addr % 1024 = 0)
    (inside : s.crcRange addr = some r) : s.isBlock addr = true := by
  simp [State.isBlock, aligned, inside]

theorem State.isLineWrite_line {s : State} {addr : Nat} {r : CrcRange} (aligned : addr % 128 = 0)
    (first : s.crcRange addr = some r) (last : s.crcRange (addr + 127) = some r) : s.isLineWrite addr 128 = true := by
  simp [State.isLineWrite, first, last, pieces_line aligned]

/-- A line write into a block with a current entry writes the line, and the entry becomes the changed block's CRC. -/
theorem State.memoryWrite_line {s : State} {addr blk j k e : Nat} {data : List Byte} {r : CrcRange} (whole : data.length = 128)
    (aligned : addr % 128 = 0) (answers : s.dramOpen addr 128 = true) (inside : s.crcRange addr = some r)
    (offset : (addr - r.base) % 128 = 0) (number : j = (addr - r.base) % 1024 / 128) (at' : addr = blk + 128 * j)
    (block : s.dkey blk = some k) (line : s.dkey addr = some (k + 128 * j))
    (sound : ∀ i ∈ List.range 4, s.dbad (addr + 32 * i) = false) (entry : s.dkey (r.entry blk) = some e)
    (apart : e + 4 ≤ k ∨ k + 1024 ≤ e) (current : s.entryWord (r.entry blk) = crc32c (s.dbytes blk 1024))
    (free : s.ErrorFree (eccWords addr 128)) :
    ∃ u, s.SamePlaces u ∧ s.memoryWrite addr data 2 [] = { u with compl := (.ok, []) } ∧
      u.bytes (k + 128 * j) 128 = data ∧ leNat (u.bytes e 4) = crc32c (u.bytes k 1024) := by
  have eighth : j < 8 := by omega
  have start : addr - (addr - r.base) % 1024 = blk := by omega
  obtain ⟨d, place⟩ := State.exists_dplace_of_dkey line
  have counted := State.SameCells.countRmw s addr (data.map some)
  obtain ⟨u, kept, written⟩ := State.writePiece_line ((congrFun counted.dplace addr).trans place) 2
    ((congrFun counted.crcRange addr).trans inside) whole aligned
  have same := counted.trans kept
  obtain ⟨v, kept', cleanly⟩ := State.lineWrite_clean whole (same.errorFree free) (fun i hi => (same.dbad _).trans (sound i hi)) number.symm
  rw [cleanly, start, same.dbytes, State.dbytes_of_dkey line] at written
  have crc := s.crc_block_setBytes (k := k) eighth whole
  rw [State.dbytes_of_dkey block] at current
  rw [← current] at crc
  obtain ⟨places, word, others⟩ := State.span_then_entry (f := (· ^^^ lineUpdate j (s.bytes (k + 128 * j) 128) data))
    (same.toSameData.trans kept') (data := data) line entry (by omega) (crc ▸ crc32c_lt _)
  have effect := State.memoryWrite_piece (die := 2) (s := s) (addr := addr) (data := data) (by rw [whole]; exact answers)
    (by rw [whole]; exact pieces_line aligned)
  rw [written] at effect
  refine ⟨_, places, effect, ?_, ?_⟩
  · have same := s.bytes_setBytes_same (k + 128 * j) data
    rw [whole] at same
    rw [others _ _ (by omega), same]
  · rw [word, others _ _ (by omega), crc]

/-- A block free of errors and poison is delivered as it stands, poisoned where its check fails four times. -/
theorem State.memoryRead_block {s : State} {addr garbled : Nat} {r : CrcRange} {d : Dplace} (aligned : addr % 1024 = 0)
    (answers : s.dramOpen addr 1024 = true) (inside : s.crcRange addr = some r) (place : s.dplace addr = some d)
    (sound : ∀ i ∈ List.range 1024, s.dbad (addr + i) = false) (free : s.meetErrors (eccWords addr 1024) = s)
    (entryFree : s.ErrorFree (eccWords (r.entry addr) 4)) (entrySound : s.dbad (r.entry addr) = false) :
    ∃ u, s.SameData u ∧ s.memoryRead addr 1024 2 garbled [] =
      { u with compl := (if crc32c (s.dbytes addr 1024) = s.entryWord (r.entry addr) ∧ garbled < 4 then .ok else .poison,
        s.dbytes addr 1024) } := by
  have counted := State.SameCells.countPoisoned s addr 1024
  have clean : (s.cellsAt addr 1024).any (·.2) = false := by
    rw [State.cellsAt_bad]
    exact List.any_eq_false.mpr fun i hi => by simp [sound i hi]
  have nonempty : s.cellsAt addr 1024 ≠ [] := fun none => by
    have length := congrArg List.length (s.cellsAt_bytes addr 1024)
    rw [none, State.length_dbytes] at length
    cases length
  obtain ⟨t, kept, piece⟩ := State.readPiece_block (s := s.countPoisoned addr 1024) (q := (addr, 1024))
    ((congrFun counted.dplace addr).trans place) 2 garbled ((congrFun counted.crcRange addr).trans inside) rfl
    (by rw [counted.cellsAt]; exact clean) (counted.errorFree entryFree) ((counted.dbad _).trans entrySound)
  rw [counted.dbytes, counted.entryWord, counted.cellsAt] at piece
  obtain ⟨u, kept', read⟩ := State.dramRead_piece answers (pieces_block aligned) free piece
  refine ⟨u, counted.toSameData.trans (kept.trans kept'.toSameData), (State.memoryRead_of_dramRead read).trans ?_⟩
  simp only [Taken.bytes]
  by_cases passes : crc32c (s.dbytes addr 1024) = s.entryWord (r.entry addr) ∧ garbled < 4
  · simp only [if_pos passes, clean, Bool.false_eq_true, if_false, State.cellsAt_bytes]
  · have bad : ((s.cellsAt addr 1024).map fun c => (c.1, true)).any (·.2) = true := by
      obtain ⟨c, cs, cells⟩ := List.exists_cons_of_ne_nil nonempty
      simp [cells]
    simp only [if_neg passes, bad, if_true, List.map_map]
    exact congrArg (fun bs => ({ u with compl := (.poison, bs) } : State)) (s.cellsAt_bytes addr 1024)

end Sys2Proof.Machine
end

section
open Sys2Proof.Machine

/-- Settles O41: a piece outside the protected ranges is read as it stands and written where it lies; what answers nowhere is refused. -/
theorem memoryAccesses : Obligations.MemoryAccesses := by
  refine ⟨?read, ?write, ?refused⟩
  case read =>
    intro addr len die s d up answers one place plain free
    have counted := State.SameCells.countPoisoned s addr len
    have piece := State.readPiece_plain (s := s.countPoisoned addr len) (q := (addr, len)) ((congrFun counted.dplace addr).trans place) die 0
      ((congrFun counted.crcRange addr).trans plain)
    obtain ⟨u, kept, read⟩ := State.dramRead_piece answers one free piece
    have same := (counted.trans (.countBytes _ d false die len)).trans kept
    refine ⟨_, exec_next_of_live rfl up (State.memoryRead_of_dramRead read), ?_, same.poison, fun a => ?_⟩
    · rw [counted.cellsAt]
      exact Prod.ext (congrArg (if · = true then Completion.poison else .ok) (s.cellsAt_bad addr len)) (s.cellsAt_bytes addr len)
    · exact (State.byte_settled s u _ a).trans (State.byte_of_mem same.mem a)
  case write =>
    intro addr die k data s up answers one key plain
    obtain ⟨d, place⟩ := State.exists_dplace_of_dkey key
    have counted := State.SameCells.countRmw s addr (data.map some)
    obtain ⟨u, kept, written⟩ := State.writePiece_plain ((congrFun counted.dplace addr).trans place) die
      ((congrFun counted.crcRange addr).trans plain) (data.map some)
    have stored := counted.toSameData.trans kept
    have places : s.SamePlaces (u.dput addr (data.map some)) := stored.toSamePlaces.trans (u.samePlaces_dput addr _)
    have mem : (u.dput addr (data.map some)).mem = (s.setBytes k data).mem :=
      (State.dput_mem ((congrFun stored.dkey addr).trans key) data).trans (State.setBytes_mem_congr stored.mem k data)
    have effect := State.memoryWrite_piece (die := die) answers one
    rw [written] at effect
    refine ⟨_, exec_next_of_live rfl up effect, rfl, ?_, fun a outside => ?_⟩
    · rw [places.dbytes_settled _ key, State.bytes_of_mem mem, State.bytes_setBytes_same]
    · rw [State.byte_settled, State.byte_of_mem mem, State.byte_setBytes_apart s outside]
  case refused =>
    intro addr len die data errors s up
    refine ⟨fun closed => exec_next_of_live rfl up ?_, fun closed => exec_next_of_live rfl up ?_⟩
    · simp [State.memoryRead, State.dramRead, closed, Taken.bytes]
    · simp [State.memoryWrite, State.dramWrite, closed]

/-- Settles O42: a block's and a line's data are written with the entry that their CRC calls for, and a block is read with its check. -/
theorem blockEntriesFollowData : Obligations.BlockEntriesFollowData := by
  refine ⟨?block, ?line, ?read⟩
  case block =>
    intro addr k e data s r up whole aligned answers inside key entry apart
    obtain ⟨d, place⟩ := State.exists_dplace_of_dkey key
    have counted := State.SameCells.countRmw s addr (data.map some)
    obtain ⟨u, kept, written⟩ := State.writePiece_block ((congrFun counted.dplace addr).trans place) 2
      ((congrFun counted.crcRange addr).trans inside) whole
    obtain ⟨places, word, others⟩ := State.span_then_entry (f := fun _ => crc32c data) (counted.toSameData.trans kept) key entry
      (by rw [whole]; exact apart) (crc32c_lt data)
    have effect := State.memoryWrite_piece (die := 2) (s := s) (addr := addr) (data := data) (by rw [whole]; exact answers)
      (by rw [whole]; exact pieces_block aligned)
    rw [written] at effect
    have taken : (s.isBlock addr && data.length == 1024) = true := by simp [State.isBlock_of_crcRange aligned inside, whole]
    refine ⟨_, exec_next_of_live rfl up ((if_pos taken).trans effect), rfl, ?_, ?_⟩
    · have same := s.bytes_setBytes_same k data
      rw [whole] at same
      rw [places.dbytes_settled _ key, others _ _ (by omega), same]
    · rw [places.entryWord_settled _ entry, word]
  case line =>
    intro addr blk j k e data s r up whole aligned answers first last offset number at' block line sound entry apart current free
    obtain ⟨u, places, effect, written, follows⟩ := State.memoryWrite_line whole aligned answers first offset number at' block line sound
      entry apart current (State.errorFree_of_meetErrors free)
    have taken : s.isLineWrite addr data.length = true := by rw [whole]; exact State.isLineWrite_line aligned first last
    refine ⟨_, exec_next_of_live rfl up ((if_pos taken).trans effect), rfl, ?_, ?_⟩
    · rw [places.dbytes_settled _ line, written]
    · rw [places.entryWord_settled _ entry, places.dbytes_settled _ block, follows]
  case read =>
    intro addr garbled s r up aligned answers inside key sound free entryFree entrySound
    obtain ⟨d, place⟩ := State.exists_dplace_of_isSome key
    obtain ⟨u, kept, effect⟩ := State.memoryRead_block aligned answers inside place sound free
      (State.errorFree_of_meetErrors entryFree) entrySound
    exact ⟨_, exec_next_of_live rfl up ((if_pos (State.isBlock_of_crcRange aligned inside)).trans effect), rfl, fun a =>
      (State.byte_settled s u _ a).trans (State.byte_of_mem kept.mem a)⟩

end

section
/-! SUPPORT. Temperatures and refresh rates of stacks, the patrol scrub and the scrub of array SRAM (R298 to R302, R419, R449). -/

namespace Sys2Proof.Machine

/-! ### Reports of a stack's temperature (R299) -/

/-- The memory, the refresh levels and every register but those of events are as they were. -/
structure State.KeepsLevels (s t : State) : Prop where
  part : t.part = s.part
  mem : t.mem = s.mem
  levels : t.dram.levels = s.dram.levels
  rd : ∀ k i, k.ofEvents = false → i < 65536 → t.rd k i = s.rd k i

namespace State.KeepsLevels

variable {s t u : State}

theorem trans (h : s.KeepsLevels t) (g : t.KeepsLevels u) : s.KeepsLevels u :=
  ⟨g.part.trans h.part, g.mem.trans h.mem, g.levels.trans h.levels, fun k i hk hi => (g.rd k i hk hi).trans (h.rd k i hk hi)⟩

theorem of_regs (part : t.part = s.part) (regs : t.regs = s.regs) (mem : t.mem = s.mem) (levels : t.dram.levels = s.dram.levels) :
    s.KeepsLevels t := ⟨part, mem, levels, fun k i _ _ => State.rd_congr part regs k i 0⟩

theorem dram (s : State) (x : Dram) (h : x.levels = s.dram.levels) : s.KeepsLevels { s with dram := x } := of_regs rfl rfl rfl h

theorem pins (s : State) (x : Pins) : s.KeepsLevels { s with pins := x } := of_regs rfl rfl rfl rfl

theorem of_calm (h : s.Calm t) : s.KeepsLevels t :=
  ⟨h.part, h.mem, congrArg Dram.levels h.dram, fun k i hk hi => h.rd k i 0 hk hi (by decide)⟩

theorem noteHot (s : State) (stack celsius : Nat) : s.KeepsLevels (s.noteHot stack celsius) := by
  unfold State.noteHot
  split
  · split
    · exact dram s _ rfl
    · refine trans ?_ (of_calm (State.calm_raise _ _ _ _ _))
      exact dram s _ rfl
  · exact dram s _ rfl

theorem syncTherm (s : State) : s.KeepsLevels s.syncTherm :=
  (pins s _).trans (of_calm s.calm_syncTherm)

theorem fld (h : s.KeepsLevels t) {f : Fld} {i : Nat} (hf : f.kind.ofEvents = false) (hi : i < 65536) : t.fld f i = s.fld f i :=
  congrArg (bits · _ _) (h.rd f.kind i hf hi)

end State.KeepsLevels

/-- A field of another kind of register reads as before, wherever the write goes. -/
theorem State.fld_setFld_other (s : State) {f g : Fld} {i j i' j' : Nat} (v : Nat) (h : g.kind ≠ f.kind) (hi : i' < 65536)
    (hj : j' < 65536) : (s.setFld f i j v).fld g i' j' = s.fld g i' j' :=
  congrArg (bits · _ _) (s.rd_wr_other _ h hi hj)

/-! ### A stack's gauge (R282, R298, R419) -/

/-- The fields of the temperature, its highest and the refresh rate of each of `n` stacks, in a register of their own. -/
structure Gauge (n : Nat) (temp top rate : Fld) : Prop where
  temp_top : temp.beside n top = true
  top_temp : top.beside n temp = true
  rate_temp : rate.beside n temp = true
  rate_top : rate.beside n top = true
  units : temp.ofUnits n = true ∧ top.ofUnits n = true ∧ rate.ofUnits n = true
  temp_bits : temp.hi - temp.lo + 1 = 8
  top_bits : top.hi - top.lo + 1 = 8
  rate_bits : rate.hi - rate.lo + 1 = 2
  events : temp.kind.ofEvents = false ∧ top.kind.ofEvents = false ∧ rate.kind.ofEvents = false
  temp_clock : CLK_STATUS.holdover_expired.kind ≠ temp.kind
  top_clock : CLK_STATUS.holdover_expired.kind ≠ top.kind

theorem gauge_hbm : Gauge 12 HBM_STK_TEMP.temp HBM_STK_TEMP.temp_max HBM_STK_TEMP.refresh := by
  constructor <;> decide

theorem gauge_bittern : Gauge 4 BIT_STK_TEMP.temp BIT_STK_TEMP.temp_max BIT_STK_TEMP.refresh := by
  constructor <;> decide

/-- A stack's refresh level is kept. -/
def State.keepLevel (s : State) (stack level : Nat) : State :=
  { s with dram := { s.dram with levels := Sparse.put 0 s.dram.levels stack level } }

@[simp] theorem State.levels_keepLevel (s : State) (stack level : Nat) :
    Sparse.get 0 (s.keepLevel stack level).dram.levels stack = level := Sparse.get_put_same _ _ _ _

/-- A stack's temperature is shown, and its highest. -/
def State.showTemp (s : State) (temp top : Fld) (i c : Nat) : State :=
  (s.setFld temp i 0 c).setFld top i 0 (max ((s.setFld temp i 0 c).fld top i) c)

/-- A stack's temperature and its highest are shown, its refresh level is kept, and the rate shown that it calls for. -/
def State.gauged (s : State) (temp top rate : Fld) (i c stack level : Nat) : State :=
  let s := (s.showTemp temp top i c).keepLevel stack level
  s.setFld rate i 0 (min (Sparse.get 0 s.dram.levels stack + b2n (s.flag CLK_STATUS.holdover_expired)) 2)

section
variable {n i c : Nat} {temp top rate : Fld} (g : Gauge n temp top rate) (hi : i < n) (hc : c < 256) (s : State) (stack level : Nat)
include g hi

theorem State.fld_top_setTemp : (s.setFld temp i 0 c).fld top i = s.fld top i := State.fld_setFld_beside s hi g.temp_top

include hc in
theorem State.fld_temp_gauged : (s.gauged temp top rate i c stack level).fld temp i = c := by
  obtain ⟨units, -, -⟩ := g.units
  have shown : (s.setFld temp i 0 c).fld temp i = c := State.fld_setFld_unit s hi units (by rw [g.temp_bits]; exact hc)
  exact (State.fld_setFld_beside _ hi g.rate_temp).trans ((State.fld_setFld_beside _ hi g.top_temp).trans shown)

include hc in
theorem State.fld_top_gauged : (s.gauged temp top rate i c stack level).fld top i = max (s.fld top i) c := by
  obtain ⟨-, units, -⟩ := g.units
  have before : s.fld top i < 256 := by
    have lt : s.fld top i < 2 ^ (top.hi - top.lo + 1) := bits_lt _ _ _
    rwa [g.top_bits] at lt
  have shown : (s.showTemp temp top i c).fld top i = max (s.fld top i) c := by
    rw [State.showTemp, State.fld_top_setTemp g hi]
    exact State.fld_setFld_unit _ hi units (by rw [g.top_bits]; exact max_lt before hc)
  exact (State.fld_setFld_beside _ hi g.rate_top).trans shown

theorem State.fld_rate_gauged : (s.gauged temp top rate i c stack level).fld rate i =
    min (level + b2n (s.flag CLK_STATUS.holdover_expired)) 2 := by
  obtain ⟨-, -, units⟩ := g.units
  have clock : ((s.showTemp temp top i c).keepLevel stack level).flag CLK_STATUS.holdover_expired =
      s.flag CLK_STATUS.holdover_expired :=
    congrArg (· != 0) ((State.fld_setFld_other (s.setFld temp i 0 c) _ g.top_clock (show 0 < 65536 by decide) (by decide)).trans
      (s.fld_setFld_other c g.temp_clock (by decide) (by decide)))
  unfold State.gauged
  extract_lets a
  rw [State.fld_setFld_unit a hi units (by rw [g.rate_bits]; omega), State.levels_keepLevel, clock]

end

theorem State.levels_gauged (s : State) (temp top rate : Fld) (i c stack level : Nat) :
    Sparse.get 0 (s.gauged temp top rate i c stack level).dram.levels stack = level := by
  simp [State.gauged]

theorem State.part_gauged (s : State) (temp top rate : Fld) (i c stack level : Nat) :
    (s.gauged temp top rate i c stack level).part = s.part := by
  simp [State.gauged, State.showTemp, State.keepLevel]

theorem State.mem_gauged (s : State) (temp top rate : Fld) (i c stack level : Nat) :
    (s.gauged temp top rate i c stack level).mem = s.mem := by
  simp [State.gauged, State.showTemp, State.keepLevel]

/-! ### Readings and reports -/

/-- A reading of one of the stacks is shown, then noted for its events. -/
theorem State.hbmTemp_eq {s : State} {i : Nat} (celsius : Nat) (there : i < s.part.stacks) :
    s.hbmTemp i celsius = ((s.gauged HBM_STK_TEMP.temp HBM_STK_TEMP.temp_max HBM_STK_TEMP.refresh i (min celsius 255) i
      (refreshLevel (Sparse.get 0 s.dram.levels i) (min celsius 255))).noteHot i (min celsius 255)).syncTherm := by
  have level : (s.showTemp HBM_STK_TEMP.temp HBM_STK_TEMP.temp_max i (min celsius 255)).dram = s.dram := by simp [State.showTemp]
  unfold State.hbmTemp
  rw [if_neg (Nat.not_le.mpr there), ← level]
  rfl

theorem State.bitternReport_eq (s : State) {b : Nat} (rates : List Nat) (celsius : Nat) (there : b < 4) :
    s.bitternReport b rates celsius = ((s.gauged BIT_STK_TEMP.temp BIT_STK_TEMP.temp_max BIT_STK_TEMP.refresh b (min celsius 255)
      (0x100 + b) (min (rates.foldl max 0) 2)).noteHot (0x100 + b) (min celsius 255)).syncTherm := by
  unfold State.bitternReport
  rw [if_neg (by omega)]
  rfl

end Sys2Proof.Machine
end

section
/-! SUPPORT. The patrol scrub of a stack and the scrub of array SRAM (R301, R302, R449). -/

namespace Sys2Proof.Machine

/-! ### The patrol scrub (R301, R302) -/

/-- A block's check alters no data. -/
theorem State.SameData.scrubBlock (s : State) (d : Dplace) : s.SameData (s.scrubBlock d) := by
  unfold State.scrubBlock
  split
  · exact refl s
  · split
    · exact refl s
    · exact ite (refl s) (ite (meetErrors s _) ((meetErrors s _).trans (crcFailed _ _ _ _)))

/-- Bytes of a stack, over which its patrol scrub goes (R301). -/
def scrubSize (stack : Nat) : Nat := if 0x100 ≤ stack then 2 ^ 37 else 0x900000000

/-- The scrub goes to its next run, and around at the end of its stack. -/
theorem State.patrolScrub_moves {s : State} {stack : Nat} (errors : List MemError) (late : Bool) (on : s.scrubOn stack = true) :
    (s.patrolScrub stack errors late).mem = s.mem ∧
      Sparse.get 0 (s.patrolScrub stack errors late).dram.scrub stack =
        if scrubSize stack ≤ Sparse.get 0 s.dram.scrub stack + 4096 then 0 else Sparse.get 0 s.dram.scrub stack + 4096 := by
  unfold State.patrolScrub
  rw [on, if_neg (by decide)]
  extract_lets pos d counted n struck met checked size ended next src moved shown
  have read : s.SameData checked := by
    have hit : counted.SameData struck := .foldl (fun t e => .ite (.strikePlace t _ _) (.refl t)) _ _
    have seen : struck.SameData met := .ite (.refl _) (.foldl (fun t k => .meetWordOf t true _) _ _)
    have passed : met.SameData checked := .ite (.foldl (fun t k => .scrubBlock t _) _ _) (.refl _)
    exact (State.SameData.bumpStack s d 4096 rfl rfl).trans (hit.trans (seen.trans passed))
  have told : moved.SameData (if ended then (shown.bumpStack d HBM_SCRUB_STATUS.passes BIT_SCRUB_STATUS.passes 1).bump
      MEM_PERF_SCRUB_LATE.count 0 0 (b2n late) else shown) :=
    State.SameData.trans (.ite (.setFld _ _ _ _ rfl) (.setFld _ _ _ _ rfl))
      (.ite ((State.SameData.bumpStack _ d 1 rfl rfl).trans (.bump _ _ _ _ rfl)) (.refl _))
  have whole : size = scrubSize stack := if_congr decide_eq_true_iff rfl rfl
  refine ⟨told.mem.trans read.mem, ?_⟩
  rw [told.scrub]
  refine (Sparse.get_put_same 0 checked.dram.scrub stack next).trans ?_
  exact congrArg (fun z => if z ≤ pos + 4096 then 0 else pos + 4096) whole

/-! ### The scrub of array SRAM (R449) -/

theorem State.scrubWord_of_none {s : State} {a w : Nat} (free : s.upsets.lookup (sramKey a w) = none) : s.scrubWord a w = s := by
  unfold State.scrubWord
  rw [free]

/-- A fold in which one element alone acts, and then none, is that element's step. -/
theorem foldl_of_one {α β : Type} {f : α → β → α} {a : α} {x : β} (others : ∀ b, b ≠ x → f a b = a)
    (after : ∀ b, f (f a x) b = f a x) {l : List β} (mem : x ∈ l) : l.foldl f a = f a x := by
  induction l with
  | nil => cases mem
  | cons b l ih =>
    rw [List.foldl_cons]
    by_cases same : b = x
    · rw [same]
      exact foldl_eq_self fun c _ => after c
    · rw [others b same]
      exact ih ((List.mem_cons.mp mem).resolve_left (Ne.symm same))

/-- An error that strikes a unit of a memory without errors is gone when the unit is mended. -/
theorem State.mend_strike {s : State} {k : Nat} {b : Bool} (free : s.upsets = []) (sound : s.isPoisoned k = false) :
    (s.strike k b).mend k = s := by
  cases s
  cases free
  simp [State.strike, State.mend, sound, insertUpset]

theorem State.strike_upsets {s : State} {k : Nat} (b : Bool) (free : s.upsets = []) (sound : s.isPoisoned k = false) :
    (s.strike k b).upsets = [(k, b)] := by
  simp [State.strike, sound, free, insertUpset]

section
variable {s : State} {a off w : Nat}

/-- A line of the scratchpad that the scrub reads: counted, struck as the command says, and each of its words met. -/
theorem State.sramScrub_eq (errors : List MemError) (late : Bool) (on : s.flag OBS_BG_CFG.scp_scrub = true)
    (answers : s.arrayAnswers a true = true) (scratchpad : off < 0x50000)
    (owner : s.fld SCP_BANK_OWN.cur_owner a (off / 0x8000) ≠ ownMarch) (kept : s.flag SCP_BANK_CFG.clearing a (off / 0x8000) = false)
    {u v : State} (counted : u = (s.bump OBS_PERF_SCP_SCRUB.count 0 0 1).bump OBS_PERF_SCP_LATE.count 0 0 (if late then 1 else 0))
    (struck : v = errors.foldl (fun s e =>
      if 8 * e.unit < 64 then s.strike (sramKey a (off / 64 * 64 + 8 * e.unit)) e.uncorrectable else s) u) :
    s.sramScrub a off errors late =
      if v.upsets.isEmpty then v else (List.range 8).foldl (fun s i => s.scrubWord a (off / 64 * 64 + 8 * i)) v := by
  subst struck counted
  have owner' : (s.fld SCP_BANK_OWN.cur_owner a (off / 0x8000) == ownMarch) = false := beq_eq_false_iff_ne.mpr owner
  simp [State.sramScrub, on, answers, scratchpad, owner', kept, b2n]

variable {u : State}

theorem State.lookup_strike (b : Bool) (free : u.upsets = []) (sound : u.isPoisoned (sramKey a w) = false) :
    (u.strike (sramKey a w) b).upsets.lookup (sramKey a w) = some b := by
  rw [State.strike_upsets b free sound, List.lookup_cons_self]

/-- The scrub corrects a struck word and counts it. -/
theorem State.scrubWord_corrects (free : u.upsets = []) (sound : u.isPoisoned (sramKey a w) = false) :
    (u.strike (sramKey a w) false).scrubWord a w = (u.bump OBS_PERF_SCP_CORRECTED.count 0 0 1).noteCorrectedWord := by
  unfold State.scrubWord
  rw [State.lookup_strike false free sound]
  dsimp only
  rw [State.mend_strike free sound]

/-- The scrub poisons a word beyond correction in place and reports it. -/
theorem State.scrubWord_poisons (free : u.upsets = []) (sound : u.isPoisoned (sramKey a w) = false) :
    (u.strike (sramKey a w) true).scrubWord a w =
      (u.setPoison (sramKey a w)).raise 0x0C 5 a (BitVec.ofNat 64 (a * 2 ^ 48 + w)) := by
  unfold State.scrubWord
  rw [State.lookup_strike true free sound]
  dsimp only
  rw [State.mend_strike free sound]

theorem State.scrubWord_strike_upsets (b : Bool) (free : u.upsets = []) (sound : u.isPoisoned (sramKey a w) = false) :
    ((u.strike (sramKey a w) b).scrubWord a w).upsets = [] := by
  cases b with
  | false =>
    rw [State.scrubWord_corrects free sound]
    simpa [State.noteCorrectedWord] using free
  | true =>
    rw [State.scrubWord_poisons free sound]
    exact (State.calm_raise _ _ _ _ _).upsets.trans free

/-- Of a line with one struck word the scrub meets that word alone. -/
theorem State.scrubLine_of_one {b : Bool} (line : Nat) (eighth : w < 8) (free : u.upsets = [])
    (sound : u.isPoisoned (sramKey a (line + 8 * w)) = false) {v : State} (struck : v = u.strike (sramKey a (line + 8 * w)) b) :
    (if v.upsets.isEmpty then v else (List.range 8).foldl (fun s i => s.scrubWord a (line + 8 * i)) v) =
      v.scrubWord a (line + 8 * w) := by
  subst struck
  have stands := State.strike_upsets b free sound
  have clean := State.scrubWord_strike_upsets b free sound
  rw [if_neg (by rw [stands]; exact Bool.false_ne_true)]
  refine foldl_of_one (f := fun (s : State) i => s.scrubWord a (line + 8 * i)) (fun i other => State.scrubWord_of_none ?_)
    (fun i => State.scrubWord_of_none (by rw [clean]; rfl)) (List.mem_range.mpr eighth)
  have apart : sramKey a (line + 8 * i) ≠ sramKey a (line + 8 * w) := by
    unfold sramKey
    omega
  rw [stands, List.lookup_cons, beq_eq_false_iff_ne.mpr apart]
  rfl

end

end Sys2Proof.Machine
end

section
/-! SUPPORT. What a temperature's reading and a scrub's line leave (R298 to R300, R419, R449). -/

namespace Sys2Proof.Machine

/-- What a stack's reading shows and keeps, once its events are raised. -/
theorem State.settle_reading {n i : Nat} {temp top rate : Fld} (g : Gauge n temp top rate) (hi : i < n) (s : State)
    (celsius stack level hot : Nat) {t : State}
    (read : t = ((s.gauged temp top rate i (min celsius 255) stack level).noteHot hot (min celsius 255)).syncTherm) :
    (s.settle t).fld temp i = min celsius 255 ∧ (s.settle t).fld top i = max (s.fld top i) (min celsius 255) ∧
      Sparse.get 0 (s.settle t).dram.levels stack = level ∧
      (s.settle t).fld rate i = min (level + b2n (s.flag CLK_STATUS.holdover_expired)) 2 ∧
      (s.settle t).mem = Memory.canonical s.mem := by
  have fits : min celsius 255 < 256 := by omega
  have lt : i < 65536 := (RegKind.lt_of_inRange (Fld.inRange_of_ofUnits hi g.units.1)).1
  obtain ⟨events, events', events''⟩ := g.events
  have kept : (s.gauged temp top rate i (min celsius 255) stack level).KeepsLevels t :=
    read ▸ (State.KeepsLevels.noteHot _ hot _).trans (.syncTherm _)
  have part : t.part = s.part := kept.part.trans (s.part_gauged ..)
  refine ⟨?_, ?_, ?_, ?_, ?_⟩
  · rw [State.fld_settle s t part, kept.fld events lt, State.fld_temp_gauged g hi fits]
  · rw [State.fld_settle s t part, kept.fld events' lt, State.fld_top_gauged g hi fits]
  · rw [State.settle_dram, kept.levels, State.levels_gauged]
  · rw [State.fld_settle s t part, kept.fld events'' lt, State.fld_rate_gauged g hi]
  · rw [State.settle_mem, kept.mem, State.mem_gauged]

end Sys2Proof.Machine
end

section
open Sys2Proof.Machine

/-- Settles O44: readings are shown by their gauge, counts move on, and the scrubs go on without altering data. -/
theorem memoryUpkeep : Obligations.MemoryUpkeep := by
  refine ⟨?hbm, ?bittern, ?refresh, ?refreshBittern, ?retraining, ?calibration, ?patrol, ?array⟩
  case hbm =>
    intro i celsius s up there
    have twelve : i < 12 := there.trans_le (by unfold Part.stacks; split <;> decide)
    obtain ⟨temp, top, level, rate, mem⟩ := State.settle_reading gauge_hbm twelve s celsius i _ i (State.hbmTemp_eq celsius there)
    exact ⟨_, exec_next_of_live rfl up rfl, temp, top, level, by rw [rate, level], mem⟩
  case bittern =>
    intro b celsius rates s up there
    obtain ⟨temp, top, -, rate, mem⟩ := State.settle_reading gauge_bittern there s celsius (0x100 + b) _ (0x100 + b)
      (s.bitternReport_eq rates celsius there)
    exact ⟨_, exec_next_of_live rfl up rfl, temp, top, rate, mem⟩
  case refresh =>
    intro stack s up there hbm
    refine exec_next_of_live rfl up ?_
    rw [State.refresh, if_neg (Nat.not_le.mpr hbm), if_pos there]
  case refreshBittern =>
    intro b s up
    refine exec_next_of_live rfl up ?_
    rw [State.refresh, if_pos (Nat.le_add_right _ b), Nat.add_sub_cancel_left]
  case retraining =>
    intro stack late s up there
    exact exec_next_of_live rfl up (if_pos there)
  case calibration =>
    intro stack late s up there
    exact exec_next_of_live rfl up (if_pos there)
  case patrol =>
    rintro stack pos errors late s up on rfl
    obtain ⟨mem, next⟩ := State.patrolScrub_moves errors late on
    exact ⟨_, exec_next_of_live rfl up rfl, next, fun a => (State.byte_settle s _ a).trans (State.byte_of_mem mem a)⟩
  case array =>
    intro a off w late s u up on answers scratchpad owner kept eighth free counted
    have none : u.upsets = [] := by rw [counted]; simpa using free
    have poison : ∀ k, u.isPoisoned k = s.isPoisoned k := fun k => by rw [counted]; simp [State.isPoisoned]
    have line := fun errors => State.sramScrub_eq errors late on answers scratchpad owner kept counted rfl
    have struck : ∀ b : Bool, s.isPoisoned (sramKey a (off / 64 * 64 + 8 * w)) = false →
        s.sramScrub a off [{ unit := w, uncorrectable := b }] late =
          (u.strike (sramKey a (off / 64 * 64 + 8 * w)) b).scrubWord a (off / 64 * 64 + 8 * w) := fun b sound => by
      have inLine : 8 * w < 64 := by omega
      rw [line, List.foldl_cons, List.foldl_nil, if_pos inLine]
      exact State.scrubLine_of_one _ eighth none ((poison _).trans sound) rfl
    refine ⟨exec_next_of_live rfl up ?_, fun sound => ⟨exec_next_of_live rfl up ?_, exec_next_of_live rfl up ?_⟩⟩
    · rw [line, List.foldl_nil, none]
      rfl
    · rw [struck false sound, State.scrubWord_corrects none ((poison _).trans sound)]
      rfl
    · rw [struck true sound, State.scrubWord_poisons none ((poison _).trans sound)]

end

section
/-! SUPPORT. The test port of an HBM stack: starts, refusals and ends of its operations (R304, R305). -/

namespace Sys2Proof.Machine

section
variable {c : Instr} {s t : State} {i op : Nat} {f : State → State}

/-- A write of a register of a stack, its die's link in service, leaves what its effect is (R37). -/
theorem exec_next_of_stackWritten (hc : exec c s = live s (s.stackWritten i f)) (takes : s.takesWrites = true)
    (link : s.dieOpen [s.part.positions.getD i 0 / 6] = true) (ht : f s = t) : exec c s = .next (s.settle t) :=
  exec_next_of_written hc takes ((if_pos link).trans ht)

/-- Each operation's command starts its operation. -/
theorem exec_of_testOperation
    (mem : (op, c) ∈ [(1, Instr.writeWrapperInstruction i), (2, .shiftDataRegister i), (3, .sppr i), (4, .hppr i)]) (s : State) :
    exec c s = live s (s.stackWritten i fun s => s.testStart i op) := by
  simp only [List.mem_cons, Prod.mk.injEq, List.not_mem_nil, or_false] at mem
  rcases mem with ⟨rfl, rfl⟩ | ⟨rfl, rfl⟩ | ⟨rfl, rfl⟩ | ⟨rfl, rfl⟩ <;> rfl

/-- An operation with no reason against it is in progress; another is refused with the first reason. -/
theorem State.testStart_eq {u : State} (there : i < s.part.stacks) (shown : u = s.setFld HBM_TEST_CTRL.op i 0 op) :
    s.testStart i op = if u.testRefusal i op = 0
      then ({ u with dram := { u.dram with testing := u.dram.testing ++ [(i, op)] } } : State).testStatus i 1 0
      else u.testStatus i 3 (u.testRefusal i op) := by
  subst shown
  unfold State.testStart
  rw [if_neg (Nat.not_le.mpr there)]
  exact ite_not _ _ _

/-- A stack with its operation no longer in progress. -/
def State.testLeft (s : State) (i : Nat) : State :=
  { s with dram := { s.dram with testing := s.dram.testing.filter fun t => t.1 != i } }

section
variable (busy : s.dram.testing.find? (fun t => t.1 == i) = some (i, op))
include busy

/-- An operation that completes has its effect. -/
theorem State.testEnd_done {u : State} (done : u = (s.testLeft i).testStatus i 2 0) :
    s.testEnd i 2 = if op = 1
      then { u with dram := { u.dram with wrapper := Sparse.put 0 u.dram.wrapper i (u.fld HBM_TEST_CTRL.instruction i) } }
      else if op = 2 then ({ u with free := u.free + 1 } : State).wr .HBM_TEST_DATA i 0 (Config.freeValue u.free)
      else (u.recordRepair (u.testRow i) (if op = 4 then 2 else 1)).showRepairs i := by
  subst done
  unfold State.testEnd
  rw [busy]
  exact if_neg (not_not_intro rfl)

/-- An operation that fails or times out shows it, and is an event. -/
theorem State.testEnd_stopped {st : Nat} (stopped : st ≠ 2) :
    s.testEnd i st = ((s.testLeft i).testStatus i st 0).raise 9 6 i 0 := by
  unfold State.testEnd
  rw [busy]
  exact if_pos stopped

end

end

end Sys2Proof.Machine
end

section
open Sys2Proof.Machine

/-- Settles O45, by the start of an operation and by its end, done or not. -/
theorem repairAndTest : Obligations.RepairAndTest := by
  refine ⟨?start, ?done, ?stopped⟩
  case start =>
    intro i op c s u takes link there mem shown
    exact exec_next_of_stackWritten (exec_of_testOperation mem s) takes link (State.testStart_eq there shown)
  case done =>
    intro i op s u up busy done
    exact exec_next_of_live rfl up (State.testEnd_done busy done)
  case stopped =>
    rintro i op s u up busy rfl
    exact ⟨exec_next_of_live rfl up (State.testEnd_stopped busy (by decide)),
      exec_next_of_live rfl up (State.testEnd_stopped busy (by decide))⟩

end

section
/-! SUPPORT. Packets that arrive: what a link's counts leave alone, the packets of this package in their flow's order, and the way on of
those of another (R317 to R330, R342). -/

namespace Sys2Proof.Machine

/-! ### What the counts of an arrival leave alone (R352) -/

/-- A register of another kind reads as before, wherever the counter stands. -/
theorem State.rd_bump_other (s : State) {f : Fld} {k : RegKind} {i j n i' j' : Nat} (h : k ≠ f.kind) (hi : i' < 65536)
    (hj : j' < 65536) : (s.bump f i j n).rd k i' j' = s.rd k i' j' := by
  unfold State.bump
  split
  · rfl
  · exact s.rd_wr_other _ h hi hj

/-- The registers in which a link counts what it receives. -/
def RegKind.ofArrivals : RegKind → Bool
  | .FAB_LINK_PERF_RX_BYTES | .FAB_LINK_PERF_FEC => true
  | _ => false

section
variable (s : State) (p : Packet)

@[simp] theorem State.countArrival_fab : (s.countArrival p).fab = s.fab := by simp [State.countArrival]

theorem State.rd_countArrival {k : RegKind} {i j : Nat} (h : k.ofArrivals = false) (hi : i < 65536) (hj : j < 65536) :
    (s.countArrival p).rd k i j = s.rd k i j := by
  rw [State.countArrival, State.rd_bump_other _ (by rintro rfl; cases h) hi hj, State.rd_bump_other _ (by rintro rfl; cases h) hi hj]

theorem State.fld_countArrival {f : Fld} (h : f.kind.ofArrivals = false) : (s.countArrival p).fld f = s.fld f :=
  congrArg (bits · _ _) (s.rd_countArrival p h (by decide) (by decide))

@[simp] theorem State.physId_countArrival : (s.countArrival p).physId = s.physId := s.fld_countArrival p rfl

@[simp] theorem State.flow_countArrival (dst cls : Nat) : (s.countArrival p).flow dst cls = s.flow dst cls := by
  simp [State.flow]

@[simp] theorem State.inflow_countArrival (src cls : Nat) : (s.countArrival p).inflow src cls = s.inflow src cls := by
  simp [State.inflow]

theorem State.inSlice_countArrival {src : Nat} (small : src < 2 ^ 16) : (s.countArrival p).inSlice src = s.inSlice src := by
  rw [State.inSlice, s.rd_countArrival p rfl (by omega) (by decide), State.inSlice]

end

/-! ### Packets for this package (R318, R320, R341) -/

/-- The source of a good packet is a package. -/
theorem packetGood_src {q : Packet} (good : packetGood q = true) : q.src < 2 ^ 16 := by
  simp only [packetGood, isPackageId, Bool.and_eq_true, decide_eq_true_eq] at good
  omega

section
variable {s : State} {p q : Packet} {op : Nat} (named : q = { p with op := op }) (link : s.linkUp q.link = true)
  (good : packetGood q = true)
include named link good

/-- A good packet goes on, or is taken where it is for this package. -/
theorem State.arrive_good :
    s.arrive op p = if q.dst ≠ s.physId then (s.countArrival q).forward q else (s.countArrival q).takePacket q := by
  subst named
  simp only [State.arrive, link, State.route, good, State.physId_countArrival, Bool.not_true, Bool.false_eq_true, if_false]

section
variable (here : q.dst = s.physId) (slice : s.inSlice q.src = true)
include here slice

/-- A packet from a package of the slice is taken by its kind. -/
theorem State.arrive_taken : s.arrive op p =
    if q.op = 0x10 then (s.countArrival q).ackArrival q.src q.func q.seq
    else if q.op = 0x0A then (s.countArrival q).statusArrival q
    else (s.countArrival q).sequence q := by
  have member : (s.countArrival q).inSlice q.src = true := (s.inSlice_countArrival q (packetGood_src good)).trans slice
  rw [State.arrive_good named link good, if_neg (not_not_intro here)]
  simp [State.takePacket, member]

/-- A packet of a numbered operation comes in its flow's order. -/
theorem State.arrive_sequenced (notAck : op ≠ 0x10) (notStatus : op ≠ 0x0A) : s.arrive op p = (s.countArrival q).sequence q := by
  rw [State.arrive_taken named link good here slice, named, if_neg notAck, if_neg notStatus]

end

end

/-! ### Inbound flows (R320, R323) -/

theorem State.inflow_key {s : State} {f : InFlow} {src cls : Nat} (h : s.inflow src cls = some f) : f.src = src ∧ f.cls = cls := by
  have found := List.find?_some h
  simpa using found

/-- What takes the place of the elements of a key, or joins the list as the first of them, is the one found by the key. -/
theorem find?_replace_or_append {α : Type} {p : α → Bool} {x : α} (own : p x = true) (l : List α) :
    (if l.any p then l.map (fun y => if p y then x else y) else l ++ [x]).find? p = some x := by
  induction l with
  | nil => simp [own]
  | cons y l ih =>
    cases hit : p y with
    | true => simp [hit, own]
    | false =>
      rw [List.any_cons, hit, Bool.false_or]
      split
      · rename_i later
        rw [if_pos later] at ih
        rw [List.map_cons, hit, List.find?_cons_of_neg (by simp [hit])]
        exact ih
      · rename_i none
        rw [if_neg none] at ih
        rw [List.cons_append, List.find?_cons_of_neg (by simp [hit]), ih]

/-- An inbound flow kept is the one found. -/
theorem State.inflow_setInflow (s : State) (f : InFlow) : (s.setInflow f).inflow f.src f.cls = some f := by
  have same : (fun g : InFlow => if g.src = f.src ∧ g.cls = f.cls then f else g) =
      fun g => if g.src == f.src && g.cls == f.cls then f else g := by funext g; simp
  simp only [State.inflow, State.setInflow, same]
  exact find?_replace_or_append (p := fun g : InFlow => g.src == f.src && g.cls == f.cls) (by simp) _

/-- An inbound flow that has taken the number it expected, with a packet that waits to be performed. -/
def InFlow.took (f : InFlow) (q : Packet) : InFlow := { f with expected := seqNext q.seq, queue := [q] }

theorem seqAhead_self (n : Nat) : seqAhead n n = 0 := by
  unfold seqAhead
  omega

theorem takeHeld_of_held_nil {f : InFlow} (none : f.held = []) (n : Nat) : takeHeld f n = f := by
  cases n with
  | zero => rfl
  | succ n => simp [takeHeld, none]

section
variable {s : State} {src cls n : Nat} {f : InFlow} {p : Packet} {rest : List Packet} (flow : s.inflow src cls = some f)
  (queue : f.queue = p :: rest)
include flow queue

/-- A request is performed where its turn has come and no port waits. -/
theorem State.serveFlow_request {t : State} (request : cls = clsReq) (ports : s.fab.portWaits = [])
    (performed : s.performHead f p rest = some t) (free : t.fab.portWaits = []) :
    s.serveFlow src cls (n + 1) = t.serveFlow src cls n := by
  have released : ∀ g : Nat × Nat → Bool, t.fab.portWaits.filter g = t.fab.portWaits := fun g => by rw [free]; rfl
  rw [State.serveFlow, flow]
  simp only [queue, request, performed, ports, List.any_nil, Bool.false_eq_true, if_true, if_false, released]

/-- A packet of another class is handed over and acknowledged. -/
theorem State.serveFlow_other (other : cls ≠ clsReq) : s.serveFlow src cls (n + 1) =
    (((s.setInflow { f with queue := rest }).takeOther p).sendAck src cls p.seq).serveFlow src cls n := by
  rw [State.serveFlow, flow]
  simp only [queue, if_neg other]

end

section
variable {s : State} {f : InFlow} {q : Packet} (flow : s.inflow q.src (opClass q.op) = some f)
include flow

theorem State.inflow_setInflow_took : (s.setInflow (f.took q)).inflow q.src (opClass q.op) = some (f.took q) := by
  obtain ⟨src, cls⟩ := State.inflow_key flow
  rw [← src, ← cls]
  exact s.inflow_setInflow (f.took q)

variable (gen : f.gen = q.gen) (next : f.expected = q.seq) (held : f.held = []) (empty : f.queue = [])
include gen next held empty

/-- The number that a flow expects is taken, and the flow is served. -/
theorem State.sequence_expected : s.sequence q = (s.setInflow (f.took q)).serveFlow q.src (opClass q.op) 1 := by
  have inOrder : seqAhead q.seq f.expected = 0 := by rw [next, seqAhead_self]
  have below : ¬ (0 : Nat) ≥ 2 ^ 31 := by decide
  simp only [State.sequence, flow, if_pos gen, inOrder, if_neg below, if_true, empty, List.nil_append]
  rw [takeHeld_of_held_nil (by exact held), next]
  rfl

/-- A packet of another class than REQ is handed over and acknowledged. -/
theorem State.sequence_other (other : opClass q.op ≠ clsReq) : s.sequence q =
    (((s.setInflow (f.took q)).setInflow { f.took q with queue := [] }).takeOther q).sendAck q.src (opClass q.op) q.seq := by
  rw [State.sequence_expected flow gen next held empty, State.serveFlow_other (State.inflow_setInflow_took flow) rfl other]
  rfl

/-- A request is performed where its turn has come and no port waits. -/
theorem State.sequence_request {t : State} (request : opClass q.op = clsReq) (ports : s.fab.portWaits = [])
    (performed : (s.setInflow (f.took q)).performHead (f.took q) q [] = some t) (free : t.fab.portWaits = []) :
    s.sequence q = t := by
  rw [State.sequence_expected flow gen next held empty,
    State.serveFlow_request (State.inflow_setInflow_took flow) rfl request ports performed free]
  rfl

end

/-! ### Requests of the combining table (R320, R333, R338) -/

section
variable (s : State)

theorem State.portWaits_track (line package requester words : Nat) :
    (s.track line package requester words).2.fab.portWaits = s.fab.portWaits := by
  simp only [State.track]
  repeat' split
  all_goals rfl

@[simp] theorem State.ndc_fab (die row n : Nat) : (s.ndc die row n).fab = s.fab := by
  simp only [State.ndc]
  split
  · rfl
  · split
    · rw [(State.calm_raise _ _ _ _ _).fab]
      exact s.bump_fab _ _ _ _
    · exact s.bump_fab _ _ _ _

theorem State.portWaits_countNdc (p : Packet) (package line : Nat) (hit : Bool) :
    (s.countNdc p package line hit).fab.portWaits = s.fab.portWaits := by
  have tracked : (s.track line package p.requester (writtenWords p)).2.showTracks.fab.portWaits = s.fab.portWaits := by
    simp only [State.showTracks, State.setFld_fab, State.portWaits_track]
  simp only [State.countNdc]
  split
  · rfl
  · split
    · rw [State.bump_fab, State.ndc_fab, tracked]
    · exact tracked

theorem State.portWaits_enterTable (p : Packet) (src : Source) : (s.enterTable p src).fab.portWaits = s.fab.portWaits := by
  unfold State.enterTable
  extract_lets line
  split
  · rw [State.portWaits_countNdc, State.bump_fab]
  · rw [State.portWaits_countNdc]

end

section
variable {s : State} {q : Packet}

/-- Whether a request finds its place depends on the table alone. -/
theorem State.tableTakes_congr {t : State} (table : t.fab.table = s.fab.table) (self : t.physId = s.physId) (p : Packet) (src : Source) :
    t.tableTakes p src = s.tableTakes p src := by
  simp only [State.tableTakes, State.mergeTarget, State.lastEntry, State.overtakes, table, self]

/-- A request to memory from a package of the slice goes through the combining table, but during a pour (R320, R341, R389). -/
theorem State.directRequest_none (calm : s.flag CST_STATE.pouring = false) (memory : isRegister q.addr = false)
    (aligned : q.op ≤ 3 ∨ q.addr % 8 = 0) : s.directRequest q true = none := by
  have word : ¬ ((q.op = 4 ∨ q.op = 5) ∧ q.addr % 8 ≠ 0) := by omega
  simp [State.directRequest, calm, memory, word]

/-- A request that finds its place in the table is performed by entering it. -/
theorem State.performHead_enters {f : InFlow} {rest : List Packet} (through : s.directRequest q (s.inSlice q.src) = none)
    (room : s.tableTakes q (sourceOf q) = true) : s.performHead f q rest =
    some ((s.setInflow { f with queue := rest, inTable := f.inTable ++ [q.seq] }).enterTable q (sourceOf q)) := by
  simp [State.performHead, through, room]

end

/-- A request to memory that comes in its flow's order enters the table where it finds its place (R320, R333). -/
theorem State.sequence_enters {s : State} {f : InFlow} {q : Packet} (flow : s.inflow q.src (opClass q.op) = some f) (gen : f.gen = q.gen)
    (next : f.expected = q.seq) (held : f.held = []) (empty : f.queue = []) (request : opClass q.op = clsReq)
    (ports : s.fab.portWaits = []) (slice : s.inSlice q.src = true) (calm : s.flag CST_STATE.pouring = false)
    (memory : isRegister q.addr = false) (aligned : q.op ≤ 3 ∨ q.addr % 8 = 0) (room : s.tableTakes q (sourceOf q) = true) :
    s.sequence q = ((s.setInflow (f.took q)).setInflow
      { f with expected := seqNext q.seq, inTable := f.inTable ++ [q.seq] }).enterTable q (sourceOf q) := by
  have left : ({ f with expected := seqNext q.seq, inTable := f.inTable ++ [q.seq] } : InFlow) =
      { f.took q with queue := [], inTable := (f.took q).inTable ++ [q.seq] } := by rw [InFlow.took, ← empty]
  have member : (s.setInflow (f.took q)).inSlice q.src = true := slice
  have through : (s.setInflow (f.took q)).directRequest q ((s.setInflow (f.took q)).inSlice q.src) = none := by
    rw [member]
    exact State.directRequest_none calm memory aligned
  rw [left]
  exact State.sequence_request flow gen next held empty request ports (State.performHead_enters through room)
    ((State.portWaits_enterTable _ _ _).trans ports)

/-! ### Packets for another package (R318, R326, R329; log 62) -/

/-- A packet of this slice goes on by the link its router chooses. -/
theorem State.forward_on {s : State} {p q : Packet} {target l : Nat} {picks : List ((Nat × Nat × Nat × Nat) × Nat)}
    (own : p.slice = s.fld FAB_ID.slice) (heads : s.heading p.dst = some target) (away : target ≠ s.physId) (few : p.hops < 5)
    (way : s.forwardLink p target = some (l, q, picks)) :
    s.forward p = ({ s with fab := { s.fab with picks := picks } } : State).queueAt l { q with transit := false } := by
  have mine : (p.slice != s.fld FAB_ID.slice) = false := by simp [own]
  simp only [State.forward, heads, if_neg away, if_neg (Nat.not_le.mpr few), way, mine]
  rfl

end Sys2Proof.Machine
end

section
open Sys2Proof.Machine

/-- Settles O48: a packet for another package by its forwarding, one for this package by its flow's next number. -/
theorem packetsArrive : Obligations.PacketsArrive := by
  refine ⟨?forwarded, ?request, ?message⟩
  case forwarded =>
    rintro p q s u target l picks up link good elsewhere rfl heads away few way slice
    refine exec_next_of_live rfl up ?_
    rw [State.arrive_good (op := p.op) rfl link good, if_pos elsewhere]
    exact State.forward_on (slice.trans (s.fld_countArrival p rfl).symm) heads (by rwa [State.physId_countArrival]) few way
  case request =>
    rintro op c p q s u v f up mem named link good here - slice calm memory aligned flow gen next - held empty ports room rfl rfl
    obtain ⟨arrives, low, high⟩ : exec c s = live s (s.arrive op p) ∧ 1 ≤ op ∧ op ≤ 5 := by
      simp only [List.mem_cons, Prod.mk.injEq, List.not_mem_nil, or_false] at mem
      rcases mem with ⟨rfl, rfl⟩ | ⟨rfl, rfl⟩ | ⟨rfl, rfl⟩ | ⟨rfl, rfl⟩ | ⟨rfl, rfl⟩ <;>
        exact ⟨rfl, by decide, by decide⟩
    have operation : q.op = op := by rw [named]
    have request : opClass q.op = clsReq := if_pos (by omega)
    have flow' : (s.countArrival q).inflow q.src (opClass q.op) = some f := by rw [State.inflow_countArrival, request]; exact flow
    have takes : (s.countArrival q).tableTakes q (sourceOf q) = true :=
      (State.tableTakes_congr (by rw [State.countArrival_fab]) (s.physId_countArrival q) q (sourceOf q)).trans room
    refine exec_next_of_live arrives up ?_
    rw [State.arrive_sequenced named link good here slice (by omega) (by omega)]
    exact State.sequence_enters flow' gen next held empty request (by rw [State.countArrival_fab, ports])
      ((s.inSlice_countArrival q (packetGood_src good)).trans slice) ((congrArg (· != 0) (s.fld_countArrival q rfl)).trans calm)
      memory (operation ▸ aligned) takes
  case message =>
    rintro op c p q effect s u v f up mem named link good here - slice flow gen next - held empty rfl rfl
    obtain ⟨arrives, message, taken⟩ : exec c s = live s (s.arrive op p) ∧ 0x11 ≤ op ∧
        ∀ t : State, t.takeOther q = effect t := by
      simp only [List.mem_cons, Prod.mk.injEq, List.not_mem_nil, or_false] at mem
      rcases mem with ⟨rfl, rfl, rfl⟩ | ⟨rfl, rfl, rfl⟩ | ⟨rfl, rfl, rfl⟩ <;> subst named <;>
        exact ⟨rfl, by decide, fun t => rfl⟩
    have operation : q.op = op := by rw [named]
    have control : opClass q.op = clsCtl := (if_neg (by omega)).trans (if_neg (by omega))
    have flow' : (s.countArrival q).inflow q.src (opClass q.op) = some f := by rw [State.inflow_countArrival, control]; exact flow
    refine exec_next_of_live arrives up ?_
    rw [State.arrive_sequenced named link good here slice (by omega) (by omega),
      State.sequence_other flow' gen next held empty (by rw [control]; decide), taken, control]
    rfl

end

section
/-! SUPPORT. Flows of this package: requests that leave, packets sent again, and what acknowledgements, answers and STATUS packets end
(R213, R318 to R323, R331, R332). -/

namespace Sys2Proof.Machine

/-! ### Injection (R322, R344) -/

section
variable {s : State} {r : Request} {rest : List Request}

/-- A request for another package leaves on its flow where the store has room. -/
theorem State.injectOne_launches (numbered : r.op ≠ 0x12 ∨ r.dst ≠ 0xFFFF) (away : s.target r ≠ s.physId)
    (room : s.hasRoom (s.target r) (opClass r.op) = true) :
    s.injectOne r = some (s.launch (requestPacket r (s.target r)) r.backward r.stream) := by
  have notOwn : ¬ (r.op = 0x12 ∧ r.dst = 0xFFFF) := not_and_or.mpr numbered
  simp only [State.injectOne, if_neg notOwn, if_neg away, room, if_true]

/-- The oldest request goes where it may and can. -/
theorem State.inject_first {t : State} (queue : s.fab.reqQ = r :: rest) (may : s.mayGo [] r = true)
    (injected : ({ s with fab := { s.fab with reqQ := rest } } : State).injectOne r = some t) : s.inject = t.pollFences := by
  simp only [State.inject, queue, State.injectFrom, may, if_true, List.nil_append, injected]

end

/-! ### Sending again (R322, R323) -/

section
variable {s : State} {peer cls : Nat} {u : Unacked} {us : List Unacked} (waiting : (s.flow peer cls).unacked = u :: us)
include waiting

/-- After the retries the flow is unreachable. -/
theorem State.retransmit_gives_up (often : s.fld FAB_RETX_CFG.retries ≤ u.again) :
    s.retransmit peer cls = s.unreachable (s.flow peer cls) := by
  simp only [State.retransmit, waiting, ge_iff_le, if_pos often]

section
variable (again : u.again < s.fld FAB_RETX_CFG.retries)
include again

/-- Before that, a flow with a path in service sends again on it. -/
theorem State.retransmit_routed (routed : (s.flow peer cls).routed = true) : s.retransmit peer cls = s.resend (s.flow peer cls) := by
  simp only [State.retransmit, waiting, ge_iff_le, if_neg (Nat.not_le.mpr again), routed, if_true]

/-- A flow without one takes the best path left first. -/
theorem State.retransmit_unrouted (unrouted : (s.flow peer cls).routed = false) :
    s.retransmit peer cls = (s.settlePath (s.flow peer cls)).2.resend (s.settlePath (s.flow peer cls)).1 := by
  simp only [State.retransmit, waiting, ge_iff_le, if_neg (Nat.not_le.mpr again), unrouted, Bool.false_eq_true, if_false]

end

end

/-- A flow sends its unacknowledged packets again, on its path, with their tries counted. -/
theorem State.resend_eq (s : State) (f : Flow) {us : List Unacked}
    (again : us = f.unacked.map fun u => { u with again := u.again + 1, packet := { u.packet with via := f.via } }) :
    s.resend f = us.foldl (fun a u => a.emitFlow f u.packet)
      ((s.setFlow { f with unacked := us }).bump FAB_PERF_RETX.count 0 0 f.unacked.length) := by
  subst again
  simp only [State.resend, List.length_map]

/-! ### Acknowledgements (R213, R321, R331) -/

/-- A packet that is acknowledged without a failure completes: a store or an atomic is told to its salter thread. -/
theorem State.completeSent_ok (s : State) (u : Unacked) :
    s.completeSent u 0 = if u.packet.op = 2 ∨ u.packet.op = 3 then s.threadAnswered u.packet.requester else s := by
  simp [State.completeSent]

/-- An ACK of a REQ flow without failures frees what it covers, and ends the fences that waited for nothing else. -/
theorem State.ackArrival_frees {s t : State} {src seq : Nat} {f : Flow} (flow : s.flow src clsReq = f) (sound : f.failed = [])
    (covers : f.unacked.any (fun u => seqLe u.packet.seq seq) = true)
    (told : t = (f.unacked.filter fun x => seqLe x.packet.seq seq).foldl
      (fun a x => if x.packet.op = 2 ∨ x.packet.op = 3 then a.threadAnswered x.packet.requester else a)
      (s.setFlow { f with unacked := f.unacked.filter fun u => !(seqLe u.packet.seq seq) })) :
    s.ackArrival src clsReq seq =
      ({ t with fab := { t.fab with fences := t.fab.fences.map fun g => g.reach src (some seq) } } : State).settleFences := by
  have some' : (f.unacked.filter fun u => seqLe u.packet.seq seq).isEmpty = false := by
    rw [List.isEmpty_eq_false_iff_exists_mem]
    obtain ⟨u, mem, covered⟩ := List.any_eq_true.mp covers
    exact ⟨u, List.mem_filter.mpr ⟨mem, covered⟩⟩
  have left : ({ f with unacked := f.unacked.filter fun u => !(seqLe u.packet.seq seq), failed := [] } : Flow) =
      { f with unacked := f.unacked.filter fun u => !(seqLe u.packet.seq seq) } := by rw [← sound]
  subst told
  simp only [State.ackArrival, flow, some', Bool.false_eq_true, if_false, if_true, sound, List.filter_nil, List.lookup_nil,
    Option.getD_none, State.completeSent_ok, left]

/-! ### Answers and STATUS packets (R318, R320, R321; log 21) -/

/-- A request of a requester is answered: it waits no longer, and its salter thread goes on (R213). -/
def State.answered (s : State) (a : Packet) (stream : Nat) : State :=
  ({ s with fab := { s.fab with awaiting := s.fab.awaiting.erase (a, stream) } } : State).threadAnswered a.requester

section
variable {s : State} {q a : Packet} {stream : Nat}

/-- The oldest request of its requester to its place takes the data or the old value. -/
theorem State.takeResponse_found (found : s.fab.awaiting.find? (fun x => x.1.dst == q.src && x.1.requester == q.requester &&
      x.1.addr == q.addr && (x.1.op == 1) == (q.op == 8)) = some (a, stream)) :
    s.takeResponse q = if q.op = 8 then (s.answered a stream).answer a stream (if q.mask % 16 ≠ 0 then 3 else q.func % 16)
        (q.payload.zip ((List.range 128).map fun i => q.mask / 2 ^ (i / 32) % 2 == 1))
      else { s.answered a stream with compl := (.ok, q.payload.take 8) } := by
  simp only [State.takeResponse, found, State.answered]

section
variable {f : Flow} (flow : s.flow q.src clsReq = f)
include flow

/-- A STATUS of a request already named as failed is a duplicate. -/
theorem State.statusArrival_again (again : f.failed.any (fun x => x.1 == q.seq) = true) :
    s.statusArrival q = s.bump FAB_PERF_DUP.count 0 0 1 := by
  simp only [State.statusArrival, flow, again, Bool.or_true, if_true]

section
variable (sent : f.unacked.any (fun x => x.packet.seq == q.seq) = true) (first : f.failed.any (fun x => x.1 == q.seq) = false)
  {v : State} (noted : v = s.setFlow { f with failed := f.failed ++ [(q.seq, q.func % 16)] })
include sent first noted

/-- A STATUS of a request that waits for its answer ends it. -/
theorem State.statusArrival_answers (found : s.fab.awaiting.find? (fun x => x.1.dst == q.src && x.1.seq == q.seq) = some (a, stream)) :
    s.statusArrival q =
      ({ v with fab := { v.fab with awaiting := v.fab.awaiting.erase (a, stream) } } : State).answer a stream (q.func % 16) [] := by
  subst noted
  simp only [State.statusArrival, flow, sent, first, Bool.not_true, Bool.or_self, Bool.false_eq_true, if_false]
  rw [show (s.setFlow _).fab.awaiting = s.fab.awaiting from rfl, found]

/-- A STATUS of another request is noted alone. -/
theorem State.statusArrival_unanswered (none : s.fab.awaiting.find? (fun x => x.1.dst == q.src && x.1.seq == q.seq) = none) :
    s.statusArrival q = v := by
  subst noted
  simp only [State.statusArrival, flow, sent, first, Bool.not_true, Bool.or_self, Bool.false_eq_true, if_false]
  rw [show (s.setFlow _).fab.awaiting = s.fab.awaiting from rfl, none]

end

end

end

/-- A fence past its limit ends, with an event (R332). -/
theorem State.fenceTimeout_ends {s : State} {id : Nat} {f : Fence} (found : s.fab.fences.find? (fun f => f.id == id) = some f) :
    s.fenceTimeout id = ((s.endFence f .timeout).fabEvent 3 0 16 0 0).pollFences := by
  simp only [State.fenceTimeout, found]

end Sys2Proof.Machine
end

section
open Sys2Proof.Machine

/-- Settles O49: a request by the room of its flow, a timeout by the tries made, and an arrival by what of its flow it names. -/
theorem flowsCarryRequests : Obligations.FlowsCarryRequests := by
  refine ⟨?leaves, ?timeout, ?ack, ?answer, ?status, ?fence⟩
  case leaves =>
    rintro s u r rest up queue rfl may numbered away room
    exact exec_next_of_live rfl up (State.inject_first queue may (State.injectOne_launches numbered away room))
  case timeout =>
    rintro peer cls s f u us up rfl waiting
    refine ⟨fun often => exec_next_of_live rfl up (State.retransmit_gives_up waiting often), fun again routed => ?_,
      fun again unrouted => exec_next_of_live rfl up (State.retransmit_unrouted waiting again unrouted)⟩
    refine exec_next_of_live rfl up ((State.retransmit_routed waiting again routed).trans ?_)
    rw [s.resend_eq _ rfl, waiting, List.length_cons]
  case ack =>
    rintro p q s u v f up named link good here - slice cls rfl sound covers rfl rfl
    refine exec_next_of_live (u := s.arrive 0x10 p) rfl up ?_
    rw [State.arrive_taken named link good here slice, if_pos (by rw [named]), cls]
    exact State.ackArrival_frees (s.flow_countArrival q q.src 0) sound covers rfl
  case answer =>
    rintro op c p q a stream s u v w f up mem named link good here - slice flow gen next - held empty found rfl rfl rfl
    obtain ⟨arrives, answer⟩ : exec c s = live s (s.arrive op p) ∧ (op = 8 ∨ op = 9) := by
      simp only [List.mem_cons, Prod.mk.injEq, List.not_mem_nil, or_false] at mem
      rcases mem with ⟨rfl, rfl⟩ | ⟨rfl, rfl⟩
      · exact ⟨rfl, .inl rfl⟩
      · exact ⟨rfl, .inr rfl⟩
    have operation : q.op = op := by rw [named]
    have response : opClass q.op = clsRsp := (if_neg (by omega)).trans (if_pos (by omega))
    have flow' : (s.countArrival q).inflow q.src (opClass q.op) = some f := by rw [State.inflow_countArrival, response]; exact flow
    refine exec_next_of_live arrives up ?_
    rw [State.arrive_sequenced named link good here slice (by omega) (by omega),
      State.sequence_other flow' gen next held empty (by rw [response]; decide), State.takeOther, if_pos response,
      State.takeResponse_found (a := a) (stream := stream) ?_, response, operation]
    · rfl
    · rw [operation]
      exact (congrArg (List.find? _ ·.awaiting) (s.countArrival_fab q)).trans found
  case status =>
    rintro p q a stream s u v f up named link good here - slice rfl rfl noted
    have arrives : s.arrive 0x0A p = (s.countArrival q).statusArrival q := by
      rw [State.arrive_taken named link good here slice, named]
      rfl
    have flow := s.flow_countArrival q q.src 0
    have awaiting : (s.countArrival q).fab.awaiting = s.fab.awaiting := congrArg Fab.awaiting (s.countArrival_fab q)
    exact ⟨fun sent first found => exec_next_of_live rfl up
        (arrives.trans (State.statusArrival_answers flow sent first noted (awaiting ▸ found))),
      fun sent first none => exec_next_of_live rfl up
        (arrives.trans (State.statusArrival_unanswered flow sent first noted (awaiting ▸ none))),
      fun again => exec_next_of_live rfl up (arrives.trans (State.statusArrival_again flow again))⟩
  case fence =>
    intro id s f up found
    exact exec_next_of_live rfl up (State.fenceTimeout_ends found)

end

section
/-! SUPPORT. The combining table's entries applied, a line stored in array SRAM, the detector's window, reports and what is gathered (R78,
R295, R320, R326, R333 to R335, R337, R347). -/

namespace Sys2Proof.Machine

/-! ### Entries applied (R320, R333 to R335) -/

/-- The owner code under which an entry reaches memory: its first source's. -/
def Entry.owner (e : Entry) : Nat := ownerOf ((e.sources.map (·.requester)).headD 0)

/-- The line has lost its head entry; its next one goes to memory. -/
def State.popEntry (s : State) (line : Nat) (e : Entry) : State :=
  { s with fab := { s.fab with table := startNext line (s.fab.table.erase e) } }

/-- What an atomic's read has met is no read of a requester. -/
def State.metBy (s : State) (e : Entry) : State := (s.meetAtomic e).mapWindow fun w => { w with poisoned := s.obs.window.poisoned }

/-- What an entry makes of its line goes to memory. -/
def State.putEntry (s : State) (line : Nat) (e : Entry) (cells : List (Option Byte)) : State :=
  if cells.any (·.isSome) then ((s.mendAtomic e).memWrite line cells e.owner (s.entryDie e)).1 else s.idleAtomic e

/-- An entry other than of loads, whose turn has come and whose banks are open, goes to memory, and its requests are committed. -/
theorem State.applyHead_writes {s : State} {line : Nat} {e : Entry} {cells : List (Byte × Bool)}
    {out : List (Option Byte) × Nat × List Byte × List Exc} (found : s.fab.table.find? (fun e => e.line == line) = some e)
    (turn : s.entryTurn e = true) (noLoad : e.op ≠ 1) (gate : s.memGate line 128 e.owner = .opened)
    (peeked : cells = ((s.popEntry line e).meetAtomic e).peekLine line) (applied : out = applyEntry e cells) :
    s.applyHead line = e.sources.foldl (fun a src => a.commitRequest src e.op
      (if e.op = 4 ∨ e.op = 5 then line + e.off else line) out.2.1 cells out.2.2.1)
      ((((s.popEntry line e).metBy e).putEntry line e out.1).recordAtomic out.2.2.2) := by
  subst applied peeked
  unfold State.applyHead
  rw [found]
  dsimp only
  rw [turn, if_neg (by decide)]
  have code : e.owner = ownerOf ((e.sources.map (·.requester)).headD 0) := rfl
  unfold State.putEntry
  rw [code] at gate ⊢
  cases sources : e.sources
  all_goals
    rw [sources] at gate
    simp only [List.map_cons, List.map_nil, List.headD_cons, List.headD_nil] at gate
    rw [gate]
    dsimp only
    rw [if_neg noLoad]
    rfl

/-! ### A line stored in array SRAM (R78, R290, R333) -/

theorem outsideMemory_fab : OutsideMemory State.fab := by
  constructor
  case wr => exact fun s k i j v _ => s.wr_fab k i j v
  case calm => exact fun h => h.fab
  all_goals intros; rfl

/-- A span of bytes put into an array's SRAM is written where it lies. -/
theorem State.sramPut_mem (s : State) (a off : Nat) (bs : List Byte) :
    (s.sramPut a off (bs.map some)).mem = (s.setBytes (sramKey a off) bs).mem := by
  have same : (clean (bs.map some)).length = bs.length := by simp [clean]
  refine (foldl_keeps State.mem (fun t i => t.setPoison ((sramKey a off + i) / 8 * 8)) (fun _ _ => rfl) _ _).trans
    ((State.settleWords_mem _ _).trans ?_)
  rw [same, State.foldl_setByte (k := sramKey a off) (bs := bs) fun t i b hb => by simp [clean, hb]]

/-- An array's banks and state decide whether its SRAM answers. -/
theorem State.memGate_sram (s : State) {line a off : Nat} (place : sramPlace line = some (a, off)) (len code : Nat) :
    s.memGate line len code = if off + len > 0x100000 then .refused .addrErr else s.sramGate a off len code := by
  unfold State.memGate
  rw [place]

/-- A write of an array's SRAM goes to it where its gate is open and the array runs (R34, R90). -/
theorem State.memWrite_sram {s : State} {line a off code : Nat} {cells : List (Option Byte)} (place : sramPlace line = some (a, off))
    (runs : s.pwr.halted = false) (gate : s.memGate line cells.length code = .opened) (die : Nat) :
    s.memWrite line cells code die = (s.sramPut a off cells, .opened) := by
  unfold State.memWrite
  rw [gate, place]
  dsimp only
  rw [runs, if_neg Bool.false_ne_true]

theorem maskBit_all {i : Nat} (h : i < 128) : maskBit (2 ^ 128 - 1) i = true := by
  have all : ∀ i < 128, maskBit (2 ^ 128 - 1) i = true := by decide +kernel
  exact all i h

/-- A store reads no word. -/
theorem Entry.spans_of_store {e : Entry} (store : e.op = 2) : e.spans = [] := if_pos (by omega)

section
variable {line a off : Nat} {e : Entry} (store : e.op = 2)
include store

theorem State.meetAtomic_store (s : State) (place : sramPlace e.line = some (a, off)) : s.meetAtomic e = s := by
  have none : s.upsets.filter (fun u => ([] : List (Nat × Nat)).any fun sp => sp.2 != 0 && sramKey a sp.1 / 8 * 8 ≤ u.1 &&
    u.1 < sramKey a sp.1 + sp.2) = [] := by simp
  unfold State.meetAtomic
  rw [place, Entry.spans_of_store store]
  dsimp only
  rw [List.map_nil, State.sramMeet, none]
  rfl

theorem State.mendAtomic_store (s : State) (place : sramPlace e.line = some (a, off)) : s.mendAtomic e = s := by
  have words : e.words = [] := by rw [Entry.words, Entry.spans_of_store store]; rfl
  unfold State.mendAtomic
  rw [place, words]
  rfl

/-- A store of a whole line writes its bytes, whatever the line holds. -/
theorem applyEntry_store (full : e.mask = 2 ^ 128 - 1) (line : e.data.length = 128) (cells : List (Byte × Bool)) :
    applyEntry e cells = (e.data.map some, 0, [], []) := by
  have bytes : (List.range 128).map (fun i => if maskBit e.mask i then some (e.data.getD i 0) else none) = e.data.map some := by
    refine List.ext_getElem (by simp [line]) fun i hi _ => ?_
    have lt : i < 128 := by simpa using hi
    rw [List.getElem_map, List.getElem_range, full, if_pos (maskBit_all lt), List.getElem_map, List.getD_eq_getElem _ _ (line ▸ lt)]
  have whole : ∀ u ∈ List.range 4, (List.range 32).all (fun i => maskBit e.mask (32 * u + i)) = true := fun u hu =>
    List.all_eq_true.mpr fun i hi => by
      rw [full, maskBit_all (by have := List.mem_range.mp hu; have := List.mem_range.mp hi; omega)]
  have noPart : ((List.range 4).any fun u => linePoison cells u && (List.range 32).any (fun i => maskBit e.mask (32 * u + i)) &&
      !((List.range 32).all fun i => maskBit e.mask (32 * u + i))) = false :=
    List.any_eq_false.mpr fun u hu => by simp [whole u hu]
  unfold applyEntry
  rw [if_neg (by omega), if_pos store, bytes, noPart]
  rfl

end

/-- An atomic of no word records nothing. -/
theorem State.recordAtomic_nil (s : State) : s.recordAtomic [] = s := rfl

theorem State.threadAnswered_mem (s : State) (requester : Nat) : (s.threadAnswered requester).mem = s.mem := by
  unfold State.threadAnswered
  extract_lets n b t
  split
  · rfl
  · rw [State.setFld_mem, State.setFld_mem]

theorem State.threadAnswered_fab (s : State) (requester : Nat) : (s.threadAnswered requester).fab = s.fab := by
  unfold State.threadAnswered
  extract_lets n b t
  split
  · rfl
  · rw [State.setFld_fab, State.setFld_fab]

theorem State.threadAnswered_part (s : State) (requester : Nat) : (s.threadAnswered requester).part = s.part := by
  unfold State.threadAnswered
  extract_lets n b t
  split
  · rfl
  · rw [State.setFld_part, State.setFld_part]

/-- With no inbound flow a store that succeeded is committed to its salter thread alone (R213, R321). -/
theorem State.commitRequest_store {s : State} (none : s.fab.inflows = []) (src : Source) (addr : Nat) (data : List (Byte × Bool))
    (old : List Byte) : s.commitRequest src 2 addr 0 data old =
      if src.package = s.physId then s.threadAnswered src.requester else s := by
  have noFlow : s.inflow src.package clsReq = Option.none := by rw [State.inflow, none]; rfl
  unfold State.commitRequest
  split
  · rfl
  · rw [noFlow]
    rfl

/-- With no inbound flow there is nothing to serve. -/
theorem State.serveAll_of_no_inflow {s : State} (none : s.fab.inflows = []) : s.serveAll = s := by
  simp [State.serveAll, none]

/-- With no inbound flow an entry waits for no earlier request. -/
theorem State.entryTurn_of_no_inflow {s : State} (none : s.fab.inflows = []) (e : Entry) : s.entryTurn e = true :=
  List.all_eq_true.mpr fun src _ => by simp [State.inflow, none]

/-- The bytes of a stored line go to the array's SRAM as they stand. -/
theorem State.putEntry_store {s : State} {line a off : Nat} {e : Entry} (place : sramPlace line = some (a, off)) (own : e.line = line)
    (runs : s.pwr.halted = false) (store : e.op = 2) (whole : e.data.length = 128) (gate : s.memGate line 128 e.owner = .opened) :
    s.putEntry line e (e.data.map some) = s.sramPut a off (e.data.map some) := by
  have written : (e.data.map some).any (·.isSome) = true := by
    rw [List.any_map, List.any_eq_true]
    exact ⟨e.data[0], List.getElem_mem _, rfl⟩
  unfold State.putEntry
  rw [if_pos written, State.mendAtomic_store store s (own ▸ place),
    State.memWrite_sram place runs (by rw [List.length_map, whole]; exact gate)]

/-- A store of a whole line of array SRAM: its bytes are written, its entry leaves the table, and the line's next one follows. -/
theorem State.applyHead_stores {s : State} {line a off : Nat} {e : Entry} {src : Source}
    (found : s.fab.table.find? (fun e => e.line == line) = some e) (place : sramPlace line = some (a, off))
    (runs : s.pwr.halted = false) (store : e.op = 2) (full : e.mask = 2 ^ 128 - 1) (whole : e.data.length = 128)
    (one : e.sources = [src]) (gate : s.memGate line 128 (ownerOf src.requester) = .opened) (none : s.fab.inflows = []) :
    ((s.applyHead line).serveAll).mem = (s.setBytes (sramKey a off) e.data).mem ∧
      ((s.applyHead line).serveAll).fab = { s.fab with table := startNext line (s.fab.table.erase e) } ∧
      ((s.applyHead line).serveAll).part = s.part := by
  have own : e.line = line := by simpa using List.find?_some found
  have owner : e.owner = ownerOf src.requester := by rw [Entry.owner, one]; rfl
  have met : (s.popEntry line e).metBy e = (s.popEntry line e).mapWindow fun w => { w with poisoned := s.obs.window.poisoned } := by
    rw [State.metBy, State.meetAtomic_store store _ (own ▸ place)]
    rfl
  have put : ((s.popEntry line e).metBy e).putEntry line e (e.data.map some) =
      ((s.popEntry line e).metBy e).sramPut a off (e.data.map some) := by
    rw [met]
    refine State.putEntry_store place own runs store whole ?_
    rw [owner, State.memGate_sram _ place]
    rw [s.memGate_sram place] at gate
    exact gate
  have applied := State.applyHead_writes found (State.entryTurn_of_no_inflow none e) (by omega) (owner ▸ gate) rfl rfl
  rw [applyEntry_store store full whole, one, State.recordAtomic_nil, put, store, List.foldl_cons, List.foldl_nil] at applied
  have mem := ((s.popEntry line e).metBy e).sramPut_mem a off e.data
  have fab := outsideMemory_fab.sramPutMarked ((s.popEntry line e).metBy e) a off (clean (e.data.map some))
  have part := outsideExchange_part.memory.sramPutMarked ((s.popEntry line e).metBy e) a off (clean (e.data.map some))
  have start : ((s.popEntry line e).metBy e).mem = s.mem := by rw [met]; rfl
  have table : ((s.popEntry line e).metBy e).fab = (s.popEntry line e).fab := by rw [met]; rfl
  have same : ((s.popEntry line e).metBy e).part = s.part := by rw [met]; rfl
  change (State.sramPut _ a off (e.data.map some)).fab = _ at fab
  change (State.sramPut _ a off (e.data.map some)).part = _ at part
  rw [State.setBytes_mem_congr start] at mem
  generalize ((s.popEntry line e).metBy e).sramPut a off (e.data.map some) = w at applied mem fab part
  have noFlow : w.fab.inflows = [] := by rw [fab, table]; exact none
  rw [State.commitRequest_store noFlow] at applied
  have kept : (s.applyHead line).mem = w.mem ∧ (s.applyHead line).fab = w.fab ∧ (s.applyHead line).part = w.part := by
    rw [applied]
    split
    · exact ⟨w.threadAnswered_mem _, w.threadAnswered_fab _, w.threadAnswered_part _⟩
    · exact ⟨rfl, rfl, rfl⟩
  obtain ⟨keptMem, keptFab, keptPart⟩ := kept
  rw [State.serveAll_of_no_inflow (by rw [keptFab, noFlow]), keptMem, keptFab, keptPart]
  exact ⟨mem, fab.trans table, part.trans same⟩

/-! ### The detector's window (R337) -/

/-- A window in which no line reached the threshold leaves no line listed. -/
theorem State.hotWindow_quiet {s : State} (on : s.fld FAB_HOT_CFG.threshold ≠ 0)
    (few : ∀ m ∈ s.fab.merges, m.2 < s.fld FAB_HOT_CFG.threshold) :
    s.hotWindow = (List.range 16).foldl (fun t n => t.wr .FAB_HOT_LINE n 0 0) { s with fab := { s.fab with merges := [] } } := by
  have none : s.fab.merges.filter (fun m => Decidable.decide (m.2 ≥ s.fld FAB_HOT_CFG.threshold)) = [] :=
    List.filter_eq_nil_iff.mpr fun m hm => by have := few m hm; simpa using this
  unfold State.hotWindow
  extract_lets t hot fab u v
  have cold : hot = [] := by
    unfold hot
    rw [if_neg on, none]
    rfl
  rw [if_neg on, cold]
  simp only [v, cold]
  rfl

theorem State.fabEvent_fab (s : State) (code status link peer seq : Nat) : (s.fabEvent code status link peer seq).fab = s.fab :=
  (State.calm_raise _ _ _ _ _).fab.trans (s.wr_fab _ _ _ _)

theorem State.hotWindow_merges (s : State) : s.hotWindow.fab.merges = [] := by
  unfold State.hotWindow
  extract_lets t hot fab u v
  have listed : v.fab = u.fab := foldl_keeps State.fab _ (fun t n => by split <;> exact t.wr_fab _ _ _ _) _ _
  split
  · rfl
  · split
    · rw [listed]
    · rw [State.fabEvent_fab, listed]

/-- What each step of a run over places leaves at its own place, and at those before it, holds of every place in the end. -/
theorem foldl_range_holds {σ : Type} {P : Nat → σ → Prop} {f : σ → Nat → σ} {m : Nat} (sets : ∀ t n, n < m → P n (f t n))
    (keeps : ∀ t n i, n < m → i < n → P i t → P i (f t n)) (s : σ) : ∀ i < m, P i ((List.range m).foldl f s) := by
  induction m with
  | zero => exact fun i hi => absurd hi i.not_lt_zero
  | succ m ih =>
    intro i hi
    rw [List.range_succ, List.foldl_append, List.foldl_cons, List.foldl_nil]
    by_cases last : i = m
    · exact last ▸ sets _ m m.lt_succ_self
    · have before : i < m := by omega
      exact keeps _ m i m.lt_succ_self before (ih (fun t n hn => sets t n (by omega)) (fun t n i hn => keeps t n i (by omega)) i before)

/-- The lines listed by a window in which none reached the threshold. -/
theorem State.rd_hotWindow_quiet {s : State} (on : s.fld FAB_HOT_CFG.threshold ≠ 0)
    (few : ∀ m ∈ s.fab.merges, m.2 < s.fld FAB_HOT_CFG.threshold) : ∀ n < 16, s.hotWindow.rd .FAB_HOT_LINE n = 0 := by
  have range : ∀ n < 16, RegKind.FAB_HOT_LINE.inRange n 0 = true := by decide
  rw [State.hotWindow_quiet on few]
  exact foldl_range_holds (P := fun n (t : State) => t.rd .FAB_HOT_LINE n = 0)
    (fun t n hn => t.rd_wr_same _ _ _ _ (range n hn) rfl)
    (fun t n i hn hi listed => (t.rd_wr_index _ _ _ _ _ _ (.inl hi.ne) (by omega) (by decide) (by omega) (by decide)).trans listed) _

theorem State.hotWindow_part (s : State) : s.hotWindow.part = s.part := by
  unfold State.hotWindow
  extract_lets t hot fab u v
  have listed : v.part = s.part := foldl_keeps State.part _ (fun t n => by split <;> exact t.wr_part _ _ _ _) _ _
  split
  · rfl
  · split
    · exact listed
    · exact (State.calm_raise _ _ _ _ _).part.trans ((v.wr_part _ _ _ _).trans listed)

/-! ### Reports of the routers, and what is gathered (R326, R347) -/

/-- Requests that are sent wait for injection, and show nothing. -/
theorem State.regs_foldl_send (request : Nat → Request) (l : List Nat) (s : State) :
    (l.foldl (fun t d => t.send (request d)) s).regs = s.regs ∧ (l.foldl (fun t d => t.send (request d)) s).part = s.part :=
  ⟨foldl_keeps State.regs (fun t d => t.send (request d)) (fun _ _ => rfl) l s,
    foldl_keeps State.part (fun t d => t.send (request d)) (fun _ _ => rfl) l s⟩

/-- This package's own report shows what the queues of its global links hold. -/
theorem State.ownOccupancy_shows (s : State) : s.ownOccupancy.part = s.part ∧
    ∀ j < 4, s.ownOccupancy.fld FAB_LINK_STATUS.level_occ (12 + j) = min (s.linkOccupancy (12 + j)) 0xFFFF := by
  unfold State.ownOccupancy
  extract_lets x levels shown
  obtain ⟨regs, part⟩ := State.regs_foldl_send (fun d => { op := 0x11, dst := d, requester := 0, addr := routerPort
                                                           payload := occupancyPayload x levels, phys := true })
    (groupMembers (pkgField x) (pkgGroup x) x) shown
  have kept : shown.part = s.part := foldl_keeps State.part _ (fun t j => t.setFld_part _ _ _ _) _ _
  have level : ∀ n < 4, levels.getD n 0 = min (s.linkOccupancy (12 + n)) 0xFFFF := fun n hn => by
    simp [levels, hn]
  refine ⟨part.trans kept, fun j hj => ?_⟩
  have same := State.rd_congr part regs .FAB_LINK_STATUS (12 + j) 0
  refine (congrArg (bits · _ _) same).trans ?_
  refine foldl_range_holds
    (P := fun j (t : State) => t.fld FAB_LINK_STATUS.level_occ (12 + j) = min (s.linkOccupancy (12 + j)) 0xFFFF)
    (fun t n hn => ?_) (fun t n i hn hi shown => ?_) (s.noteOccupancy x levels) j hj
  · have fits : min (s.linkOccupancy (12 + n)) 0xFFFF < 2 ^ 16 := (Nat.min_le_right _ _).trans_lt (by decide)
    rw [level n hn]
    exact t.fld_setFld_unit (n := 16) (by omega) (by decide) fits
  · have other := t.rd_wr_index .FAB_LINK_STATUS (12 + n) 0 (12 + i) 0
    exact (congrArg (bits · _ _) (other _ (.inl (by omega)) (by omega) (by decide) (by omega) (by decide))).trans shown

/-- Another router's report is kept for its four global links. -/
theorem State.reportOccupancy_other {s : State} {pkg : Nat} {levels : List Nat} (four : levels.length = 4) (other : pkg ≠ s.physId) :
    s.reportOccupancy pkg levels = { s with fab := { s.fab with
      occupancy := (s.fab.occupancy.filter fun o => o.1 != pkg) ++ (List.range 4).map fun j => (pkg, 12 + j, levels.getD j 0) } } := by
  rw [State.reportOccupancy, if_neg other, State.noteOccupancy, four]
  rfl

/-- What is gathered for a field is sent. -/
theorem State.flushGateway_sends {s : State} {f : Nat} {p : Nat × Packet} {ps : List (Nat × Packet)}
    (mine : s.fab.gathered.filter (fun g => g.1 == f) = p :: ps) : s.flushGateway f =
    ({ s with fab := { s.fab with
      gathered := s.fab.gathered.filter fun g => g.1 != f
      transfers := s.fab.transfers ++ [(f, (p :: ps).map (·.2))] } } : State).bump FAB_PERF_GW_BULK.count 0 0 1 := by
  unfold State.flushGateway
  rw [mine]
  rfl

end Sys2Proof.Machine
end

section
open Sys2Proof.Machine

/-- Settles O50: an entry by what it makes of its line, a window and a report by what they show, a hold by what it has gathered. -/
theorem tableAppliesInOrder : Obligations.TableAppliesInOrder := by
  refine ⟨?applied, ?stored, ?window, ?report, ?own, ?hold⟩
  case applied =>
    rintro line s u m v e cells out up found turn noLoad gate rfl peeked applied rfl rfl
    refine exec_next_of_live rfl up (congrArg State.serveAll ?_)
    exact State.applyHead_writes found turn noLoad gate peeked applied
  case stored =>
    intro line a off s e src up found place runs store full whole one gate none
    obtain ⟨mem, fab, part⟩ := State.applyHead_stores found place runs store full whole one gate none
    have byte := State.byte_of_mem (s := s.setBytes (sramKey a off) e.data) mem
    refine ⟨_, exec_next_of_live rfl up rfl, ?_, by rw [State.settle_fab, fab], fun k apart => ?_⟩
    · refine (State.bytes_congr fun k _ _ => (State.byte_settle _ _ k).trans (byte k)).trans ?_
      rw [← whole, State.bytes_setBytes_same]
    · rw [State.byte_settle, byte, s.byte_setBytes_apart (by omega)]
  case window =>
    intro s up
    refine ⟨_, exec_next_of_live rfl up rfl, by rw [State.settle_fab, s.hotWindow_merges], fun on few n hn => ?_⟩
    rw [State.rd_settle s _ s.hotWindow_part, State.rd_hotWindow_quiet on few n hn]
  case report =>
    intro pkg levels s up four other
    exact exec_next_of_live rfl up (State.reportOccupancy_other four other)
  case own =>
    intro levels s up
    obtain ⟨part, shown⟩ := s.ownOccupancy_shows
    refine ⟨_, exec_next_of_live rfl up (if_pos rfl), fun j hj => ?_⟩
    rw [State.fld_settle s _ part, shown j hj]
  case hold =>
    intro f s p ps up mine
    exact exec_next_of_live rfl up (State.flushGateway_sends mine)

end

section
/-! SUPPORT. Fence epochs and the unit state table: the walk over the units at an advance, what an advance leaves, and a unit's requests
(R314, R345, R370 to R372). -/

namespace Sys2Proof.Machine

/-! ### Registers by their addresses -/

/-- What an address names is a register of the device. -/
theorem Reg.inRange_of_ofAddr {addr : Nat} {r : Reg} (h : Reg.ofAddr addr = some r) : r.kind.inRange r.i r.j = true := by
  obtain ⟨k, -, located⟩ := List.exists_of_findSome?_eq_some h
  unfold RegKind.locate at located
  extract_lets shape off i rest j at located
  split at located
  · cases located
  · split at located
    · rename_i within
      obtain ⟨-, lt, lt'⟩ := within
      cases located
      exact Bool.and_eq_true_iff.mpr ⟨decide_eq_true lt, decide_eq_true lt'⟩
    · cases located

/-! ### Entries of the unit state table (R369) -/

/-- The registers of the unit state table. -/
def RegKind.ofTable : RegKind → Bool
  | .UST_ARRAY | .UST_LINK | .UST_HBM | .UST_BITTERN | .UST_TEMPER => true
  | _ => false

/-- A unit of the table: its entry is a register of the device. -/
def UnitId.Listed (u : UnitId) : Prop := u.kind.ofTable = true ∧ u.kind.inRange u.i 0 = true

theorem UnitId.listed_of_lt {k : RegKind} {i : Nat} (table : k.ofTable = true) (column : k.shape.n2 = 1) (lt : i < k.shape.n1) :
    UnitId.Listed ⟨k, i⟩ := ⟨table, by simp [RegKind.inRange, column, lt]⟩

theorem Part.listed_of_mem_units {p : Part} {u : UnitId} (h : u ∈ p.units) : u.Listed := by
  have hbm : p.stacks ≤ 12 := by unfold Part.stacks; split <;> decide
  simp only [Part.units, List.mem_append, List.mem_map, List.mem_range] at h
  rcases h with (((⟨i, hi, rfl⟩ | ⟨i, hi, rfl⟩) | ⟨i, hi, rfl⟩) | ⟨i, hi, rfl⟩) | ⟨i, hi, rfl⟩
  · exact UnitId.listed_of_lt rfl rfl (hi.trans_le p.arrays_le)
  · exact UnitId.listed_of_lt rfl rfl hi
  · exact UnitId.listed_of_lt rfl rfl (hi.trans_le hbm)
  · exact UnitId.listed_of_lt rfl rfl hi
  · exact UnitId.listed_of_lt rfl rfl hi

section
variable {u v : UnitId} (s : State)

theorem UnitId.Listed.lt (h : u.Listed) : u.i < 65536 := (RegKind.lt_of_inRange h.2).1

theorem UnitId.Listed.not_fused (h : u.Listed) : u.kind.fused = false := by
  obtain ⟨table, -⟩ := h
  cases kind : u.kind <;> rw [kind] at table <;> cases table <;> rfl

/-- A field of an entry put in place is read there. -/
theorem State.rd_setUst_same (h : u.Listed) (hi lo n : Nat) :
    (s.setUst u hi lo n).rd u.kind u.i = setBits (s.rd u.kind u.i) hi lo n :=
  s.rd_wr_same _ _ _ _ h.2 h.not_fused

/-- Another unit's entry reads as before. -/
theorem State.rd_setUst_unit (hu : u.Listed) (hv : v.Listed) (other : v ≠ u) (hi lo n : Nat) :
    (s.setUst u hi lo n).rd v.kind v.i = s.rd v.kind v.i := by
  refine State.rd_wr_key _ _ _ _ _ _ _ _ fun key => other ?_
  obtain ⟨kind, i, -⟩ := regKey_inj hv.lt (by decide) hu.lt (by decide) key
  cases u; cases v; simp_all

end

/-! ### What the walk over the units leaves alone (R371) -/

/-- The registers that the walk over the units writes, or an event: the table, its counts and the sequencers'. -/
def RegKind.ofWalk (k : RegKind) : Bool := k.ofTable || k == .UST_PERF_DISAGREE || k == .UST_STATUS || k.ofSequencer

theorem RegKind.ofEvents_of_ofWalk {k : RegKind} (h : k.ofWalk = false) : k.ofEvents = false := by
  cases k <;> cases h <;> rfl

theorem RegKind.ofEvents_of_ofTable {k : RegKind} (h : k.ofTable = true) : k.ofEvents = false := by
  cases k <;> cases h <;> rfl

theorem RegKind.ofSequencer_of_ofTable {k : RegKind} (h : k.ofTable = true) : k.ofSequencer = false := by
  cases k <;> cases h <;> rfl

/-- Apart from an array's hidden state and the registers of the walk nothing has changed. -/
structure State.KeepsElse (s t : State) : Prop where
  part : t.part = s.part
  fab : t.fab = s.fab
  rd : ∀ k i, k.ofWalk = false → i < 65536 → t.rd k i = s.rd k i

/-- A sequencer's state follows by writes of its own registers. -/
theorem State.syncSeq_keeps {γ : Type} (p : State → γ) (wr : ∀ (t : State) k i j v, k.ofSequencer = true → p (t.wr k i j v) = p t)
    (arr : ∀ (t : State) a f, p (t.mapArray a f) = p t) (s : State) (a : Nat) : p (s.syncSeq a) = p s := by
  have queue : p (s.syncQueue a) = p s := wr _ _ _ _ _ rfl
  have shown : ∀ (u : State) st, p (if u.fld ARR_STATUS.seq_state a = seqError then u else u.setFld ARR_STATUS.seq_state a 0 st) = p u :=
    fun u st => by
      split
      · rfl
      · exact wr _ _ _ _ _ rfl
  have halt : ∀ u : State, p ((u.setFld ARR_SEQ_CTRL.run a 0 0).mapArray a fun x => { x with halting := false, halted := true }) = p u :=
    fun u => (arr _ _ _).trans (wr _ _ _ _ _ rfl)
  unfold State.syncSeq
  dsimp only
  split
  · exact (shown _ _).trans ((halt _).trans queue)
  · exact (shown _ _).trans queue

/-- A halt of a sequencer is its own registers' and its array's matter. -/
theorem State.seqHalt_keeps {γ : Type} (p : State → γ) (wr : ∀ (t : State) k i j v, k.ofSequencer = true → p (t.wr k i j v) = p t)
    (arr : ∀ (t : State) a f, p (t.mapArray a f) = p t) (s : State) (a : Nat) : p (s.seqHalt a) = p s :=
  (State.syncSeq_keeps p wr arr _ a).trans ((arr _ _ _).trans (arr _ _ _))

theorem State.rd_seqHalt (s : State) (a : Nat) {k : RegKind} {i : Nat} (h : k.ofSequencer = false) (hi : i < 65536) :
    (s.seqHalt a).rd k i = s.rd k i :=
  State.seqHalt_keeps (fun t => t.rd k i)
    (fun t _ _ _ v own => t.rd_wr_other v (by rintro rfl; exact Bool.false_ne_true (h.symm.trans own)) hi (by decide))
    (fun _ _ _ => rfl) s a

namespace State.KeepsElse

variable {s t u : State}

theorem refl (s : State) : s.KeepsElse s := ⟨rfl, rfl, fun _ _ _ _ => rfl⟩

theorem trans (h : s.KeepsElse t) (g : t.KeepsElse u) : s.KeepsElse u :=
  ⟨g.part.trans h.part, g.fab.trans h.fab, fun k i hk hi => (g.rd k i hk hi).trans (h.rd k i hk hi)⟩

theorem ite {c : Prop} [Decidable c] (h : s.KeepsElse t) (g : s.KeepsElse u) : s.KeepsElse (if c then t else u) := by
  split <;> assumption

theorem foldl {α : Type} {f : State → α → State} {l : List α} (h : ∀ (s : State), ∀ a ∈ l, s.KeepsElse (f s a)) (s : State) :
    s.KeepsElse (l.foldl f s) := by
  induction l generalizing s with
  | nil => exact refl s
  | cons a l ih =>
    exact (h s a List.mem_cons_self).trans (ih (fun s b hb => h s b (List.mem_cons_of_mem a hb)) _)

theorem wr (s : State) {k : RegKind} (i j : Nat) (v : Word) (own : k.ofWalk = true) : s.KeepsElse (s.wr k i j v) :=
  ⟨s.wr_part _ _ _ _, s.wr_fab _ _ _ _, fun k' i' hk hi =>
    s.rd_wr_other v (by rintro rfl; exact Bool.false_ne_true (hk.symm.trans own)) hi (by decide)⟩

theorem setFld (s : State) {f : Fld} (i j n : Nat) (own : f.kind.ofWalk = true) : s.KeepsElse (s.setFld f i j n) := wr s i j _ own

theorem bump (s : State) {f : Fld} (i j n : Nat) (own : f.kind.ofWalk = true) : s.KeepsElse (s.bump f i j n) :=
  ite (refl s) (setFld s i j _ own)

theorem calm (h : s.Calm t) : s.KeepsElse t :=
  ⟨h.part, h.fab, fun k i hk hi => h.rd k i 0 (RegKind.ofEvents_of_ofWalk hk) hi (by decide)⟩

theorem seqHalt (s : State) (a : Nat) : s.KeepsElse (s.seqHalt a) :=
  ⟨State.seqHalt_keeps State.part (fun t _ _ _ _ _ => t.wr_part _ _ _ _) (fun _ _ _ => rfl) s a,
    State.seqHalt_keeps State.fab (fun t _ _ _ _ _ => t.wr_fab _ _ _ _) (fun _ _ _ => rfl) s a,
    fun k i hk hi => s.rd_seqHalt a (by simp only [RegKind.ofWalk, Bool.or_eq_false_iff] at hk; exact hk.2) hi⟩

theorem setUst (s : State) {u : UnitId} (h : u.Listed) (hi lo n : Nat) : s.KeepsElse (s.setUst u hi lo n) :=
  wr s _ _ _ (by simp [RegKind.ofWalk, h.1])

theorem takePath (s : State) (epoch : Nat) {u : UnitId} (h : u.Listed) : s.KeepsElse (s.takePath epoch u) := by
  have put := (setUst s h 59 56 (s.tableState u)).trans (setUst _ h 31 0 epoch)
  exact ite (refl s) (ite (put.trans (seqHalt _ _)) put)

theorem countDisagreement (s : State) {u : UnitId} (h : u.Listed) : s.KeepsElse (s.countDisagreement u) :=
  (setUst s h _ _ _).trans (bump _ _ _ _ rfl)

end State.KeepsElse

/-! ### Path states after the walk (R371) -/

section
variable {u v : UnitId} (s : State) (epoch : Nat)

/-- An entry that takes its path shows the epoch and its table state as its path state. -/
theorem State.rd_takePath (hu : u.Listed) (hv : v.Listed) : (s.takePath epoch u).rd v.kind v.i =
    if v = u ∧ ¬ (s.pathState u = tsDraining ∧ s.workInFlight u = true)
      then setBits (setBits (s.rd u.kind u.i) 59 56 (s.tableState u)) 31 0 epoch else s.rd v.kind v.i := by
  have put : ((s.setUst u 59 56 (s.tableState u)).setUst u 31 0 epoch).rd v.kind v.i =
      if v = u then setBits (setBits (s.rd u.kind u.i) 59 56 (s.tableState u)) 31 0 epoch else s.rd v.kind v.i := by
    split
    · rename_i same
      rw [same, State.rd_setUst_same _ hu, State.rd_setUst_same _ hu]
    · rename_i other
      rw [State.rd_setUst_unit _ hu hv other, State.rd_setUst_unit _ hu hv other]
  unfold State.takePath
  split
  · rename_i works
    rw [if_neg fun h => h.2 works]
  · rename_i free
    simp only [free, not_false_eq_true, and_true]
    rw [← put]
    split
    · exact State.rd_seqHalt _ _ (RegKind.ofSequencer_of_ofTable hv.1) hv.lt
    · rfl

variable {s epoch}

theorem State.tableState_takePath (hu : u.Listed) (hv : v.Listed) : (s.takePath epoch u).tableState v = s.tableState v := by
  unfold State.tableState
  rw [s.rd_takePath epoch hu hv]
  split
  · rename_i same
    rw [bits_setBits_above _ _ _ _ _ _ (by decide) (by decide) (by decide),
      bits_setBits_above _ _ _ _ _ _ (by decide) (by decide) (by decide), same.1]
  · rfl

/-- A unit that drains with work in flight keeps its path state. -/
theorem State.takePath_waits (works : s.pathState u = tsDraining ∧ s.workInFlight u = true) : s.takePath epoch u = s := if_pos works

/-- A unit without work that drains shows its table state as its path state. -/
theorem State.pathState_takePath_self (hu : u.Listed) (free : ¬ (s.pathState u = tsDraining ∧ s.workInFlight u = true)) :
    (s.takePath epoch u).pathState u = s.tableState u := by
  have fits : s.tableState u < 16 := bits_lt _ _ _
  unfold State.pathState
  rw [s.rd_takePath epoch hu hu, if_pos ⟨rfl, free⟩, bits_setBits_above _ _ _ _ _ _ (by decide) (by decide) (by decide),
    bits_setBits_same _ _ _ _ (by decide) (by decide)]
  exact Nat.mod_eq_of_lt fits

theorem State.pathState_takePath_other (hu : u.Listed) (hv : v.Listed) (other : v ≠ u) :
    (s.takePath epoch u).pathState v = s.pathState v := by
  unfold State.pathState
  rw [s.rd_takePath epoch hu hv, if_neg fun h => other h.1]

end

/-- An epoch's walk over units. -/
def State.walk (s : State) (epoch : State → Nat) (l : List UnitId) : State := l.foldl (fun t u => t.takePath (epoch t) u) s

section
variable {l : List UnitId} (listed : ∀ v ∈ l, v.Listed) {u : UnitId} (hu : u.Listed) (epoch : State → Nat)
include listed hu

/-- A path state that agrees with the table goes on agreeing. -/
theorem State.pathState_walk_agrees {s : State} (agrees : s.pathState u = s.tableState u) :
    (s.walk epoch l).pathState u = s.tableState u := by
  induction l generalizing s with
  | nil => exact agrees
  | cons v l ih =>
    obtain ⟨hv, rest⟩ := List.forall_mem_cons.mp listed
    have table : (s.takePath (epoch s) v).tableState u = s.tableState u := State.tableState_takePath hv hu
    refine (ih rest ?_).trans table
    rw [table]
    by_cases same : u = v
    · subst same
      by_cases free : s.pathState u = tsDraining ∧ s.workInFlight u = true
      · exact (congrArg (·.pathState u) (State.takePath_waits free)).trans agrees
      · exact State.pathState_takePath_self hu free
    · exact (State.pathState_takePath_other hv hu same).trans agrees

/-- A unit that was not draining takes the table's state. -/
theorem State.pathState_walk {s : State} (walked : u ∈ l) (idle : s.pathState u ≠ tsDraining) :
    (s.walk epoch l).pathState u = s.tableState u := by
  induction l generalizing s with
  | nil => cases walked
  | cons v l ih =>
    obtain ⟨hv, rest⟩ := List.forall_mem_cons.mp listed
    have table : (s.takePath (epoch s) v).tableState u = s.tableState u := State.tableState_takePath hv hu
    by_cases same : u = v
    · subst same
      have taken : (s.takePath (epoch s) u).pathState u = s.tableState u := State.pathState_takePath_self hu fun h => idle h.1
      exact (State.pathState_walk_agrees rest hu epoch (taken.trans table.symm)).trans table
    · have kept : (s.takePath (epoch s) v).pathState u = s.pathState u := State.pathState_takePath_other hv hu same
      exact (ih rest ((List.mem_cons.mp walked).resolve_left same) fun drains => idle (kept.symm.trans drains)).trans table

end

/-! ### An advance (R345, R371, R372) -/

/-- An advance begins: it is asked for no longer, staged changes apply, and a new epoch counts. -/
def State.epochBegun (s : State) : State := (s.setFld FAB_EPOCH.pending 0 0 0).applyStaged.endTracking.bump FAB_EPOCH.epoch 0 0 1

/-- The units present take their path states. -/
def State.pathsTaken (s : State) : State := s.walk (fun t => t.fld FAB_EPOCH.epoch) (s.part.units.filter s.present)

/-- What still differs is counted and reported. -/
def State.differingShown (s : State) : State :=
  let t := (s.differing.foldl (fun t u => t.countDisagreement u) s).setFld UST_STATUS.opened 0 0 s.differing.length
  if s.differing.isEmpty then t else t.raise 2 2 0xFFFF (BitVec.ofNat 64 s.differing.length)

theorem State.advanceEpoch_eq (s : State) : s.advanceEpoch = s.epochBegun.pathsTaken.differingShown := rfl

theorem State.keepsElse_pathsTaken (s : State) : s.KeepsElse s.pathsTaken :=
  .foldl (fun _ _ hu => .takePath _ _ (Part.listed_of_mem_units (List.mem_of_mem_filter hu))) s

theorem State.listed_of_differing {s : State} {u : UnitId} (h : u ∈ s.differing) : u.Listed :=
  Part.listed_of_mem_units (List.mem_of_mem_filter h)

theorem State.keepsElse_differingShown (s : State) : s.KeepsElse s.differingShown := by
  have counted : s.KeepsElse (s.differing.foldl (fun t u => t.countDisagreement u) s) :=
    .foldl (fun _ _ hu => .countDisagreement _ (State.listed_of_differing hu)) s
  have shown := counted.trans (.setFld _ (f := UST_STATUS.opened) 0 0 s.differing.length rfl)
  exact .ite shown (shown.trans (.calm (State.calm_raise _ _ _ _ _)))

section
variable {u v : UnitId} (hv : v.Listed)
include hv

/-- Apart from the table's registers a write leaves the path states. -/
theorem State.pathState_wr (s : State) {k : RegKind} (i j : Nat) (w : Word) (other : k.ofTable = false) :
    (s.wr k i j w).pathState v = s.pathState v :=
  congrArg (bits · 59 56)
    (s.rd_wr_other w (by rintro rfl; exact Bool.false_ne_true (other.symm.trans hv.1)) hv.lt (by decide))

/-- An event leaves the path states. -/
theorem State.pathState_raise (s : State) (cls code unit : Nat) (info : Word) : (s.raise cls code unit info).pathState v = s.pathState v :=
  congrArg (bits · 59 56)
    ((State.calm_raise s cls code unit info).rd _ _ _ (RegKind.ofEvents_of_ofTable hv.1) hv.lt (by decide))

theorem State.pathState_countDisagreement (hu : u.Listed) (s : State) : (s.countDisagreement u).pathState v = s.pathState v := by
  have counted : ∀ t : State, (t.bump UST_PERF_DISAGREE.count 0 0 1).pathState v = t.pathState v := fun t => by
    unfold State.bump
    rw [if_neg (by decide)]
    exact t.pathState_wr hv 0 0 _ rfl
  refine (counted _).trans ?_
  unfold State.pathState
  by_cases same : v = u
  · rw [same, s.rd_setUst_same hu, bits_setBits_above _ _ _ _ _ _ (by decide) (by decide) (by decide)]
  · rw [s.rd_setUst_unit hu hv same]

theorem State.pathState_differingShown (s : State) : s.differingShown.pathState v = s.pathState v := by
  have counted : ∀ (l : List UnitId), (∀ u ∈ l, u.Listed) → ∀ t : State,
      (l.foldl (fun t u => t.countDisagreement u) t).pathState v = t.pathState v := fun l => by
    induction l with
    | nil => exact fun _ _ => rfl
    | cons u l ih =>
      intro listed t
      obtain ⟨hu, rest⟩ := List.forall_mem_cons.mp listed
      exact (ih rest _).trans (State.pathState_countDisagreement hv hu t)
  unfold State.differingShown
  extract_lets t
  have shown : t.pathState v = s.pathState v :=
    (State.pathState_wr hv _ 0 0 _ rfl).trans (counted _ (fun _ => State.listed_of_differing) s)
  split
  · exact shown
  · exact (State.pathState_raise hv ..).trans shown

end

/-! ### How an advance begins -/

section
variable {s : State} {a n : Nat} {v : Word} (staged : s.fab.staged = [(a, v)]) (names : Reg.ofAddr a = some ⟨.FAB_REMAP, n, 0⟩)
include staged names

theorem State.applyStaged_one : s.applyStaged =
    ({ s.wr .FAB_REMAP n 0 (fieldWrite .FAB_REMAP (s.rd .FAB_REMAP n) v) with fab := { s.fab with
      staged := [], down := s.fab.down.filter fun h => !(s.fab.backUp.contains h), backUp := [] } } : State).showStaged := by
  unfold State.applyStaged
  rw [staged]
  simp only [List.foldl_cons, List.foldl_nil, names, State.wr_fab]

theorem State.rd_applyStaged {k : RegKind} {i : Nat} (epoch : k ≠ .FAB_EPOCH) (remap : k ≠ .FAB_REMAP) (hi : i < 65536) :
    s.applyStaged.rd k i = s.rd k i := by
  rw [State.applyStaged_one staged names]
  exact (State.rd_wr_other _ _ epoch hi (by decide)).trans (s.rd_wr_other _ remap hi (by decide))

theorem State.rd_applyStaged_remap : s.applyStaged.rd .FAB_REMAP n = fieldWrite .FAB_REMAP (s.rd .FAB_REMAP n) v := by
  have range := Reg.inRange_of_ofAddr names
  rw [State.applyStaged_one staged names]
  exact (State.rd_wr_other _ _ (by decide) (RegKind.lt_of_inRange range).1 (by decide)).trans (s.rd_wr_same _ _ _ _ range rfl)

theorem State.fld_applyStaged {g : Fld} (beside : FAB_EPOCH.staged.beside 1 g = true) (remap : g.kind ≠ .FAB_REMAP) :
    s.applyStaged.fld g = s.fld g := by
  rw [State.applyStaged_one staged names]
  exact (State.fld_setFld_beside _ (by decide) beside).trans (congrArg (bits · g.hi g.lo) (s.rd_wr_other _ remap (by decide) (by decide)))

omit names in
theorem State.staged_asked : (s.setFld FAB_EPOCH.pending 0 0 0).fab.staged = [(a, v)] := by rw [State.setFld_fab, staged]

/-- Apart from the registers of epochs, of remapping and of tracking an advance begins with nothing changed. -/
theorem State.rd_epochBegun {k : RegKind} {i : Nat} (epoch : k ≠ .FAB_EPOCH) (remap : k ≠ .FAB_REMAP) (track : k ≠ .FAB_TRACK_STATUS)
    (hi : i < 65536) : s.epochBegun.rd k i = s.rd k i :=
  calc s.epochBegun.rd k i
    _ = (s.setFld FAB_EPOCH.pending 0 0 0).applyStaged.endTracking.rd k i :=
      State.rd_bump_kind _ _ _ _ _ _ _ _ epoch (by decide) (by decide) hi (by decide)
    _ = (s.setFld FAB_EPOCH.pending 0 0 0).applyStaged.rd k i := State.rd_wr_other _ _ track hi (by decide)
    _ = (s.setFld FAB_EPOCH.pending 0 0 0).rd k i := State.rd_applyStaged (State.staged_asked staged) names epoch remap hi
    _ = s.rd k i := s.rd_wr_other _ epoch hi (by decide)

theorem State.rd_epochBegun_remap : s.epochBegun.rd .FAB_REMAP n = fieldWrite .FAB_REMAP (s.rd .FAB_REMAP n) v := by
  have lt : n < 65536 := (RegKind.lt_of_inRange (Reg.inRange_of_ofAddr names)).1
  have asked : (s.setFld FAB_EPOCH.pending 0 0 0).rd .FAB_REMAP n = s.rd .FAB_REMAP n :=
    s.rd_wr_other _ (by decide) lt (by decide)
  calc s.epochBegun.rd .FAB_REMAP n
    _ = (s.setFld FAB_EPOCH.pending 0 0 0).applyStaged.endTracking.rd .FAB_REMAP n :=
      State.rd_bump_kind _ _ _ _ _ _ _ _ (by decide) (by decide) (by decide) lt (by decide)
    _ = (s.setFld FAB_EPOCH.pending 0 0 0).applyStaged.rd .FAB_REMAP n := State.rd_wr_other _ _ (by decide) lt (by decide)
    _ = fieldWrite .FAB_REMAP (s.rd .FAB_REMAP n) v := by
      rw [State.rd_applyStaged_remap (State.staged_asked staged) names, asked]

/-- Applying staged changes leaves the epoch register's fields, apart from the mark of staged changes. -/
theorem State.fld_endTracking_applyStaged {g : Fld} (beside : FAB_EPOCH.staged.beside 1 g = true) (remap : g.kind ≠ .FAB_REMAP)
    (track : g.kind ≠ .FAB_TRACK_STATUS) : s.applyStaged.endTracking.fld g = s.fld g :=
  (congrArg (bits · g.hi g.lo) (State.rd_wr_other _ _ track (by decide) (by decide))).trans
    (State.fld_applyStaged staged names beside remap)

theorem State.flag_pending_epochBegun : s.epochBegun.flag FAB_EPOCH.pending = false := by
  have staged := State.staged_asked staged
  have shown : s.epochBegun.fld FAB_EPOCH.pending = 0 :=
    calc s.epochBegun.fld FAB_EPOCH.pending
      _ = (s.setFld FAB_EPOCH.pending 0 0 0).applyStaged.endTracking.fld FAB_EPOCH.pending := by
        unfold State.epochBegun State.bump
        rw [if_neg (by decide), State.fld_setFld_beside _ (n := 1) (by decide) rfl]
      _ = (s.setFld FAB_EPOCH.pending 0 0 0).fld FAB_EPOCH.pending :=
        State.fld_endTracking_applyStaged staged names rfl (by decide) (by decide)
      _ = 0 := State.fld_setFld_unit _ (n := 1) (by decide) rfl (by decide)
  exact bne_eq_false_iff_eq.mpr shown

theorem State.fld_epoch_epochBegun : s.epochBegun.fld FAB_EPOCH.epoch = (s.fld FAB_EPOCH.epoch + 1) % 2 ^ 32 := by
  have staged := State.staged_asked staged
  have before : (s.setFld FAB_EPOCH.pending 0 0 0).applyStaged.endTracking.fld FAB_EPOCH.epoch = s.fld FAB_EPOCH.epoch :=
    (State.fld_endTracking_applyStaged staged names rfl (by decide) (by decide)).trans
      (State.fld_setFld_beside _ (n := 1) (by decide) rfl)
  exact (State.fld_bump _ _ 0 0 1 rfl rfl rfl).trans (congrArg (fun e => (e + 1) % 2 ^ 32) before)

theorem State.fab_epochBegun : s.epochBegun.fab.staged = [] ∧ s.epochBegun.fab.tracks = [] := by
  have staged := State.staged_asked staged
  simp [State.epochBegun, State.endTracking, State.applyStaged_one staged names, State.showStaged]

theorem State.part_epochBegun : s.epochBegun.part = s.part := by
  have staged := State.staged_asked staged
  simp [State.epochBegun, State.endTracking, State.applyStaged_one staged names, State.showStaged]

theorem State.rd_epochBegun_unit {u : UnitId} (hu : u.Listed) : s.epochBegun.rd u.kind u.i = s.rd u.kind u.i := by
  have table := hu.1
  exact State.rd_epochBegun staged names (by rintro e; rw [e] at table; cases table) (by rintro e; rw [e] at table; cases table)
    (by rintro e; rw [e] at table; cases table) hu.lt


/-- After an advance a unit present that was not draining shows its table state as its path state. -/
theorem State.pathState_advanceEpoch {u : UnitId} (member : u ∈ s.part.units) (present : s.present u = true)
    (idle : s.pathState u ≠ tsDraining) : s.advanceEpoch.pathState u = s.tableState u := by
  have hu : u.Listed := Part.listed_of_mem_units member
  have entry : s.epochBegun.rd u.kind u.i = s.rd u.kind u.i := State.rd_epochBegun_unit staged names hu
  have walked : u ∈ s.epochBegun.part.units.filter s.epochBegun.present :=
    List.mem_filter.mpr ⟨(State.part_epochBegun staged names).symm ▸ member, (congrArg (bit · 51) entry).trans present⟩
  have still : s.epochBegun.pathState u ≠ tsDraining := fun drains => idle ((congrArg (bits · 59 56) entry).symm.trans drains)
  calc s.advanceEpoch.pathState u
    _ = s.epochBegun.pathsTaken.differingShown.pathState u := by rw [State.advanceEpoch_eq]
    _ = s.epochBegun.pathsTaken.pathState u := State.pathState_differingShown hu _
    _ = s.epochBegun.tableState u :=
      State.pathState_walk (fun _ hv => Part.listed_of_mem_units (List.mem_of_mem_filter hv)) hu _ walked still
    _ = s.tableState u := congrArg (bits · 63 60) entry

end

theorem State.keepsElse_advanceEpoch (s : State) : s.epochBegun.KeepsElse s.advanceEpoch :=
  s.advanceEpoch_eq ▸ s.epochBegun.keepsElse_pathsTaken.trans s.epochBegun.pathsTaken.keepsElse_differingShown

theorem State.epochComplete_of_drained {s : State} (pending : s.flag FAB_EPOCH.pending = true) (drained : s.outstanding = false) :
    s.epochComplete = s.advanceEpoch := by
  simp [State.epochComplete, pending, drained]

theorem State.epochRefuse_of_pending {s : State} (pending : s.flag FAB_EPOCH.pending = true) :
    s.epochRefuse = ((s.setFld FAB_EPOCH.pending 0 0 0).setFld FAB_EPOCH.refused 0 0 1).fabEvent 3 0 16 0 0 := by
  simp [State.epochRefuse, pending]

/-! ### The physical ID (R314) -/

section
variable (s : State) (v : Word)

theorem State.physIdWrite_of_configured (configured : s.flag CST_STATE.configured = true) : s.physIdWrite v = s :=
  if_pos (.inl configured)

theorem State.physIdWrite_eq (bare : s.flag CST_STATE.configured = false) (calm : s.flag CST_STATE.pouring = false) :
    s.physIdWrite v =
      ((s.setFld FAB_PHYS_ID.id 0 0 (bits v 15 0)).setFld FAB_PHYS_ID.set 0 0 1).setFld FAB_ID.logical_id 0 0 (bits v 15 0) :=
  if_neg (by simp [bare, calm])

end

/-! ### Requests of the unit state table (R370) -/

section
variable {s : State} {addr : Nat} {r : Reg} {u : UnitId} (named : Reg.ofAddr addr = some r) (entry : r.unit = some u)
include named entry

theorem State.unitWrite_eq (v : Word) : s.unitWrite addr v = s.unitRequest u (bits v 55 52) := by
  simp only [State.unitWrite, named, entry]

theorem State.unitDrained_eq (present : s.present u = true) (table : s.tableState u = tsDraining)
    (path : s.pathState u = tsDraining) (free : s.workInFlight u = false) :
    s.unitDrained addr = s.setTable u tsFenced 4 := by
  simp [State.unitDrained, named, entry, present, table, path, free]

end

/-- A request of a unit that is present, state by state. -/
theorem State.unitRequest_eq {s : State} {u : UnitId} (present : s.present u = true) (want : Nat) : s.unitRequest u want =
    match s.tableState u, want with
    | 0, 1 => s.setTable u 1 1
    | 1, 0 => s.setTable u 0 1
    | 2, 0 => if s.mayReturn u then s.setTable u 0 1 else s.rejectRequest u
    | 2, 3 => (s.recordRetired u).setTable u 3 1
    | _, _ => s.rejectRequest u := by
  unfold State.unitRequest
  rw [if_neg (by simp [present])]
  dsimp only
  generalize s.tableState u = table
  split
  · next turn =>
    rcases turn with ⟨rfl, rfl⟩ | ⟨rfl, rfl⟩ <;> rfl
  · next noTurn =>
    split
    · next returns =>
      obtain ⟨rfl, rfl, may⟩ := returns
      exact (if_pos may).symm
    · next noReturn =>
      split
      · next retires =>
        obtain ⟨rfl, rfl⟩ := retires
        rfl
      · next noRetirement =>
        split
        · exact absurd (.inl ⟨rfl, rfl⟩) noTurn
        · exact absurd (.inr ⟨rfl, rfl⟩) noTurn
        · exact (if_neg fun may => noReturn ⟨rfl, rfl, may⟩).symm
        · exact absurd ⟨rfl, rfl⟩ noRetirement
        · rfl

end Sys2Proof.Machine
end


section
open Sys2Proof.Machine

/-- Settles O51: an advance waits, and then applies what is staged and walks over the units; a request of a unit goes by the states. -/
theorem epochsAndUnits : Obligations.EpochsAndUnits := by
  refine ⟨?asked, ?advanced, ?givenUp, ?named, ?cast, ?requested, ?drained⟩
  case asked => exact fun s takes => exec_next_of_written rfl takes rfl
  case advanced =>
    intro s a n v up pending drained staged names
    have kept := s.keepsElse_advanceEpoch
    have part : s.advanceEpoch.part = s.part := kept.part.trans (State.part_epochBegun staged names)
    obtain ⟨noneStaged, noTracks⟩ := State.fab_epochBegun staged names
    have epochs : s.advanceEpoch.rd .FAB_EPOCH 0 = s.epochBegun.rd .FAB_EPOCH 0 := kept.rd _ _ rfl (by decide)
    have remap : s.advanceEpoch.rd .FAB_REMAP n = s.epochBegun.rd .FAB_REMAP n :=
      kept.rd _ _ rfl (RegKind.lt_of_inRange (Reg.inRange_of_ofAddr names)).1
    refine ⟨_, exec_next_of_live rfl up (State.epochComplete_of_drained pending drained), ?_, ?_, ?_, ?_, ?_, ?_⟩
    · rw [State.flag, State.fld_settle _ _ part]
      exact (congrArg (bits · 62 62 != 0) epochs).trans (State.flag_pending_epochBegun staged names)
    · rw [State.settle_fab, kept.fab, noneStaged]
    · rw [State.fld_settle _ _ part]
      exact (congrArg (bits · 31 0) epochs).trans (State.fld_epoch_epochBegun staged names)
    · rw [State.settle_fab, kept.fab, noTracks]
    · rw [State.rd_settle _ _ part, remap, State.rd_epochBegun_remap staged names]
    · intro u member present idle
      rw [State.pathState, State.rd_settle _ _ part]
      exact State.pathState_advanceEpoch staged names member present idle
  case givenUp => exact fun s up pending => exec_next_of_live rfl up (State.epochRefuse_of_pending pending)
  case named =>
    intro v s takes bare
    have fits : bits v 15 0 < 2 ^ 16 := bits_lt _ _ _
    refine ⟨_, exec_next_of_written rfl takes (s.physIdWrite_eq v bare (State.takesWrites_iff.mp takes).2), ?_, ?_, ?_, ?_⟩
    · rw [State.fld_settle _ _ (by simp), State.fld_setFld_beside _ (n := 1) (by decide) rfl,
        State.fld_setFld_beside _ (n := 1) (by decide) rfl, State.fld_setFld_unit _ (n := 1) (by decide) rfl fits]
    · rw [State.fld_settle _ _ (by simp), State.fld_setFld_beside _ (n := 1) (by decide) rfl,
        State.fld_setFld_unit _ (n := 1) (by decide) rfl (by decide)]
    · rw [State.fld_settle _ _ (by simp), State.fld_setFld_unit _ (n := 1) (by decide) rfl fits]
    · simp only [State.settle_mem, State.setFld_mem]
  case cast => exact fun v s takes configured => exec_next_of_written rfl takes (s.physIdWrite_of_configured v configured)
  case requested =>
    intro addr v s r u up named entry present
    exact exec_next_of_live rfl up ((State.unitWrite_eq named entry v).trans (State.unitRequest_eq present _))
  case drained =>
    intro addr s r u up named entry present table path free
    exact exec_next_of_live rfl up (State.unitDrained_eq named entry present table path free)

end
